-- ==== Sys2Proof/Word.lean ====
section
/-! DEFINITION. The word types of the Vutrix 4 and nothing else. -/

namespace Sys2Proof

/-- A 64-bit register, address or memory doubleword (R126). -/
abbrev Word := BitVec 64

/-- A 512-bit vector register (R170). -/
abbrev Vec := BitVec 512

/-- One byte. -/
abbrev Byte := BitVec 8

/-- The content of one instruction slot (R94). -/
abbrev SlotBits := BitVec 96

end Sys2Proof
end

