-- ==== Sys2Proof/Machine/Bits.lean ====
section
/-! DEFINITION. Bit-field, sign-extension and byte-order helpers (R3, R7, R49). -/

namespace Sys2Proof

/-- bits(x, hi, lo) of R7 on a bit vector: `n` bits of `x` from bit `lo` on. -/
def field {w : Nat} (x : BitVec w) (lo n : Nat) : BitVec n := x.extractLsb' lo n

/-- bits(x, hi, lo) of R7 as a number: `n` bits of `x` from bit `lo` on. -/
def natField {w : Nat} (x : BitVec w) (lo n : Nat) : Nat := x.toNat / 2 ^ lo % 2 ^ n

/-- `x` with the `n` bits from `lo` on replaced by the low bits of `v`. -/
def setField {w : Nat} (x : BitVec w) (lo n v : Nat) : BitVec w :=
  BitVec.ofNat w (x.toNat - natField x lo n * 2 ^ lo + (v % 2 ^ n) * 2 ^ lo)

/-- `old` with the bits of `mask` taken from `new` (a write changes only the writable fields, R149). -/
def mergeBits {w : Nat} (mask old new : BitVec w) : BitVec w := (old &&& ~~~mask) ||| (new &&& mask)

/-- `x` with bit `n` set. -/
def bitOn {w : Nat} (x : BitVec w) (n : Nat) : BitVec w := x ||| BitVec.twoPow w n

/-- `x` with bit `n` clear. -/
def bitOff {w : Nat} (x : BitVec w) (n : Nat) : BitVec w := x &&& ~~~(BitVec.twoPow w n)

/-- The lowest set bit of `x`, counted from `lo` on; none when `x` is zero (R112). -/
def lowestSet {w : Nat} (lo : Nat) (x : BitVec w) : Option Nat :=
  if x = 0 then none else ((List.range w).find? x.getLsbD).map (lo + ·)

/-- The number of one bits of `x`. -/
def popCount {w : Nat} (x : BitVec w) : Nat := (List.range w).countP x.getLsbD

/-- The number of leading zero bits of `x`. -/
def leadingZeros {w : Nat} (x : BitVec w) : Nat := if x = 0 then w else w - 1 - Nat.log2 x.toNat

/-- The number of trailing zero bits of `x`. -/
def trailingZeros {w : Nat} (x : BitVec w) : Nat := (lowestSet 0 x).getD w

/-- sext of R7 from width `w` to 64 bits. -/
def sext64 {w : Nat} (x : BitVec w) : Word := x.signExtend 64

/-- zext of R7 from width `w` to 64 bits. -/
def zext64 {w : Nat} (x : BitVec w) : Word := x.setWidth 64

/-- A number modulo 2^64. -/
def word (n : Nat) : Word := BitVec.ofNat 64 n

/-- An integer modulo 2^64. -/
def wordI (n : Int) : Word := BitVec.ofInt 64 n

/-- The truth value as a register value: 1 or 0. -/
def boolWord (b : Bool) : Word := if b then 1 else 0

/-- The truth value as a predicate: all ones or zero (R142). -/
def boolMask (b : Bool) : Word := if b then BitVec.allOnes 64 else 0

/-- The `n` low bytes of a number, least significant first (R49). -/
def toBytes : Nat → Nat → List Byte
  | 0, _ => []
  | k + 1, v => BitVec.ofNat 8 v :: toBytes k (v / 256)

/-- The number whose bytes, least significant first, these are (R49). -/
def ofBytes : List Byte → Nat
  | [] => 0
  | b :: bs => b.toNat + 256 * ofBytes bs

/-- The `k`-th 64-bit word of a list of little-endian bytes; missing bytes count as zero. -/
def dwordAt (bs : List Byte) (k : Nat) : Word := word (ofBytes ((bs.drop (8 * k)).take 8))

/-- `n` bytes at offset `k` of a list, as a little-endian number. -/
def numAt (bs : List Byte) (k n : Nat) : Nat := ofBytes ((bs.drop k).take n)

/-- The address is a multiple of `n`. -/
def aligned (a n : Nat) : Bool := a % n == 0

/-- A list element replaced at an index. -/
def setAt {α : Type} : List α → Nat → α → List α
  | [], _, _ => []
  | _ :: xs, 0, y => y :: xs
  | x :: xs, k + 1, y => x :: setAt xs k y

/-- The smallest number of a list. -/
def minOf : List Nat → Option Nat
  | [] => none
  | x :: xs => match minOf xs with
    | none => some x
    | some y => some (if x ≤ y then x else y)

end Sys2Proof
end

