-- ==== Sys2Proof/Machine/Flags.lean ====
section
/-! DEFINITION. The floating-point formats, their values, the flags, and rounding (R50 to R62): every result is an exact
value rounded once to the destination format, with its overflow, tiny and inexact cases. -/

namespace Sys2Proof.Machine

/-! ### Flags (R65) -/

/-- NV, DZ, OF, UF, NX in bits 4 to 0, as FFLAGS holds them (R65). -/
abbrev Fl := BitVec 5
def flNV : Fl := 16
def flDZ : Fl := 8
def flOF : Fl := 4
def flUF : Fl := 2
def flNX : Fl := 1
def flIf (b : Bool) (f : Fl) : Fl := if b then f else 0

/-! ### Formats (R51, R52) -/

/-- What the top exponent code means (R52): infinities and NaNs; finite values but for the one NaN (E4M3, NSPEC = 0); or
finite values only (NSPEC = 1). -/
inductive Top where
  | ieee
  | oneNan
  | finite
deriving DecidableEq, Repr, Inhabited

/-- A floating-point format: exponent bits, fraction bits, bias, the top code, and the canonical NaN (R51, R53). -/
structure FFmt where
  ebits : Nat
  fbits : Nat
  bias : Nat
  top : Top
  nan : Nat
deriving DecidableEq, Repr, Inhabited

def FFmt.fp32 : FFmt := ⟨8, 23, 127, .ieee, 0x7FC00000⟩
def FFmt.fp16 : FFmt := ⟨5, 10, 15, .ieee, 0x7E00⟩
def FFmt.bf16 : FFmt := ⟨8, 7, 127, .ieee, 0x7FC0⟩
def FFmt.e5m2 (nspec : Bool) : FFmt := ⟨5, 2, 15, if nspec then .finite else .ieee, 0x7E⟩
def FFmt.e4m3 (nspec : Bool) : FFmt := ⟨4, 3, 7, if nspec then .finite else .oneNan, 0x7F⟩

/-- The floating-point format of a code (R50), under STATUS.NSPEC (R54). -/
def floatFmt (nspec : Bool) (code : BitVec 4) : Option FFmt :=
  if code = 0 then some .fp32
  else if code = 1 then some .fp16
  else if code = 2 then some .bf16
  else if code = 3 then some (.e5m2 nspec)
  else if code = 4 then some (.e4m3 nspec)
  else none

/-- The weight of the sign bit. -/
def FFmt.signBit (F : FFmt) : Nat := 2 ^ (F.ebits + F.fbits)
/-- A magnitude code with a sign. -/
def FFmt.withSign (F : FFmt) (neg : Bool) (code : Nat) : Nat := code + if neg then F.signBit else 0
/-- The magnitude code of the largest finite value (R51). -/
def FFmt.maxCode (F : FFmt) : Nat :=
  match F.top with
  | .ieee => (2 ^ F.ebits - 1) * 2 ^ F.fbits - 1
  | .oneNan => F.signBit - 2
  | .finite => F.signBit - 1
/-- The code of an infinity; E4M3 has 0x7F in its place (R57, R58). -/
def FFmt.inf (F : FFmt) (neg : Bool) : Nat :=
  match F.top with
  | .ieee => F.withSign neg ((2 ^ F.ebits - 1) * 2 ^ F.fbits)
  | _ => F.nan

/-- A value: a NaN (signalling or quiet), an infinity, or (−1)^neg · m · 2^e exactly. -/
inductive FVal where
  | nan (signalling : Bool)
  | inf (neg : Bool)
  | fin (neg : Bool) (m : Nat) (e : Int)
deriving DecidableEq, Repr, Inhabited

/-- The value of an encoding (R52, R53). -/
def FFmt.read (F : FFmt) (x : Nat) : FVal :=
  let frac := x % 2 ^ F.fbits
  let e := x / 2 ^ F.fbits % 2 ^ F.ebits
  let neg := x / F.signBit % 2 == 1
  let isTop := e == 2 ^ F.ebits - 1
  if isTop && F.top == .ieee then
    if frac = 0 then .inf neg else .nan (frac / 2 ^ (F.fbits - 1) == 0)
  else if isTop && F.top == .oneNan && frac == 2 ^ F.fbits - 1 then .nan false
  else if e = 0 then .fin neg frac (1 - (F.bias : Int) - F.fbits)
  else .fin neg (2 ^ F.fbits + frac) ((e : Int) - F.bias - F.fbits)

/-! ### Rounding (R55 to R62) -/

/-- A rounding mode (R55); RSTOCH carries its draw R (R62). -/
inductive Rnd where
  | rne
  | rtz
  | rdn
  | rup
  | rstoch (r : Nat)
deriving DecidableEq, Repr, Inhabited

/-- The mode of STATUS.RM (R55). -/
def Rnd.ofRM (rm : Nat) : Rnd := if rm = 1 then .rtz else if rm = 2 then .rdn else if rm = 3 then .rup else .rne

/-- `num / den` of sign `neg` goes to the larger magnitude: `q` and `rest` are its quotient and remainder (R55, R62). -/
def Rnd.up (mode : Rnd) (neg : Bool) (q rest den : Nat) : Bool :=
  match mode with
  | .rne => decide (den < 2 * rest) || (2 * rest == den && q % 2 == 1)
  | .rtz => false
  | .rdn => neg && rest != 0
  | .rup => !neg && rest != 0
  | .rstoch r => rest != 0 && decide (2 ^ 32 ≤ rest * 2 ^ 32 / den + r)

/-- A magnitude `num / den` rounded to a whole number: the number, whether it changed, and whether it grew. -/
def Rnd.whole (mode : Rnd) (neg : Bool) (num den : Nat) : Nat × Bool × Bool :=
  let q := num / den
  let rest := num % den
  let up := mode.up neg q rest den
  (if up then q + 1 else q, rest != 0, up)

/-- `p · 2^e / q` as a fraction of whole numbers. -/
def fracOf (p q : Nat) (e : Int) : Nat × Nat := (p * 2 ^ e.toNat, q * 2 ^ (-e).toNat)

/-- The exponent of the leading bit of `p / q · 2^e`, for p and q not zero. -/
def leadExp (p q : Nat) (e : Int) : Int :=
  let k : Int := (Nat.log2 p : Int) - Nat.log2 q
  let (n, d) := fracOf p q (-k)
  (if n < d then k - 1 else k) + e

/-- The result of an overflow (R57). -/
def FFmt.overflow (F : FFmt) (mode : Rnd) (neg away : Bool) : Nat :=
  let big := match mode with
    | .rne => true
    | .rtz => false
    | .rdn => neg
    | .rup => !neg
    | .rstoch _ => away
  if big && F.top != .finite then F.inf neg else F.withSign neg F.maxCode

/-- The magnitude `p / q · 2^e` (p, q not zero) on the grid of quantum 2^u, as its magnitude code continued above the largest
finite value, with the inexact and grown marks. -/
def FFmt.onGrid (F : FFmt) (mode : Rnd) (neg : Bool) (p q : Nat) (e u : Int) : Nat × Bool × Bool :=
  let (num, den) := fracOf p q (e - u)
  let (n, inexact, up) := mode.whole neg num den
  ((u + F.bias + F.fbits - 1).toNat * 2 ^ F.fbits + n, inexact, up)

/-- An exact value of magnitude `p / q · 2^e`, rounded once to the format (R56, R57, R61, R62). Tininess is judged after
rounding with an unbounded exponent; under RSTOCH the one rounding on the grid decides, and a result that it rounds to zero counts as tiny:
it sets UF (DEDUCED, log 13: R61 speaks of a non-zero magnitude after rounding, and R62 allows no second rounding). -/
def FFmt.round (F : FFmt) (mode : Rnd) (neg : Bool) (p q : Nat) (e : Int) : Nat × Fl :=
  if p = 0 then (F.withSign neg 0, 0)
  else
    let lead := leadExp p q e
    let least : Int := 1 - F.bias
    let u := (if lead < least then least else lead) - F.fbits
    let (code, inexact, up) := F.onGrid mode neg p q e u
    if F.maxCode < code then (F.overflow mode neg up, flOF ||| flNX)
    else
      let normal := 2 ^ F.fbits
      let tiny := decide (lead < least) && (match mode with
        | .rstoch _ => decide (code < normal)
        | _ =>
          let (num, den) := fracOf p q (e - (lead - F.fbits))
          let (n, _, _) := mode.whole neg num den
          !(lead + 1 == least && n == 2 * normal))
      (F.withSign neg code, flIf inexact flNX ||| flIf (inexact && tiny) flUF)

/-- A value rounded to the format; a NaN gives the canonical NaN, with NV when it is signalling (R53). -/
def FFmt.roundVal (F : FFmt) (mode : Rnd) : FVal → Nat × Fl
  | .nan s => (F.nan, flIf s flNV)
  | .inf neg => (F.inf neg, 0)
  | .fin neg mant e => F.round mode neg mant 1 e

/-- A whole number as a value. -/
def FVal.ofInt (z : Int) : FVal := .fin (decide (z < 0)) z.natAbs 0

/-! ### The stochastic source (R63) -/

/-- One step of the LFSR. -/
def seedStep (x : BitVec 32) : BitVec 32 :=
  (x <<< 1) ||| (BitVec.ofBool (x.getLsbD 31 ^^ x.getLsbD 21 ^^ x.getLsbD 1 ^^ x.getLsbD 0)).setWidth 32
/-- A draw of 32 steps: the state after it is R. -/
def seedSteps : Nat → BitVec 32 → BitVec 32
  | 0, x => x
  | n + 1, x => seedSteps n (seedStep x)
def seedDraw (x : BitVec 32) : BitVec 32 := seedSteps 32 x
/-- A number of draws. -/
def seedDraws : Nat → BitVec 32 → BitVec 32
  | 0, x => x
  | n + 1, x => seedDraws n (seedDraw x)
/-- What a write of SEED stores: zero becomes 1. -/
def seedStored (x : Word) : Word := if field x 0 32 = 0#32 then 1 else (field x 0 32).setWidth 64

/-! ### Integer formats (R50) -/

/-- The smallest and the largest number of an I or N format. -/
def intRange (code : BitVec 4) : Int × Int :=
  let w := 8 * (if code = 5 ∨ code = 9 then 4 else if code = 6 ∨ code = 10 then 2 else 1)
  if code.toNat < 8 then (-(2 ^ (w - 1)), 2 ^ (w - 1) - 1) else (0, 2 ^ w - 1)
/-- The number that the low bits of `x` hold in an I or N format. -/
def intRead (code : BitVec 4) (x : Nat) : Int :=
  let w := 8 * (if code = 5 ∨ code = 9 then 4 else if code = 6 ∨ code = 10 then 2 else 1)
  let v : Int := (x % 2 ^ w : Nat)
  if code.toNat < 8 ∧ 2 ^ (w - 1) ≤ v then v - 2 ^ w else v
/-- The nearest number of a range (R59, R60). -/
def clampInt (lo hi v : Int) : Int := if v < lo then lo else if hi < v then hi else v
/-- A number stored in the low bits of a format of width w. -/
def intBits (code : BitVec 4) (v : Int) : Nat :=
  let w := 8 * (if code = 5 ∨ code = 9 then 4 else if code = 6 ∨ code = 10 then 2 else 1)
  (v % 2 ^ w).toNat

end Sys2Proof.Machine
end

