-- ==== Sys2Proof/Machine/Fp.lean ====
section
/-! DEFINITION. Floating-point operations (R56 to R60, R74 to R78, R136 to R141): addition, multiplication, fused
multiply-add, division, square root, minimum and maximum, comparison, conversion, classification, and the estimates. -/

namespace Sys2Proof.Machine

def FVal.isNan : FVal → Bool
  | .nan _ => true
  | _ => false
def FVal.signalling : FVal → Bool
  | .nan s => s
  | _ => false
def FVal.isZero : FVal → Bool
  | .fin _ 0 _ => true
  | _ => false
def FVal.neg : FVal → Bool
  | .nan _ => false
  | .inf n => n
  | .fin n _ _ => n
/-- The value with its sign changed. -/
def FVal.flip : FVal → FVal
  | .nan s => .nan s
  | .inf n => .inf !n
  | .fin n mant e => .fin (!n) mant e
/-- m · 2^(e − base) with its sign, for e ≥ base. -/
def signedAt (neg : Bool) (mant : Nat) (e base : Int) : Int :=
  let v : Int := mant * 2 ^ (e - base).toNat
  if neg then -v else v

/-- The exact sum of two finite values, with the sign of a zero as R56 has it. -/
def finSum (mode : Rnd) (n1 : Bool) (m1 : Nat) (e1 : Int) (n2 : Bool) (m2 : Nat) (e2 : Int) : FVal :=
  let base := if e1 ≤ e2 then e1 else e2
  let z := signedAt n1 m1 e1 base + signedAt n2 m2 e2 base
  if z = 0 then .fin (if n1 == n2 then n1 else mode == .rdn) 0 base
  else .fin (decide (z < 0)) z.natAbs base

/-- NV of the operands: one is a signalling NaN (R53). -/
def nvOf (xs : List FVal) : Bool := xs.any FVal.signalling

/-- a + b (R136). -/
def FFmt.add (F : FFmt) (mode : Rnd) (a b : FVal) : Nat × Fl :=
  match a, b with
  | .fin n1 m1 e1, .fin n2 m2 e2 => F.roundVal mode (finSum mode n1 m1 e1 n2 m2 e2)
  | .inf x, .inf y => if x = y then (F.inf x, 0) else (F.nan, flNV)
  | .inf x, .fin .. => (F.inf x, 0)
  | .fin .., .inf y => (F.inf y, 0)
  | _, _ => (F.nan, flIf (nvOf [a, b]) flNV)

/-- a − b (R136). -/
def FFmt.sub (F : FFmt) (mode : Rnd) (a b : FVal) : Nat × Fl := F.add mode a b.flip

/-- The exact product; none when it is 0 · Inf. -/
def FVal.times (a b : FVal) : Option FVal :=
  match a, b with
  | .fin n1 m1 e1, .fin n2 m2 e2 => some (.fin (n1 != n2) (m1 * m2) (e1 + e2))
  | .inf x, .inf y => some (.inf (x != y))
  | .inf x, .fin n mant _ => if mant = 0 then none else some (.inf (x != n))
  | .fin n mant _, .inf y => if mant = 0 then none else some (.inf (n != y))
  | _, _ => some (.nan (nvOf [a, b]))

/-- a · b (R136). -/
def FFmt.mul (F : FFmt) (mode : Rnd) (a b : FVal) : Nat × Fl :=
  match a.times b with
  | none => (F.nan, flNV)
  | some v => F.roundVal mode v

/-- a · b + c, rounded once (R136). -/
def FFmt.fma (F : FFmt) (mode : Rnd) (a b c : FVal) : Nat × Fl :=
  match a.times b with
  | none => (F.nan, flNV)
  | some v => F.add mode v c

/-- a ÷ b (R136). -/
def FFmt.div (F : FFmt) (mode : Rnd) (a b : FVal) : Nat × Fl :=
  match a, b with
  | .fin n1 m1 e1, .fin n2 m2 e2 =>
    if m2 = 0 then (if m1 = 0 then (F.nan, flNV) else (F.inf (n1 != n2), flDZ))
    else F.round mode (n1 != n2) m1 m2 (e1 - e2)
  | .inf _, .inf _ => (F.nan, flNV)
  | .inf x, .fin n _ _ => (F.inf (x != n), 0)
  | .fin n _ _, .inf y => (F.withSign (n != y) 0, 0)
  | _, _ => (F.nan, flIf (nvOf [a, b]) flNV)

/-- The integer square root, digit by digit over `fuel` bit pairs. -/
def isqrt : Nat → Nat → Nat
  | 0, _ => 0
  | fuel + 1, n =>
    let r := 2 * isqrt fuel (n / 4)
    if (r + 1) * (r + 1) ≤ n then r + 1 else r

/-- √a (R136): the root of the mantissa scaled by 2^64, with a sticky half. -/
def FFmt.sqrt (F : FFmt) (mode : Rnd) (a : FVal) : Nat × Fl :=
  match a with
  | .nan s => (F.nan, flIf s flNV)
  | .inf neg => if neg then (F.nan, flNV) else (F.inf false, 0)
  | .fin neg mant e =>
    if mant = 0 then (F.withSign neg 0, 0)
    else if neg then (F.nan, flNV)
    else
      let odd := e % 2
      let big := mant * 2 ^ odd.toNat * 2 ^ 64
      let r := isqrt 64 big
      F.round mode false (2 * r + if r * r = big then 0 else 1) 1 ((e - odd) / 2 - 33)

/-- Order of two values that are no NaN; −0 and +0 are equal. -/
def FVal.cmp (a b : FVal) : Ordering :=
  match a, b with
  | .inf x, .inf y => if x = y then .eq else if x then .lt else .gt
  | .inf x, _ => if x then .lt else .gt
  | _, .inf y => if y then .gt else .lt
  | .fin n1 m1 e1, .fin n2 m2 e2 =>
    let base := if e1 ≤ e2 then e1 else e2
    compare (signedAt n1 m1 e1 base) (signedAt n2 m2 e2 base)
  | _, _ => .eq

/-- A value with −0 put below +0 (R137). -/
def FVal.below (a b : FVal) : Bool :=
  match a.cmp b with
  | .lt => true
  | .gt => false
  | .eq => a.neg && !b.neg

/-- The smaller or the larger operand (R137); `ca` and `cb` are the encodings. -/
def FFmt.minmax (F : FFmt) (larger : Bool) (ca cb : Nat) : Nat × Fl :=
  let a := F.read ca
  let b := F.read cb
  let fl := flIf (nvOf [a, b]) flNV
  if a.isNan && b.isNan then (F.nan, fl)
  else if a.isNan then (cb, fl)
  else if b.isNan then (ca, fl)
  else (if (if larger then b.below a else a.below b) then ca else cb, fl)

/-- A floating-point condition (R115, R138) and its flags. -/
def floatCond (cc : BitVec 4) (a b : FVal) : Bool × Fl :=
  let unordered := a.isNan || b.isNan
  let o := a.cmp b
  let holds := match cc.toNat with
    | 0 => !unordered && o == .eq
    | 1 => unordered || o != .eq
    | 2 => !unordered && o == .lt
    | 3 => !unordered && o != .gt
    | 4 => !unordered && o == .gt
    | 5 => !unordered && o != .lt
    | 10 => unordered
    | _ => !unordered
  let quiet := cc.toNat < 2 || cc.toNat ≥ 10
  (holds, flIf (if quiet then nvOf [a, b] else unordered) flNV)

/-- An integer condition (R115). -/
def intCond {w : Nat} (cc : BitVec 4) (a b : BitVec w) : Bool :=
  match cc.toNat with
  | 0 => a == b
  | 1 => a != b
  | 2 => a.slt b
  | 3 => a.sle b
  | 4 => b.slt a
  | 5 => b.sle a
  | 6 => a.ult b
  | 7 => a.ule b
  | 8 => b.ult a
  | _ => b.ule a

/-- The classes of R140. -/
def FVal.classBit (F : FFmt) (x : FVal) : Nat :=
  match x with
  | .nan s => if s then 8 else 9
  | .inf neg => if neg then 0 else 7
  | .fin neg mant _ =>
    if mant = 0 then (if neg then 3 else 4)
    else if mant < 2 ^ F.fbits then (if neg then 2 else 5)
    else (if neg then 1 else 6)

/-! ### Conversions (R58 to R60, R139) -/

/-- A value rounded to an integer format (R59). -/
def toIntFmt (dst : BitVec 4) (mode : Rnd) (x : FVal) : Nat × Fl :=
  let (lo, hi) := intRange dst
  match x with
  | .nan _ => (0, flNV)
  | .inf neg => (intBits dst (if neg then lo else hi), flNV)
  | .fin neg mant e =>
    let (num, den) := fracOf mant 1 e
    let (n, inexact, _) := mode.whole neg num den
    let v : Int := if neg then -n else n
    if lo ≤ v ∧ v ≤ hi then (intBits dst v, flIf inexact flNX) else (intBits dst (clampInt lo hi v), flNV)

/-- A floating-point value converted to a floating-point format (R58). -/
def FFmt.convert (F : FFmt) (mode : Rnd) (x : FVal) : Nat × Fl :=
  match x, F.top with
  | .nan _, .finite => (0, flNV)
  | .inf neg, .finite => (F.withSign neg F.maxCode, flOF ||| flNX)
  | .inf _, .oneNan => (F.nan, flNV)
  | _, _ => F.roundVal mode x

/-- The conversion of an encoding between two formats of R139, under NSPEC. -/
def convertFmt (nspec : Bool) (dst src : BitVec 4) (mode : Rnd) (x : Nat) : Nat × Fl :=
  match floatFmt nspec dst, floatFmt nspec src with
  | some D, some S => D.convert mode (S.read x)
  | some D, none => D.roundVal mode (FVal.ofInt (intRead src x))
  | none, some S => toIntFmt dst mode (S.read x)
  | none, none =>
    let (lo, hi) := intRange dst
    (intBits dst (clampInt lo hi (intRead src x)), 0)

/-- The conversion draws from SEED under RSTOCH: not when both formats are integer formats (R60, R63). -/
def conversionDraws (dst src : BitVec 4) : Bool := (floatFmt false dst).isSome || (floatFmt false src).isSome

/-! ### Estimates (R74 to R78) -/

/-- x rounded to the nearest whole number, for a fraction that is no tie. -/
def nearest (num den : Nat) : Nat := (2 * num + den) / (2 * den)
/-- E_i of the reciprocal table (R74). -/
def recipEntry (i : Nat) : Nat := nearest 131072 (256 + i)
/-- E_i of the reciprocal square root table (R75): RNE(512 / √M_i), from 2·512/√M_i rounded down. -/
def rsqrtEntry (i : Nat) : Nat :=
  let den := (128 + i % 128) * (if i < 128 then 1 else 2)
  (isqrt 16 (4 * 512 * 512 * 128 / den) + 1) / 2

/-- A finite value that is not zero as 2^e · (1 + f), f in 23 bits: e and f. -/
def normal23 (mant : Nat) (e : Int) : Int × Nat :=
  let k := Nat.log2 mant
  (e + k, (mant * 2 ^ 23 / 2 ^ k) % 2 ^ 23)

/-- The reciprocal estimate of an FP32 value (R74, R77). -/
def recipEst (x : FVal) : Nat × Fl :=
  match x with
  | .nan s => (FFmt.fp32.nan, flIf s flNV)
  | .inf neg => (FFmt.fp32.withSign neg 0, 0)
  | .fin neg mant e =>
    if mant = 0 then (FFmt.fp32.inf neg, flDZ)
    else
      let (k, f) := normal23 mant e
      FFmt.fp32.round .rne neg (recipEntry (f / 2 ^ 15)) 1 (-k - 9)

/-- The reciprocal square root estimate of an FP32 value (R75, R77). -/
def rsqrtEst (x : FVal) : Nat × Fl :=
  match x with
  | .nan s => (FFmt.fp32.nan, flIf s flNV)
  | .inf neg => if neg then (FFmt.fp32.nan, flNV) else (0, 0)
  | .fin neg mant e =>
    if mant = 0 then (FFmt.fp32.inf neg, flDZ)
    else if neg then (FFmt.fp32.nan, flNV)
    else
      let (k, f) := normal23 mant e
      let t := k % 2
      FFmt.fp32.round .rne false (rsqrtEntry (128 * t.toNat + f / 2 ^ 16)) 1 (-((k - t) / 2) - 9)

/-- An estimate in the BF16 lanes (R78): widened exactly, estimated, rounded to BF16 under RNE, with the flags of both. -/
def bfEst (est : FVal → Nat × Fl) (x : Nat) : Nat × Fl :=
  let (y, f1) := est (FFmt.bf16.read x)
  let (z, f2) := FFmt.bf16.roundVal .rne (FFmt.fp32.read y)
  (z, f1 ||| f2)

/-! ### Sums of a sequence of operations -/

/-- Results with their flags: the OR of the flags (R66). -/
def orAll (fs : List Fl) : Fl := fs.foldl (· ||| ·) 0

end Sys2Proof.Machine
end

