-- ==== Sys2Proof/Syntax.lean ====
section
/-! DEFINITION. The abstract instructions: one constructor of `Instr` per row of the opcode table.
A row that a 96-bit slot encodes (R94) carries its decoded fields; a row that is an event of the device
(an interrupt entry, a drain, a host datagram) carries the names of the agents it concerns. -/

namespace Sys2Proof

/-- LA and GD of a slot (R94): the lookahead count and the guard. -/
structure Hdr where
  la : BitVec 4
  gd : BitVec 4
deriving DecidableEq, Repr, Inhabited

/-- A source specifier (R101) whose class the position fixes: NUMBER and MARK. -/
structure Reg where
  n : BitVec 5
  mark : Bool
deriving DecidableEq, Repr, Inhabited

/-- The second operand of R130: a register (FN 0x000), sext(IMM32) (0x001), or the literal (0x801). -/
inductive Opnd where
  | reg (r : Reg)
  | imm (v : BitVec 32)
  | lit (v : Word)
deriving DecidableEq, Repr, Inhabited

/-- The second operand of a vector form: a register or IMM32 (FN[4], R172). -/
inductive VOpnd where
  | reg (r : Reg)
  | imm (v : BitVec 32)
deriving DecidableEq, Repr, Inhabited

/-- The scalar of `vbcast` (R183): a g register, or literal bits [63:0]. -/
inductive BcSrc where
  | reg (r : Reg)
  | lit (v : Word)
deriving DecidableEq, Repr, Inhabited

/-- A Format B offset (R97): signed line offset and slot number. -/
structure Target where
  line : BitVec 37
  slot : BitVec 3
deriving DecidableEq, Repr, Inhabited

/-- A Format M address (R98). -/
structure Addr where
  base : Reg
  index : Reg
  scale : BitVec 3
  disp : BitVec 40
deriving DecidableEq, Repr, Inhabited

/-- The engines that write memory word by word (R268). -/
inductive Engine where
  | copy
  | tile
  | dge
deriving DecidableEq, Repr, Inhabited

/-- An Ethernet frame as the port sees it (R371): what it carries, and the UDP payload. -/
structure EthFrame where
  /-- IPv6 and UDP to the KHT port 0xC04E -/
  kht : Bool
  /-- an IEEE 1588 message -/
  ptp : Bool
  size : Nat
  payload : List Byte
deriving DecidableEq, Repr, Inhabited

/-! ### Field groups of the encoded forms -/

structure IntBin where (h : Hdr) (rd : BitVec 5) (a : Reg) (b : Opnd)
deriving DecidableEq, Repr, Inhabited
structure IntTri where (h : Hdr) (rd : BitVec 5) (a : Reg) (b : Opnd) (c : Reg)
deriving DecidableEq, Repr, Inhabited
structure Un where (h : Hdr) (rd : BitVec 5) (a : Reg)
deriving DecidableEq, Repr, Inhabited
structure Bin where (h : Hdr) (rd : BitVec 5) (a b : Reg)
deriving DecidableEq, Repr, Inhabited
structure Tri where (h : Hdr) (rd : BitVec 5) (a b c : Reg)
deriving DecidableEq, Repr, Inhabited
structure LoadImm where (h : Hdr) (rd : BitVec 5) (imm : Word)
deriving DecidableEq, Repr, Inhabited
structure LeaOp where (h : Hdr) (rd : BitVec 5) (ad : Addr)
deriving DecidableEq, Repr, Inhabited
structure CmpF where (h : Hdr) (cc : BitVec 4) (rd : BitVec 5) (a b : Reg)
deriving DecidableEq, Repr, Inhabited
structure CmpI where (h : Hdr) (cc : BitVec 4) (rd : BitVec 5) (a : Reg) (b : VOpnd)
deriving DecidableEq, Repr, Inhabited
structure CvtF where (h : Hdr) (dst src : BitVec 4) (rnd : BitVec 3) (rd : BitVec 5) (a : Reg)
deriving DecidableEq, Repr, Inhabited
structure Jump where (h : Hdr) (off : Target)
deriving DecidableEq, Repr, Inhabited
structure Branch1 where (h : Hdr) (a : Reg) (off : Target)
deriving DecidableEq, Repr, Inhabited
structure Branch2 where (h : Hdr) (a b : Reg) (off : Target)
deriving DecidableEq, Repr, Inhabited
structure LoopImm where (h : Hdr) (imm : BitVec 32) (off : Target)
deriving DecidableEq, Repr, Inhabited
structure JumpReg where (h : Hdr) (a : Reg)
deriving DecidableEq, Repr, Inhabited
structure SysRead where (h : Hdr) (rd : BitVec 5) (sr : BitVec 12)
deriving DecidableEq, Repr, Inhabited
structure SysWrite where (h : Hdr) (sr : BitVec 12) (a : Reg)
deriving DecidableEq, Repr, Inhabited
structure SysMod where (h : Hdr) (rd : BitVec 5) (sr : BitVec 12) (a : Reg)
deriving DecidableEq, Repr, Inhabited
structure Service where (h : Hdr) (imm : BitVec 32)
deriving DecidableEq, Repr, Inhabited
structure Plain where (h : Hdr)
deriving DecidableEq, Repr, Inhabited
structure Src2 where (h : Hdr) (a b : Reg)
deriving DecidableEq, Repr, Inhabited
structure FreezeOp where (h : Hdr) (a b : Reg) (place : BitVec 8) (off : Target)
deriving DecidableEq, Repr, Inhabited
structure Query where (h : Hdr) (rd : BitVec 5) (sel : BitVec 3)
deriving DecidableEq, Repr, Inhabited
structure StreamReg where (h : Hdr) (st : BitVec 2) (a : Reg)
deriving DecidableEq, Repr, Inhabited
/-- `sbind st, reg`: the register is g(24 + k), or v(24 + k) when `vec` (R196). -/
structure StreamBind where (h : Hdr) (st : BitVec 2) (vec : Bool)
deriving DecidableEq, Repr, Inhabited
structure StreamOnly where (h : Hdr) (st : BitVec 2)
deriving DecidableEq, Repr, Inhabited
structure StreamStat where (h : Hdr) (rd : BitVec 5) (st : BitVec 2)
deriving DecidableEq, Repr, Inhabited
structure RepOp where (h : Hdr) (gn : BitVec 5) (len : BitVec 4) (stride : BitVec 3) (mask : BitVec 4)
deriving DecidableEq, Repr, Inhabited
structure VBin where (h : Hdr) (fmt : BitVec 4) (rd : BitVec 5) (a : Reg) (b : VOpnd)
deriving DecidableEq, Repr, Inhabited
structure VTri where (h : Hdr) (fmt : BitVec 4) (rd : BitVec 5) (a : Reg) (b : VOpnd) (c : Reg)
deriving DecidableEq, Repr, Inhabited
structure VUn where (h : Hdr) (fmt : BitVec 4) (rd : BitVec 5) (a : Reg)
deriving DecidableEq, Repr, Inhabited
structure VTable where (h : Hdr) (fmt : BitVec 4) (rd : BitVec 5) (a : Reg) (t : BitVec 2)
deriving DecidableEq, Repr, Inhabited
structure VTLoad where (h : Hdr) (t : BitVec 2) (a : Reg)
deriving DecidableEq, Repr, Inhabited
structure VCvt where (h : Hdr) (dst src : BitVec 4) (rnd : BitVec 3) (part : BitVec 2) (rd : BitVec 5) (a : Reg)
deriving DecidableEq, Repr, Inhabited
structure VCmp where (h : Hdr) (cc fmt : BitVec 4) (rd : BitVec 5) (a b : Reg)
deriving DecidableEq, Repr, Inhabited
structure VSel where (h : Hdr) (fmt : BitVec 4) (rd : BitVec 5) (a b c : Reg)
deriving DecidableEq, Repr, Inhabited
structure V2 where (h : Hdr) (fmt : BitVec 4) (rd : BitVec 5) (a b : Reg)
deriving DecidableEq, Repr, Inhabited
structure V3 where (h : Hdr) (fmt : BitVec 4) (rd : BitVec 5) (a b c : Reg)
deriving DecidableEq, Repr, Inhabited
structure VRed where (h : Hdr) (fmt : BitVec 4) (rd : BitVec 5) (a : Reg) (pm : Option Reg)
deriving DecidableEq, Repr, Inhabited
structure VBcast where (h : Hdr) (fmt : BitVec 4) (rd : BitVec 5) (s : BcSrc)
deriving DecidableEq, Repr, Inhabited
structure VExt where (h : Hdr) (fmt : BitVec 4) (rd : BitVec 5) (a : Reg) (i : VOpnd)
deriving DecidableEq, Repr, Inhabited
structure VIns where (h : Hdr) (fmt : BitVec 4) (rd : BitVec 5) (a s : Reg) (i : VOpnd)
deriving DecidableEq, Repr, Inhabited
structure VNull where (h : Hdr) (fmt : BitVec 4) (rd : BitVec 5)
deriving DecidableEq, Repr, Inhabited
structure Load where (h : Hdr) (z : Bool) (size : BitVec 2) (rd : BitVec 5) (ad : Addr)
deriving DecidableEq, Repr, Inhabited
structure Store where (h : Hdr) (size : BitVec 2) (src : Reg) (ad : Addr)
deriving DecidableEq, Repr, Inhabited
/-- A vector memory form; `r` is the destination of a load (mark false) or the data of a store. -/
structure VMem where (h : Hdr) (fmt : BitVec 4) (r : Reg) (ad : Addr)
deriving DecidableEq, Repr, Inhabited
structure Balloc where (h : Hdr) (rd : BitVec 5) (a b : Reg) (stripe : BitVec 3)
deriving DecidableEq, Repr, Inhabited
structure Pref where (h : Hdr) (ad : Addr)
deriving DecidableEq, Repr, Inhabited
/-- An atomic (R237); `dword` is SIZE 3. -/
structure Amo where (h : Hdr) (op : BitVec 4) (dword : Bool) (rd : BitVec 5) (base v : Reg) (disp : BitVec 40)
deriving DecidableEq, Repr, Inhabited
structure CellAdd where (h : Hdr) (g bf : Bool) (src : Reg) (ad : Addr)
deriving DecidableEq, Repr, Inhabited
structure CellRead where (h : Hdr) (g : Bool) (rd : BitVec 5) (ad : Addr)
deriving DecidableEq, Repr, Inhabited
structure CellClear where (h : Hdr) (g : Bool) (ad : Addr)
deriving DecidableEq, Repr, Inhabited
structure CopyOp where (h : Hdr) (hd : BitVec 3) (dst src len dev : Reg) (dsp ssp : BitVec 2)
deriving DecidableEq, Repr, Inhabited
structure CopyMulti where (h : Hdr) (hd : BitVec 3) (off src len : Reg) (cmask : BitVec 8) (ssp : BitVec 2)
deriving DecidableEq, Repr, Inhabited
structure CopyConv where (h : Hdr) (hd : BitVec 3) (row src rows stride : Reg) (dslot sslot : BitVec 6) (fmt : BitVec 4) (rnd : BitVec 3) (ssp : BitVec 2)
deriving DecidableEq, Repr, Inhabited
structure CopyFill where (h : Hdr) (hd : BitVec 3) (dst val len : Reg) (dsp es : BitVec 2)
deriving DecidableEq, Repr, Inhabited
structure HandleRead where (h : Hdr) (rd : BitVec 5) (hs : BitVec 3)
deriving DecidableEq, Repr, Inhabited
structure HandleOnly where (h : Hdr) (hs : BitVec 3)
deriving DecidableEq, Repr, Inhabited
structure HandleImport where (h : Hdr) (hd : BitVec 3) (a : Reg)
deriving DecidableEq, Repr, Inhabited
structure TslotOp where (h : Hdr) (hd : BitVec 3) (a : Reg) (n : BitVec 6)
deriving DecidableEq, Repr, Inhabited
structure AccOnly where (h : Hdr) (hd acc : BitVec 3)
deriving DecidableEq, Repr, Inhabited
structure AccLoad where (h : Hdr) (hd acc : BitVec 3) (a : Reg)
deriving DecidableEq, Repr, Inhabited
structure AccMul where (h : Hdr) (hd acc : BitVec 3) (k0 klen v : Reg) (tsA tsB : BitVec 6)
deriving DecidableEq, Repr, Inhabited
structure AccDrain where (h : Hdr) (hd acc : BitVec 3) (v : Reg) (ts tsT : BitVec 6) (free zero : Bool)
deriving DecidableEq, Repr, Inhabited
structure Eng1 where (h : Hdr) (hd : BitVec 3) (a : Reg)
deriving DecidableEq, Repr, Inhabited
structure Eng2 where (h : Hdr) (hd : BitVec 3) (a b : Reg)
deriving DecidableEq, Repr, Inhabited
structure Eng3 where (h : Hdr) (hd : BitVec 3) (a b c : Reg)
deriving DecidableEq, Repr, Inhabited
structure Eng4 where (h : Hdr) (hd : BitVec 3) (a b c d : Reg)
deriving DecidableEq, Repr, Inhabited
structure DeqOp where (h : Hdr) (hd : BitVec 3) (q dst : Reg) (nb : Bool)
deriving DecidableEq, Repr, Inhabited
structure XsendOp where (h : Hdr) (hd : BitVec 3) (bit src len : Reg) (narrow : Bool)
deriving DecidableEq, Repr, Inhabited
structure XrecvOp where (h : Hdr) (hd : BitVec 3) (dst : Reg) (nb : Bool)
deriving DecidableEq, Repr, Inhabited

/-- What the training of an OL link brings (R379, R380): the lanes that work, the lowest and the highest link version of the far end, and
the device numbers that the link reaches. -/
structure LinkUp where
  lanes : Nat
  lo : Nat
  hi : Nat
  reach : List Nat
deriving DecidableEq, Repr, Inhabited

/-- A flit on an OL link (R379): its virtual channel, its sequence number, its bytes, and whether its CRC is right. -/
structure Flit where
  vc : Nat
  num : Nat
  data : List Byte
  crcOk : Bool
deriving DecidableEq, Repr, Inhabited

/-- The estimated draws, in power units, of a die and of its regions (R384, R385). -/
structure Draws where
  total : Nat
  regions : List Nat
deriving DecidableEq, Repr, Inhabited

/-- The rows of the opcode table; the rows that a slot encodes stand first, then the event rows. -/
inductive Instr where
  /-- NOP (R110) -/
  | nop
  /-- ADD (R130) -/
  | add (f : IntBin)
  /-- SUB (R130) -/
  | sub (f : IntBin)
  /-- MUL (R130) -/
  | mul (f : IntBin)
  /-- MULH (R130) -/
  | mulh (f : IntBin)
  /-- MULHN (R130) -/
  | mulhn (f : IntBin)
  /-- DIV (R130) -/
  | div (f : IntBin)
  /-- DIVN (R130) -/
  | divn (f : IntBin)
  /-- REM (R130) -/
  | rem (f : IntBin)
  /-- REMN (R130) -/
  | remn (f : IntBin)
  /-- AND (R130) -/
  | and (f : IntBin)
  /-- OR (R130) -/
  | or (f : IntBin)
  /-- XOR (R130) -/
  | xor (f : IntBin)
  /-- ANDN (R130) -/
  | andn (f : IntBin)
  /-- ORN (R130) -/
  | orn (f : IntBin)
  /-- SHL (R130) -/
  | shl (f : IntBin)
  /-- SHR (R130) -/
  | shr (f : IntBin)
  /-- SRA (R130) -/
  | sra (f : IntBin)
  /-- ROL (R130) -/
  | rol (f : IntBin)
  /-- ROR (R130) -/
  | ror (f : IntBin)
  /-- CLZ (R131) -/
  | clz (f : Un)
  /-- CTZ (R131) -/
  | ctz (f : Un)
  /-- POPC (R131) -/
  | popc (f : Un)
  /-- BEXT (R132) -/
  | bext (f : IntBin)
  /-- BINS (R132) -/
  | bins (f : IntTri)
  /-- BSWAP (R131) -/
  | bswap (f : Un)
  /-- ABS (R131) -/
  | abs (f : Un)
  /-- MIN (R130) -/
  | min (f : IntBin)
  /-- MAX (R130) -/
  | max (f : IntBin)
  /-- MINN (R130) -/
  | minn (f : IntBin)
  /-- MAXN (R130) -/
  | maxn (f : IntBin)
  /-- SEQ (R130) -/
  | seq (f : IntBin)
  /-- SNE (R130) -/
  | sne (f : IntBin)
  /-- SLT (R130) -/
  | slt (f : IntBin)
  /-- SLTN (R130) -/
  | sltn (f : IntBin)
  /-- SLE (R130) -/
  | sle (f : IntBin)
  /-- SLEN (R130) -/
  | slen (f : IntBin)
  /-- SEL (R133) -/
  | sel (f : IntTri)
  /-- LI (R134) -/
  | li (f : LoadImm)
  /-- LEA (R135) -/
  | lea (f : LeaOp)
  /-- MOV (R131) -/
  | mov (f : Un)
  /-- FADD (R136) -/
  | fadd (f : Bin)
  /-- FSUB (R136) -/
  | fsub (f : Bin)
  /-- FMUL (R136) -/
  | fmul (f : Bin)
  /-- FFMA (R136) -/
  | ffma (f : Tri)
  /-- FDIV (R136) -/
  | fdiv (f : Bin)
  /-- FSQRT (R136) -/
  | fsqrt (f : Un)
  /-- FRSQE (R75) -/
  | frsqe (f : Un)
  /-- FRCPE (R74) -/
  | frcpe (f : Un)
  /-- FMIN (R137) -/
  | fmin (f : Bin)
  /-- FMAX (R137) -/
  | fmax (f : Bin)
  /-- FCMP (R138) -/
  | fcmp (f : CmpF)
  /-- FCVT (R139) -/
  | fcvt (f : CvtF)
  /-- FCLASS (R140) -/
  | fclass (f : Un)
  /-- FABS (R141) -/
  | fabs (f : Un)
  /-- FNEG (R141) -/
  | fneg (f : Un)
  /-- PCMP (R142) -/
  | pcmp (f : CmpI)
  /-- PAND (R142) -/
  | pand (f : Bin)
  /-- POR (R142) -/
  | por (f : Bin)
  /-- PXOR (R142) -/
  | pxor (f : Bin)
  /-- PNOT (R142) -/
  | pnot (f : Un)
  /-- PSET (R142) -/
  | pset (f : Un)
  /-- PGET (R142) -/
  | pget (f : Un)
  /-- BR (R143) -/
  | br (f : Jump)
  /-- BRP (R143) -/
  | brp (f : Branch1)
  /-- BRZ (R143) -/
  | brz (f : Branch1)
  /-- BRNZ (R143) -/
  | brnz (f : Branch1)
  /-- BEQ (R143) -/
  | beq (f : Branch2)
  /-- BNE (R143) -/
  | bne (f : Branch2)
  /-- BLT (R143) -/
  | blt (f : Branch2)
  /-- CALL (R143) -/
  | call (f : Jump)
  /-- CALLR (R143) -/
  | callr (f : Un)
  /-- JMPR (R143) -/
  | jmpr (f : JumpReg)
  /-- RET (R143) -/
  | ret (f : JumpReg)
  /-- LOOP (R146) -/
  | loop (f : Branch1)
  /-- LOOPI (R146) -/
  | loopi (f : LoopImm)
  /-- MFS (R149) -/
  | mfs (f : SysRead)
  /-- MTS (R149) -/
  | mts (f : SysWrite)
  /-- MTSB (R149) -/
  | mtsb (f : SysMod)
  /-- MTSC (R149) -/
  | mtsc (f : SysMod)
  /-- ECALL (R157) -/
  | ecall (f : Service)
  /-- EBREAK (R157) -/
  | ebreak (f : Service)
  /-- ERET (R156) -/
  | eret (f : Plain)
  /-- WFI (R162) -/
  | wfi (f : Plain)
  /-- IPI (R161) -/
  | ipi (f : Bin)
  /-- FENCE_I (R163) -/
  | fenceI (f : Plain)
  /-- TLBINV (R357) -/
  | tlbinv (f : Src2)
  /-- PTSYNC (R357) -/
  | ptsync (f : Un)
  /-- LOGREPLAY (R360) -/
  | logreplay (f : Un)
  /-- CTXSAVE (R367) -/
  | ctxsave (f : Bin)
  /-- CTXLOAD (R369) -/
  | ctxload (f : Bin)
  /-- PREEMPT_HALT (R165) -/
  | preemptHalt (f : Bin)
  /-- STRANDNEW (R166) -/
  | strandnew (f : Tri)
  /-- STRANDKILL (R167) -/
  | strandkill (f : Un)
  /-- FREEZE (R280) -/
  | freeze (f : FreezeOp)
  /-- RETIRE (R291) -/
  | retire (f : Plain)
  /-- YIELD (R293) -/
  | yield (f : Plain)
  /-- ITEMQ (R294) -/
  | itemq (f : Query)
  /-- SCFG (R195) -/
  | scfg (f : StreamReg)
  /-- SCFGI (R195) -/
  | scfgi (f : StreamReg)
  /-- SBIND (R196) -/
  | sbind (f : StreamBind)
  /-- SUNBIND (R196) -/
  | sunbind (f : StreamOnly)
  /-- SSAVE (R200) -/
  | ssave (f : StreamReg)
  /-- SREST (R200) -/
  | srest (f : StreamReg)
  /-- SSEEK (R201) -/
  | sseek (f : StreamReg)
  /-- SSTAT (R201) -/
  | sstat (f : StreamStat)
  /-- REP (R206) -/
  | rep (f : RepOp)
  /-- VADD (R174) -/
  | vadd (f : VBin)
  /-- VSUB (R174) -/
  | vsub (f : VBin)
  /-- VMUL (R174) -/
  | vmul (f : VBin)
  /-- VFMA (R174) -/
  | vfma (f : VTri)
  /-- VFMS (R174) -/
  | vfms (f : VTri)
  /-- VNEG (R174) -/
  | vneg (f : VUn)
  /-- VABS (R174) -/
  | vabs (f : VUn)
  /-- VMIN (R174) -/
  | vmin (f : VBin)
  /-- VMAX (R174) -/
  | vmax (f : VBin)
  /-- VRCPE (R174) -/
  | vrcpe (f : VUn)
  /-- VRSQE (R174) -/
  | vrsqe (f : VUn)
  /-- VTI (R190) -/
  | vti (f : VTable)
  /-- VTLOAD (R189) -/
  | vtload (f : VTLoad)
  /-- VCVT (R182) -/
  | vcvt (f : VCvt)
  /-- VCMP (R180) -/
  | vcmp (f : VCmp)
  /-- VSEL (R181) -/
  | vsel (f : VSel)
  /-- VAND (R179) -/
  | vand (f : VBin)
  /-- VOR (R179) -/
  | vor (f : VBin)
  /-- VXOR (R179) -/
  | vxor (f : VBin)
  /-- VANDN (R179) -/
  | vandn (f : VBin)
  /-- VSHL (R178) -/
  | vshl (f : VBin)
  /-- VSHR (R178) -/
  | vshr (f : VBin)
  /-- VSRA (R178) -/
  | vsra (f : VBin)
  /-- VDOT4 (R177) -/
  | vdot4 (f : V3)
  /-- VRED_ADD (R187) -/
  | vredAdd (f : VRed)
  /-- VRED_MAX (R187) -/
  | vredMax (f : VRed)
  /-- VREDO_ADD (R187) -/
  | vredoAdd (f : VRed)
  /-- VBCAST (R183) -/
  | vbcast (f : VBcast)
  /-- VEXT (R184) -/
  | vext (f : VExt)
  /-- VINS (R184) -/
  | vins (f : VIns)
  /-- VPERM (R185) -/
  | vperm (f : V2)
  /-- VSHUF (R185) -/
  | vshuf (f : V3)
  /-- VCOMPRESS (R186) -/
  | vcompress (f : VUn)
  /-- VEXPAND (R186) -/
  | vexpand (f : VUn)
  /-- VIOTA (R186) -/
  | viota (f : VNull)
  /-- VPOPC (R186) -/
  | vpopc (f : VNull)
  /-- VMOV (R186) -/
  | vmov (f : VUn)
  /-- LDL (R231) -/
  | ldl (f : Load)
  /-- STL (R231) -/
  | stl (f : Store)
  /-- LDC (R231) -/
  | ldc (f : Load)
  /-- STC (R231) -/
  | stc (f : Store)
  /-- LDG (R231) -/
  | ldg (f : Load)
  /-- STG (R231) -/
  | stg (f : Store)
  /-- LDAQ (R260) -/
  | ldaq (f : Load)
  /-- STRL (R260) -/
  | strl (f : Store)
  /-- VLDL (R234) -/
  | vldl (f : VMem)
  /-- VSTL (R234) -/
  | vstl (f : VMem)
  /-- VGATHL (R234) -/
  | vgathl (f : VMem)
  /-- VSCATL (R234) -/
  | vscatl (f : VMem)
  /-- VLDG (R234) -/
  | vldg (f : VMem)
  /-- VSTG (R234) -/
  | vstg (f : VMem)
  /-- LDLF (R230) -/
  | ldlf (f : Load)
  /-- LDLT (R230) -/
  | ldlt (f : Load)
  /-- STLF (R230) -/
  | stlf (f : Store)
  /-- EMPTY (R230) -/
  | empty (f : Src2)
  /-- BALLOC (R223) -/
  | balloc (f : Balloc)
  /-- BFREE (R224) -/
  | bfree (f : Bin)
  /-- BWAKE (R225) -/
  | bwake (f : Src2)
  /-- PREFG (R236) -/
  | prefg (f : Pref)
  /-- AMOL (R237) -/
  | amol (f : Amo)
  /-- AMOG (R237) -/
  | amog (f : Amo)
  /-- FADDX (R239) -/
  | faddx (f : CellAdd)
  /-- RDX (R239) -/
  | rdx (f : CellRead)
  /-- CLRX (R239) -/
  | clrx (f : CellClear)
  /-- FENCE_C (R235) -/
  | fenceC (f : Plain)
  /-- FENCE_K (R235) -/
  | fenceK (f : Plain)
  /-- FENCE_D (R235) -/
  | fenceD (f : Plain)
  /-- FENCE_P (R235) -/
  | fenceP (f : Plain)
  /-- FENCE_Y (R235) -/
  | fenceY (f : Plain)
  /-- FENCE_W (R266) -/
  | fenceW (f : Plain)
  /-- SYNC (R240) -/
  | sync (f : Plain)
  /-- SYNC_X (R240) -/
  | syncX (f : Un)
  /-- VOTE_AND (R240) -/
  | voteAnd (f : Un)
  /-- VOTE_OR (R240) -/
  | voteOr (f : Un)
  /-- VOTE_ADD (R240) -/
  | voteAdd (f : Un)
  /-- VOTE_MAX (R240) -/
  | voteMax (f : Un)
  /-- CPY (R244) -/
  | cpy (f : CopyOp)
  /-- CPYM (R244) -/
  | cpym (f : CopyMulti)
  /-- CPYC (R245) -/
  | cpyc (f : CopyConv)
  /-- CPYF (R244) -/
  | cpyf (f : CopyFill)
  /-- FWAIT (R248) -/
  | fwait (f : HandleRead)
  /-- FTEST (R248) -/
  | ftest (f : HandleRead)
  /-- FCANCEL (R249) -/
  | fcancel (f : HandleOnly)
  /-- FEXP (R250) -/
  | fexp (f : HandleRead)
  /-- FIMP (R250) -/
  | fimp (f : HandleImport)
  /-- TSLOT (R301) -/
  | tslot (f : TslotOp)
  /-- TZERO (R312) -/
  | tzero (f : AccOnly)
  /-- TLDACC (R312) -/
  | tldacc (f : AccLoad)
  /-- TMMA (R314) -/
  | tmma (f : AccMul)
  /-- TMMAS (R314) -/
  | tmmas (f : AccMul)
  /-- TDRAIN (R317) -/
  | tdrain (f : AccDrain)
  /-- TDRAINT (R317) -/
  | tdraint (f : AccDrain)
  /-- TQRY (R321) -/
  | tqry (f : Query)
  /-- ENQ (R330) -/
  | enq (f : Eng2)
  /-- ENQRES (R330) -/
  | enqres (f : Eng1)
  /-- ENQPUB (R330) -/
  | enqpub (f : Eng3)
  /-- DEQ (R333) -/
  | deq (f : DeqOp)
  /-- DCNEW (R334) -/
  | dcnew (f : Eng4)
  /-- DCDEC (R334) -/
  | dcdec (f : Eng1)
  /-- DCADD (R334) -/
  | dcadd (f : Eng2)
  /-- TASKDEP (R336) -/
  | taskdep (f : Eng3)
  /-- TASKDEP_REG (R335) -/
  | taskdepReg (f : Eng1)
  /-- TASKDEP_UNREG (R335) -/
  | taskdepUnreg (f : Eng1)
  /-- WORK (R338) -/
  | work (f : Plain)
  /-- DONE (R338) -/
  | done (f : Plain)
  /-- XINBOX (R343) -/
  | xinbox (f : Eng2)
  /-- XSEND (R344) -/
  | xsend (f : XsendOp)
  /-- XRECV (R346) -/
  | xrecv (f : XrecvOp)
  /-- GATHER (R348) -/
  | gather (f : Eng4)
  /-- SCATADD (R349) -/
  | scatadd (f : Eng4)
  /-- IDEMB (R350) -/
  | idemb (f : Plain)
  /-- IDEME (R350) -/
  | ideme (f : Plain)
  /-- SYSREG_WRITE (R149) -/
  | sysregWrite (n : BitVec 12) (v : Word)
  /-- MSGIN_READ (R160) -/
  | msginRead
  /-- DMEM_WRITE (R35) -/
  | dmemWrite (v : Word)
  /-- BWPHASE_WRITE (R226) -/
  | bwphaseWrite (v : Word)
  /-- SPOS_WRITE (R192) -/
  | sposWrite (k : BitVec 2) (v : Word)
  /-- MTCMD_READ (R168) -/
  | mtcmdRead (i : Nat)
  /-- MTCMD_WRITE (R168) -/
  | mtcmdWrite (i : Nat)
  /-- MTCMD_CLEAR (R168) -/
  | mtcmdClear (i : Nat)
  /-- WFI_TIMEOUT (R162) -/
  | wfiTimeout (slot : Nat)
  /-- INTERRUPT_ENTRY (R159) -/
  | interruptEntry (slot : Nat)
  /-- TIMER_EXPIRY (R158) -/
  | timerExpiry (slot : Nat)
  /-- MESSAGE_ARRIVAL (R160) -/
  | messageArrival (slot : Nat)
  /-- PREEMPT_RESUME (R165) -/
  | preemptResume (slot : Nat)
  /-- HALT_COMPLETE (R365) -/
  | haltComplete (slot : Nat)
  /-- ENGINE_CHECKPOINT (R322) -/
  | engineCheckpoint (slot : Nat)
  /-- ITEM_STAMP (R281) -/
  | itemStamp (core : Nat) (r : Nat)
  /-- STARTER_SHIP (R282) -/
  | starterShip (core : Nat) (r : Nat) (dst : Nat)
  /-- STARTER_SHIP_COMPLETE (R282) -/
  | starterShipComplete (core : Nat) (r : Nat) (dst : Nat)
  /-- REG_COPY_EXHAUSTED (R24) -/
  | regCopyExhausted (slot : Nat)
  /-- STARTER_RESUME (R292) -/
  | starterResume (core : Nat) (r : Nat)
  /-- BANK_RET_ENTRY (R220) -/
  | bankRetEntry (cl : Nat) (bank : Nat)
  /-- PROOFING_COMPLETE (R220) -/
  | proofingComplete (cl : Nat) (bank : Nat)
  /-- TREE_CONTRIBUTION (R41) -/
  | treeContribution (i : Nat)
  /-- SYNC_RESULT_DELIVERY (R41) -/
  | syncResultDelivery (i : Nat)
  /-- DONE_ARRIVAL (R43) -/
  | doneArrival (i : Nat)
  /-- MESH_MESSAGE_FORWARD (R17) -/
  | meshMessageForward (i : Nat)
  /-- COPY_COMMAND_COMPLETE (R242) -/
  | copyCommandComplete (core : Nat)
  /-- ENGINE_WORD_WRITE (R268) -/
  | engineWordWrite (core : Nat) (e : Engine) (k : Nat)
  /-- TILE_COMMAND_COMPLETE (R307) -/
  | tileCommandComplete (core : Nat)
  /-- QUEUE_SLOT_FREED (R330) -/
  | queueSlotFreed (q : Nat)
  /-- DISPENSER_TAKE (R339) -/
  | dispenserTake (d : Nat)
  /-- RECORD_DELIVERY (R327) -/
  | recordDelivery (d : Nat)
  /-- WITHHOLD_TIMEOUT (R340) -/
  | withholdTimeout (d : Nat)
  /-- WATCHDOG_PREEMPT (R341) -/
  | watchdogPreempt (slot : Nat)
  /-- WATCHDOG_KILL (R341) -/
  | watchdogKill (slot : Nat)
  /-- WATCHDOG_FENCE (R341) -/
  | watchdogFence (slot : Nat)
  /-- QUEUE_READ (R325) -/
  | queueRead (v : Word)
  /-- QUEUE_WRITE (R325) -/
  | queueWrite (v : Word)
  /-- CORE_READMIT (R342) -/
  | coreReadmit (v : Word)
  /-- QUEUE_EMPTY (R325) -/
  | queueEmpty (v : Word)
  /-- PACKET_ARRIVAL (R344) -/
  | packetArrival (core : Nat)
  /-- DGE_COMMAND_COMPLETE (R347) -/
  | dgeCommandComplete (core : Nat) (k : Nat)
  /-- ICACHE_FILL (R87) -/
  | icacheFill (slot : Nat) (line : Word)
  /-- STORE_BUFFER_DRAIN (R256) -/
  | storeBufferDrain (core : Nat)
  /-- TRANSLATION_PROBE (R359) -/
  | translationProbe (core : Nat)
  /-- LOG_DISCARD (R359) -/
  | logDiscard (sid : Nat)
  /-- LOG_REARM (R359) -/
  | logRearm (sid : Nat)
  /-- SWAP_GO (R361) -/
  | swapGo
  /-- SWAP_EXCHANGE_COMPLETE (R362) -/
  | swapExchangeComplete (die : Nat) (k : Nat) (farOk : Bool)
  /-- WINDOW_BOUNDARY (R264) -/
  | windowBoundary (core : Nat)
  /-- AGE_PROMOTION (R28) -/
  | agePromotion (slot : Nat)
  /-- P3_PERIOD_START (R29) -/
  | p3PeriodStart (core : Nat)
  /-- P3_BUDGET_EXHAUSTED (R29) -/
  | p3BudgetExhausted (core : Nat)
  /-- TIMESTAT_K_APPLY (R267) -/
  | timestatKApply
  /-- PTP_SYNC (R378) -/
  | ptpSync (offset : Int)
  /-- TIME_LOCK_LOST (R378) -/
  | timeLockLost
  /-- ETHERNET_FRAME (R371) -/
  | ethernetFrame (fr : EthFrame)
  /-- HELLO (R374) -/
  | hello (k : Nat)
  /-- ACK (R373) -/
  | ack (session : Nat)
  /-- LAUNCH (R375) -/
  | launch (session : Nat)
  /-- MEMWRITE (R376) -/
  | memwrite (session : Nat)
  /-- MEMREAD (R376) -/
  | memread (session : Nat)
  /-- LOAD (R377) -/
  | load (session : Nat)
  /-- KHT_RESEND (R373) -/
  | khtResend (session : Nat)
  /-- KHT_SESSION_TIMEOUT (R373) -/
  | khtSessionTimeout (session : Nat)
  /-- ROLE_IMAGE_FORWARD (R124) -/
  | roleImageForward (i : Nat) (ok : Bool)
  /-- ROLE_START (R382) -/
  | roleStart (core : Nat)
  /-- POWER_ON_RESET (R381) -/
  | powerOnReset
  /-- OL_LINK_TRAINING (R379) -/
  | olLinkTraining (port : Nat) (link : LinkUp)
  /-- OL_FLIT_RECEIVE (R379) -/
  | olFlitReceive (port : Nat) (flit : Flit)
  /-- CLOCK_PAUSE (R383) -/
  | clockPause (core : Nat)
  /-- CLOCK_RESTART (R383) -/
  | clockRestart (core : Nat)
  /-- SUPPLY_DROOP (R383) -/
  | supplyDroop (core : Nat) (percent : Nat)
  /-- POWER_TOKEN_PASS (R384) -/
  | powerTokenPass (die : Nat) (draws : Draws)
  /-- PWRCAP_WRITE (R384) -/
  | pwrcapWrite (v : Word)
  /-- REGION_HOT (R385) -/
  | regionHot (die : Nat) (region : Nat) (temp : Nat)
  /-- OVER_BUDGET_STRETCH (R385) -/
  | overBudgetStretch (die : Nat)
  /-- CURRENT_RAMP_HOLD (R386) -/
  | currentRampHold (die : Nat)
  /-- BALLAST_START (R386) -/
  | ballastStart (core : Nat)
  /-- BALLAST_END (R386) -/
  | ballastEnd (core : Nat)
  /-- ERROR_RECORD_REMOVE (R388) -/
  | errorRecordRemove
  /-- TASK_UNIT_COMMAND_COMPLETE (R329) -/
  | taskUnitCommandComplete (u : Nat)
  /-- OL_LINK_DOWN (R380) -/
  | olLinkDown (port : Nat)
  /-- GRANULE_CLAIM_END (R310) -/
  | granuleClaimEnd (cl : Nat) (granule : Nat)
deriving DecidableEq, Repr, Inhabited

/-- The rows that are events which the device or the outside world makes by itself: they may be taken as a
turn of their own. The other rows are instructions of a strand, or what an instruction does inside (a write
of one system register), and come about only through the strand that executes them. -/
def Instr.autonomous : Instr → Bool
  | .mtcmdRead _ => true
  | .mtcmdWrite _ => true
  | .mtcmdClear _ => true
  | .wfiTimeout _ => true
  | .interruptEntry _ => true
  | .timerExpiry _ => true
  | .messageArrival _ => true
  | .haltComplete _ => true
  | .engineCheckpoint _ => true
  | .itemStamp _ _ => true
  | .starterShip _ _ _ => true
  | .starterShipComplete _ _ _ => true
  | .regCopyExhausted _ => true
  | .starterResume _ _ => true
  | .bankRetEntry _ _ => true
  | .proofingComplete _ _ => true
  | .treeContribution _ => true
  | .syncResultDelivery _ => true
  | .doneArrival _ => true
  | .meshMessageForward _ => true
  | .copyCommandComplete _ => true
  | .engineWordWrite _ _ _ => true
  | .tileCommandComplete _ => true
  | .queueSlotFreed _ => true
  | .dispenserTake _ => true
  | .recordDelivery _ => true
  | .withholdTimeout _ => true
  | .watchdogPreempt _ => true
  | .watchdogKill _ => true
  | .watchdogFence _ => true
  | .packetArrival _ => true
  | .dgeCommandComplete _ _ => true
  | .icacheFill _ _ => true
  | .storeBufferDrain _ => true
  | .translationProbe _ => true
  | .swapExchangeComplete _ _ _ => true
  | .windowBoundary _ => true
  | .ptpSync _ => true
  | .timeLockLost => true
  | .ethernetFrame _ => true
  | .hello _ => true
  | .ack _ => true
  | .launch _ => true
  | .memwrite _ => true
  | .memread _ => true
  | .load _ => true
  | .khtResend _ => true
  | .khtSessionTimeout _ => true
  | .roleImageForward _ _ => true
  | .roleStart _ => true
  | .powerOnReset => true
  | .olLinkTraining _ _ => true
  | .olFlitReceive _ _ => true
  | .clockPause _ => true
  | .clockRestart _ => true
  | .supplyDroop _ _ => true
  | .powerTokenPass _ _ => true
  | .regionHot _ _ _ => true
  | .overBudgetStretch _ => true
  | .currentRampHold _ => true
  | .ballastStart _ => true
  | .ballastEnd _ => true
  | .taskUnitCommandComplete _ => true
  | .olLinkDown _ => true
  | .granuleClaimEnd _ _ => true
  | _ => false

end Sys2Proof
end

