-- ==== Sys2Proof/WellFormed.lean ====
section
/-! DEFINITION. Which terms of `Instr` are instructions of a strand with admissible fields: the format sets of R172,
the condition codes of R115, the system register numbers of R149, the specifier rules of R101 and R102, and the
LA-capable forms of R113. `Instr.wf` is decided by computation. -/

namespace Sys2Proof

/-- Set F of R172: FP32, BF16. -/
def fmtF (c : BitVec 4) : Bool := c == 0 || c == 2
/-- Set I of R172: I32, I16, I8, N32, N16, N8. -/
def fmtI (c : BitVec 4) : Bool := c == 5 || c == 6 || c == 7 || c == 9 || c == 10 || c == 11
/-- Sets F and I. -/
def fmtFI (c : BitVec 4) : Bool := fmtF c || fmtI c
/-- Set F with the signed integers (`vneg`, `vabs`). -/
def fmtFS (c : BitVec 4) : Bool := fmtF c || c == 5 || c == 6 || c == 7
/-- Set M of R172: every code but I4, PL, L8 and the reserved ones. -/
def fmtM (c : BitVec 4) : Bool := decide (c.toNat ≤ 7) || c == 9 || c == 10 || c == 11
/-- I8 and N8 (`vdot4`). -/
def fmtByte (c : BitVec 4) : Bool := c == 7 || c == 11
/-- The codes that conversions take (R139, R182). -/
def fmtConv (c : BitVec 4) : Bool := fmtM c
/-- The source formats of `cpyc` (R245). -/
def cpycFmt (c : BitVec 4) : Bool := c == 0 || c == 2 || c == 3 || c == 4 || c == 13
/-- The element width w in bytes (R170). -/
def fmtBytes (c : BitVec 4) : Nat :=
  if c = 0 ∨ c = 5 ∨ c = 9 then 4 else if c = 1 ∨ c = 2 ∨ c = 6 ∨ c = 10 then 2 else 1
/-- q of R182: the wider width divided by the narrower. -/
def partCount (dst src : BitVec 4) : Nat :=
  Nat.max (fmtBytes dst) (fmtBytes src) / Nat.min (fmtBytes dst) (fmtBytes src)

/-- A condition code of the integer meaning (R115). -/
def ccInt (cc : BitVec 4) : Bool := decide (cc.toNat ≤ 9)
/-- A condition code of the floating-point meaning (R115). -/
def ccFloat (cc : BitVec 4) : Bool := decide (cc.toNat ≤ 5) || cc == 10 || cc == 11
/-- Rounding codes 5 and 6 are reserved (R55). -/
def rndReserved (r : BitVec 3) : Bool := r == 5 || r == 6

/-- The listed numbers of 0x080 to 0x09F (R356). -/
def sysregXlat (k : Nat) : Bool :=
  (decide (0x080 ≤ k) && decide (k ≤ 0x082)) || (decide (0x084 ≤ k) && decide (k ≤ 0x08B)) || (decide (0x090 ≤ k) && decide (k ≤ 0x092))
    || k == 0x098
/-- The listed numbers of 0x0A0 to 0x0AF (R384 to R388). -/
def sysregPower (k : Nat) : Bool := (decide (0x0A0 ≤ k) && decide (k ≤ 0x0A2)) || (decide (0x0A8 ≤ k) && decide (k ≤ 0x0AA))
/-- The register numbers of the system register map (R149, R192, R228, R356, R384 to R388). -/
def sysregListed (n : BitVec 12) : Bool :=
  let k := n.toNat
  decide (k ≤ 0x024) || k == 0x028 || (decide (0x030 ≤ k) && decide (k ≤ 0x041)) || (decide (0x044 ≤ k) && decide (k ≤ 0x047))
    || (decide (0x050 ≤ k) && decide (k ≤ 0x053)) || k == 0x060 || k == 0x061 || (decide (0x070 ≤ k) && decide (k ≤ 0x073))
    || sysregXlat k || sysregPower k
    || (decide (0x0B0 ≤ k) && decide (k ≤ 0x0B4)) || k == 0x0B8 || k == 0x0B9
    || (decide (0x102 ≤ k) && decide (k ≤ 0x107))

/-- The register classes of R101. -/
inductive Cls where
  | g
  | v
  | p
  | x
deriving DecidableEq, Repr

/-- MARK = 1 on g0 is refused (R102). -/
def Reg.okG (r : Reg) : Bool := !(r.mark && r.n == 0)
/-- A p register has NUMBER 0 to 7, and p0 carries no mark (R101, R102). -/
def Reg.okP (r : Reg) : Bool := decide (r.n.toNat < 8) && !(r.mark && r.n == 0)
/-- A destination p register has NUMBER 0 to 7. -/
def dstP (n : BitVec 5) : Bool := decide (n.toNat < 8)
def Opnd.ok : Opnd → Bool
  | .reg r => r.okG
  | .imm _ => true
  | .lit _ => true
def VOpnd.okG : VOpnd → Bool
  | .reg r => r.okG
  | .imm _ => true
/-- OFFSET[2:0] of 5 to 7 is refused (R97). -/
def Target.ok (t : Target) : Bool := decide (t.slot.toNat ≤ 4)
def Addr.okG (a : Addr) : Bool := a.base.okG && a.index.okG
/-- The specifier 0x00. -/
def noReg : Reg := ⟨0, false⟩

/-- LA and GD of an instruction of a strand; none for `nop` and for the event rows. -/
def Instr.hdr? : Instr → Option Hdr
  | .add f => some f.h
  | .sub f => some f.h
  | .mul f => some f.h
  | .mulh f => some f.h
  | .mulhn f => some f.h
  | .div f => some f.h
  | .divn f => some f.h
  | .rem f => some f.h
  | .remn f => some f.h
  | .and f => some f.h
  | .or f => some f.h
  | .xor f => some f.h
  | .andn f => some f.h
  | .orn f => some f.h
  | .shl f => some f.h
  | .shr f => some f.h
  | .sra f => some f.h
  | .rol f => some f.h
  | .ror f => some f.h
  | .bext f => some f.h
  | .min f => some f.h
  | .max f => some f.h
  | .minn f => some f.h
  | .maxn f => some f.h
  | .seq f => some f.h
  | .sne f => some f.h
  | .slt f => some f.h
  | .sltn f => some f.h
  | .sle f => some f.h
  | .slen f => some f.h
  | .bins f => some f.h
  | .sel f => some f.h
  | .clz f => some f.h
  | .ctz f => some f.h
  | .popc f => some f.h
  | .bswap f => some f.h
  | .abs f => some f.h
  | .mov f => some f.h
  | .fsqrt f => some f.h
  | .frsqe f => some f.h
  | .frcpe f => some f.h
  | .fclass f => some f.h
  | .fabs f => some f.h
  | .fneg f => some f.h
  | .pnot f => some f.h
  | .pset f => some f.h
  | .pget f => some f.h
  | .callr f => some f.h
  | .ptsync f => some f.h
  | .logreplay f => some f.h
  | .strandkill f => some f.h
  | .syncX f => some f.h
  | .voteAnd f => some f.h
  | .voteOr f => some f.h
  | .voteAdd f => some f.h
  | .voteMax f => some f.h
  | .li f => some f.h
  | .lea f => some f.h
  | .fadd f => some f.h
  | .fsub f => some f.h
  | .fmul f => some f.h
  | .fdiv f => some f.h
  | .fmin f => some f.h
  | .fmax f => some f.h
  | .pand f => some f.h
  | .por f => some f.h
  | .pxor f => some f.h
  | .ipi f => some f.h
  | .ctxsave f => some f.h
  | .ctxload f => some f.h
  | .preemptHalt f => some f.h
  | .bfree f => some f.h
  | .ffma f => some f.h
  | .strandnew f => some f.h
  | .fcmp f => some f.h
  | .pcmp f => some f.h
  | .fcvt f => some f.h
  | .br f => some f.h
  | .call f => some f.h
  | .brp f => some f.h
  | .brz f => some f.h
  | .brnz f => some f.h
  | .loop f => some f.h
  | .beq f => some f.h
  | .bne f => some f.h
  | .blt f => some f.h
  | .loopi f => some f.h
  | .jmpr f => some f.h
  | .ret f => some f.h
  | .mfs f => some f.h
  | .mts f => some f.h
  | .mtsb f => some f.h
  | .mtsc f => some f.h
  | .ecall f => some f.h
  | .ebreak f => some f.h
  | .eret f => some f.h
  | .wfi f => some f.h
  | .fenceI f => some f.h
  | .retire f => some f.h
  | .yield f => some f.h
  | .fenceC f => some f.h
  | .fenceK f => some f.h
  | .fenceD f => some f.h
  | .fenceP f => some f.h
  | .fenceY f => some f.h
  | .fenceW f => some f.h
  | .sync f => some f.h
  | .work f => some f.h
  | .done f => some f.h
  | .idemb f => some f.h
  | .ideme f => some f.h
  | .tlbinv f => some f.h
  | .empty f => some f.h
  | .bwake f => some f.h
  | .freeze f => some f.h
  | .itemq f => some f.h
  | .tqry f => some f.h
  | .scfg f => some f.h
  | .scfgi f => some f.h
  | .ssave f => some f.h
  | .srest f => some f.h
  | .sseek f => some f.h
  | .sbind f => some f.h
  | .sunbind f => some f.h
  | .sstat f => some f.h
  | .rep f => some f.h
  | .vadd f => some f.h
  | .vsub f => some f.h
  | .vmul f => some f.h
  | .vmin f => some f.h
  | .vmax f => some f.h
  | .vand f => some f.h
  | .vor f => some f.h
  | .vxor f => some f.h
  | .vandn f => some f.h
  | .vshl f => some f.h
  | .vshr f => some f.h
  | .vsra f => some f.h
  | .vfma f => some f.h
  | .vfms f => some f.h
  | .vneg f => some f.h
  | .vabs f => some f.h
  | .vrcpe f => some f.h
  | .vrsqe f => some f.h
  | .vcompress f => some f.h
  | .vexpand f => some f.h
  | .vmov f => some f.h
  | .vti f => some f.h
  | .vtload f => some f.h
  | .vcvt f => some f.h
  | .vcmp f => some f.h
  | .vsel f => some f.h
  | .vdot4 f => some f.h
  | .vshuf f => some f.h
  | .vperm f => some f.h
  | .vredAdd f => some f.h
  | .vredMax f => some f.h
  | .vredoAdd f => some f.h
  | .vbcast f => some f.h
  | .vext f => some f.h
  | .vins f => some f.h
  | .viota f => some f.h
  | .vpopc f => some f.h
  | .ldl f => some f.h
  | .ldc f => some f.h
  | .ldg f => some f.h
  | .ldaq f => some f.h
  | .ldlf f => some f.h
  | .ldlt f => some f.h
  | .stl f => some f.h
  | .stc f => some f.h
  | .stg f => some f.h
  | .strl f => some f.h
  | .stlf f => some f.h
  | .vldl f => some f.h
  | .vldg f => some f.h
  | .vgathl f => some f.h
  | .vstl f => some f.h
  | .vstg f => some f.h
  | .vscatl f => some f.h
  | .balloc f => some f.h
  | .prefg f => some f.h
  | .amol f => some f.h
  | .amog f => some f.h
  | .faddx f => some f.h
  | .rdx f => some f.h
  | .clrx f => some f.h
  | .cpy f => some f.h
  | .cpym f => some f.h
  | .cpyc f => some f.h
  | .cpyf f => some f.h
  | .fwait f => some f.h
  | .ftest f => some f.h
  | .fexp f => some f.h
  | .fcancel f => some f.h
  | .fimp f => some f.h
  | .tslot f => some f.h
  | .tzero f => some f.h
  | .tldacc f => some f.h
  | .tmma f => some f.h
  | .tmmas f => some f.h
  | .tdrain f => some f.h
  | .tdraint f => some f.h
  | .enqres f => some f.h
  | .dcdec f => some f.h
  | .taskdepReg f => some f.h
  | .taskdepUnreg f => some f.h
  | .enq f => some f.h
  | .dcadd f => some f.h
  | .xinbox f => some f.h
  | .enqpub f => some f.h
  | .taskdep f => some f.h
  | .dcnew f => some f.h
  | .gather f => some f.h
  | .scatadd f => some f.h
  | .deq f => some f.h
  | .xsend f => some f.h
  | .xrecv f => some f.h
  | _ => none

/-- The LA-capable forms of R113. -/
def Instr.laCapable : Instr → Bool
  | .mul _ => true
  | .mulh _ => true
  | .mulhn _ => true
  | .div _ => true
  | .divn _ => true
  | .rem _ => true
  | .remn _ => true
  | .fsqrt _ => true
  | .frsqe _ => true
  | .frcpe _ => true
  | .fadd _ => true
  | .fsub _ => true
  | .fmul _ => true
  | .fdiv _ => true
  | .ffma _ => true
  | .fcvt _ => true
  | .vadd _ => true
  | .vsub _ => true
  | .vmul _ => true
  | .vmin _ => true
  | .vmax _ => true
  | .vshl _ => true
  | .vshr _ => true
  | .vsra _ => true
  | .vfma _ => true
  | .vfms _ => true
  | .vneg _ => true
  | .vabs _ => true
  | .vrcpe _ => true
  | .vrsqe _ => true
  | .vcompress _ => true
  | .vexpand _ => true
  | .vti _ => true
  | .vtload _ => true
  | .vcvt _ => true
  | .vcmp _ => true
  | .vsel _ => true
  | .vdot4 _ => true
  | .vshuf _ => true
  | .vperm _ => true
  | .vredAdd _ => true
  | .vredMax _ => true
  | .vredoAdd _ => true
  | .vext _ => true
  | .vins _ => true
  | .viota _ => true
  | .vpopc _ => true
  | .ldl _ => true
  | .ldc _ => true
  | .ldg _ => true
  | .ldaq _ => true
  | .ldlf _ => true
  | .ldlt _ => true
  | .vldl _ => true
  | .vldg _ => true
  | .vgathl _ => true
  | .amol _ => true
  | .amog _ => true
  | .rdx _ => true
  | _ => false

/-- The row is an instruction that a slot encodes, not an event. -/
def Instr.isCode (i : Instr) : Bool := i == .nop || i.hdr?.isSome

/-- The operand fields are ones that the encoding admits. -/
def Instr.operandsOk : Instr → Bool
  | .nop => true
  | .add f => f.a.okG && f.b.ok
  | .sub f => f.a.okG && f.b.ok
  | .mul f => f.a.okG && f.b.ok
  | .mulh f => f.a.okG && f.b.ok
  | .mulhn f => f.a.okG && f.b.ok
  | .div f => f.a.okG && f.b.ok
  | .divn f => f.a.okG && f.b.ok
  | .rem f => f.a.okG && f.b.ok
  | .remn f => f.a.okG && f.b.ok
  | .and f => f.a.okG && f.b.ok
  | .or f => f.a.okG && f.b.ok
  | .xor f => f.a.okG && f.b.ok
  | .andn f => f.a.okG && f.b.ok
  | .orn f => f.a.okG && f.b.ok
  | .shl f => f.a.okG && f.b.ok
  | .shr f => f.a.okG && f.b.ok
  | .sra f => f.a.okG && f.b.ok
  | .rol f => f.a.okG && f.b.ok
  | .ror f => f.a.okG && f.b.ok
  | .bext f => f.a.okG && f.b.ok
  | .min f => f.a.okG && f.b.ok
  | .max f => f.a.okG && f.b.ok
  | .minn f => f.a.okG && f.b.ok
  | .maxn f => f.a.okG && f.b.ok
  | .seq f => f.a.okG && f.b.ok
  | .sne f => f.a.okG && f.b.ok
  | .slt f => f.a.okG && f.b.ok
  | .sltn f => f.a.okG && f.b.ok
  | .sle f => f.a.okG && f.b.ok
  | .slen f => f.a.okG && f.b.ok
  | .bins f => f.a.okG && f.b.ok && f.c.okG
  | .sel f => f.a.okG && f.b.ok && f.c.okG
  | .clz f => f.a.okG
  | .ctz f => f.a.okG
  | .popc f => f.a.okG
  | .bswap f => f.a.okG
  | .abs f => f.a.okG
  | .mov f => f.a.okG
  | .fsqrt f => f.a.okG
  | .frsqe f => f.a.okG
  | .frcpe f => f.a.okG
  | .fclass f => f.a.okG
  | .fabs f => f.a.okG
  | .fneg f => f.a.okG
  | .pnot f => dstP f.rd && f.a.okP
  | .pset f => dstP f.rd && f.a.okG
  | .pget f => f.a.okP
  | .callr f => f.a.okG
  | .ptsync f => f.a.okG
  | .logreplay f => f.a.okG
  | .strandkill f => f.a.okG
  | .syncX f => f.a.okG
  | .voteAnd f => f.a.okG
  | .voteOr f => f.a.okG
  | .voteAdd f => f.a.okG
  | .voteMax f => f.a.okG
  | .li _ => true
  | .lea f => f.ad.okG
  | .fadd f => f.a.okG && f.b.okG
  | .fsub f => f.a.okG && f.b.okG
  | .fmul f => f.a.okG && f.b.okG
  | .fdiv f => f.a.okG && f.b.okG
  | .fmin f => f.a.okG && f.b.okG
  | .fmax f => f.a.okG && f.b.okG
  | .pand f => dstP f.rd && f.a.okP && f.b.okP
  | .por f => dstP f.rd && f.a.okP && f.b.okP
  | .pxor f => dstP f.rd && f.a.okP && f.b.okP
  | .ipi f => f.a.okG && f.b.okG
  | .ctxsave f => f.a.okG && f.b.okG
  | .ctxload f => f.a.okG && f.b.okG
  | .preemptHalt f => f.a.okG && f.b.okG
  | .bfree f => f.a.okG && f.b.okG
  | .ffma f => f.a.okG && f.b.okG && f.c.okG
  | .strandnew f => f.a.okG && f.b.okG && f.c.okG
  | .fcmp f => ccFloat f.cc && f.a.okG && f.b.okG
  | .pcmp f => ccInt f.cc && dstP f.rd && f.a.okG && f.b.okG
  | .fcvt f => fmtConv f.dst && fmtConv f.src && !rndReserved f.rnd && f.a.okG
  | .br f => f.off.ok
  | .call f => f.off.ok
  | .brp f => f.a.okP && f.off.ok
  | .brz f => f.a.okG && f.off.ok
  | .brnz f => f.a.okG && f.off.ok
  | .loop f => !f.a.mark && f.off.ok
  | .beq f => f.a.okG && f.b.okG && f.off.ok
  | .bne f => f.a.okG && f.b.okG && f.off.ok
  | .blt f => f.a.okG && f.b.okG && f.off.ok
  | .loopi f => f.off.ok
  | .jmpr f => f.a.okG
  | .ret f => f.a.okG
  | .mfs f => sysregListed f.sr
  | .mts f => sysregListed f.sr && f.a.okG
  | .mtsb f => sysregListed f.sr && f.a.okG
  | .mtsc f => sysregListed f.sr && f.a.okG
  | .ecall _ => true
  | .ebreak _ => true
  | .eret _ => true
  | .wfi _ => true
  | .fenceI _ => true
  | .retire _ => true
  | .yield _ => true
  | .fenceC _ => true
  | .fenceK _ => true
  | .fenceD _ => true
  | .fenceP _ => true
  | .fenceY _ => true
  | .fenceW _ => true
  | .sync _ => true
  | .work f => f.h.gd == 0
  | .done f => f.h.gd == 0
  | .idemb f => f.h.gd == 0
  | .ideme f => f.h.gd == 0
  | .tlbinv f => f.a.okG && f.b.okG
  | .empty f => f.a.okG && f.b.okG
  | .bwake f => f.a.okG && f.b.okG
  | .freeze f => !f.a.mark && !f.b.mark && f.off.ok
  | .itemq f => decide (f.sel.toNat < 6)
  | .tqry f => decide (f.sel.toNat < 2)
  | .scfg f => f.a.okG
  | .scfgi f => f.a.okG
  | .ssave f => f.a.okG
  | .srest f => f.a.okG
  | .sseek f => f.a.okG
  | .sbind _ => true
  | .sunbind _ => true
  | .sstat _ => true
  | .rep f => f.len != 0 && decide (f.len.toNat ≤ 10)
  | .vadd f => fmtFI f.fmt
  | .vsub f => fmtFI f.fmt
  | .vmul f => fmtFI f.fmt
  | .vmin f => fmtFI f.fmt
  | .vmax f => fmtFI f.fmt
  | .vand f => fmtI f.fmt
  | .vor f => fmtI f.fmt
  | .vxor f => fmtI f.fmt
  | .vandn f => fmtI f.fmt
  | .vshl f => fmtI f.fmt
  | .vshr f => fmtI f.fmt
  | .vsra f => fmtI f.fmt
  | .vfma f => fmtF f.fmt
  | .vfms f => fmtF f.fmt
  | .vneg f => fmtFS f.fmt
  | .vabs f => fmtFS f.fmt
  | .vrcpe f => fmtF f.fmt
  | .vrsqe f => fmtF f.fmt
  | .vcompress f => fmtM f.fmt
  | .vexpand f => fmtM f.fmt
  | .vmov f => fmtM f.fmt
  | .vti f => fmtF f.fmt
  | .vtload f => f.a.okG
  | .vcvt f => fmtConv f.dst && fmtConv f.src && !rndReserved f.rnd && decide (f.part.toNat < partCount f.dst f.src)
  | .vcmp f => fmtFI f.fmt && (if fmtF f.fmt then ccFloat f.cc else ccInt f.cc) && dstP f.rd
  | .vsel f => fmtM f.fmt && f.c.okP
  | .vdot4 f => fmtByte f.fmt
  | .vshuf f => fmtM f.fmt
  | .vperm f => fmtM f.fmt
  | .vredAdd f => fmtFI f.fmt && (match f.pm with | none => true | some p => p.okP)
  | .vredMax f => fmtFI f.fmt && (match f.pm with | none => true | some p => p.okP)
  | .vredoAdd f => fmtF f.fmt && (match f.pm with | none => true | some p => p.okP)
  | .vbcast f => fmtM f.fmt && (match f.s with | .reg r => r.okG | .lit _ => true)
  | .vext f => fmtM f.fmt && f.i.okG
  | .vins f => fmtM f.fmt && f.s.okG && f.i.okG
  | .viota f => fmtI f.fmt
  | .vpopc f => fmtI f.fmt
  | .ldl f => !(f.z && f.size == 3) && f.ad.okG
  | .ldc f => !(f.z && f.size == 3) && f.ad.okG
  | .ldg f => !(f.z && f.size == 3) && f.ad.okG
  | .ldaq f => !(f.z && f.size == 3) && f.ad.okG
  | .ldlf f => !(f.z && f.size == 3) && f.ad.okG
  | .ldlt f => !(f.z && f.size == 3) && f.ad.okG
  | .stl f => f.src.okG && f.ad.okG
  | .stc f => f.src.okG && f.ad.okG
  | .stg f => f.src.okG && f.ad.okG
  | .strl f => f.src.okG && f.ad.okG
  | .stlf f => f.src.okG && f.ad.okG
  | .vldl f => fmtM f.fmt && !f.r.mark && f.ad.okG
  | .vldg f => fmtM f.fmt && !f.r.mark && f.ad.okG
  | .vgathl f => fmtM f.fmt && !f.r.mark && f.ad.base.okG
  | .vstl f => fmtM f.fmt && f.ad.okG
  | .vstg f => fmtM f.fmt && f.ad.okG
  | .vscatl f => fmtM f.fmt && f.ad.base.okG
  | .balloc f => f.a.okG && f.b.okG && decide (f.stripe.toNat ≤ 5)
  | .prefg f => f.ad.okG
  | .amol f => decide (f.op.toNat ≤ 9) && f.base.okG && f.v.okG
  | .amog f => decide (f.op.toNat ≤ 9) && f.base.okG && f.v.okG
  | .faddx f => f.src.okG && f.ad.okG
  | .rdx f => f.ad.okG
  | .clrx f => f.ad.okG
  | .cpy f => f.dst.okG && f.src.okG && f.len.okG && f.dev.okG && !(f.dsp == 3 && f.ssp == 3)
  | .cpym f => f.off.okG && f.src.okG && f.len.okG && f.cmask != 0 && f.ssp != 3
  | .cpyc f => f.row.okG && f.src.okG && f.rows.okG && f.stride.okG && cpycFmt f.fmt && !rndReserved f.rnd && f.ssp != 3 && (f.fmt != 13 || (f.src == noReg && f.stride == noReg))
  | .cpyf f => f.dst.okG && f.val.okG && f.len.okG && f.dsp != 3
  | .fwait _ => true
  | .ftest f => dstP f.rd
  | .fexp _ => true
  | .fcancel _ => true
  | .fimp f => f.a.okG
  | .tslot f => f.a.okG
  | .tzero _ => true
  | .tldacc f => f.a.okG
  | .tmma f => f.k0.okG && f.klen.okG && f.v.okG
  | .tmmas f => f.k0.okG && f.klen.okG && f.v.okG
  | .tdrain f => f.v.okG && f.tsT == 0
  | .tdraint f => f.v.okG
  | .enqres f => f.a.okG
  | .dcdec f => f.a.okG
  | .taskdepReg f => f.a.okG
  | .taskdepUnreg f => f.a.okG
  | .enq f => f.a.okG && f.b.okG
  | .dcadd f => f.a.okG && f.b.okG
  | .xinbox f => f.a.okG && f.b.okG
  | .enqpub f => f.a.okG && f.b.okG && f.c.okG
  | .taskdep f => f.a.okG && f.b.okG && f.c.okG
  | .dcnew f => f.a.okG && f.b.okG && f.c.okG && f.d.okG
  | .gather f => f.a.okG && f.b.okG && f.c.okG && f.d.okG
  | .scatadd f => f.a.okG && f.b.okG && f.c.okG && f.d.okG
  | .deq f => f.q.okG && f.dst.okG
  | .xsend f => f.bit.okG && f.src.okG && f.len.okG
  | .xrecv f => f.dst.okG
  | _ => false

/-- A well-formed instruction: a row that a slot encodes, with admissible fields, and LA = 0 unless the form is LA-capable (R105). -/
def Instr.wf (i : Instr) : Bool :=
  i.operandsOk && (i.laCapable || (match i.hdr? with | some h => h.la == 0 | none => true))

end Sys2Proof
end

