-- ==== Sys2Proof/Decode.lean ====
section
/-! DEFINITION. The decoder and the encoder of the 96-bit slots: the formats of R94 to R100, the specifiers of
R101 and R102, the fates of R110, the fault values of R112, and the opcode map of R113. -/

namespace Sys2Proof

/-- Why a slot content is no instruction (R110), with the TVAL of R112. -/
inductive DecodeError where
  /-- ILLEGAL_OP -/
  | illegal (tval : Word)
  /-- RESERVED_FIELD -/
  | reserved (tval : Word)
deriving DecidableEq, Repr

/-- What the decoder answers: the instruction, or the encoding fault. -/
abbrev Decoded := Except DecodeError Instr

/-! ### The fields of the formats -/

/-- Format A (R95). -/
structure FmtA where
  op : BitVec 8
  la : BitVec 4
  gd : BitVec 4
  fn : BitVec 12
  rd : BitVec 8
  r1 : BitVec 8
  r2 : BitVec 8
  r3 : BitVec 8
  rsv : BitVec 4
  imm : BitVec 32
deriving DecidableEq, Repr

/-- Format W (R96). -/
structure FmtW where
  op : BitVec 8
  la : BitVec 4
  gd : BitVec 4
  fn : BitVec 4
  rd : BitVec 8
  rsv : BitVec 4
  imm : BitVec 64
deriving DecidableEq, Repr

/-- Format B, register layout (R97). -/
structure FmtB where
  op : BitVec 8
  la : BitVec 4
  gd : BitVec 4
  fn : BitVec 4
  r1 : BitVec 8
  r2 : BitVec 8
  aux : BitVec 20
  line : BitVec 37
  slot : BitVec 3
deriving DecidableEq, Repr

/-- Format B, immediate layout (R97). -/
structure FmtL where
  op : BitVec 8
  la : BitVec 4
  gd : BitVec 4
  fn : BitVec 4
  imm : BitVec 32
  rsv : BitVec 4
  line : BitVec 37
  slot : BitVec 3
deriving DecidableEq, Repr

/-- Format M (R98). -/
structure FmtM where
  op : BitVec 8
  la : BitVec 4
  gd : BitVec 4
  fn : BitVec 8
  rd : BitVec 8
  base : BitVec 8
  index : BitVec 8
  scale : BitVec 3
  size : BitVec 3
  rsv : BitVec 2
  disp : BitVec 40
deriving DecidableEq, Repr

/-- Format E (R99). -/
structure FmtE where
  op : BitVec 8
  la : BitVec 4
  gd : BitVec 4
  fn : BitVec 8
  hd : BitVec 8
  a : BitVec 8
  b : BitVec 8
  c : BitVec 8
  d : BitVec 8
  imm : BitVec 32
deriving DecidableEq, Repr

def FmtA.of (w : SlotBits) : FmtA :=
  ⟨field w 88 8, field w 84 4, field w 80 4, field w 68 12, field w 60 8, field w 52 8, field w 44 8, field w 36 8,
    field w 32 4, field w 0 32⟩
def FmtW.of (w : SlotBits) : FmtW :=
  ⟨field w 88 8, field w 84 4, field w 80 4, field w 76 4, field w 68 8, field w 64 4, field w 0 64⟩
def FmtB.of (w : SlotBits) : FmtB :=
  ⟨field w 88 8, field w 84 4, field w 80 4, field w 76 4, field w 68 8, field w 60 8, field w 40 20, field w 3 37,
    field w 0 3⟩
def FmtL.of (w : SlotBits) : FmtL :=
  ⟨field w 88 8, field w 84 4, field w 80 4, field w 76 4, field w 44 32, field w 40 4, field w 3 37, field w 0 3⟩
def FmtM.of (w : SlotBits) : FmtM :=
  ⟨field w 88 8, field w 84 4, field w 80 4, field w 72 8, field w 64 8, field w 56 8, field w 48 8, field w 45 3,
    field w 42 3, field w 40 2, field w 0 40⟩
def FmtE.of (w : SlotBits) : FmtE :=
  ⟨field w 88 8, field w 84 4, field w 80 4, field w 72 8, field w 64 8, field w 56 8, field w 48 8, field w 40 8,
    field w 32 8, field w 0 32⟩

def FmtA.bits (f : FmtA) : SlotBits :=
  f.op ++ f.la ++ f.gd ++ f.fn ++ f.rd ++ f.r1 ++ f.r2 ++ f.r3 ++ f.rsv ++ f.imm
def FmtW.bits (f : FmtW) : SlotBits := f.op ++ f.la ++ f.gd ++ f.fn ++ f.rd ++ f.rsv ++ f.imm
def FmtB.bits (f : FmtB) : SlotBits := f.op ++ f.la ++ f.gd ++ f.fn ++ f.r1 ++ f.r2 ++ f.aux ++ f.line ++ f.slot
def FmtL.bits (f : FmtL) : SlotBits := f.op ++ f.la ++ f.gd ++ f.fn ++ f.imm ++ f.rsv ++ f.line ++ f.slot
def FmtM.bits (f : FmtM) : SlotBits :=
  f.op ++ f.la ++ f.gd ++ f.fn ++ f.rd ++ f.base ++ f.index ++ f.scale ++ f.size ++ f.rsv ++ f.disp
def FmtE.bits (f : FmtE) : SlotBits := f.op ++ f.la ++ f.gd ++ f.fn ++ f.hd ++ f.a ++ f.b ++ f.c ++ f.d ++ f.imm

/-! ### Specifiers and their offending bits -/

/-- The CLASS code of R101. -/
def Cls.code : Cls → BitVec 2
  | .g => 0
  | .v => 1
  | .p => 2
  | .x => 3

/-- Specifier of a source register. -/
def specOf (c : Cls) (r : Reg) : BitVec 8 := c.code ++ r.n ++ BitVec.ofBool r.mark
/-- Specifier of a destination register. -/
def dstOf (c : Cls) (n : BitVec 5) : BitVec 8 := c.code ++ n ++ (0 : BitVec 1)
/-- Specifier of handle `h` (class 11, NUMBER 0 to 7). -/
def handleSpec (h : BitVec 3) : BitVec 8 := dstOf .x (0#2 ++ h)
/-- Specifier of accumulator `k` (class 11, NUMBER 8 to 15). -/
def accSpec (k : BitVec 3) : BitVec 8 := dstOf .x (1#2 ++ k)
/-- Specifier of stream `k` (class 11, NUMBER 16 to 19). -/
def streamSpec (k : BitVec 2) : BitVec 8 := dstOf .x (4#3 ++ k)

def specNum (s : BitVec 8) : BitVec 5 := field s 1 5
def specMark (s : BitVec 8) : Bool := s.getLsbD 0
def specCls (s : BitVec 8) : BitVec 2 := field s 6 2
def regOf (s : BitVec 8) : Reg := ⟨specNum s, specMark s⟩

/-- The bits of one field that offend; none when it is fine. -/
abbrev Offence := Option Nat

/-- A field whose value is not allowed offends at its lowest bit (R112). -/
def badAt (lo : Nat) (bad : Bool) : Offence := if bad then some lo else none

/-- NUMBER out of range for the CLASS it stands with (R101). -/
def numberBad (s : BitVec 8) : Bool :=
  (specCls s == 2 && decide (7 < (specNum s).toNat)) || (specCls s == 3 && decide (19 < (specNum s).toNat))

/-- MARK where it is forbidden in a source position: on g0, p0 or class 11 (R102). -/
def markBad (s : BitVec 8) : Bool :=
  specMark s && (specCls s == 3 || ((specCls s == 0 || specCls s == 2) && specNum s == 0))

/-- The offences of a source specifier of class `c` (R102, R112). -/
def srcOff (c : Cls) (lo : Nat) (s : BitVec 8) : List Offence :=
  [badAt lo (markBad s), badAt (lo + 1) (numberBad s), badAt (lo + 6) (specCls s != c.code)]

/-- The offences of a destination specifier of class `c` (R102, R112). -/
def dstOff (c : Cls) (lo : Nat) (s : BitVec 8) : List Offence :=
  [badAt lo (specMark s), badAt (lo + 1) (numberBad s), badAt (lo + 6) (specCls s != c.code)]

/-- A special specifier that names another kind than the position's (handles 0 to 7, accumulators 8 to 15, streams 16 to
19): it offends as a class that is not allowed (DEDUCED, log 8). -/
def kindBad (first count : Nat) (s : BitVec 8) : Bool :=
  specCls s != 3 || (decide ((specNum s).toNat ≤ 19) &&
    !(decide (first ≤ (specNum s).toNat) && decide ((specNum s).toNat < first + count)))

/-- A special specifier read as a source: an accumulator, or the handle of `fwait`. -/
def specialSrc (lo first count : Nat) (s : BitVec 8) : List Offence :=
  [badAt lo (markBad s), badAt (lo + 1) (numberBad s), badAt (lo + 6) (kindBad first count s)]
/-- A special specifier that is a destination or a name: a handle destination, or a stream. -/
def specialDst (lo first count : Nat) (s : BitVec 8) : List Offence :=
  [badAt lo (specMark s), badAt (lo + 1) (numberBad s), badAt (lo + 6) (kindBad first count s)]

def handleSrc (lo : Nat) (s : BitVec 8) : List Offence := specialSrc lo 0 8 s
def handleDst (lo : Nat) (s : BitVec 8) : List Offence := specialDst lo 0 8 s
def accOff (lo : Nat) (s : BitVec 8) : List Offence := specialSrc lo 8 8 s
def streamOff (lo : Nat) (s : BitVec 8) : List Offence := specialDst lo 16 4 s

/-- A name of a counted register (the count of `loop`, `rep`, the operands of `freeze`): MARK = 1 offends too. -/
def plainOff (lo : Nat) (s : BitVec 8) : List Offence := dstOff .g lo s

/-- LA on a form that is LA-capable (`la`) or not (R105). -/
def laOff (la : Bool) (v : BitVec 4) : Offence := if la then none else lowestSet 84 v

/-- The lowest offending bit. -/
def lowestOffence (os : List Offence) : Option Nat := minOf (os.filterMap id)

/-- RESERVED_FIELD at the lowest offending bit of the own slot, else of the literal slot, else the instruction. -/
def finish2 (own literal : List Offence) (i : Instr) : Decoded :=
  match lowestOffence own with
  | some n => .error (.reserved (word n))
  | none => match lowestOffence literal with
    | some n => .error (.reserved (word (n + 128)))
    | none => .ok i

def finish (own : List Offence) (i : Instr) : Decoded := finish2 own [] i

/-- ILLEGAL_OP with OP and FN (R112). -/
def illegalOp (op : BitVec 8) (fn : Nat) : Decoded := .error (.illegal (word (op.toNat + 256 * fn)))

def FmtA.hdr (f : FmtA) : Hdr := ⟨f.la, f.gd⟩
def FmtW.hdr (f : FmtW) : Hdr := ⟨f.la, f.gd⟩
def FmtB.hdr (f : FmtB) : Hdr := ⟨f.la, f.gd⟩
def FmtL.hdr (f : FmtL) : Hdr := ⟨f.la, f.gd⟩
def FmtM.hdr (f : FmtM) : Hdr := ⟨f.la, f.gd⟩
def FmtE.hdr (f : FmtE) : Hdr := ⟨f.la, f.gd⟩

/-- ILLEGAL_OP of a Format A opcode. An opcode that the map does not list has no format, and R112 does not say where its FN stands: it is
read as in Format A, from bits [79:68] (DESIGN CHOICE, log 70). -/
def FmtA.ill (f : FmtA) : Decoded := illegalOp f.op f.fn.toNat
def FmtW.ill (f : FmtW) : Decoded := illegalOp f.op f.fn.toNat
def FmtB.ill (f : FmtB) : Decoded := illegalOp f.op f.fn.toNat
def FmtM.ill (f : FmtM) : Decoded := illegalOp f.op f.fn.toNat
def FmtE.ill (f : FmtE) : Decoded := illegalOp f.op f.fn.toNat

/-- What every Format A form checks: LA, and the reserved bits [35:32]. -/
def FmtA.com (f : FmtA) (la : Bool) : List Offence := [laOff la f.la, lowestSet 32 f.rsv]
def FmtA.no2 (f : FmtA) : Offence := lowestSet 44 f.r2
def FmtA.no3 (f : FmtA) : Offence := lowestSet 36 f.r3
def FmtA.noRd (f : FmtA) : Offence := lowestSet 60 f.rd
def FmtA.no1 (f : FmtA) : Offence := lowestSet 52 f.r1
def FmtA.noImm (f : FmtA) : Offence := lowestSet 0 f.imm
/-- IMM32 above its `n` low bits is reserved. -/
def immAbove (n : Nat) (imm : BitVec 32) : Offence := lowestSet n (field imm n (32 - n))

/-! ### Format A: scalar -/

def FmtA.two (f : FmtA) (lit : SlotBits) (la : Bool) (third : List Offence) (mk : Opnd → Instr) : Decoded :=
  let c := f.com la ++ dstOff .g 60 f.rd ++ srcOff .g 52 f.r1 ++ third
  if f.fn = 0x000 then finish (c ++ [f.noImm] ++ srcOff .g 44 f.r2) (mk (.reg (regOf f.r2)))
  else if f.fn = 0x001 then finish (c ++ [f.no2]) (mk (.imm f.imm))
  else if f.fn = 0x801 then
    finish2 (c ++ [f.no2, f.noImm]) [lowestSet 64 (field lit 64 32)] (mk (.lit (field lit 0 64)))
  else f.ill

def dIntBin (f : FmtA) (lit : SlotBits) (la : Bool) (mk : IntBin → Instr) : Decoded :=
  f.two lit la [f.no3] fun b => mk ⟨f.hdr, specNum f.rd, regOf f.r1, b⟩
def dIntTri (f : FmtA) (lit : SlotBits) (mk : IntTri → Instr) : Decoded :=
  f.two lit false (srcOff .g 36 f.r3) fun b => mk ⟨f.hdr, specNum f.rd, regOf f.r1, b, regOf f.r3⟩

/-- FN 0x000, destination of class `cd`, one source of class `cs`. -/
def dUn (f : FmtA) (la : Bool) (cd cs : Cls) (mk : Un → Instr) : Decoded :=
  if f.fn = 0 then
    finish (f.com la ++ [f.no2, f.no3, f.noImm] ++ dstOff cd 60 f.rd ++ srcOff cs 52 f.r1) (mk ⟨f.hdr, specNum f.rd, regOf f.r1⟩)
  else f.ill
def dBin (f : FmtA) (la : Bool) (cd cs : Cls) (mk : Bin → Instr) : Decoded :=
  if f.fn = 0 then
    finish (f.com la ++ [f.no3, f.noImm] ++ dstOff cd 60 f.rd ++ srcOff cs 52 f.r1 ++ srcOff cs 44 f.r2)
      (mk ⟨f.hdr, specNum f.rd, regOf f.r1, regOf f.r2⟩)
  else f.ill
def dTri (f : FmtA) (la : Bool) (mk : Tri → Instr) : Decoded :=
  if f.fn = 0 then
    finish (f.com la ++ [f.noImm] ++ dstOff .g 60 f.rd ++ srcOff .g 52 f.r1 ++ srcOff .g 44 f.r2 ++ srcOff .g 36 f.r3)
      (mk ⟨f.hdr, specNum f.rd, regOf f.r1, regOf f.r2, regOf f.r3⟩)
  else f.ill

def dFcmp (f : FmtA) : Decoded :=
  if field f.fn 4 8 = 0 ∧ ccFloat (field f.fn 0 4) then
    finish (f.com false ++ [f.no3, f.noImm] ++ dstOff .g 60 f.rd ++ srcOff .g 52 f.r1 ++ srcOff .g 44 f.r2)
      (.fcmp ⟨f.hdr, field f.fn 0 4, specNum f.rd, regOf f.r1, regOf f.r2⟩)
  else f.ill
def dPcmp (f : FmtA) : Decoded :=
  if field f.fn 5 7 = 0 ∧ ccInt (field f.fn 0 4) then
    let c := f.com false ++ [f.no3] ++ dstOff .p 60 f.rd ++ srcOff .g 52 f.r1
    if f.fn.getLsbD 4 then finish (c ++ [f.no2]) (.pcmp ⟨f.hdr, field f.fn 0 4, specNum f.rd, regOf f.r1, .imm f.imm⟩)
    else finish (c ++ [f.noImm] ++ srcOff .g 44 f.r2)
      (.pcmp ⟨f.hdr, field f.fn 0 4, specNum f.rd, regOf f.r1, .reg (regOf f.r2)⟩)
  else f.ill

/-- Format codes 0xE and 0xF are reserved wherever they stand (R50). -/
def fmtReserved (c : BitVec 4) : Bool := c == 14 || c == 15
def dFcvt (f : FmtA) : Decoded :=
  let dst := field f.fn 8 4
  let src := field f.fn 4 4
  if (fmtConv dst || fmtReserved dst) ∧ (fmtConv src || fmtReserved src) then
    finish (f.com true ++ [f.no2, f.no3, f.noImm, badAt 76 (fmtReserved dst), badAt 72 (fmtReserved src),
        badAt 71 (f.fn.getLsbD 3), badAt 68 (rndReserved (field f.fn 0 3))] ++ dstOff .g 60 f.rd ++ srcOff .g 52 f.r1)
      (.fcvt ⟨f.hdr, dst, src, field f.fn 0 3, specNum f.rd, regOf f.r1⟩)
  else f.ill

def dJumpReg (f : FmtA) (mk : JumpReg → Instr) : Decoded :=
  finish (f.com false ++ [f.noRd, f.no2, f.no3, f.noImm] ++ srcOff .g 52 f.r1) (mk ⟨f.hdr, regOf f.r1⟩)

/-- The check of a system register number: an unlisted one is ILLEGAL_OP with the number in TVAL[31:20] (R149). -/
def FmtA.sys (f : FmtA) (k : BitVec 12 → Decoded) : Decoded :=
  let n := field f.imm 0 12
  if sysregListed n then k n else .error (.illegal (word (f.op.toNat + 256 * f.fn.toNat + 0x100000 * n.toNat)))

def dMfs (f : FmtA) : Decoded := f.sys fun n =>
  finish (f.com false ++ [f.no1, f.no2, f.no3, immAbove 12 f.imm] ++ dstOff .g 60 f.rd) (.mfs ⟨f.hdr, specNum f.rd, n⟩)
def dMts (f : FmtA) : Decoded := f.sys fun n =>
  finish (f.com false ++ [f.noRd, f.no2, f.no3, immAbove 12 f.imm] ++ srcOff .g 52 f.r1) (.mts ⟨f.hdr, n, regOf f.r1⟩)
def dSysMod (f : FmtA) (mk : SysMod → Instr) : Decoded := f.sys fun n =>
  finish (f.com false ++ [f.no2, f.no3, immAbove 12 f.imm] ++ dstOff .g 60 f.rd ++ srcOff .g 52 f.r1)
    (mk ⟨f.hdr, specNum f.rd, n, regOf f.r1⟩)

def dService (f : FmtA) (mk : Service → Instr) : Decoded :=
  finish (f.com false ++ [f.noRd, f.no1, f.no2, f.no3]) (mk ⟨f.hdr, f.imm⟩)
/-- No operand at all. -/
def dPlain (f : FmtA) (mk : Plain → Instr) : Decoded :=
  finish (f.com false ++ [f.noRd, f.no1, f.no2, f.no3, f.noImm]) (mk ⟨f.hdr⟩)
def dPlain0 (f : FmtA) (mk : Plain → Instr) : Decoded := if f.fn = 0 then dPlain f mk else f.ill
/-- Every field other than OP (and FN) zero, the guard too (R338, R350; DEDUCED, log 9). -/
def dBare (f : FmtA) (mk : Plain → Instr) : Decoded :=
  finish (f.com false ++ [f.noRd, f.no1, f.no2, f.no3, f.noImm, lowestSet 80 f.gd]) (mk ⟨f.hdr⟩)
def dSrc2 (f : FmtA) (mk : Src2 → Instr) : Decoded :=
  if f.fn = 0 then
    finish (f.com false ++ [f.noRd, f.no3, f.noImm] ++ srcOff .g 52 f.r1 ++ srcOff .g 44 f.r2) (mk ⟨f.hdr, regOf f.r1, regOf f.r2⟩)
  else f.ill
/-- `strandkill`: RD and RS1. -/
def dQuery (f : FmtA) (bits lim : Nat) (mk : Query → Instr) : Decoded :=
  if f.fn = 0 then
    finish (f.com false ++ [f.no1, f.no2, f.no3, immAbove bits f.imm, badAt 0 (decide (lim ≤ natField f.imm 0 bits))]
        ++ dstOff .g 60 f.rd)
      (mk ⟨f.hdr, specNum f.rd, BitVec.ofNat 3 (natField f.imm 0 bits)⟩)
  else f.ill

/-! ### Streams and repetition -/

def streamNum (s : BitVec 8) : BitVec 2 := field s 1 2
/-- `scfg`, `scfgi`, `ssave`, `srest`, `sseek`: stream in RD, g register in RS1. -/
def dStreamReg (f : FmtA) (mk : StreamReg → Instr) : Decoded :=
  finish (f.com false ++ [f.no2, f.no3, f.noImm] ++ streamOff 60 f.rd ++ srcOff .g 52 f.r1)
    (mk ⟨f.hdr, streamNum f.rd, regOf f.r1⟩)
def dSbind (f : FmtA) : Decoded :=
  if f.fn = 0 then
    let k := streamNum f.rd
    finish (f.com false ++ [f.no2, f.no3, f.noImm] ++ streamOff 60 f.rd ++
        [badAt 52 (specMark f.r1), badAt 53 (decide ((specNum f.r1).toNat ≠ 24 + k.toNat)),
         badAt 58 (specCls f.r1 != 0 && specCls f.r1 != 1)])
      (.sbind ⟨f.hdr, k, specCls f.r1 == 1⟩)
  else f.ill
def dSunbind (f : FmtA) : Decoded :=
  if f.fn = 0 then finish (f.com false ++ [f.no1, f.no2, f.no3, f.noImm] ++ streamOff 60 f.rd) (.sunbind ⟨f.hdr, streamNum f.rd⟩)
  else f.ill
def dSstat (f : FmtA) : Decoded :=
  finish (f.com false ++ [f.no2, f.no3, f.noImm] ++ dstOff .g 60 f.rd ++ streamOff 52 f.r1)
    (.sstat ⟨f.hdr, specNum f.rd, streamNum f.r1⟩)
def dRep (f : FmtA) : Decoded :=
  if f.fn = 0 then
    let len := field f.imm 0 4
    finish (f.com false ++ [f.noRd, f.no2, f.no3, badAt 0 (len == 0 || decide (10 < len.toNat)), lowestSet 7 (field f.imm 7 1),
        immAbove 12 f.imm] ++ plainOff 52 f.r1)
      (.rep ⟨f.hdr, specNum f.r1, len, field f.imm 4 3, field f.imm 8 4⟩)
  else f.ill

/-! ### Vector -/

/-- The format code of a vector form: a code the form does not list is ILLEGAL_OP, but 0xE and 0xF are RESERVED_FIELD (R50, R172). -/
def FmtA.vfmt (f : FmtA) (ok : BitVec 4 → Bool) (k : BitVec 4 → Offence → Decoded) : Decoded :=
  let c := field f.fn 0 4
  if ok c || fmtReserved c then k c (badAt 68 (fmtReserved c)) else f.ill

/-- Operand b: a v register, or IMM32 by FN[4]; the other FN bits are zero. -/
def dVBin (f : FmtA) (la : Bool) (ok : BitVec 4 → Bool) (mk : VBin → Instr) : Decoded :=
  if field f.fn 5 7 = 0 then f.vfmt ok fun c o =>
    let cm := f.com la ++ [f.no3, o] ++ dstOff .v 60 f.rd ++ srcOff .v 52 f.r1
    if f.fn.getLsbD 4 then finish (cm ++ [f.no2]) (mk ⟨f.hdr, c, specNum f.rd, regOf f.r1, .imm f.imm⟩)
    else finish (cm ++ [f.noImm] ++ srcOff .v 44 f.r2) (mk ⟨f.hdr, c, specNum f.rd, regOf f.r1, .reg (regOf f.r2)⟩)
  else f.ill
def dVTri (f : FmtA) (mk : VTri → Instr) : Decoded :=
  if field f.fn 5 7 = 0 then f.vfmt fmtF fun c o =>
    let cm := f.com true ++ [o] ++ dstOff .v 60 f.rd ++ srcOff .v 52 f.r1 ++ srcOff .v 36 f.r3
    if f.fn.getLsbD 4 then finish (cm ++ [f.no2]) (mk ⟨f.hdr, c, specNum f.rd, regOf f.r1, .imm f.imm, regOf f.r3⟩)
    else finish (cm ++ [f.noImm] ++ srcOff .v 44 f.r2) (mk ⟨f.hdr, c, specNum f.rd, regOf f.r1, .reg (regOf f.r2), regOf f.r3⟩)
  else f.ill
/-- FN[11:4] zero. -/
def FmtA.vplain (f : FmtA) (ok : BitVec 4 → Bool) (k : BitVec 4 → Offence → Decoded) : Decoded :=
  if field f.fn 4 8 = 0 then f.vfmt ok k else f.ill
def dVUn (f : FmtA) (la : Bool) (ok : BitVec 4 → Bool) (mk : VUn → Instr) : Decoded := f.vplain ok fun c o =>
  finish (f.com la ++ [f.no2, f.no3, f.noImm, o] ++ dstOff .v 60 f.rd ++ srcOff .v 52 f.r1)
    (mk ⟨f.hdr, c, specNum f.rd, regOf f.r1⟩)
def dVti (f : FmtA) : Decoded := f.vplain fmtF fun c o =>
  finish (f.com true ++ [f.no2, f.no3, immAbove 2 f.imm, o] ++ dstOff .v 60 f.rd ++ srcOff .v 52 f.r1)
    (.vti ⟨f.hdr, c, specNum f.rd, regOf f.r1, field f.imm 0 2⟩)
def dVtload (f : FmtA) : Decoded := f.vplain (· == 0) fun _ o =>
  finish (f.com true ++ [f.noRd, f.no2, f.no3, immAbove 2 f.imm, o] ++ srcOff .g 52 f.r1)
    (.vtload ⟨f.hdr, field f.imm 0 2, regOf f.r1⟩)
def dVcvt (f : FmtA) : Decoded :=
  let dst := field f.fn 0 4
  let src := field f.fn 4 4
  if f.fn.getLsbD 11 = false ∧ (fmtConv dst || fmtReserved dst) ∧ (fmtConv src || fmtReserved src) then
    let part := field f.imm 0 2
    finish (f.com true ++ [f.no2, f.no3, immAbove 2 f.imm, badAt 68 (fmtReserved dst), badAt 72 (fmtReserved src),
        badAt 76 (rndReserved (field f.fn 8 3)),
        badAt 0 (!(fmtReserved dst || fmtReserved src) && decide (partCount dst src ≤ part.toNat))]
        ++ dstOff .v 60 f.rd ++ srcOff .v 52 f.r1)
      (.vcvt ⟨f.hdr, dst, src, field f.fn 8 3, part, specNum f.rd, regOf f.r1⟩)
  else f.ill
/-- Condition codes 12 to 15 are ILLEGAL_OP in both columns of R115, whatever the format code (R111 steps 3 and 4). -/
def dVcmp (f : FmtA) : Decoded :=
  let cc := field f.fn 4 4
  if field f.fn 8 4 = 0 then f.vfmt fmtFI fun c o =>
    if (if fmtReserved c then ccInt cc || ccFloat cc else if fmtF c then ccFloat cc else ccInt cc) then
      finish (f.com true ++ [f.no3, f.noImm, o] ++ dstOff .p 60 f.rd ++ srcOff .v 52 f.r1 ++ srcOff .v 44 f.r2)
        (.vcmp ⟨f.hdr, cc, c, specNum f.rd, regOf f.r1, regOf f.r2⟩)
    else f.ill
  else f.ill
def dVsel (f : FmtA) : Decoded := f.vplain fmtM fun c o =>
  finish (f.com true ++ [f.noImm, o] ++ dstOff .v 60 f.rd ++ srcOff .v 52 f.r1 ++ srcOff .v 44 f.r2 ++ srcOff .p 36 f.r3)
    (.vsel ⟨f.hdr, c, specNum f.rd, regOf f.r1, regOf f.r2, regOf f.r3⟩)
def dV2 (f : FmtA) (ok : BitVec 4 → Bool) (mk : V2 → Instr) : Decoded := f.vplain ok fun c o =>
  finish (f.com true ++ [f.no3, f.noImm, o] ++ dstOff .v 60 f.rd ++ srcOff .v 52 f.r1 ++ srcOff .v 44 f.r2)
    (mk ⟨f.hdr, c, specNum f.rd, regOf f.r1, regOf f.r2⟩)
def dV3 (f : FmtA) (ok : BitVec 4 → Bool) (mk : V3 → Instr) : Decoded := f.vplain ok fun c o =>
  finish (f.com true ++ [f.noImm, o] ++ dstOff .v 60 f.rd ++ srcOff .v 52 f.r1 ++ srcOff .v 44 f.r2 ++ srcOff .v 36 f.r3)
    (mk ⟨f.hdr, c, specNum f.rd, regOf f.r1, regOf f.r2, regOf f.r3⟩)
/-- RS2 = 0x00 means that no third operand is given (R187). -/
def dVRed (f : FmtA) (ok : BitVec 4 → Bool) (mk : VRed → Instr) : Decoded := f.vplain ok fun c o =>
  let cm := f.com true ++ [f.no3, f.noImm, o] ++ dstOff .g 60 f.rd ++ srcOff .v 52 f.r1
  if f.r2 = 0 then finish cm (mk ⟨f.hdr, c, specNum f.rd, regOf f.r1, none⟩)
  else finish (cm ++ srcOff .p 44 f.r2) (mk ⟨f.hdr, c, specNum f.rd, regOf f.r1, some (regOf f.r2)⟩)
def dVbcast (f : FmtA) (lit : SlotBits) : Decoded :=
  if field f.fn 4 7 = 0 then f.vfmt fmtM fun c o =>
    let cm := f.com false ++ [f.no2, f.no3, f.noImm, o] ++ dstOff .v 60 f.rd
    if f.fn.getLsbD 11 then
      finish2 (cm ++ [f.no1]) [lowestSet 64 (field lit 64 32)] (.vbcast ⟨f.hdr, c, specNum f.rd, .lit (field lit 0 64)⟩)
    else finish (cm ++ srcOff .g 52 f.r1) (.vbcast ⟨f.hdr, c, specNum f.rd, .reg (regOf f.r1)⟩)
  else f.ill
def dVext (f : FmtA) : Decoded :=
  if field f.fn 5 7 = 0 then f.vfmt fmtM fun c o =>
    let cm := f.com true ++ [f.no3, o] ++ dstOff .g 60 f.rd ++ srcOff .v 52 f.r1
    if f.fn.getLsbD 4 then finish (cm ++ [f.no2]) (.vext ⟨f.hdr, c, specNum f.rd, regOf f.r1, .imm f.imm⟩)
    else finish (cm ++ [f.noImm] ++ srcOff .g 44 f.r2) (.vext ⟨f.hdr, c, specNum f.rd, regOf f.r1, .reg (regOf f.r2)⟩)
  else f.ill
def dVins (f : FmtA) : Decoded :=
  if field f.fn 5 7 = 0 then f.vfmt fmtM fun c o =>
    let cm := f.com true ++ [o] ++ dstOff .v 60 f.rd ++ srcOff .v 52 f.r1 ++ srcOff .g 44 f.r2
    if f.fn.getLsbD 4 then finish (cm ++ [f.no3]) (.vins ⟨f.hdr, c, specNum f.rd, regOf f.r1, regOf f.r2, .imm f.imm⟩)
    else finish (cm ++ [f.noImm] ++ srcOff .g 36 f.r3)
      (.vins ⟨f.hdr, c, specNum f.rd, regOf f.r1, regOf f.r2, .reg (regOf f.r3)⟩)
  else f.ill
def dVNull (f : FmtA) (cd : Cls) (mk : VNull → Instr) : Decoded := f.vplain fmtI fun c o =>
  finish (f.com true ++ [f.no1, f.no2, f.no3, f.noImm, o] ++ dstOff cd 60 f.rd) (mk ⟨f.hdr, c, specNum f.rd⟩)

/-! ### Formats W and B -/

def dLi (f : FmtW) : Decoded :=
  if f.fn = 0 then finish ([laOff false f.la, lowestSet 64 f.rsv] ++ dstOff .g 68 f.rd) (.li ⟨f.hdr, specNum f.rd, f.imm⟩) else f.ill

def slotOff (s : BitVec 3) : Offence := badAt 0 (decide (4 < s.toNat))
def FmtB.com (f : FmtB) : List Offence := [laOff false f.la, slotOff f.slot]
def FmtB.off (f : FmtB) : Target := ⟨f.line, f.slot⟩
def dJump (f : FmtB) (mk : Jump → Instr) : Decoded :=
  finish (f.com ++ [lowestSet 68 f.r1, lowestSet 60 f.r2, lowestSet 40 f.aux]) (mk ⟨f.hdr, f.off⟩)
def dBranch1 (f : FmtB) (c : Cls) (mk : Branch1 → Instr) : Decoded :=
  finish (f.com ++ [lowestSet 60 f.r2, lowestSet 40 f.aux] ++ srcOff c 68 f.r1) (mk ⟨f.hdr, regOf f.r1, f.off⟩)
def dBranch2 (f : FmtB) (mk : Branch2 → Instr) : Decoded :=
  finish (f.com ++ [lowestSet 40 f.aux] ++ srcOff .g 68 f.r1 ++ srcOff .g 60 f.r2) (mk ⟨f.hdr, regOf f.r1, regOf f.r2, f.off⟩)
def dLoop (f : FmtB) : Decoded :=
  finish (f.com ++ [lowestSet 60 f.r2, lowestSet 40 f.aux] ++ plainOff 68 f.r1) (.loop ⟨f.hdr, regOf f.r1, f.off⟩)
def dLoopi (f : FmtL) : Decoded :=
  finish [laOff false f.la, slotOff f.slot, lowestSet 40 f.rsv] (.loopi ⟨f.hdr, f.imm, ⟨f.line, f.slot⟩⟩)
/-- `freeze`: PLACE in AUX[7:0] (R277). -/
def dFreeze (f : FmtB) : Decoded :=
  if f.fn = 0 then
    finish (f.com ++ [lowestSet 48 (field f.aux 8 12)] ++ plainOff 68 f.r1 ++ plainOff 60 f.r2)
      (.freeze ⟨f.hdr, regOf f.r1, regOf f.r2, field f.aux 0 8, f.off⟩)
  else f.ill

/-! ### Format M -/

def FmtM.com (f : FmtM) (la : Bool) : List Offence := [laOff la f.la, lowestSet 40 f.rsv]
def FmtM.ad (f : FmtM) : Addr := ⟨regOf f.base, regOf f.index, f.scale, f.disp⟩
def FmtM.adOff (f : FmtM) (ci : Cls) : List Offence := srcOff .g 56 f.base ++ srcOff ci 48 f.index
def sizeIs (f : FmtM) (ok : Nat → Bool) : Offence := badAt 42 (!ok f.size.toNat)

def dLea (f : FmtM) : Decoded :=
  if f.fn = 0 then finish (f.com false ++ [sizeIs f (· == 0)] ++ dstOff .g 64 f.rd ++ f.adOff .g) (.lea ⟨f.hdr, specNum f.rd, f.ad⟩)
  else f.ill
/-- A scalar load: Z in FN[0]; Z = 1 with SIZE 3 or 4 is reserved at the FN bit (R113). -/
def dLoad (f : FmtM) (mk : Load → Instr) : Decoded :=
  if field f.fn 1 7 = 0 then
    finish (f.com true ++ [sizeIs f (· < 4), badAt 72 (f.fn.getLsbD 0 && (f.size == 3 || f.size == 4))] ++ dstOff .g 64 f.rd ++ f.adOff .g)
      (mk ⟨f.hdr, f.fn.getLsbD 0, field f.size 0 2, specNum f.rd, f.ad⟩)
  else f.ill
/-- A scalar store: Z = 1 is reserved (R113). -/
def dStore (f : FmtM) (mk : Store → Instr) : Decoded :=
  if field f.fn 1 7 = 0 then
    finish (f.com false ++ [sizeIs f (· < 4), badAt 72 (f.fn.getLsbD 0)] ++ srcOff .g 64 f.rd ++ f.adOff .g)
      (mk ⟨f.hdr, field f.size 0 2, regOf f.rd, f.ad⟩)
  else f.ill
def FmtM.vfmt (f : FmtM) (k : BitVec 4 → Offence → Decoded) : Decoded :=
  let c := field f.fn 0 4
  if field f.fn 4 4 = 0 ∧ (fmtM c || fmtReserved c) then k c (badAt 72 (fmtReserved c)) else f.ill
def dVLoad (f : FmtM) (ci : Cls) (mk : VMem → Instr) : Decoded := f.vfmt fun c o =>
  finish (f.com true ++ [o, sizeIs f (· == 4)] ++ dstOff .v 64 f.rd ++ f.adOff ci) (mk ⟨f.hdr, c, regOf f.rd, f.ad⟩)
def dVStore (f : FmtM) (ci : Cls) (mk : VMem → Instr) : Decoded := f.vfmt fun c o =>
  finish (f.com false ++ [o, sizeIs f (· == 4)] ++ srcOff .v 64 f.rd ++ f.adOff ci) (mk ⟨f.hdr, c, regOf f.rd, f.ad⟩)
def dPref (f : FmtM) : Decoded :=
  if f.fn = 0 then finish (f.com false ++ [sizeIs f (· == 0), lowestSet 64 f.rd] ++ f.adOff .g) (.prefg ⟨f.hdr, f.ad⟩) else f.ill
/-- An atomic: SCALE is required to be 0 (R237). -/
def dAmo (f : FmtM) (mk : Amo → Instr) : Decoded :=
  if field f.fn 4 4 = 0 ∧ (field f.fn 0 4).toNat ≤ 9 then
    finish (f.com true ++ [sizeIs f (fun n => n == 2 || n == 3), lowestSet 45 f.scale] ++ dstOff .g 64 f.rd ++ f.adOff .g)
      (mk ⟨f.hdr, field f.fn 0 4, f.size == 3, specNum f.rd, regOf f.base, regOf f.index, f.disp⟩)
  else f.ill
/-- The cell forms (R239): FN[4] is the space. Format codes 0xE and 0xF are RESERVED_FIELD by R50 and R110, and any other FN of `faddx` is
ILLEGAL_OP by R239: the model raises ILLEGAL_OP, the earlier step of R111 (DESIGN CHOICE, log 70). -/
def dFaddx (f : FmtM) : Decoded :=
  let c := field f.fn 0 4
  if field f.fn 5 3 = 0 ∧ (c = 0 ∨ c = 2) then
    finish (f.com false ++ [sizeIs f (· == 4)] ++ srcOff .g 64 f.rd ++ f.adOff .g)
      (.faddx ⟨f.hdr, f.fn.getLsbD 4, c == 2, regOf f.rd, f.ad⟩)
  else f.ill
def dCell (f : FmtM) : Decoded :=
  if field f.fn 5 3 = 0 ∧ field f.fn 0 4 = 0 then
    finish (f.com true ++ [sizeIs f (· == 4)] ++ dstOff .g 64 f.rd ++ f.adOff .g) (.rdx ⟨f.hdr, f.fn.getLsbD 4, specNum f.rd, f.ad⟩)
  else if field f.fn 5 3 = 0 ∧ field f.fn 0 4 = 1 then
    finish (f.com false ++ [sizeIs f (· == 4), lowestSet 64 f.rd] ++ f.adOff .g) (.clrx ⟨f.hdr, f.fn.getLsbD 4, f.ad⟩)
  else f.ill

/-! ### Memory forms of Format A -/

def dBalloc (f : FmtA) : Decoded :=
  if f.fn = 0 then
    finish (f.com false ++ [f.no3, immAbove 3 f.imm, badAt 0 (decide (5 < natField f.imm 0 3))] ++ dstOff .g 60 f.rd
        ++ srcOff .g 52 f.r1 ++ srcOff .g 44 f.r2)
      (.balloc ⟨f.hdr, specNum f.rd, regOf f.r1, regOf f.r2, field f.imm 0 3⟩)
  else f.ill
/-- `fwait`, `fexp` (class g) and `ftest` (class p): the handle in RS1. -/
def dHandleRead (f : FmtA) (cd : Cls) (mk : HandleRead → Instr) : Decoded :=
  finish (f.com false ++ [f.no2, f.no3, f.noImm] ++ dstOff cd 60 f.rd ++ handleSrc 52 f.r1)
    (mk ⟨f.hdr, specNum f.rd, field f.r1 1 3⟩)
def dFcancel (f : FmtA) : Decoded :=
  finish (f.com false ++ [f.noRd, f.no2, f.no3, f.noImm] ++ handleSrc 52 f.r1) (.fcancel ⟨f.hdr, field f.r1 1 3⟩)
/-- `fimp hd, gs`: the handle destination in RD. -/
def dFimp (f : FmtA) : Decoded :=
  finish (f.com false ++ [f.no2, f.no3, f.noImm] ++ handleDst 60 f.rd ++ srcOff .g 52 f.r1)
    (.fimp ⟨f.hdr, field f.rd 1 3, regOf f.r1⟩)

/-! ### Format E -/

def FmtE.com (f : FmtE) : List Offence := laOff false f.la :: handleDst 64 f.hd
def FmtE.h (f : FmtE) : BitVec 3 := field f.hd 1 3
def FmtE.acc (f : FmtE) : BitVec 3 := field f.a 1 3
def FmtE.noA (f : FmtE) : Offence := lowestSet 56 f.a
def FmtE.noB (f : FmtE) : Offence := lowestSet 48 f.b
def FmtE.noC (f : FmtE) : Offence := lowestSet 40 f.c
def FmtE.noD (f : FmtE) : Offence := lowestSet 32 f.d
def FmtE.sA (f : FmtE) : List Offence := srcOff .g 56 f.a
def FmtE.sB (f : FmtE) : List Offence := srcOff .g 48 f.b
def FmtE.sC (f : FmtE) : List Offence := srcOff .g 40 f.c
def FmtE.sD (f : FmtE) : List Offence := srcOff .g 32 f.d

def dCpy (f : FmtE) : Decoded :=
  if f.fn = 0 then
    let dsp := field f.imm 0 2
    let ssp := field f.imm 2 2
    finish (f.com ++ f.sA ++ f.sB ++ f.sC ++ f.sD ++ [immAbove 4 f.imm, badAt 0 (dsp == 3 && ssp == 3)])
      (.cpy ⟨f.hdr, f.h, regOf f.a, regOf f.b, regOf f.c, regOf f.d, dsp, ssp⟩)
  else f.ill
def dCpym (f : FmtE) : Decoded :=
  if f.fn = 0 then
    finish (f.com ++ f.sA ++ f.sB ++ f.sC ++ [f.noD, immAbove 10 f.imm, badAt 0 (field f.imm 0 8 == 0), badAt 8 (field f.imm 8 2 == 3)])
      (.cpym ⟨f.hdr, f.h, regOf f.a, regOf f.b, regOf f.c, field f.imm 0 8, field f.imm 8 2⟩)
  else f.ill
def dCpyc (f : FmtE) : Decoded :=
  if f.fn = 0 then
    let fmt := field f.imm 12 4
    finish (f.com ++ f.sA ++ f.sC ++ (if fmt = 13 then [f.noB, f.noD] else f.sB ++ f.sD) ++
        [immAbove 21 f.imm, badAt 12 (!cpycFmt fmt), badAt 16 (rndReserved (field f.imm 16 3)), badAt 19 (field f.imm 19 2 == 3)])
      (.cpyc ⟨f.hdr, f.h, regOf f.a, regOf f.b, regOf f.c, regOf f.d, field f.imm 0 6, field f.imm 6 6, fmt, field f.imm 16 3,
        field f.imm 19 2⟩)
  else f.ill
def dCpyf (f : FmtE) : Decoded :=
  if f.fn = 0 then
    finish (f.com ++ f.sA ++ f.sB ++ f.sC ++ [f.noD, immAbove 4 f.imm, badAt 0 (field f.imm 0 2 == 3)])
      (.cpyf ⟨f.hdr, f.h, regOf f.a, regOf f.b, regOf f.c, field f.imm 0 2, field f.imm 2 2⟩)
  else f.ill
def dTslot (f : FmtE) : Decoded :=
  if f.fn = 0 then
    finish (f.com ++ f.sA ++ [f.noB, f.noC, f.noD, immAbove 6 f.imm]) (.tslot ⟨f.hdr, f.h, regOf f.a, field f.imm 0 6⟩)
  else f.ill
def dTzero (f : FmtE) : Decoded :=
  if f.fn = 0 then
    finish (f.com ++ accOff 56 f.a ++ [f.noB, f.noC, f.noD, immAbove 0 f.imm]) (.tzero ⟨f.hdr, f.h, f.acc⟩)
  else f.ill
def dTldacc (f : FmtE) : Decoded :=
  if f.fn = 0 then
    finish (f.com ++ accOff 56 f.a ++ f.sB ++ [f.noC, f.noD, immAbove 0 f.imm]) (.tldacc ⟨f.hdr, f.h, f.acc, regOf f.b⟩)
  else f.ill
def dAccMul (f : FmtE) (mk : AccMul → Instr) : Decoded :=
  if f.fn = 0 then
    finish (f.com ++ accOff 56 f.a ++ f.sB ++ f.sC ++ f.sD ++ [immAbove 12 f.imm])
      (mk ⟨f.hdr, f.h, f.acc, regOf f.b, regOf f.c, regOf f.d, field f.imm 0 6, field f.imm 6 6⟩)
  else f.ill
/-- `tdrain`, `tdraint`: OPB the version word; `transposed` allows tsOutT (R317). -/
def dAccDrain (f : FmtE) (transposed : Bool) (mk : AccDrain → Instr) : Decoded :=
  if f.fn = 0 then
    finish (f.com ++ accOff 56 f.a ++ f.sB ++ [f.noC, f.noD, immAbove 14 f.imm] ++
        (if transposed then [] else [lowestSet 6 (field f.imm 6 6)]))
      (mk ⟨f.hdr, f.h, f.acc, regOf f.b, field f.imm 0 6, field f.imm 6 6, f.imm.getLsbD 12, f.imm.getLsbD 13⟩)
  else f.ill

def dEng1 (f : FmtE) (imm : List Offence) (mk : Eng1 → Instr) : Decoded :=
  finish (f.com ++ f.sA ++ [f.noB, f.noC, f.noD] ++ imm) (mk ⟨f.hdr, f.h, regOf f.a⟩)
def dEng2 (f : FmtE) (mk : Eng2 → Instr) : Decoded :=
  finish (f.com ++ f.sA ++ f.sB ++ [f.noC, f.noD, immAbove 0 f.imm]) (mk ⟨f.hdr, f.h, regOf f.a, regOf f.b⟩)
def dEng3 (f : FmtE) (imm : List Offence) (mk : Eng3 → Instr) : Decoded :=
  finish (f.com ++ f.sA ++ f.sB ++ f.sC ++ [f.noD] ++ imm) (mk ⟨f.hdr, f.h, regOf f.a, regOf f.b, regOf f.c⟩)
def dEng4 (f : FmtE) (mk : Eng4 → Instr) : Decoded :=
  finish (f.com ++ f.sA ++ f.sB ++ f.sC ++ f.sD ++ [immAbove 0 f.imm])
    (mk ⟨f.hdr, f.h, regOf f.a, regOf f.b, regOf f.c, regOf f.d⟩)
def dDeq (f : FmtE) : Decoded :=
  finish (f.com ++ f.sA ++ f.sB ++ [f.noC, f.noD, immAbove 1 f.imm])
    (.deq ⟨f.hdr, f.h, regOf f.a, regOf f.b, f.imm.getLsbD 0⟩)
def dXsend (f : FmtE) : Decoded :=
  finish (f.com ++ f.sA ++ f.sB ++ f.sC ++ [f.noD, immAbove 1 f.imm])
    (.xsend ⟨f.hdr, f.h, regOf f.a, regOf f.b, regOf f.c, f.imm.getLsbD 0⟩)
def dXrecv (f : FmtE) : Decoded :=
  finish (f.com ++ f.sA ++ [f.noB, f.noC, f.noD, immAbove 1 f.imm]) (.xrecv ⟨f.hdr, f.h, regOf f.a, f.imm.getLsbD 0⟩)
/-- `taskdep`: KIND in IMM32[1:0] (R328). -/
def dTaskdep (f : FmtE) : Decoded :=
  match (field f.imm 0 2).toNat with
  | 0 => dEng3 f [immAbove 2 f.imm] .taskdep
  | 1 => dEng1 f [immAbove 2 f.imm] .taskdepReg
  | 2 => dEng1 f [immAbove 2 f.imm] .taskdepUnreg
  | _ => finish (f.com ++ [badAt 0 true, immAbove 2 f.imm]) default

/-! ### The opcode map (R113) -/

/-- The integer and address group, 0x01 to 0x28. -/
def decodeInt (w lit : SlotBits) : Decoded :=
  let f := FmtA.of w
  match f.op with
  | 0x01#8 => dIntBin f lit false .add
  | 0x02#8 => dIntBin f lit false .sub
  | 0x03#8 => dIntBin f lit true .mul
  | 0x04#8 => dIntBin f lit true .mulh
  | 0x05#8 => dIntBin f lit true .mulhn
  | 0x06#8 => dIntBin f lit true .div
  | 0x07#8 => dIntBin f lit true .divn
  | 0x08#8 => dIntBin f lit true .rem
  | 0x09#8 => dIntBin f lit true .remn
  | 0x0A#8 => dIntBin f lit false .and
  | 0x0B#8 => dIntBin f lit false .or
  | 0x0C#8 => dIntBin f lit false .xor
  | 0x0D#8 => dIntBin f lit false .andn
  | 0x0E#8 => dIntBin f lit false .orn
  | 0x0F#8 => dIntBin f lit false .shl
  | 0x10#8 => dIntBin f lit false .shr
  | 0x11#8 => dIntBin f lit false .sra
  | 0x12#8 => dIntBin f lit false .rol
  | 0x13#8 => dIntBin f lit false .ror
  | 0x14#8 => dUn f false .g .g .clz
  | 0x15#8 => dUn f false .g .g .ctz
  | 0x16#8 => dUn f false .g .g .popc
  | 0x17#8 => dIntBin f lit false .bext
  | 0x18#8 => dIntTri f lit .bins
  | 0x19#8 => dUn f false .g .g .bswap
  | 0x1A#8 => dUn f false .g .g .abs
  | 0x1B#8 => dIntBin f lit false .min
  | 0x1C#8 => dIntBin f lit false .max
  | 0x1D#8 => dIntBin f lit false .minn
  | 0x1E#8 => dIntBin f lit false .maxn
  | 0x1F#8 => dIntBin f lit false .seq
  | 0x20#8 => dIntBin f lit false .sne
  | 0x21#8 => dIntBin f lit false .slt
  | 0x22#8 => dIntBin f lit false .sltn
  | 0x23#8 => dIntBin f lit false .sle
  | 0x24#8 => dIntBin f lit false .slen
  | 0x25#8 => dIntTri f lit .sel
  | 0x26#8 => dLi (FmtW.of w)
  | 0x27#8 => dLea (FmtM.of w)
  | 0x28#8 => dUn f false .g .g .mov
  | _ => f.ill

/-- The FP32, predicate and transfer groups, 0x40 to 0x5B. -/
def decodeFloat (w : SlotBits) : Decoded :=
  let f := FmtA.of w
  let b := FmtB.of w
  match f.op with
  | 0x40#8 => dBin f true .g .g .fadd
  | 0x41#8 => dBin f true .g .g .fsub
  | 0x42#8 => dBin f true .g .g .fmul
  | 0x43#8 => dTri f true .ffma
  | 0x44#8 => dBin f true .g .g .fdiv
  | 0x45#8 => dUn f true .g .g .fsqrt
  | 0x46#8 => dUn f true .g .g .frsqe
  | 0x47#8 => dUn f true .g .g .frcpe
  | 0x48#8 => dBin f false .g .g .fmin
  | 0x49#8 => dBin f false .g .g .fmax
  | 0x4A#8 => dFcmp f
  | 0x4B#8 => dFcvt f
  | 0x4C#8 => dUn f false .g .g .fclass
  | 0x4D#8 => dUn f false .g .g .fabs
  | 0x4E#8 => dUn f false .g .g .fneg
  | 0x50#8 => dPcmp f
  | 0x51#8 => dBin f false .p .p .pand
  | 0x52#8 => dBin f false .p .p .por
  | 0x53#8 => dBin f false .p .p .pxor
  | 0x54#8 => dUn f false .p .p .pnot
  | 0x55#8 => dUn f false .p .g .pset
  | 0x56#8 => dUn f false .g .p .pget
  | 0x57#8 => match b.fn with
    | 0#4 => dJump b .br
    | 1#4 => dBranch1 b .p .brp
    | 2#4 => dBranch1 b .g .brz
    | 3#4 => dBranch1 b .g .brnz
    | _ => b.ill
  | 0x58#8 => match b.fn with
    | 0#4 => dBranch2 b .beq
    | 1#4 => dBranch2 b .bne
    | 2#4 => dBranch2 b .blt
    | _ => b.ill
  | 0x59#8 => if b.fn = 0 then dJump b .call else b.ill
  | 0x5A#8 => match f.fn with
    | 0#12 => dUn f false .g .g .callr
    | 1#12 => dJumpReg f .jmpr
    | 2#12 => dJumpReg f .ret
    | _ => f.ill
  | 0x5B#8 => match b.fn with
    | 0#4 => dLoop b
    | 1#4 => dLoopi (FmtL.of w)
    | _ => b.ill
  | _ => f.ill

/-- System, starter, stream and repetition forms, 0x60 to 0x7F. -/
def decodeSystem (w : SlotBits) : Decoded :=
  let f := FmtA.of w
  match f.op with
  | 0x60#8 => match f.fn with
    | 0#12 => dMfs f
    | 1#12 => dMts f
    | 2#12 => dSysMod f .mtsb
    | 3#12 => dSysMod f .mtsc
    | _ => f.ill
  | 0x61#8 => match f.fn with
    | 0#12 => dService f .ecall
    | 1#12 => dService f .ebreak
    | 2#12 => dPlain f .eret
    | 3#12 => dPlain f .wfi
    | _ => f.ill
  | 0x62#8 => dBin f false .g .g .ipi
  | 0x63#8 => dPlain0 f .fenceI
  | 0x64#8 => dSrc2 f .tlbinv
  | 0x65#8 => dUn f false .g .g .ptsync
  | 0x66#8 => dUn f false .g .g .logreplay
  | 0x67#8 => dBin f false .g .g .ctxsave
  | 0x68#8 => dBin f false .g .g .ctxload
  | 0x69#8 => dBin f false .g .g .preemptHalt
  | 0x6A#8 => dTri f false .strandnew
  | 0x6B#8 => dUn f false .g .g .strandkill
  | 0x70#8 => dFreeze (FmtB.of w)
  | 0x71#8 => dPlain0 f .retire
  | 0x72#8 => dPlain0 f .yield
  | 0x73#8 => dQuery f 3 6 .itemq
  | 0x78#8 => if f.fn = 0 then dStreamReg f .scfg else f.ill
  | 0x79#8 => if f.fn = 0 then dStreamReg f .scfgi else f.ill
  | 0x7A#8 => dSbind f
  | 0x7B#8 => dSunbind f
  | 0x7C#8 => if f.fn = 0 then dStreamReg f .ssave else f.ill
  | 0x7D#8 => if f.fn = 0 then dStreamReg f .srest else f.ill
  | 0x7E#8 => match f.fn with
    | 0#12 => dStreamReg f .sseek
    | 1#12 => dSstat f
    | _ => f.ill
  | 0x7F#8 => dRep f
  | _ => f.ill

/-- The vector group, 0x80 to 0xA4. -/
def decodeVector (w lit : SlotBits) : Decoded :=
  let f := FmtA.of w
  match f.op with
  | 0x80#8 => dVBin f true fmtFI .vadd
  | 0x81#8 => dVBin f true fmtFI .vsub
  | 0x82#8 => dVBin f true fmtFI .vmul
  | 0x83#8 => dVTri f .vfma
  | 0x84#8 => dVTri f .vfms
  | 0x85#8 => dVUn f true fmtFS .vneg
  | 0x86#8 => dVUn f true fmtFS .vabs
  | 0x87#8 => dVBin f true fmtFI .vmin
  | 0x88#8 => dVBin f true fmtFI .vmax
  | 0x89#8 => dVUn f true fmtF .vrcpe
  | 0x8A#8 => dVUn f true fmtF .vrsqe
  | 0x8B#8 => dVti f
  | 0x8C#8 => dVtload f
  | 0x8D#8 => dVcvt f
  | 0x8E#8 => dVcmp f
  | 0x8F#8 => dVsel f
  | 0x90#8 => dVBin f false fmtI .vand
  | 0x91#8 => dVBin f false fmtI .vor
  | 0x92#8 => dVBin f false fmtI .vxor
  | 0x93#8 => dVBin f false fmtI .vandn
  | 0x94#8 => dVBin f true fmtI .vshl
  | 0x95#8 => dVBin f true fmtI .vshr
  | 0x96#8 => dVBin f true fmtI .vsra
  | 0x97#8 => dV3 f fmtByte .vdot4
  | 0x98#8 => dVRed f fmtFI .vredAdd
  | 0x99#8 => dVRed f fmtFI .vredMax
  | 0x9A#8 => dVRed f fmtF .vredoAdd
  | 0x9B#8 => dVbcast f lit
  | 0x9C#8 => dVext f
  | 0x9D#8 => dVins f
  | 0x9E#8 => dV2 f fmtM .vperm
  | 0x9F#8 => dV3 f fmtM .vshuf
  | 0xA0#8 => dVUn f true fmtM .vcompress
  | 0xA1#8 => dVUn f true fmtM .vexpand
  | 0xA2#8 => dVNull f .v .viota
  | 0xA3#8 => dVNull f .g .vpopc
  | 0xA4#8 => dVUn f false fmtM .vmov
  | _ => f.ill

/-- The memory, fence and domain forms, 0xC0 to 0xDF. -/
def decodeMemory (w : SlotBits) : Decoded :=
  let f := FmtA.of w
  let m := FmtM.of w
  match f.op with
  | 0xC0#8 => dLoad m .ldl
  | 0xC1#8 => dStore m .stl
  | 0xC2#8 => dLoad m .ldc
  | 0xC3#8 => dStore m .stc
  | 0xC4#8 => dVLoad m .g .vldl
  | 0xC5#8 => dVStore m .g .vstl
  | 0xC6#8 => dVLoad m .v .vgathl
  | 0xC7#8 => dVStore m .v .vscatl
  | 0xC8#8 => dLoad m .ldlf
  | 0xC9#8 => dLoad m .ldlt
  | 0xCA#8 => dStore m .stlf
  | 0xCB#8 => dSrc2 f .empty
  | 0xCC#8 => dBalloc f
  | 0xCD#8 => dBin f false .g .g .bfree
  | 0xCE#8 => dSrc2 f .bwake
  | 0xD0#8 => dLoad m .ldg
  | 0xD1#8 => dStore m .stg
  | 0xD2#8 => dVLoad m .g .vldg
  | 0xD3#8 => dVStore m .g .vstg
  | 0xD4#8 => dPref m
  | 0xD8#8 => dAmo m .amol
  | 0xD9#8 => dAmo m .amog
  | 0xDA#8 => dFaddx m
  | 0xDB#8 => dCell m
  | 0xDC#8 => dLoad m .ldaq
  | 0xDD#8 => dStore m .strl
  | 0xDE#8 => match f.fn with
    | 0#12 => dPlain f .fenceC
    | 1#12 => dPlain f .fenceK
    | 2#12 => dPlain f .fenceD
    | 3#12 => dPlain f .fenceP
    | 4#12 => dPlain f .fenceY
    | 5#12 => dPlain f .fenceW
    | _ => f.ill
  | 0xDF#8 =>
    let vote (mk : Un → Instr) : Decoded :=
      finish (f.com false ++ [f.no2, f.no3, f.noImm] ++ dstOff .g 60 f.rd ++ srcOff .g 52 f.r1) (mk ⟨f.hdr, specNum f.rd, regOf f.r1⟩)
    match f.fn with
    | 0#12 => dPlain f .sync
    | 1#12 => vote .syncX
    | 2#12 => vote .voteAnd
    | 3#12 => vote .voteOr
    | 4#12 => vote .voteAdd
    | 5#12 => vote .voteMax
    | _ => f.ill
  | _ => f.ill

/-- The engine and task forms, 0xE0 to 0xF7. -/
def decodeEngine (w : SlotBits) : Decoded :=
  let f := FmtA.of w
  let e := FmtE.of w
  match f.op with
  | 0xE0#8 => dCpy e
  | 0xE1#8 => dCpym e
  | 0xE2#8 => dCpyc e
  | 0xE3#8 => dCpyf e
  | 0xE4#8 => if f.fn = 0 then dHandleRead f .g .fwait else f.ill
  | 0xE5#8 => if f.fn = 0 then dHandleRead f .p .ftest else f.ill
  | 0xE6#8 => if f.fn = 0 then dFcancel f else f.ill
  | 0xE7#8 => match f.fn with
    | 0#12 => dHandleRead f .g .fexp
    | 1#12 => dFimp f
    | _ => f.ill
  | 0xE8#8 => dTslot e
  | 0xE9#8 => dTzero e
  | 0xEA#8 => dTldacc e
  | 0xEB#8 => dAccMul e .tmma
  | 0xEC#8 => dAccMul e .tmmas
  | 0xED#8 => dAccDrain e false .tdrain
  | 0xEE#8 => dAccDrain e true .tdraint
  | 0xEF#8 => dQuery f 2 2 .tqry
  | 0xF0#8 => match e.fn with
    | 0#8 => dEng2 e .enq
    | 1#8 => dEng1 e [immAbove 0 e.imm] .enqres
    | 2#8 => dEng3 e [immAbove 0 e.imm] .enqpub
    | 3#8 => dDeq e
    | _ => e.ill
  | 0xF1#8 => if f.fn = 0 then dBare f .work else f.ill
  | 0xF2#8 => match e.fn with
    | 0#8 => dEng4 e .dcnew
    | 1#8 => dEng1 e [immAbove 0 e.imm] .dcdec
    | 2#8 => dEng2 e .dcadd
    | _ => e.ill
  | 0xF3#8 => if e.fn = 0 then dTaskdep e else e.ill
  | 0xF4#8 => match e.fn with
    | 0#8 => dEng2 e .xinbox
    | 1#8 => dXsend e
    | 2#8 => dXrecv e
    | _ => e.ill
  | 0xF5#8 => match e.fn with
    | 0#8 => dEng4 e .gather
    | 1#8 => dEng4 e .scatadd
    | _ => e.ill
  | 0xF6#8 => match f.fn with
    | 0#12 => dBare f .idemb
    | 1#12 => dBare f .ideme
    | _ => f.ill
  | 0xF7#8 => if f.fn = 0 then dBare f .done else f.ill
  | _ => f.ill

/-- The decoder: the slot and the slot that follows it (the literal of a LIT form), total on any bits. -/
def decode (w lit : SlotBits) : Decoded :=
  let op := field w 88 8
  if op = 0 then
    match lowestSet 0 (field w 0 88) with
    | none => .ok .nop
    | some n => .error (.reserved (word n))
  else if op.toNat < 0x40 then decodeInt w lit
  else if op.toNat < 0x60 then decodeFloat w
  else if op.toNat < 0x80 then decodeSystem w
  else if op.toNat < 0xC0 then decodeVector w lit
  else if op.toNat < 0xE0 then decodeMemory w
  else decodeEngine w

/-- Is this slot the first slot of a LIT form (R100)? An unassigned FN with bit L set is none in the integer group, whose only LIT FN is 0x801;
in `vbcast` every FN with FN[11] set is one (DESIGN CHOICE, log 70: R100 does not say whether the line checks and the next slot of an
instruction that raises ILLEGAL_OP count a literal). -/
def isLitForm (w : SlotBits) : Bool :=
  let f := FmtA.of w
  let op := f.op.toNat
  (f.fn == 0x801 && ((decide (1 ≤ op) && decide (op ≤ 0x13)) || op == 0x17 || op == 0x18 || (decide (0x1B ≤ op) && decide (op ≤ 0x25))))
    || (op == 0x9B && f.fn.getLsbD 11)

/-! ### The encoder -/

/-- A slot with its literal slot, as the words of an instruction. -/
abbrev Words := List SlotBits

def encA (op : BitVec 8) (h : Hdr) (fn : BitVec 12) (rd r1 r2 r3 : BitVec 8) (imm : BitVec 32) : SlotBits :=
  FmtA.bits ⟨op, h.la, h.gd, fn, rd, r1, r2, r3, 0, imm⟩
def encB (op : BitVec 8) (h : Hdr) (fn : BitVec 4) (r1 r2 : BitVec 8) (aux : BitVec 20) (t : Target) : SlotBits :=
  FmtB.bits ⟨op, h.la, h.gd, fn, r1, r2, aux, t.line, t.slot⟩
def encM (op : BitVec 8) (h : Hdr) (fn : BitVec 8) (rd : BitVec 8) (ci : Cls) (ad : Addr) (size : BitVec 3) : SlotBits :=
  FmtM.bits ⟨op, h.la, h.gd, fn, rd, specOf .g ad.base, specOf ci ad.index, ad.scale, size, 0, ad.disp⟩
def encE (op : BitVec 8) (h : Hdr) (fn : BitVec 8) (hd : BitVec 3) (a b c d : BitVec 8) (imm : BitVec 32) : SlotBits :=
  FmtE.bits ⟨op, h.la, h.gd, fn, handleSpec hd, a, b, c, d, imm⟩

/-- The literal slot of a value (R100). -/
def litSlot (v : Word) : SlotBits := (0 : BitVec 32) ++ v

def encTwo (op : BitVec 8) (h : Hdr) (rd : BitVec 5) (a : Reg) (b : Opnd) (r3 : BitVec 8) : Words :=
  match b with
  | .reg r => [encA op h 0x000 (dstOf .g rd) (specOf .g a) (specOf .g r) r3 0]
  | .imm v => [encA op h 0x001 (dstOf .g rd) (specOf .g a) 0 r3 v]
  | .lit v => [encA op h 0x801 (dstOf .g rd) (specOf .g a) 0 r3 0, litSlot v]
def eIntBin (op : BitVec 8) (f : IntBin) : Words := encTwo op f.h f.rd f.a f.b 0
def eIntTri (op : BitVec 8) (f : IntTri) : Words := encTwo op f.h f.rd f.a f.b (specOf .g f.c)
def eUn (op : BitVec 8) (fn : BitVec 12) (cd cs : Cls) (f : Un) : Words := [encA op f.h fn (dstOf cd f.rd) (specOf cs f.a) 0 0 0]
def eBin (op : BitVec 8) (cd cs : Cls) (f : Bin) : Words := [encA op f.h 0 (dstOf cd f.rd) (specOf cs f.a) (specOf cs f.b) 0 0]
def eTri (op : BitVec 8) (f : Tri) : Words :=
  [encA op f.h 0 (dstOf .g f.rd) (specOf .g f.a) (specOf .g f.b) (specOf .g f.c) 0]
def eJump (op : BitVec 8) (f : Jump) : Words := [encB op f.h 0 0 0 0 f.off]
def eBranch1 (op : BitVec 8) (fn : BitVec 4) (c : Cls) (f : Branch1) : Words := [encB op f.h fn (specOf c f.a) 0 0 f.off]
def eBranch2 (fn : BitVec 4) (f : Branch2) : Words := [encB 0x58 f.h fn (specOf .g f.a) (specOf .g f.b) 0 f.off]
def eJumpReg (fn : BitVec 12) (f : JumpReg) : Words := [encA 0x5A f.h fn 0 (specOf .g f.a) 0 0 0]
def eSysMod (fn : BitVec 12) (f : SysMod) : Words := [encA 0x60 f.h fn (dstOf .g f.rd) (specOf .g f.a) 0 0 (f.sr.setWidth 32)]
def eService (fn : BitVec 12) (f : Service) : Words := [encA 0x61 f.h fn 0 0 0 0 f.imm]
def ePlain (op : BitVec 8) (fn : BitVec 12) (f : Plain) : Words := [encA op f.h fn 0 0 0 0 0]
def eSrc2 (op : BitVec 8) (f : Src2) : Words := [encA op f.h 0 0 (specOf .g f.a) (specOf .g f.b) 0 0]
def eQuery (op : BitVec 8) (f : Query) : Words := [encA op f.h 0 (dstOf .g f.rd) 0 0 0 (f.sel.setWidth 32)]
def eStreamReg (op : BitVec 8) (f : StreamReg) : Words := [encA op f.h 0 (streamSpec f.st) (specOf .g f.a) 0 0 0]
def vfn (fmt : BitVec 4) : BitVec 12 := fmt.setWidth 12
def eVOp (op : BitVec 8) (h : Hdr) (fmt : BitVec 4) (rd : BitVec 5) (a : Reg) (b : VOpnd) (r3 : BitVec 8) : Words :=
  match b with
  | .reg r => [encA op h (vfn fmt) (dstOf .v rd) (specOf .v a) (specOf .v r) r3 0]
  | .imm v => [encA op h (0x01#8 ++ fmt) (dstOf .v rd) (specOf .v a) 0 r3 v]
def eVBin (op : BitVec 8) (f : VBin) : Words := eVOp op f.h f.fmt f.rd f.a f.b 0
def eVTri (op : BitVec 8) (f : VTri) : Words := eVOp op f.h f.fmt f.rd f.a f.b (specOf .v f.c)
def eVUn (op : BitVec 8) (f : VUn) : Words := [encA op f.h (vfn f.fmt) (dstOf .v f.rd) (specOf .v f.a) 0 0 0]
def eV2 (op : BitVec 8) (f : V2) : Words := [encA op f.h (vfn f.fmt) (dstOf .v f.rd) (specOf .v f.a) (specOf .v f.b) 0 0]
def eV3 (op : BitVec 8) (f : V3) : Words :=
  [encA op f.h (vfn f.fmt) (dstOf .v f.rd) (specOf .v f.a) (specOf .v f.b) (specOf .v f.c) 0]
def eVRed (op : BitVec 8) (f : VRed) : Words :=
  [encA op f.h (vfn f.fmt) (dstOf .g f.rd) (specOf .v f.a) (match f.pm with | none => 0 | some p => specOf .p p) 0 0]
def eVNull (op : BitVec 8) (cd : Cls) (f : VNull) : Words := [encA op f.h (vfn f.fmt) (dstOf cd f.rd) 0 0 0 0]
def eLoad (op : BitVec 8) (f : Load) : Words :=
  [encM op f.h (0#7 ++ BitVec.ofBool f.z) (dstOf .g f.rd) .g f.ad (f.size.setWidth 3)]
def eStore (op : BitVec 8) (f : Store) : Words := [encM op f.h 0 (specOf .g f.src) .g f.ad (f.size.setWidth 3)]
def eVMem (op : BitVec 8) (ci : Cls) (f : VMem) : Words := [encM op f.h (f.fmt.setWidth 8) (specOf .v f.r) ci f.ad 4]
def eAmo (op : BitVec 8) (f : Amo) : Words :=
  [encM op f.h (f.op.setWidth 8) (dstOf .g f.rd) .g ⟨f.base, f.v, 0, f.disp⟩ (if f.dword then 3 else 2)]
def cellFn (g : Bool) (lowFn : BitVec 4) : BitVec 8 := 0#3 ++ BitVec.ofBool g ++ lowFn
def eHandleRead (op : BitVec 8) (cd : Cls) (f : HandleRead) : Words := [encA op f.h 0 (dstOf cd f.rd) (handleSpec f.hs) 0 0 0]
def eEng1 (op : BitVec 8) (fn : BitVec 8) (imm : BitVec 32) (f : Eng1) : Words := [encE op f.h fn f.hd (specOf .g f.a) 0 0 0 imm]
def eEng2 (op : BitVec 8) (fn : BitVec 8) (f : Eng2) : Words := [encE op f.h fn f.hd (specOf .g f.a) (specOf .g f.b) 0 0 0]
def eEng3 (op : BitVec 8) (fn : BitVec 8) (f : Eng3) : Words :=
  [encE op f.h fn f.hd (specOf .g f.a) (specOf .g f.b) (specOf .g f.c) 0 0]
def eEng4 (op : BitVec 8) (fn : BitVec 8) (f : Eng4) : Words :=
  [encE op f.h fn f.hd (specOf .g f.a) (specOf .g f.b) (specOf .g f.c) (specOf .g f.d) 0]
def eAccMul (op : BitVec 8) (f : AccMul) : Words :=
  [encE op f.h 0 f.hd (accSpec f.acc) (specOf .g f.k0) (specOf .g f.klen) (specOf .g f.v) (0#20 ++ f.tsB ++ f.tsA)]
def eAccDrain (op : BitVec 8) (f : AccDrain) : Words :=
  [encE op f.h 0 f.hd (accSpec f.acc) (specOf .g f.v) 0 0
    (0#18 ++ BitVec.ofBool f.zero ++ BitVec.ofBool f.free ++ f.tsT ++ f.ts)]

/-- The words of a well-formed instruction: its slot, and the literal slot of a LIT form. An event row has none. -/
def encode : Instr → Words
  | .nop => [0]
  | .add f => eIntBin 0x01 f
  | .sub f => eIntBin 0x02 f
  | .mul f => eIntBin 0x03 f
  | .mulh f => eIntBin 0x04 f
  | .mulhn f => eIntBin 0x05 f
  | .div f => eIntBin 0x06 f
  | .divn f => eIntBin 0x07 f
  | .rem f => eIntBin 0x08 f
  | .remn f => eIntBin 0x09 f
  | .and f => eIntBin 0x0A f
  | .or f => eIntBin 0x0B f
  | .xor f => eIntBin 0x0C f
  | .andn f => eIntBin 0x0D f
  | .orn f => eIntBin 0x0E f
  | .shl f => eIntBin 0x0F f
  | .shr f => eIntBin 0x10 f
  | .sra f => eIntBin 0x11 f
  | .rol f => eIntBin 0x12 f
  | .ror f => eIntBin 0x13 f
  | .bext f => eIntBin 0x17 f
  | .min f => eIntBin 0x1B f
  | .max f => eIntBin 0x1C f
  | .minn f => eIntBin 0x1D f
  | .maxn f => eIntBin 0x1E f
  | .seq f => eIntBin 0x1F f
  | .sne f => eIntBin 0x20 f
  | .slt f => eIntBin 0x21 f
  | .sltn f => eIntBin 0x22 f
  | .sle f => eIntBin 0x23 f
  | .slen f => eIntBin 0x24 f
  | .bins f => eIntTri 0x18 f
  | .sel f => eIntTri 0x25 f
  | .clz f => eUn 0x14 0 .g .g f
  | .ctz f => eUn 0x15 0 .g .g f
  | .popc f => eUn 0x16 0 .g .g f
  | .bswap f => eUn 0x19 0 .g .g f
  | .abs f => eUn 0x1A 0 .g .g f
  | .mov f => eUn 0x28 0 .g .g f
  | .fsqrt f => eUn 0x45 0 .g .g f
  | .frsqe f => eUn 0x46 0 .g .g f
  | .frcpe f => eUn 0x47 0 .g .g f
  | .fclass f => eUn 0x4C 0 .g .g f
  | .fabs f => eUn 0x4D 0 .g .g f
  | .fneg f => eUn 0x4E 0 .g .g f
  | .pnot f => eUn 0x54 0 .p .p f
  | .pset f => eUn 0x55 0 .p .g f
  | .pget f => eUn 0x56 0 .g .p f
  | .callr f => eUn 0x5A 0 .g .g f
  | .ptsync f => eUn 0x65 0 .g .g f
  | .logreplay f => eUn 0x66 0 .g .g f
  | .strandkill f => eUn 0x6B 0 .g .g f
  | .syncX f => eUn 0xDF 1 .g .g f
  | .voteAnd f => eUn 0xDF 2 .g .g f
  | .voteOr f => eUn 0xDF 3 .g .g f
  | .voteAdd f => eUn 0xDF 4 .g .g f
  | .voteMax f => eUn 0xDF 5 .g .g f
  | .li f => [FmtW.bits ⟨0x26, f.h.la, f.h.gd, 0, dstOf .g f.rd, 0, f.imm⟩]
  | .lea f => [encM 0x27 f.h 0 (dstOf .g f.rd) .g f.ad 0]
  | .fadd f => eBin 0x40 .g .g f
  | .fsub f => eBin 0x41 .g .g f
  | .fmul f => eBin 0x42 .g .g f
  | .fdiv f => eBin 0x44 .g .g f
  | .fmin f => eBin 0x48 .g .g f
  | .fmax f => eBin 0x49 .g .g f
  | .pand f => eBin 0x51 .p .p f
  | .por f => eBin 0x52 .p .p f
  | .pxor f => eBin 0x53 .p .p f
  | .ipi f => eBin 0x62 .g .g f
  | .ctxsave f => eBin 0x67 .g .g f
  | .ctxload f => eBin 0x68 .g .g f
  | .preemptHalt f => eBin 0x69 .g .g f
  | .bfree f => eBin 0xCD .g .g f
  | .ffma f => eTri 0x43 f
  | .strandnew f => eTri 0x6A f
  | .fcmp f => [encA 0x4A f.h (f.cc.setWidth 12) (dstOf .g f.rd) (specOf .g f.a) (specOf .g f.b) 0 0]
  | .pcmp f => match f.b with
    | .reg r => [encA 0x50 f.h (vfn f.cc) (dstOf .p f.rd) (specOf .g f.a) (specOf .g r) 0 0]
    | .imm v => [encA 0x50 f.h (0x01#8 ++ f.cc) (dstOf .p f.rd) (specOf .g f.a) 0 0 v]
  | .fcvt f => [encA 0x4B f.h (f.dst ++ f.src ++ 0#1 ++ f.rnd) (dstOf .g f.rd) (specOf .g f.a) 0 0 0]
  | .br f => eJump 0x57 f
  | .call f => eJump 0x59 f
  | .brp f => eBranch1 0x57 1 .p f
  | .brz f => eBranch1 0x57 2 .g f
  | .brnz f => eBranch1 0x57 3 .g f
  | .loop f => eBranch1 0x5B 0 .g f
  | .beq f => eBranch2 0 f
  | .bne f => eBranch2 1 f
  | .blt f => eBranch2 2 f
  | .loopi f => [FmtL.bits ⟨0x5B, f.h.la, f.h.gd, 1, f.imm, 0, f.off.line, f.off.slot⟩]
  | .jmpr f => eJumpReg 1 f
  | .ret f => eJumpReg 2 f
  | .mfs f => [encA 0x60 f.h 0 (dstOf .g f.rd) 0 0 0 (f.sr.setWidth 32)]
  | .mts f => [encA 0x60 f.h 1 0 (specOf .g f.a) 0 0 (f.sr.setWidth 32)]
  | .mtsb f => eSysMod 2 f
  | .mtsc f => eSysMod 3 f
  | .ecall f => eService 0 f
  | .ebreak f => eService 1 f
  | .eret f => ePlain 0x61 2 f
  | .wfi f => ePlain 0x61 3 f
  | .fenceI f => ePlain 0x63 0 f
  | .retire f => ePlain 0x71 0 f
  | .yield f => ePlain 0x72 0 f
  | .fenceC f => ePlain 0xDE 0 f
  | .fenceK f => ePlain 0xDE 1 f
  | .fenceD f => ePlain 0xDE 2 f
  | .fenceP f => ePlain 0xDE 3 f
  | .fenceY f => ePlain 0xDE 4 f
  | .fenceW f => ePlain 0xDE 5 f
  | .sync f => ePlain 0xDF 0 f
  | .work f => ePlain 0xF1 0 f
  | .done f => ePlain 0xF7 0 f
  | .idemb f => ePlain 0xF6 0 f
  | .ideme f => ePlain 0xF6 1 f
  | .tlbinv f => eSrc2 0x64 f
  | .empty f => eSrc2 0xCB f
  | .bwake f => eSrc2 0xCE f
  | .freeze f => [encB 0x70 f.h 0 (specOf .g f.a) (specOf .g f.b) (0#12 ++ f.place) f.off]
  | .itemq f => eQuery 0x73 f
  | .tqry f => eQuery 0xEF f
  | .scfg f => eStreamReg 0x78 f
  | .scfgi f => eStreamReg 0x79 f
  | .ssave f => eStreamReg 0x7C f
  | .srest f => eStreamReg 0x7D f
  | .sseek f => eStreamReg 0x7E f
  | .sbind f => [encA 0x7A f.h 0 (streamSpec f.st) (dstOf (if f.vec then .v else .g) (6#3 ++ f.st)) 0 0 0]
  | .sunbind f => [encA 0x7B f.h 0 (streamSpec f.st) 0 0 0 0]
  | .sstat f => [encA 0x7E f.h 1 (dstOf .g f.rd) (streamSpec f.st) 0 0 0]
  | .rep f => [encA 0x7F f.h 0 0 (dstOf .g f.gn) 0 0 (0#20 ++ f.mask ++ 0#1 ++ f.stride ++ f.len)]
  | .vadd f => eVBin 0x80 f
  | .vsub f => eVBin 0x81 f
  | .vmul f => eVBin 0x82 f
  | .vmin f => eVBin 0x87 f
  | .vmax f => eVBin 0x88 f
  | .vand f => eVBin 0x90 f
  | .vor f => eVBin 0x91 f
  | .vxor f => eVBin 0x92 f
  | .vandn f => eVBin 0x93 f
  | .vshl f => eVBin 0x94 f
  | .vshr f => eVBin 0x95 f
  | .vsra f => eVBin 0x96 f
  | .vfma f => eVTri 0x83 f
  | .vfms f => eVTri 0x84 f
  | .vneg f => eVUn 0x85 f
  | .vabs f => eVUn 0x86 f
  | .vrcpe f => eVUn 0x89 f
  | .vrsqe f => eVUn 0x8A f
  | .vcompress f => eVUn 0xA0 f
  | .vexpand f => eVUn 0xA1 f
  | .vmov f => eVUn 0xA4 f
  | .vti f => [encA 0x8B f.h (vfn f.fmt) (dstOf .v f.rd) (specOf .v f.a) 0 0 (f.t.setWidth 32)]
  | .vtload f => [encA 0x8C f.h 0 0 (specOf .g f.a) 0 0 (f.t.setWidth 32)]
  | .vcvt f => [encA 0x8D f.h (0#1 ++ f.rnd ++ f.src ++ f.dst) (dstOf .v f.rd) (specOf .v f.a) 0 0 (f.part.setWidth 32)]
  | .vcmp f => [encA 0x8E f.h (0#4 ++ f.cc ++ f.fmt) (dstOf .p f.rd) (specOf .v f.a) (specOf .v f.b) 0 0]
  | .vsel f => [encA 0x8F f.h (vfn f.fmt) (dstOf .v f.rd) (specOf .v f.a) (specOf .v f.b) (specOf .p f.c) 0]
  | .vdot4 f => eV3 0x97 f
  | .vshuf f => eV3 0x9F f
  | .vperm f => eV2 0x9E f
  | .vredAdd f => eVRed 0x98 f
  | .vredMax f => eVRed 0x99 f
  | .vredoAdd f => eVRed 0x9A f
  | .vbcast f => match f.s with
    | .reg r => [encA 0x9B f.h (vfn f.fmt) (dstOf .v f.rd) (specOf .g r) 0 0 0]
    | .lit v => [encA 0x9B f.h (0x80#8 ++ f.fmt) (dstOf .v f.rd) 0 0 0 0, litSlot v]
  | .vext f => match f.i with
    | .reg r => [encA 0x9C f.h (vfn f.fmt) (dstOf .g f.rd) (specOf .v f.a) (specOf .g r) 0 0]
    | .imm v => [encA 0x9C f.h (0x01#8 ++ f.fmt) (dstOf .g f.rd) (specOf .v f.a) 0 0 v]
  | .vins f => match f.i with
    | .reg r => [encA 0x9D f.h (vfn f.fmt) (dstOf .v f.rd) (specOf .v f.a) (specOf .g f.s) (specOf .g r) 0]
    | .imm v => [encA 0x9D f.h (0x01#8 ++ f.fmt) (dstOf .v f.rd) (specOf .v f.a) (specOf .g f.s) 0 v]
  | .viota f => eVNull 0xA2 .v f
  | .vpopc f => eVNull 0xA3 .g f
  | .ldl f => eLoad 0xC0 f
  | .ldc f => eLoad 0xC2 f
  | .ldg f => eLoad 0xD0 f
  | .ldaq f => eLoad 0xDC f
  | .ldlf f => eLoad 0xC8 f
  | .ldlt f => eLoad 0xC9 f
  | .stl f => eStore 0xC1 f
  | .stc f => eStore 0xC3 f
  | .stg f => eStore 0xD1 f
  | .strl f => eStore 0xDD f
  | .stlf f => eStore 0xCA f
  | .vldl f => eVMem 0xC4 .g f
  | .vldg f => eVMem 0xD2 .g f
  | .vgathl f => eVMem 0xC6 .v f
  | .vstl f => eVMem 0xC5 .g f
  | .vstg f => eVMem 0xD3 .g f
  | .vscatl f => eVMem 0xC7 .v f
  | .balloc f => [encA 0xCC f.h 0 (dstOf .g f.rd) (specOf .g f.a) (specOf .g f.b) 0 (f.stripe.setWidth 32)]
  | .prefg f => [encM 0xD4 f.h 0 0 .g f.ad 0]
  | .amol f => eAmo 0xD8 f
  | .amog f => eAmo 0xD9 f
  | .faddx f => [encM 0xDA f.h (cellFn f.g (if f.bf then 2 else 0)) (specOf .g f.src) .g f.ad 4]
  | .rdx f => [encM 0xDB f.h (cellFn f.g 0) (dstOf .g f.rd) .g f.ad 4]
  | .clrx f => [encM 0xDB f.h (cellFn f.g 1) 0 .g f.ad 4]
  | .cpy f => [encE 0xE0 f.h 0 f.hd (specOf .g f.dst) (specOf .g f.src) (specOf .g f.len) (specOf .g f.dev) (0#28 ++ f.ssp ++ f.dsp)]
  | .cpym f => [encE 0xE1 f.h 0 f.hd (specOf .g f.off) (specOf .g f.src) (specOf .g f.len) 0 (0#22 ++ f.ssp ++ f.cmask)]
  | .cpyc f => [encE 0xE2 f.h 0 f.hd (specOf .g f.row) (specOf .g f.src) (specOf .g f.rows) (specOf .g f.stride)
      (0#11 ++ f.ssp ++ f.rnd ++ f.fmt ++ f.sslot ++ f.dslot)]
  | .cpyf f => [encE 0xE3 f.h 0 f.hd (specOf .g f.dst) (specOf .g f.val) (specOf .g f.len) 0 (0#28 ++ f.es ++ f.dsp)]
  | .fwait f => eHandleRead 0xE4 .g f
  | .ftest f => eHandleRead 0xE5 .p f
  | .fexp f => eHandleRead 0xE7 .g f
  | .fcancel f => [encA 0xE6 f.h 0 0 (handleSpec f.hs) 0 0 0]
  | .fimp f => [encA 0xE7 f.h 1 (handleSpec f.hd) (specOf .g f.a) 0 0 0]
  | .tslot f => [encE 0xE8 f.h 0 f.hd (specOf .g f.a) 0 0 0 (f.n.setWidth 32)]
  | .tzero f => [encE 0xE9 f.h 0 f.hd (accSpec f.acc) 0 0 0 0]
  | .tldacc f => [encE 0xEA f.h 0 f.hd (accSpec f.acc) (specOf .g f.a) 0 0 0]
  | .tmma f => eAccMul 0xEB f
  | .tmmas f => eAccMul 0xEC f
  | .tdrain f => eAccDrain 0xED f
  | .tdraint f => eAccDrain 0xEE f
  | .enqres f => eEng1 0xF0 1 0 f
  | .dcdec f => eEng1 0xF2 1 0 f
  | .taskdepReg f => eEng1 0xF3 0 1 f
  | .taskdepUnreg f => eEng1 0xF3 0 2 f
  | .enq f => eEng2 0xF0 0 f
  | .dcadd f => eEng2 0xF2 2 f
  | .xinbox f => eEng2 0xF4 0 f
  | .enqpub f => eEng3 0xF0 2 f
  | .taskdep f => eEng3 0xF3 0 f
  | .dcnew f => eEng4 0xF2 0 f
  | .gather f => eEng4 0xF5 0 f
  | .scatadd f => eEng4 0xF5 1 f
  | .deq f => [encE 0xF0 f.h 3 f.hd (specOf .g f.q) (specOf .g f.dst) 0 0 (0#31 ++ BitVec.ofBool f.nb)]
  | .xsend f => [encE 0xF4 f.h 1 f.hd (specOf .g f.bit) (specOf .g f.src) (specOf .g f.len) 0 (0#31 ++ BitVec.ofBool f.narrow)]
  | .xrecv f => [encE 0xF4 f.h 2 f.hd (specOf .g f.dst) 0 0 0 (0#31 ++ BitVec.ofBool f.nb)]
  | _ => []

/-! ### The table word -/

/-- The instruction that the decoder reads from the bits `w`, numbered as the opcode table numbers them: bits 95 to 0
are the slot, and the next 96 bits the slot after it (the literal of a LIT form). The table gives this hardware's rows no
bits of their own, so `_nbits` only says how many of the low bits are meant; the bits above are zero. -/
def decodeTableWord (_nbits w : Nat) : Option Instr :=
  match decode (BitVec.ofNat 96 w) (BitVec.ofNat 96 (w / 2 ^ 96)) with
  | .ok i => some i
  | .error _ => none

end Sys2Proof
end

