-- ==== Sys2Proof/Config.lean ====
section
/-! DEFINITION. What the implementation fixes (R1, R9) and the free values: opaque constants without a body, applied to a
plain counter of State, for every choice the spec leaves open. No proof can see what they are. -/

namespace Sys2Proof.Config

/-! ### Free values -/

/-- A free truth value: a read inside a lookahead window, a broken promise, an order of engine words (R106, R199). -/
opaque freeBit : Nat → Bool
/-- A free number. -/
opaque freeNat : Nat → Nat
/-- A free 64-bit value. -/
opaque freeWord : Nat → Word
/-- A free unit: at which task unit a strand of a die registers a tensor, which the spec leaves open (R335). -/
opaque tensorUnit : Nat → Nat → Nat
/-- The number of this package in its fabric group, which the spec does not tell how a package learns (R38). -/
opaque package : Nat
/-- Whether a bank of a cluster fails the self-test of a power-on reset, which the spec leaves to the part (R221). -/
opaque bankFails : Nat → Nat → Nat → Bool
/-- The versions of the Onayth Link that the package speaks, as 256·VMAJ + VMIN: the spec does not list them (R379). -/
opaque linkVersions : List Nat
/-- A free 512-bit value. -/
opaque freeVec : Nat → Vec

/-! ### Figures of R1 and R9 -/

/-- Physical registers of a core (R9): compute, or refill and management. -/
def poolG (compute : Bool) : Nat := if compute then 320 else 96
def poolV (compute : Bool) : Nat := if compute then 192 else 0
def poolP (compute : Bool) : Nat := if compute then 96 else 32
/-- Bytes of the scratchpad of a cluster. -/
def scratchBytes : Nat := 0x200000
/-- Entries of a store buffer and of a side log. -/
def storeBufferEntries : Nat := 16
def sideLogEntries : Nat := 32
/-- Lines of the 32 KiB instruction cache and of the 16 KiB data cache of a core, and entries of the TLB of a memory side (R9, R357). -/
def icacheLines : Nat := 512
def dcacheLines : Nat := 256
def tlbEntries : Nat := 32768
/-- Commands that a copy queue or a tile queue holds. -/
def engineQueue : Nat := 2
/-- Entries of a message queue (R160). -/
def messageQueue : Nat := 8
/-- Cycles of a period of P3BUDGET (R29), the age of promotion (R28), and the wait of R24. -/
def p3Period : Nat := 65536
def agePromotion : Nat := 1024
def poolPatience : Nat := 65536
/-- 4,096 cycles of the cluster clock of 2.25 GHz in nanoseconds, rounded up (R162, R220). -/
def wfiNanoseconds : Nat := 1821

end Sys2Proof.Config
end

