-- ==== Sys2Proof/Machine/State.lean ====
section
/-! DEFINITION. The state of a Vutrix 4 package as plain data: strands, cores, clusters, dies, memory, and the model's own
fields (`cur`, `agenda`, `tick`). Sparse maps hold what differs from the reset contents. -/

namespace Sys2Proof.Machine

/-- The bytes of a memory: pairs of address and byte, addresses strictly rising, none equal to the default 0 (log 5). -/
abbrev Memory := List Host.Cell

/-- A sparse map: pairs of key and value, keys strictly rising. -/
abbrev NMap (β : Type) := List (Nat × β)

/-- Why a machine stops with a fault. No rule of the spec stops the machine: a trap is a next state, and so is the debug
halt (R155). -/
inductive Fault where
  /-- Raised by no meaning: kept so that the type is inhabited. Safe. -/
  | none
deriving DecidableEq, Repr, Inhabited

/-- Why a meaning gives no next state. -/
inductive Refusal where
  /-- The instruction has no meaning in the model yet. Raised only by arms of the dispatcher. Safe. -/
  | notModelled (mnemonic : String)
deriving DecidableEq, Repr, Inhabited

/-- Privilege modes (R19, R150). -/
inductive Mode where
  | u
  | s
  | m
deriving DecidableEq, Repr, Inhabited

/-- The spaces of R211. -/
inductive Space where
  | l
  | c
  | g
deriving DecidableEq, Repr, Inhabited

/-- ACCESS of XINFO (R356). -/
inductive Access where
  | read
  | write
  | fetch
  | rmw
deriving DecidableEq, Repr, Inhabited

/-! ### What a strand waits for (R20) -/

inductive Wait where
  /-- a physical register of the class, since this CYCLE (R24) -/
  | pool (c : Cls) (spec pos since : Nat)
  /-- a handle that is PENDING (R242, R248) -/
  | handle (h : Nat)
  /-- room in the core's copy queue, tile queue, or DGE (R242, R307, R347) -/
  | copyQueue
  | tileQueue
  | dgeQueue
  /-- room in the store buffer (R256) -/
  | storeRoom
  /-- the strand's entries leaving the store buffer (R257) -/
  | stores
  /-- the strand's side-log entries leaving (R273) -/
  | sideLog
  /-- `n` free entries of the core's side log (R20, R273) -/
  | logRoom (n : Nat)
  /-- both (R235, R270) -/
  | drained
  /-- both, and the stores of the strand that caches still hold merged being sent home (R259, R275) -/
  | merged
  /-- entries of the strand that overlap `n` bytes at `a` leaving the store buffer and the side log (R256, R273) -/
  | overlap (sp : Space) (cl a n : Nat)
  /-- the buffered stores of a context of the core that are older than entry `seq` of its side log (R359, R360) -/
  | order (ctx seq : Nat)
  /-- an L word becoming full (R230), with TVAL of the BANK_OFF of an access to it (R224) -/
  | full (word : Nat) (ea : Word)
  /-- banks of a cluster being proofed (R220) -/
  | proof (cl : Nat) (banks : List Nat)
  /-- bit errors of words of a cluster being corrected or found (R222) -/
  | errors (cl a n : Nat)
  /-- the end of `wfi`, at this TIME at the latest (R162) -/
  | wfi (deadline : Nat)
  /-- a page whose leaf entry at this physical address is swap-busy (R363) -/
  | swapBusy (pa : Nat)
  /-- the target of `preempt`, by slot and context, becoming SUSPENDED or ending (R165, R370) -/
  | target (sid ctx : Nat)
  /-- engine claims on an L range ending (R224) -/
  | claims (a n : Nat)
  /-- stores of any strand to an L range performing (R224) -/
  | bankStores (a n : Nat)
  /-- the accumulators of its engine checkpoint becoming free (R322) -/
  | acc
  /-- TIME reaching a value, or the strand's stores performed (R266) -/
  | window (t : Nat)
  /-- the result of a domain epoch (R41) -/
  | sync
  /-- a task record (R338) -/
  | work
  /-- a record of a queue (R333) -/
  | deq (q : Nat)
  /-- a packet of the exchange inbox (R346) -/
  | xrecv
  /-- an own engine checkpoint that is not complete (R367) -/
  | checkpoint (sid : Nat)
  /-- handles of the strand that are PENDING, before `retire` or `done` (R291, R338) -/
  | handles
  /-- the answer to a numbered message of the control mesh: an `ipi`, or an operation of MTCMD (R161, R168) -/
  | reply (n : Nat)
  /-- the strand's earlier commands reaching a task unit (R334) -/
  | unit (u : Nat)
  /-- g, v and p registers for a context image of a slot, until this CYCLE at the latest (R369) -/
  | supply (t sid g v p : Nat)
  /-- accesses translated by removed entries being performed (R357) -/
  | translated
  /-- the strand has been resumed in the state that a halt took it from, and executes its instruction again; `issued`: the instruction had
  issued (R21, R365) -/
  | again (issued : Bool)
  /-- a wait of an instruction that a halt lets complete (R365 step 3) -/
  | finishing (w : Wait)
deriving DecidableEq, Repr, Inhabited

/-- The states of a slot (R20). RUNNING is the state of `cur` while it issues and is never stored. -/
inductive Phase where
  | free
  | ready
  | blocked (w : Wait)
  | waiting (w : Wait)
  | suspended (debug : Bool)
deriving DecidableEq, Repr, Inhabited

/-! ### Registers of a strand -/

/-- The register files with their valid bits (R108), and the registers an item shares with its starter (R283). -/
structure Regs where
  g : Vector Word 32
  v : Vector Vec 32
  p : Vector Word 8
  gv : BitVec 32
  vv : BitVec 32
  pv : BitVec 8
  gs : BitVec 32
  vs : BitVec 32
  ps : BitVec 8
deriving DecidableEq, Repr

/-- A source of an instruction whose window is open: what it held, and whether the promise of R106 has been broken by a write of it since. -/
structure WindowSrc where
  cls : Cls
  num : Nat
  val : Nat
  hit : Bool
deriving DecidableEq, Repr

/-- A bank of trap registers (R151). -/
structure TrapBank where
  epc : Word
  cause : Word
  tval : Word
  tvec : Word
  status : Word
  scratch : Word
deriving DecidableEq, Repr, Inhabited

/-- Hardware loops (R145). -/
structure Loops where
  state : Word
  start : Vector Word 4
  fin : Vector Word 4
  count : Vector Word 4
deriving DecidableEq, Repr

/-- One instruction of a loaded repetition body: its address, its slot and literal, and the address after it. -/
structure BodySlot where
  addr : Word
  bits : SlotBits
  lit : SlotBits
  next : Word
deriving DecidableEq, Repr, Inhabited

/-- What the repetition unit does: nothing, issuing from the buffer, or reloading at the next issue (R206, R209). -/
inductive RepMode where
  | off
  | running
  | reload
deriving DecidableEq, Repr, Inhabited

/-- REPSTATE and the repetition buffer (R206, R208). -/
structure Rep where
  state : Word
  mode : RepMode
  body : List BodySlot
deriving DecidableEq, Repr, Inhabited

/-- A stream (R191, R192), and the elements read ahead of a load stream: position, and the bytes captured (R199). -/
structure Stream where
  ctl : Word
  base : Word
  pos : Word
  geo0 : Word
  geo1 : Word
  geo2 : Word
  sfault : Word
  ahead : List (Nat × List Byte)
deriving DecidableEq, Repr, Inhabited

/-- An open lookahead window (R105, R106): the destination with its prior content, the instruction (once it has issued) with its sources,
the instructions left, and whether a read has obtained the new value. -/
structure Window where
  cls : Cls
  num : Nat
  left : Nat
  seen : Bool
  prior : Nat
  priorValid : Bool
  srcs : List WindowSrc
  ins : Option Instr
  /-- the streams that the instruction popped, as they were before, with the element in `ahead` -/
  popped : List (Nat × Stream)
deriving DecidableEq, Repr

/-- A message (R160). -/
structure Msg where
  kind : Nat
  src : Nat
  payload : Word
deriving DecidableEq, Repr, Inhabited

/-- A handle (R247): PENDING and COMPLETE name the operation by number. -/
inductive Handle where
  | empty
  | pending (op : Nat)
  | complete (op : Nat) (status : Word)
deriving DecidableEq, Repr, Inhabited

/-- QSEL, QRING, QCTL, QWDOG (R325) and MTCMD, MTDATA0 to 2 (R168) of a slot. -/
structure SlotPorts where
  qsel : Word
  qring : Word
  qctl : Word
  qwdog : Word
  mtcmd : Word
  mtd0 : Word
  mtd1 : Word
  mtd2 : Word
  xinfo : Word
  swcmd : Word
deriving DecidableEq, Repr, Inhabited

/-- Status, control and special registers of the strand (R149). -/
structure Ctl where
  status : Word
  fflags : Word
  ix : Word
  nx : Word
  dmem : Word
  bwphase : Word
  seed : Word
  ienable : Word
  timecmp : Word
  asid : Word
  swptea : Word
  swpteb : Word
  mbox : Vector Word 8
deriving DecidableEq, Repr

/-- What the strand has told its domain, and what the exchange phase has gathered (R45, R344, R345). -/
structure Domain where
  /-- the epoch already contributed to, and the kind of the contribution -/
  sent : Option (Nat × Nat)
  /-- the result delivered by the broadcast: value and fault mark -/
  result : Option (Word × Bool × Word)
  /-- the pattern agreed at the last `sync.x` -/
  pattern : Word
  /-- packets accepted by each inbox in the current EXCHANGE phase: inbox number and count -/
  counts : NMap Nat
  /-- the router at which the last contribution entered the tree, in the layout of PARENT (R45) -/
  entered : Nat
deriving DecidableEq, Repr, Inhabited

/-- A record that a strand holds: its number among delivered records, its tag (MBOX5 form, R326), DCDONE, the dependence
table entry, the TIME of delivery, and the watchdog stages done (R341). -/
structure Record where
  id : Nat
  tag : Word
  dcdone : Nat
  dep : Option Nat
  since : Nat
  stages : Nat
deriving DecidableEq, Repr, Inhabited

/-- The linkage of an item to its starter record, its private area, and its crumb map: private crumb i holds the crumb
at L offset 64·k (R285). -/
structure Item where
  home : Nat
  index : Nat
  gen : Nat
  area : Nat
  crumbs : NMap Nat
deriving DecidableEq, Repr, Inhabited

/-- The idempotent state (R350), and the operations of the DGE commands issued since `idemb` (R351). -/
structure Idem where
  active : Bool
  pc : Word
  depth : Nat
  dge : List Nat
deriving DecidableEq, Repr, Inhabited

/-- A word that a wide or unaligned load has read before its other words (R253): its space (L for C too), the cluster or in G the ASID, the
address div 8, and its bytes. -/
structure EarlyWord where
  sp : Space
  cl : Nat
  word : Nat
  bytes : List Byte
deriving DecidableEq, Repr, Inhabited

/-- What the issue logic and pre-emption keep for a slot (R28, R293, R365, R155). -/
structure Sched where
  /-- cycles READY and not chosen -/
  age : Nat
  /-- `yield` in force: the cycles since, and the slots that have issued since (R293) -/
  yielded : Option (Nat × List Nat)
  /-- a halt is requested -/
  halt : Bool
  /-- the next fetch is the fetch at TVEC or MTVEC -/
  vecFetch : Bool
  /-- the next fetch is a checked transfer (an entry point or a continuation, R91) -/
  checked : Bool
  /-- a checked transfer whose line could not be fetched: the address still to be checked when the strand comes back to it (R91, R154) -/
  owed : Option Word
  /-- the strand has fallen off the last line of the address space: its next fetch is NONCANON (R93) -/
  beyond : Bool
  /-- the wait of an instruction that has issued has ended, and the instruction completes (R162, R165, R241, R369) -/
  waited : Bool
  /-- the answer that a message of the strand has brought (R161, R165, R168) -/
  reply : Option Word
  /-- groups touched in the current bandwidth phase, latest first (R226) -/
  phase : List Nat
  /-- groups of the residency hint that the phase holds (R226) -/
  hint : List Nat
  /-- the engine checkpoint that follows a halt is still to be taken (R366) -/
  ckptDue : Bool
  /-- the checkpoint to restore before the strand issues again, by its G address (R322) -/
  ckptAt : Option Nat
  /-- of a SUSPENDED strand that was BLOCKED or WAITING: whether it was WAITING, and whether its instruction had issued (R21) -/
  was : Option (Bool × Bool)
  /-- an instruction that had issued before a halt executes again, without an issue (R21) -/
  redo : Bool
  /-- words that the next load has read already (R253) -/
  early : List EarlyWord
deriving DecidableEq, Repr, Inhabited

/-- A strand slot. -/
structure Slot where
  phase : Phase
  pc : Word
  regs : Regs
  windows : List Window
  ctl : Ctl
  sTrap : TrapBank
  mTrap : TrapBank
  loops : Loops
  rep : Rep
  streams : Vector Stream 4
  msgs : List Msg
  ports : SlotPorts
  handles : Vector Handle 8
  domain : Domain
  record : Option Record
  item : Option Item
  idem : Idem
  sched : Sched
  /-- the number of the context, and those of earlier slots whose buffered stores are its own (R275) -/
  ctx : Nat
  debts : List Nat
deriving DecidableEq, Repr

def Regs.none : Regs :=
  ⟨Vector.replicate 32 0, Vector.replicate 32 0, Vector.replicate 8 0, 0, 0, 0, 0, 0, 0⟩
def Loops.none : Loops := ⟨0, Vector.replicate 4 0, Vector.replicate 4 0, Vector.replicate 4 0⟩
def Stream.none : Stream := ⟨0, 0, 0, 0, 0, 0, 0, []⟩
def Ctl.none : Ctl := ⟨0, 0, 0, 0, 0, 0, 1, 0, BitVec.allOnes 64, 0, 0, 0, Vector.replicate 8 0⟩

/-- A FREE slot (logs 2 and 3 name the register values the spec leaves open). -/
def Slot.none : Slot where
  phase := .free
  pc := 0
  regs := Regs.none
  windows := []
  ctl := Ctl.none
  sTrap := default
  mTrap := default
  loops := Loops.none
  rep := ⟨0, .off, []⟩
  streams := Vector.replicate 4 Stream.none
  msgs := []
  ports := default
  handles := Vector.replicate 8 .empty
  domain := default
  record := .none
  item := .none
  idem := ⟨false, 0, 0, []⟩
  sched := ⟨0, .none, false, false, false, .none, false, false, .none, [], [], false, .none, .none, false, []⟩
  ctx := 0
  debts := []

/-! ### Cores -/

/-- What an entry of the store buffer does when it leaves (R256, R257, R271). -/
inductive SbKind where
  | store
  | stlf
  /-- `empty`: the ranges of L whose bits it clears, as address and size -/
  | empty (ranges : List (Nat × Nat))
  | push
  | vector
  /-- `amog` with RD = g0: the operation code, the width, the operand -/
  | reduction (op : Nat) (n : Nat) (v : Nat)
  /-- `faddx`: BF16 or FP32, the operand -/
  | faddx (bf : Bool) (v : Nat)
  | strl
deriving DecidableEq, Repr, Inhabited

/-- An entry of the store buffer (R256): an absent byte is not written (a byte mask). A G entry leaves only with its
probe succeeded: `pas` then holds the physical address of every byte (R359). `ctx` numbers the context that issued
it, whatever becomes of the slot it was issued from (R275); `seq` is its place in the program order of its strand. -/
structure SbEntry where
  sid : Nat
  ctx : Nat
  seq : Nat
  kind : SbKind
  sp : Space
  cl : Nat
  addr : Nat
  bytes : List (Option Byte)
  asid : Nat
  mode : Mode
  due : Nat
  pas : Option (List Nat)
deriving DecidableEq, Repr, Inhabited

/-- An entry of the side log (R273, R359). -/
structure LogEntry where
  entry : SbEntry
  part : Nat
  owndie : Nat
  reason : Nat
  retry : Nat
  persist : Bool
deriving DecidableEq, Repr, Inhabited

/-- A line of the instruction cache (R87, R163): its ASID, its address, U of the page it came from, and its bits. -/
structure ICLine where
  asid : Nat
  va : Nat
  user : Bool
  bits : BitVec 512
deriving DecidableEq, Repr, Inhabited

/-- A line of another die in the data cache (R216, R258, R357): data, dirty bytes, ASID, W permission, physical
address, and the TIME of its fill. -/
structure DcLine where
  asid : Nat
  va : Nat
  /-- the size of the page that the line was filled from -/
  size : Nat
  data : List Byte
  dirty : List Bool
  w : Bool
  pa : Nat
  filled : Nat
  /-- the store that wrote each dirty byte: its strand, context, place in program order, and mode -/
  by_ : List (Nat × Nat × Nat × Mode)
deriving DecidableEq, Repr, Inhabited

/-- A function table (R188): X0, SH, EXTRAP, and the coefficients c0 to c3 of each segment. -/
structure FTable where
  x0 : BitVec 32
  sh : Int
  extrap : Bool
  segs : List (Vector (BitVec 32) 4)
deriving DecidableEq, Repr, Inhabited

/-- An accumulator (R306): its owner, and its elements 32i + j that are not +0. -/
structure Acc where
  owner : Option Nat
  els : NMap (BitVec 32)
deriving DecidableEq, Repr, Inhabited

/-- A write of an engine: at most one 8-byte word (R268); an absent byte is not written. `pos` is what the status reports when
it fails (R247). -/
structure EngWrite where
  sp : Space
  cl : Nat
  addr : Nat
  bytes : List (Option Byte)
  pos : Nat
deriving DecidableEq, Repr, Inhabited

/-- The commands of the copy queue (R244, R245, R344). Slot records are kept as read at acceptance. -/
inductive CopyKind where
  | cpy (dsp ssp : Nat) (dst src len dev : Nat)
  | cpym (off src len : Nat) (cmask : BitVec 8) (ssp : Nat)
  | cpyc (row src rows stride : Nat) (dslot sslot : BitVec 512) (fmt rnd ssp : Nat) (seed : Word)
  | cpyf (dsp dst : Nat) (val : Word) (len es : Nat)
  /-- `xsend`: the bytes as read at acceptance (R328) -/
  | xsend (inbox : Nat) (data : List Byte) (narrow : Bool)
deriving DecidableEq, Repr, Inhabited

/-- A command of the copy queue: the source pieces read so far, then (`begun`) the words still to write. -/
structure CopyCmd where
  sid : Nat
  /-- the context that issued it (R345) -/
  ctx : Nat
  op : Nat
  asid : Nat
  mode : Mode
  nspec : Bool
  kind : CopyKind
  got : List (List Byte)
  begun : Bool
  todo : List EngWrite
  written : Nat
  flags : BitVec 5
  fail : Option Word
deriving DecidableEq, Repr, Inhabited

/-- A tile command (R307): the slot records as copied, the K range, the versions, the L address of `tldacc`, the chunks
done, and for a drain the words still to write. -/
structure TileCmd where
  sid : Nat
  op : Nat
  code : Nat
  acc : Nat
  slots : List (BitVec 512)
  k0 : Nat
  klen : Nat
  va : Nat
  vb : Nat
  addr : Nat
  nspec : Bool
  free : Bool
  zero : Bool
  done : Nat
  begun : Bool
  todo : List EngWrite
  written : Nat
  flags : BitVec 5
  fail : Option Word
  claims : List Nat
deriving DecidableEq, Repr, Inhabited

/-- A DGE command (R347 to R349): the descriptor, the indices and for `scatadd` the source as read at acceptance; the rows
fetched by index; the next position of `gather`, or the next element of `scatadd`; and the words of the position still to write. -/
structure DgeCmd where
  sid : Nat
  op : Nat
  asid : Nat
  mode : Mode
  scatter : Bool
  desc : List Byte
  idx : List Nat
  src : List Byte
  laddr : Nat
  begun : Bool
  rows : NMap (List Byte)
  next : Nat
  todo : List EngWrite
  written : Nat
  flags : BitVec 5
  fail : Option Word
deriving DecidableEq, Repr, Inhabited

/-- A starter record (R276, R280): the context (its pc is the continuation), the address after the `freeze` where its items
begin, the counts, the template, and the copies on other cores: 0 once present, else the TIME of completion. -/
structure Starter where
  ctx : Slot
  entry : Word
  extent : Nat
  next : Nat
  live : Nat
  retired : Nat
  killed : Nat
  tmpl : Word
  place : BitVec 16
  depth : Nat
  slot : Nat
  gen : Nat
  copies : NMap Nat
  /-- the contexts of the items that a pre-emption of the starter has halted and that have not been resumed (R296) -/
  halted : List Nat
deriving DecidableEq, Repr

/-- The engine checkpoint of a slot (R322, R366): commands and accumulators. -/
structure Ckpt where
  sid : Nat
  cmds : List TileCmd
  accs : NMap Acc
deriving DecidableEq, Repr, Inhabited

/-- The issue logic and clock of a core (R25, R29, R152, R383). -/
structure Issue where
  pos : Vector Nat 4
  limit : Nat
  used : Nat
  cycle : Nat
  paused : Bool
  /-- the clock is stretched while the supply droops (R383), and in a region over budget (R385) -/
  droop : Bool
  stretched : Bool
  ballast : Bool
deriving DecidableEq, Repr

/-- A core: compute, refill or management (R9). -/
structure Core where
  issue : Issue
  icache : List ICLine
  dcache : List DcLine
  sb : List SbEntry
  log : NMap LogEntry
  logctl : Word
  logsel : Word
  eckbase : Word
  tables : NMap FTable
  accs : NMap Acc
  copyq : List CopyCmd
  tileq : List TileCmd
  dge : List DgeCmd
  starters : NMap Starter
  gens : NMap Nat
  fenced : Bool
  /-- the `.text` range of the role image the core holds (R166, R382) -/
  image : Option (Nat × Nat)
  /-- the first copy of the next line fill arrives with a parity error (R87) -/
  glitch : Bool
deriving DecidableEq, Repr

/-! ### Clusters -/

/-- Bank states (R219, R220): on, in transition to RET, RET, being proofed; an unlisted bank is OFF. -/
inductive BankSt where
  | on
  | entering
  | ret
  | proofing
deriving DecidableEq, Repr, Inhabited

/-- A bank that has power: its state, and the TIME of the last touch. -/
structure Bank where
  st : BankSt
  touch : Nat
deriving DecidableEq, Repr, Inhabited

/-- The allocation of a group: the first group and the number of groups of its region, and the stripe code (R218). -/
structure Region where
  first : Nat
  groups : Nat
  stripe : Nat
deriving DecidableEq, Repr, Inhabited

/-- A packet in an exchange inbox (R344): its place in the ring, header and payload. -/
structure Packet where
  off : Nat
  src : Nat
  nspec : Bool
  narrow : Bool
  data : List Byte
deriving DecidableEq, Repr, Inhabited

/-- An exchange inbox (R343 to R346). -/
structure Inbox where
  base : Nat
  size : Nat
  tail : Nat
  packets : List Packet
  expect : Nat
  taken : Nat
  /-- an epoch has ended whose packets here no inbox counts: its cluster holds no member (R345) -/
  missed : Bool
deriving DecidableEq, Repr, Inhabited

/-- A cluster (R9, R217 to R229, R299). Unlisted groups are unallocated; BMUSER bits that are clear are listed. -/
structure Cluster where
  mem : Memory
  full : List Nat
  poison : List Nat
  latent : NMap Nat
  banks : NMap Bank
  failed : List Nat
  groups : NMap Region
  tidle : Nat
  user : Vector Word 4
  bmsel : Word
  tslots : NMap (BitVec 512)
  inbox : Inbox
deriving DecidableEq, Repr

/-! ### Dies -/

/-- A TLB entry (R357). -/
structure Tlb where
  asid : Nat
  va : Nat
  size : Nat
  leaf : Word
  leafPa : Nat
  side : Nat
deriving DecidableEq, Repr, Inhabited

/-- The kinds of a contribution (R40). -/
inductive TreeKind where
  | sync
  | syncX
  | vote
deriving DecidableEq, Repr, Inhabited

/-- The combine operations (R40). -/
inductive TreeOp where
  | and
  | or
  | add
  | max
deriving DecidableEq, Repr, Inhabited

/-- A contribution, or a combined word of a subtree (R40, R41): the status word, its second combination (the OR of a
`sync.x` pattern), the count vector, and whether contributions of different kinds met below. -/
structure Contrib where
  domid : Nat
  epoch : Nat
  kind : TreeKind
  op : TreeOp
  w : Word
  w2 : Word
  vec : NMap Nat
  bad : Bool
  child : Bool
  src : Nat
deriving DecidableEq, Repr, Inhabited

/-- The fields of a combining entry as MTDATA0 to MTDATA2 give them (R38, R168). -/
structure TreeData where
  d0 : Word
  d1 : Word
  d2 : Word
deriving DecidableEq, Repr, Inhabited

/-- A combining entry (R38) and the contributions it holds. -/
structure TreeEntry where
  domid : Nat
  epoch : Nat
  parent : Nat
  loc : Nat
  child : Nat
  retired : Nat
  owner : Nat
  last : Word
  /-- retired children: child entries whose members have all sent done -/
  doneChildren : Nat
  got : List Contrib
  /-- children in other packages that have told the entry of themselves, by their places in the layout of PARENT -/
  foreign : List Nat
  /-- writes that have reached the entry while it combines: the strand to answer, the number of its message, and the fields (R168) -/
  writes : List (Nat × Nat × TreeData)
deriving DecidableEq, Repr, Inhabited

/-- An error record (R388). -/
structure ErrRec where
  kind : Nat
  nerr : Nat
  unit : Nat
  timeus : Nat
  addr : Word
deriving DecidableEq, Repr, Inhabited

/-- An exchange of a swap engine (R362): the slot that started it, the leaf entries, and whether SB is set. -/
structure Swap where
  sid : Nat
  pa : Nat
  pb : Nat
  side : Nat
  begun : Bool
deriving DecidableEq, Repr, Inhabited

/-- An OL port that is up (R379): its lane count and link version, the devices that its link reaches (R380), and for each virtual channel
the number of the next flit and the flits delivered. -/
structure OlPort where
  lanes : Nat
  version : Nat
  reach : List Nat
  next : NMap Nat
  rx : NMap (List (List Byte))
deriving DecidableEq, Repr, Inhabited

/-- The power state of a die (R384, R385): the estimated draws of the die and of its regions, and since when the die draws more than it
holds. -/
structure Power where
  hot : BitVec 16
  overBudget : BitVec 16
  draw : Nat
  regions : NMap Nat
  overSince : Option Nat
  held : Nat
  thot : Nat
  hyst : Nat
deriving DecidableEq, Repr, Inhabited

/-- A die. -/
structure Die where
  ptroot : Word
  ptgen : Word
  tlb : List Tlb
  errs : List ErrRec
  errTarget : Word
  ovf : Nat
  power : Power
  swaps : List Swap
  /-- combining entries by 16·router + index -/
  tree : NMap TreeEntry
  ports : NMap OlPort
  /-- the die takes no part in the package: its firmware failed its CRC-32 (R381) -/
  absent : Bool
deriving DecidableEq, Repr

/-! ### Task units, dispensers, mesh, host -/

/-- A record that a unit holds (R326): 64 bytes, the supplier's mode, and the dependence table entry. -/
structure RecInfo where
  bytes : List Byte
  mode : Mode
  src : Nat
  dep : Option Nat
  vers : Word
deriving DecidableEq, Repr, Inhabited

/-- A slot of a queue's publication sequence (R330 to R332). -/
inductive QSlot where
  /-- reserved by the context of a strand -/
  | reserved (ctx : Nat)
  | tomb
  | record (r : RecInfo)
deriving DecidableEq, Repr, Inhabited

/-- A queue (R324, R325): QRING, QCTL and QWDOG as configured, and the open sequence: slots from `head` on. -/
structure Queue where
  ring : Word
  ctl : Word
  wdog : Word
  head : Nat
  slots : List QSlot
deriving DecidableEq, Repr, Inhabited

/-- A live dependency counter (R334). -/
structure Counter where
  count : Nat
  queue : Nat
  held : RecInfo
deriving DecidableEq, Repr, Inhabited

/-- A tile of a task (R335 to R337): tensor, bound version, rectangle, write. -/
structure DepTile where
  tensor : Nat
  version : Nat
  row0 : Nat
  col0 : Nat
  nrows : Nat
  ncols : Nat
  write : Bool
deriving DecidableEq, Repr, Inhabited

/-- An entry of the dependence table (R336): its place in submission order, and the record while it waits. -/
structure DepTask where
  seq : Nat
  queue : Nat
  tiles : List DepTile
  held : Option RecInfo
deriving DecidableEq, Repr, Inhabited

/-- A registered tensor (R335, R337). -/
structure Tensor where
  nrows : Nat
  ncols : Nat
  nverm1 : Nat
  cur : Nat
deriving DecidableEq, Repr, Inhabited

/-- The commands of a task unit (R328). -/
inductive UnitOp where
  | enq (q : Nat) (rec : List Byte)
  | enqres (q : Nat)
  | enqpub (q t : Nat) (rec : List Byte)
  | dcnew (c q : Nat) (rec : List Byte) (n : Nat)
  | dcadd (c : Nat) (a : Int)
  | taskdep (q : Nat) (rec desc : List Byte)
  | reg (w : Word)
  | unreg (w : Word)
  /-- a record that a counter or the dependence table publishes, waiting for the ring (R334) -/
  | publish (q : Nat) (r : RecInfo)
deriving DecidableEq, Repr, Inhabited

/-- Whom the unit answers: the handle operation of a strand, a record of a host LAUNCH, or nobody. -/
inductive Answer where
  | op (n : Nat)
  | launch (session k : Nat)
  | nobody
deriving DecidableEq, Repr, Inhabited

/-- A command on its way to a unit, or (`arrived`) waiting there, in order of arrival (R330). -/
structure UnitCmd where
  sid : Nat
  ctx : Nat
  mode : Mode
  what : UnitOp
  ans : Answer
  arrived : Bool
deriving DecidableEq, Repr, Inhabited

/-- A task unit (R324 to R337). -/
structure TaskUnit where
  queues : NMap Queue
  counters : NMap Counter
  deps : NMap DepTask
  depSeq : Nat
  tensors : NMap Tensor
  cmds : List UnitCmd
deriving DecidableEq, Repr, Inhabited

/-- A record that a dispenser has taken (R339), with the strand it is in flight to, and the TIME since when it is withheld (R340). -/
structure Taken where
  queue : Nat
  r : RecInfo
  since : Nat
  dest : Option Nat
  withheld : Option Nat
deriving DecidableEq, Repr, Inhabited

/-- A dispenser (R339, R340): the strands WAITING in `work`, longest first; the record taken and not yet delivered (a record
on its way to a strand stays here until it arrives, R22); and the queue served last at each PRIO. -/
structure Dispenser where
  waiting : List Nat
  held : Option Taken
  served : NMap Nat
deriving DecidableEq, Repr, Inhabited

/-- The content of a control-mesh message (R16). -/
inductive MeshBody where
  | contrib (c : Contrib)
  | result (domid epoch : Nat) (w : Word) (fault : Bool) (tval : Word) (vec : NMap Nat)
  | done (domid : Nat) (child : Bool) (src : Nat)
  /-- the done contribution of an item to the home core of its starter (R291, R297) -/
  | itemDone (core r gen : Nat) (killed : Bool)
  /-- an operation of MTCMD on its way to a router: OPC, the index, the strand to answer and the number of its message, the fields to write
  (R168); a strand of another package is named 2^16·(1 + its place in the layout of PARENT) + STRANDID -/
  | mtOp (opc idx sid n : Nat) (d : TreeData)
  /-- its answer, with the fields that a read brings -/
  | mtReply (sid n : Nat) (d : Option TreeData)
  /-- a message of a hardware unit to a strand (R160) -/
  | msg (sid : Nat) (m : Msg)
  /-- the message of an `ipi` to a strand, and its answer: the status (R161) -/
  | ipi (sid src n : Nat) (payload : Word)
  | ipiReply (sid n : Nat) (status : Nat)
  /-- the record that a dispenser has taken, to a strand (R327, R340) -/
  | record (d sid : Nat)
  /-- one message of at most 256 B of a role image, on an edge of a boot tree; the last one completes it (R17, R124) -/
  | image (boot src dst role : Nat) (last : Bool)
  /-- the power token (R384) -/
  | token
  /-- time distribution (R378) -/
  | time
deriving DecidableEq, Repr, Inhabited

/-- A message in flight: where it is, and where it goes, as die and router (R14, R17). -/
structure MeshMsg where
  /-- the unit that sent it: a core by its identifier, or 0x1000 + 64·die + router -/
  src : Nat
  die : Nat
  router : Nat
  ddie : Nat
  drouter : Nat
  body : MeshBody
deriving DecidableEq, Repr, Inhabited

/-- Who holds the handle of an operation (R247, R250, R280). -/
inductive Holder where
  | slot (sid h : Nat)
  | starter (core r h : Nat)
  | token
  | nobody
deriving DecidableEq, Repr, Inhabited

/-- An operation (R250): the holder of its handle, its token once exported, whether the token was imported, and the
status once it has completed. -/
structure Op where
  holder : Holder
  token : Option Word
  imported : Bool
  exported : Bool
  status : Option Word
deriving DecidableEq, Repr, Inhabited

/-- A KHT message (R372): type, FLAGS, SESSION, SEQ, ACK, STATUS, the version as 256·VMAJ + VMIN, payload. -/
structure Kht where
  ty : Nat
  flags : Nat
  session : Nat
  seq : Nat
  ack : Nat
  status : Nat
  ver : Nat
  payload : List Byte
deriving DecidableEq, Repr, Inhabited

/-- A message of the device that the host has not acknowledged: the TIME of its next resend, and the interval (R373). -/
structure Unacked where
  m : Kht
  due : Nat
  gap : Nat
deriving DecidableEq, Repr, Inhabited

/-- A KHT session (R373, R374): the version; the lowest SEQ not received, and the next SEQ to send; messages received and
not performed, in SEQ order; the device's unacknowledged messages, and those held while 256 are; whether an acknowledgement
is owed; the words of the LAUNCH being performed; the image being loaded, with its die mask; the TIME of the last datagram. -/
structure Session where
  ver : Nat
  rxNext : Nat
  txNext : Nat
  rx : List Kht
  unacked : List Unacked
  later : List Kht
  ackDue : Bool
  launch : List (Option Word)
  image : Option (Nat × List Byte)
  lastRx : Nat
deriving DecidableEq, Repr, Inhabited

/-- What a context image has no place for and stays with the package after `ctxsave` (R275, R296, R345, R369, R370): the context and those of
its earlier stores, the record it holds, its part in its domain, for an item the registers it holds of its own (g, v, p), the checkpoint
that the image names, and the state that the halt took it from (R21). -/
structure Saved where
  ctx : Nat
  debts : List Nat
  record : Option Nat
  domain : Domain
  own : BitVec 32 × BitVec 32 × BitVec 8
  ckpt : Option Nat
  was : Option (Bool × Bool)
deriving DecidableEq, Repr, Inhabited

/-- The loading of an accepted image (R377, R382): its number; the image and its session; the boot-tree edges not yet taken, and those
whose image is on its way; the cores and the roles whose images they hold; the cores to start, with their roles; whether a forwarding failed;
whether the `.scratch` contents are written. -/
structure Boot where
  id : Nat
  image : List Byte
  session : Nat
  edges : List (Nat × Nat × Nat)
  sent : List (Nat × Nat × Nat)
  holds : List (Nat × Nat)
  starts : List (Nat × Nat)
  failed : Bool
  scratched : Bool
deriving DecidableEq, Repr, Inhabited

/-- TIME and its lock (R152, R265, R267, R378). -/
structure Clock where
  time : Nat
  k : Nat
  pendingK : Option Nat
  lost : Bool
  lock : Bool
  offset : Int
  lastSync : Nat
deriving DecidableEq, Repr, Inhabited

/-- The package budget (R384): PKG, and the free units that the token carries. -/
structure Budget where
  pkg : Nat
  free : Nat
deriving DecidableEq, Repr, Inhabited

/-- The host side and the loader. -/
structure HostPort where
  sessions : NMap Session
  nextSession : Nat
  /-- HELLO messages received and not performed -/
  hellos : List Kht
  /-- datagrams sent to the host, oldest first (R372) -/
  out : List (List Byte)
  /-- the images accepted and not yet started to the end -/
  boots : List Boot
  nextBoot : Nat
  devnum : Nat
deriving DecidableEq, Repr, Inhabited

/-- One move of one agent. -/
inductive Turn where
  /-- a clock cycle of a core: at most one issue (R25) -/
  | cycle (core : Nat)
  /-- an event row of the opcode table -/
  | event (i : Instr)
  /-- a stream of a strand reads ahead (R199) -/
  | readAhead (sid k : Nat)
  /-- the next load of a strand reads a word of L, C or G before its other words (R253) -/
  | readWord (sid : Nat) (sp : Space) (a : Nat)
  /-- a line of another die leaves a core's data cache, its dirty bytes sent home (R258) -/
  | evictLine (core k : Nat)
  /-- a line leaves the instruction cache -/
  | evictCode (core k : Nat)
  /-- a TLB entry leaves -/
  | evictTlb (die k : Nat)
  /-- the tile engine of a core completes a chunk of its running command (R314) -/
  | tileStep (core : Nat)
  /-- the swap engine of a die begins its next exchange (R362) -/
  | swapStep (die k : Nat)
  /-- a soft error: one more bit error in a word of a bank (R222) -/
  | upset (cl word : Nat)
  /-- the next line fill of a core meets a parity error in its first copy (R87) -/
  | glitch (core : Nat)
  /-- an error in an HBM word: corrected or not (R387) -/
  | hbmUpset (pa : Nat) (corrected : Bool)
  /-- TIME passes -/
  | tickTime (ns : Nat)
  /-- a message of another package enters the mesh of a die at an OL router, for a router of the package (R41, R43, R168, R380) -/
  | fabric (die router ddie drouter : Nat) (b : MeshBody)
deriving DecidableEq, Repr, Inhabited

/-- The free choice of the agent that moves next when `agenda` lists none. -/
opaque freeTurn : Nat → Turn

/-! ### The package -/

/-- The state of a package. `cur`, `line`, `agenda` and `tick` are the model's own fields (log 1). -/
structure State where
  /-- the strand that issues -/
  cur : Nat
  /-- the line it issues from (R85) -/
  line : BitVec 512
  /-- the turns to take next -/
  agenda : List Turn
  /-- the counter of free values -/
  tick : Nat
  slots : NMap Slot
  cores : NMap Core
  clusters : NMap Cluster
  dies : NMap Die
  units : NMap TaskUnit
  dispensers : NMap Dispenser
  mem : Memory
  hbmPoison : List Nat
  mesh : List MeshMsg
  /-- messages that have left for other packages, oldest first, with the place they go to in the layout of PARENT (R38, R380) -/
  fabric : List (Nat × MeshBody)
  ops : NMap Op
  nextOp : Nat
  /-- the number of the next context -/
  nextCtx : Nat
  ckpts : NMap Ckpt
  /-- by the STRANDID of the saved slot -/
  saved : NMap Saved
  clock : Clock
  budget : Budget
  host : HostPort
deriving DecidableEq, Repr

/-- An untouched core: the reset values of R25, R29 and R359; the management core of the die receives LOG messages. -/
def Core.initial (id : Nat) : Core where
  issue := ⟨Vector.replicate 4 7, 0x2000, 0, 0, false, false, false, false⟩
  icache := []
  dcache := []
  sb := []
  log := []
  logctl := BitVec.ofNat 64 ((id / 512 * 0x1000 + 0x78) * 2 ^ 48)
  logsel := 0
  eckbase := 0
  tables := []
  accs := []
  copyq := []
  tileq := []
  dge := []
  starters := []
  gens := []
  fenced := false
  image := .none
  glitch := false

/-- An untouched cluster: no bank has power (R228: TIDLE 0x1000, BMUSER all ones). -/
def Cluster.initial : Cluster where
  mem := []
  full := []
  poison := []
  latent := []
  banks := []
  failed := []
  groups := []
  tidle := 0x1000
  user := Vector.replicate 4 (BitVec.allOnes 64)
  bmsel := 0
  tslots := []
  inbox := default

/-- An untouched die (R356, R384, R388). -/
def Die.initial (d : Nat) : Die where
  ptroot := 0
  ptgen := 0
  tlb := []
  errs := []
  errTarget := BitVec.ofNat 64 (0x1000 * d + 0x78)
  ovf := 0
  power := ⟨0, 0, 0, [], .none, 550, 95, 5⟩
  swaps := []
  tree := []
  ports := []
  absent := false

/-- Slot 0 of the management core of a die at reset: READY in M (R381); pc is DESIGN CHOICE 0 (log 3). -/
def Slot.firmware (d : Nat) : Slot :=
  { Slot.none with phase := .ready, ctl := { Ctl.none with status := 3 }, ctx := d + 1 }

/-- The machine right after power-on reset (R381): every slot FREE but slot 0 of each management core. -/
def State.reset : State where
  cur := 0x0078
  line := 0
  agenda := []
  tick := 0
  slots := [(0x0078, Slot.firmware 0), (0x1078, Slot.firmware 1), (0x2078, Slot.firmware 2), (0x3078, Slot.firmware 3)]
  cores := []
  clusters := []
  dies := []
  units := []
  dispensers := []
  mem := []
  hbmPoison := []
  mesh := [⟨0x1000 + 40, 0, 40, 0, 40, .token⟩]
  fabric := []
  ops := []
  nextOp := 0
  nextCtx := 5
  ckpts := []
  saved := []
  clock := ⟨0, 10, .none, false, false, 0, 0⟩
  budget := ⟨0x0898, 0⟩
  host := ⟨[], 0, [], [], [], 0, 0⟩

end Sys2Proof.Machine
end

