-- ==== Sys2Proof/Machine/Maps.lean ====
section
/-! DEFINITION. The sparse maps and the memory of State: lookup, insertion in key order, removal, and the canonical form
of a memory (addresses strictly rising, no byte equal to the default). -/

namespace Sys2Proof.Machine

/-- The value listed at key `k`. -/
def NMap.find {β : Type} : NMap β → Nat → Option β
  | [], _ => none
  | (j, v) :: m, k => if j = k then some v else NMap.find m k

/-- The map with `v` at key `k`; the keys stay in rising order. -/
def NMap.insert {β : Type} : NMap β → Nat → β → NMap β
  | [], k, v => [(k, v)]
  | (j, w) :: m, k, v =>
    if k < j then (k, v) :: (j, w) :: m
    else if k = j then (k, v) :: m
    else (j, w) :: NMap.insert m k v

/-- The map without key `k`. -/
def NMap.erase {β : Type} : NMap β → Nat → NMap β
  | [], _ => []
  | (j, w) :: m, k => if j = k then m else (j, w) :: NMap.erase m k

/-- The keys rise strictly from `lo` on. -/
def NMap.risingFrom {β : Type} : Nat → NMap β → Bool
  | _, [] => true
  | lo, (j, _) :: m => decide (lo ≤ j) && NMap.risingFrom (j + 1) m

/-- The keys rise strictly. -/
def NMap.rising {β : Type} (m : NMap β) : Bool := NMap.risingFrom 0 m

/-- A number in a sorted set. -/
def setInsert : List Nat → Nat → List Nat
  | [], k => [k]
  | j :: m, k => if k < j then k :: j :: m else if k = j then j :: m else j :: setInsert m k

/-- What an unlisted byte of memory reads as: RAM after power-on, and a zero-filled bank (log 5). -/
def Memory.default : Byte := 0

/-- The byte at an address. -/
def Memory.read (m : Memory) (a : Nat) : Byte := (NMap.find m a).getD Memory.default

/-- The memory with a byte written; the canonical form is kept. -/
def Memory.write (m : Memory) (a : Nat) (b : Byte) : Memory :=
  if b = Memory.default then NMap.erase m a else NMap.insert m a b

/-- The canonical form: addresses strictly rising, no entry equal to the default. -/
def Memory.wf (m : Memory) : Bool := NMap.rising m && m.all fun c => c.2 != Memory.default

/-- `n` bytes from an address on. -/
def Memory.readN (m : Memory) : Nat → Nat → List Byte
  | _, 0 => []
  | a, n + 1 => m.read a :: Memory.readN m (a + 1) n

/-- A list of bytes written from an address on. -/
def Memory.writeN (m : Memory) : Nat → List Byte → Memory
  | _, [] => m
  | a, b :: bs => Memory.writeN (m.write a b) (a + 1) bs

/-- A list of bytes written from an address on; an absent byte is not written. -/
def Memory.writeMask (m : Memory) : Nat → List (Option Byte) → Memory
  | _, [] => m
  | a, some b :: bs => Memory.writeMask (m.write a b) (a + 1) bs
  | a, none :: bs => Memory.writeMask m (a + 1) bs

end Sys2Proof.Machine
end

