-- ==== Sys2Proof/Machine/Ops.lean ====
section
/-! DEFINITION. The named operations over the state: the units and their names (R13, R14), the registers and their
valid bits (R24, R108), the system registers' fields, free values, waits, and taking a trap and returning from it
(R153 to R156). -/

namespace Sys2Proof.Machine

/-- What a meaning answers. -/
abbrev Out := Host.Outcome State Fault Refusal

/-! ### Names of units (R13, R123) -/

/-- The core identifier STRANDID[13:3]. -/
def coreOf (sid : Nat) : Nat := sid / 8 % 2048
/-- The cluster identifier STRANDID[13:7]. -/
def clusterOf (sid : Nat) : Nat := sid / 128 % 128
/-- The die STRANDID[13:12]. -/
def dieOf (sid : Nat) : Nat := sid / 4096 % 4
/-- The quadrant of the die, STRANDID[11:10]. -/
def quadOf (sid : Nat) : Nat := sid / 1024 % 4
/-- CORE of a core identifier. -/
def coreNo (core : Nat) : Nat := core % 16
def isCompute (core : Nat) : Bool := decide (coreNo core < 8)
def isRefill (core : Nat) : Bool := coreNo core == 8
def isManagement (core : Nat) : Bool := coreNo core == 15 && core / 16 % 32 == 0
/-- The core exists: compute 0 to 7 and refill 8 of every cluster, management 15 of every die (R13). -/
def coreExists (core : Nat) : Bool := decide (core < 2048) && (isCompute core || isRefill core || isManagement core)
/-- The slots of a core: 8, or 2 on refill and management cores. -/
def slotCount (core : Nat) : Nat := if isCompute core then 8 else 2
/-- The slot exists. -/
def sidExists (sid : Nat) : Bool := decide (sid < 16384) && coreExists (coreOf sid) && decide (sid % 8 < slotCount (coreOf sid))
/-- Slot 0 of the management core of a die. -/
def mgmtSid (die : Nat) : Nat := 0x1000 * die + 0x78
/-- The router a strand is attached to (R14). -/
def routerOf (sid : Nat) : Nat := if isManagement (coreOf sid) then 40 else sid / 128 % 32

/-! ### Access to the parts of the state -/

def State.slot (s : State) (sid : Nat) : Slot := (s.slots.find sid).getD Slot.none
def State.setSlot (s : State) (sid : Nat) (x : Slot) : State := { s with slots := s.slots.insert sid x }
def State.core (s : State) (c : Nat) : Core := (s.cores.find c).getD (Core.initial c)
def State.setCore (s : State) (c : Nat) (x : Core) : State := { s with cores := s.cores.insert c x }
def State.cluster (s : State) (c : Nat) : Cluster := (s.clusters.find c).getD Cluster.initial
def State.setCluster (s : State) (c : Nat) (x : Cluster) : State := { s with clusters := s.clusters.insert c x }
def State.die (s : State) (d : Nat) : Die := (s.dies.find d).getD (Die.initial d)
def State.setDie (s : State) (d : Nat) (x : Die) : State := { s with dies := s.dies.insert d x }
def State.unit (s : State) (u : Nat) : TaskUnit := (s.units.find u).getD default
def State.setUnit (s : State) (u : Nat) (x : TaskUnit) : State := { s with units := s.units.insert u x }
def State.disp (s : State) (d : Nat) : Dispenser := (s.dispensers.find d).getD default
def State.setDisp (s : State) (d : Nat) (x : Dispenser) : State := { s with dispensers := s.dispensers.insert d x }

/-- A slot changed. -/
def State.modSlot (s : State) (sid : Nat) (f : Slot → Slot) : State := s.setSlot sid (f (s.slot sid))

/-- The clock of a core runs again (R383). -/
def State.unpause (s : State) (core : Nat) : State :=
  if (s.core core).issue.paused then s.setCore core { s.core core with issue := { (s.core core).issue with paused := false } } else s

/-- A halt is requested of a strand (R365), unless it is SUSPENDED already: a wake event of its core (R383). -/
def State.askHalt (s : State) (sid : Nat) : State :=
  match (s.slot sid).phase with
  | .suspended _ => s
  | _ => (s.modSlot sid fun x => { x with sched := { x.sched with halt := true } }).unpause (coreOf sid)

/-- The strand that issues, its core, its cluster, and its die. -/
def State.me (s : State) : Slot := s.slot s.cur
def State.setMe (s : State) (x : Slot) : State := s.setSlot s.cur x
def State.myCore (s : State) : Core := s.core (coreOf s.cur)
def State.myCluster (s : State) : Cluster := s.cluster (clusterOf s.cur)

/-! ### Status fields -/

/-- PRIV of a STATUS word (R150): 0 U, 1 S, 3 M; 2 never occurs and counts as U. -/
def privOf (status : Word) : Mode :=
  match (field status 0 2).toNat with
  | 1 => .s
  | 3 => .m
  | _ => .u
def Mode.code : Mode → Nat
  | .u => 0
  | .s => 1
  | .m => 3
def Slot.mode (x : Slot) : Mode := privOf x.ctl.status
def Slot.nspec (x : Slot) : Bool := x.ctl.status.getLsbD 10
def Slot.rm (x : Slot) : Nat := natField x.ctl.status 4 2
def Slot.ie (x : Slot) : Bool := x.ctl.status.getLsbD 3
/-- The priority of a strand: STATUS.PRIO, but 2 for a 3 in U mode (R26). -/
def Slot.prio (x : Slot) : Nat :=
  let p := natField x.ctl.status 8 2
  if p = 3 ∧ x.mode = .u then 2 else p
/-- A STATUS word to be stored: PRIV 2 becomes 0 (R156), PRIO 3 in U becomes 2 (R26), reserved bits are zero (R5). -/
def fixStatus (w : Word) : Word :=
  let w := w &&& 0x73B
  let w := if natField w 0 2 = 2 then setField w 0 2 0 else w
  if natField w 0 2 = 0 ∧ natField w 8 2 = 3 then setField w 8 2 2 else w

/-! ### The execution of one instruction -/

/-- A synchronous trap or an interrupt (R153, R364): the cause code, TVAL, the epc when it is not the instruction's own
address, the stream of a stream fault with its SFAULT value, and XINFO of a translation fault. -/
structure Trap where
  cause : Nat
  tval : Word
  epc : Option Word := none
  stream : Option Nat := none
  sfault : Option Word := none
  xinfo : Option Word := none
deriving DecidableEq, Repr, Inhabited

/-- Why an instruction does not retire here. -/
inductive Stop where
  /-- a trap: nothing of the instruction appears (R7, R107) -/
  | trap (t : Trap)
  /-- the strand waits, BLOCKED or WAITING, and executes the instruction again later -/
  | wait (w : Wait) (waiting : Bool)
  /-- the instruction ends in this state, with its own transfer of control or end of the strand -/
  | done (st : State)
deriving DecidableEq, Repr

/-- The execution of an instruction over the state. -/
abbrev M := StateT State (Except Stop)

def trap {α : Type} (cause : Nat) (tval : Word) : M α := throw (.trap { cause := cause, tval := tval })
def trapWith {α : Type} (t : Trap) : M α := throw (.trap t)
/-- BLOCKED until the condition ends (R20). -/
def block {α : Type} (w : Wait) : M α := throw (.wait w false)
/-- WAITING until the condition ends (R20). -/
def pause {α : Type} (w : Wait) : M α := throw (.wait w true)

def getMe : M Slot := do return (← get).me
def modMe (f : Slot → Slot) : M Unit := modify fun s => s.setMe (f s.me)
def modCore (f : Core → Core) : M Unit := modify fun s => s.setCore (coreOf s.cur) (f s.myCore)
def modCluster (f : Cluster → Cluster) : M Unit := modify fun s => s.setCluster (clusterOf s.cur) (f s.myCluster)

/-- The causes of R364. -/
def cIllegalOp : Nat := 0x01
def cReservedField : Nat := 0x02
def cIllegalTarget : Nat := 0x03
def cFetchParity : Nat := 0x04
def cInvalidReg : Nat := 0x05
def cPrivilege : Nat := 0x06
def cRepConflict : Nat := 0x07
def cLoopDepth : Nat := 0x08
def cMisaligned : Nat := 0x09
def cAlign : Nat := 0x10
def cNoncanon : Nat := 0x11
def cStraddle : Nat := 0x12
def cPageFault : Nat := 0x13
def cStoreLogged : Nat := 0x14
def cProtection : Nat := 0x15
def cSpaceRange : Nat := 0x16
def cBankOff : Nat := 0x17
def cStreamRange : Nat := 0x18
def cPersistent : Nat := 0x19
def cRegCopy : Nat := 0x20
def cCrumbQuota : Nat := 0x21
def cFreezeDepth : Nat := 0x22
def cTemplate : Nat := 0x23
def cSelector : Nat := 0x30
def cTslotInvalid : Nat := 0x31
def cFormat : Nat := 0x32
def cNarrow : Nat := 0x33
def cHandle : Nat := 0x40
def cEngine : Nat := 0x41
def cIdem : Nat := 0x51
def cOverflow : Nat := 0x52
def cPattern : Nat := 0x53
def cEcall : Nat := 0x70
def cEbreak : Nat := 0x71
def cMachine : Nat := 0x7F

/-! ### Free values -/

/-- A fresh free truth value. -/
def freshBit : M Bool := do
  let s ← get
  set { s with tick := s.tick + 1 }
  return Config.freeBit s.tick
/-- A fresh free 64-bit value. -/
def freshWord : M Word := do
  let s ← get
  set { s with tick := s.tick + 1 }
  return Config.freeWord s.tick
/-- A fresh free 512-bit value. -/
def freshVec : M Vec := do
  let s ← get
  set { s with tick := s.tick + 1 }
  return Config.freeVec s.tick

/-! ### Trap entry and return -/

/-- The mode a trap is taken in (R153). -/
def trapMode (cause : Nat) (cur : Mode) : Mode :=
  if cur = .m ∨ cause = cMachine ∨ (cause = cEcall ∧ cur = .s) then .m else .s

/-- CAUSE as the entry writes it (R151). -/
def causeWord (t : Trap) : Word :=
  match t.stream with
  | none => word (t.cause % 256)
  | some k => word (t.cause % 256 + 0x100 * (k % 4) + 0x800)

/-- The bank after an entry: EPC, CAUSE, TVAL and ESTATUS; TVEC and SCRATCH stay (R153). -/
def TrapBank.enter (b : TrapBank) (epc cause tval status : Word) : TrapBank :=
  { b with epc := epc, cause := cause, tval := tval, status := status }

/-- STATUS after an entry: PRIV is the target mode, IE is 0 (R153). -/
def enterStatus (status : Word) (tm : Mode) : Word := setField (setField status 0 2 tm.code) 3 1 0

/-- Stream k of a strand (R191). -/
def Slot.stream (x : Slot) (k : Nat) : Stream := x.streams[k % 4]'(Nat.mod_lt _ (by decide))
def Slot.withStream (x : Slot) (k : Nat) (t : Stream) : Vector Stream 4 := x.streams.set (k % 4) t (Nat.mod_lt _ (by decide))
def Slot.setStream (x : Slot) (k : Nat) (t : Stream) : Slot := { x with streams := x.withStream k t }

/-- Trap entry of a strand (R153): every in-flight instruction is complete, so its lookahead windows close (R107), and a
repetition halts (R209); XINFO and SFAULT report the fault (R192, R356). A checked transfer whose own fetch faults, or that an interrupt
overtakes, stays to be checked (DEDUCED, log 68). -/
def Slot.enter (x : Slot) (t : Trap) : Slot :=
  let tm := trapMode t.cause x.mode
  let epc := t.epc.getD x.pc
  let bank := if tm = .m then x.mTrap else x.sTrap
  let bank' := bank.enter epc (causeWord t) t.tval x.ctl.status
  { x with
    pc := bank.tvec
    windows := []
    ctl := { x.ctl with status := enterStatus x.ctl.status tm }
    sTrap := if tm = .m then x.sTrap else bank'
    mTrap := if tm = .m then bank' else x.mTrap
    rep := { x.rep with mode := .off, body := [] }
    ports := { x.ports with xinfo := t.xinfo.getD x.ports.xinfo }
    streams := match t.stream, t.sfault with
      | some k, some q => x.withStream k { x.stream k with sfault := q }
      | _, _ => x.streams
    sched := { x.sched with
      vecFetch := true
      checked := false
      owed := if x.sched.checked then some x.pc else if x.sched.owed = some epc then .none else x.sched.owed
      beyond := false
      waited := false
      reply := .none
      redo := false
      was := .none
      early := [] } }

/-- Taking a trap: the one shared operation of every trap and interrupt (R153). -/
def takeTrap (t : Trap) (s : State) : State := s.setMe (s.me.enter t)

/-- A trap taken in a slot that is not issuing: the strand leaves its wait, which restarts the clock of its core (R383); a SUSPENDED one stays
SUSPENDED, at the handler (R21). -/
def State.trapAt (s : State) (sid : Nat) (t : Trap) : State :=
  match (s.slot sid).phase with
  | .suspended _ => s.modSlot sid fun x => x.enter t
  | _ => (s.modSlot sid fun x => { x.enter t with phase := .ready }).unpause (coreOf sid)

/-- The return of `eret` (R156): in M from the M bank, else from the S bank; R26 applies to the restored PRIO, and a
restored PRIV of 2 is stored as 0. REPSTATE.ACTIVE makes the repetition resume (R209). The return is not checked (R92); a checked transfer
that its own fetch fault interrupted still is (log 68). -/
def Slot.leave (x : Slot) : Slot :=
  let bank := if x.mode = .m then x.mTrap else x.sTrap
  { x with
    pc := bank.epc
    ctl := { x.ctl with status := fixStatus bank.status }
    rep := { x.rep with mode := if x.rep.state.getLsbD 63 then .reload else .off, body := [] }
    sched := if x.sched.owed = some bank.epc then { x.sched with checked := true, owed := .none, beyond := false }
      else { x.sched with beyond := false } }

/-- POS of the streams, and what they have read ahead, as they were before an instruction that does not retire (R198). -/
def Slot.unpopped (x old : Slot) : Slot :=
  { x with streams := x.streams.zipWith (fun t o => { t with pos := o.pos, ahead := o.ahead }) old.streams }

/-- Banks of a cluster being proofed from now on (R220). -/
def Cluster.proofBanks (c : Cluster) : List Nat → Cluster
  | [] => c
  | b :: bs => match c.banks.find b with
    | some k => Cluster.proofBanks (if k.st = .ret then { c with banks := c.banks.insert b { k with st := .proofing } } else c) bs
    | none => Cluster.proofBanks c bs

/-- PRIVILEGE unless the mode is S or M (R111 step 7). -/
def needSM (tval : Word) : M Unit := do
  if (← getMe).mode = .u then trap cPrivilege tval

/-! ### Register files -/

/-- The specifier of a register, as TVAL reports it (R108). -/
def specWord (c : Cls) (r : Reg) : Nat := (specOf c r).toNat
/-- INVALID_REG (R108). -/
def invalidReg {α : Type} (spec pos : Nat) : M α := trap cInvalidReg (word (spec + 256 * pos))

def Regs.getG (r : Regs) (n : BitVec 5) : Word := if n = 0 then 0 else r.g[n.toNat]
def Regs.getV (r : Regs) (n : BitVec 5) : Vec := r.v[n.toNat]
def Regs.getP (r : Regs) (n : BitVec 5) : Word := if n = 0 then BitVec.allOnes 64 else r.p[n.toNat % 8]'(Nat.mod_lt _ (by decide))
def Regs.validG (r : Regs) (n : BitVec 5) : Bool := n == 0 || r.gv.getLsbD n.toNat
def Regs.validV (r : Regs) (n : BitVec 5) : Bool := r.vv.getLsbD n.toNat
def Regs.validP (r : Regs) (n : BitVec 5) : Bool := n == 0 || r.pv.getLsbD n.toNat
/-- A write sets the valid bit, and the register is the strand's own from then on (R108, R283). -/
def Regs.putG (r : Regs) (n : BitVec 5) (x : Word) : Regs :=
  if n = 0 then r else
    { r with g := r.g.set n.toNat x, gv := bitOn r.gv n.toNat, gs := bitOff r.gs n.toNat }
def Regs.putV (r : Regs) (n : BitVec 5) (x : Vec) : Regs :=
  { r with v := r.v.set n.toNat x, vv := bitOn r.vv n.toNat, vs := bitOff r.vs n.toNat }
def Regs.putP (r : Regs) (n : BitVec 5) (x : Word) : Regs :=
  if n = 0 then r else
    { r with p := r.p.set (n.toNat % 8) x (Nat.mod_lt _ (by decide)), pv := bitOn r.pv n.toNat, ps := bitOff r.ps n.toNat }
/-- A register released: its valid bit is clear (R109, R284). -/
def Regs.drop (r : Regs) (c : Cls) (n : BitVec 5) : Regs :=
  match c with
  | .g => { r with gv := bitOff r.gv n.toNat, gs := bitOff r.gs n.toNat }
  | .v => { r with vv := bitOff r.vv n.toNat, vs := bitOff r.vs n.toNat }
  | .p => { r with pv := bitOff r.pv n.toNat, ps := bitOff r.ps n.toNat }
  | .x => r
/-- Physical registers that a context holds of its own: valid and not shared (R24, R283); g0 and p0 hold none. -/
def Regs.owned (r : Regs) (c : Cls) : Nat :=
  match c with
  | .g => popCount (bitOff (r.gv &&& ~~~r.gs) 0)
  | .v => popCount (r.vv &&& ~~~r.vs)
  | .p => popCount (bitOff (r.pv &&& ~~~r.ps) 0)
  | .x => 0
/-- The valid registers of a starter, each of which a copy takes (R282). -/
def Regs.copied (r : Regs) (c : Cls) : Nat :=
  match c with
  | .g => popCount (bitOff r.gv 0)
  | .v => popCount r.vv
  | .p => popCount (bitOff r.pv 0)
  | .x => 0

/-- The physical registers of a class on a core (R9). -/
def poolSize (core : Nat) (c : Cls) : Nat :=
  match c with
  | .g => Config.poolG (isCompute core)
  | .v => Config.poolV (isCompute core)
  | .p => Config.poolP (isCompute core)
  | .x => 0

/-- Those in use by the core's slots, by its starter records, and by the copies of starters of other cores of its cluster (R24, R280, R282). -/
def State.poolUsed (s : State) (core : Nat) (c : Cls) : Nat :=
  let slots := (s.slots.filter fun x => coreOf x.1 = core && decide (x.2.phase ≠ .free)).map fun x => x.2.regs.owned c
  let records := (s.core core).starters.map fun x => x.2.ctx.regs.owned c
  let copies := (s.cores.filter fun x => x.1 / 16 = core / 16 && decide (x.1 ≠ core)).map fun x =>
    ((x.2.starters.filter fun r => (r.2.copies.find (coreNo core)).getD 1 != 1).map fun r => r.2.ctx.regs.copied c).sum
  slots.sum + records.sum + copies.sum

/-- A physical register of the class is free on the core. -/
def State.poolFree (s : State) (core : Nat) (c : Cls) : Bool := decide (s.poolUsed core c < poolSize core c)

end Sys2Proof.Machine
end

