-- ==== Sys2Proof/Machine/Mesh.lean ====
section
/-! DEFINITION. The control mesh (R14 to R18): routing, sending, the messages of hardware units (R160), and the error
records with the messages they send (R387, R388). -/

namespace Sys2Proof.Machine

/-- The next router of a route inside a die: column first, then row (R17). -/
def gridHop (r d : Nat) : Nat :=
  if r % 8 < d % 8 then r + 1
  else if d % 8 < r % 8 then r - 1
  else if r / 8 < d / 8 then r + 8
  else if d / 8 < r / 8 then r - 8
  else r

/-- The router of the link a message leaves a die by: the shorter way round the ring, and towards (d + 1) mod 4 between
dies two apart (R17). -/
def exitRouter (die ddie : Nat) : Nat := if (ddie + 4 - die) % 4 = 3 then 46 else 45

/-- The next place of a message (R17). -/
def nextHop (die router ddie drouter : Nat) : Nat × Nat :=
  if die = ddie then (die, gridHop router drouter)
  else
    let x := exitRouter die ddie
    if router = x then (if x = 45 then ((die + 1) % 4, 46) else ((die + 3) % 4, 45))
    else (die, gridHop router x)

/-- The class of a message, in the fixed order of R17. -/
def MeshBody.cls : MeshBody → Nat
  | .time => 0
  | .token => 1
  | .contrib _ => 2
  | .result .. => 2
  | .done .. => 2
  | .itemDone .. => 2
  | .mtOp .. => 2
  | .mtReply .. => 2
  | .msg .. => 3
  | .ipi .. => 3
  | .ipiReply .. => 3
  | .record .. => 4
  | .image .. => 5

/-- The unit number of a router's own unit: its combining entries, a dispenser, a task unit, a link, the time distribution. -/
def routerUnit (die router : Nat) : Nat := 0x1000 + 64 * die + router

/-- The unit that a message is for, given its destination router: the core of a strand, a core, or the router's own unit. -/
def MeshBody.unit (ddie drouter : Nat) : MeshBody → Nat
  | .mtReply sid _ _ => coreOf sid
  | .msg sid _ => coreOf sid
  | .ipi sid _ _ _ => coreOf sid
  | .ipiReply sid _ _ => coreOf sid
  | .record _ sid => coreOf sid
  | .itemDone core _ _ _ => core
  | .image _ _ dst _ _ => dst
  | _ => routerUnit ddie drouter

/-- The message of a dispenser's record. -/
def MeshBody.isRecord (d : Nat) : MeshBody → Bool
  | .record e _ => e == d
  | _ => false

/-- A message of a unit enters the mesh at a router. -/
def State.sendMesh (s : State) (src die router ddie drouter : Nat) (b : MeshBody) : State :=
  { s with mesh := s.mesh ++ [⟨src, die, router, ddie, drouter, b⟩] }

/-- A message of a strand's core enters the mesh at its router. -/
def State.sendFrom (s : State) (sid ddie drouter : Nat) (b : MeshBody) : State :=
  s.sendMesh (coreOf sid) (dieOf sid) (routerOf sid) ddie drouter b

/-- A message of a hardware unit to a strand (R160): SRC is 0xFFFF. -/
def State.sendMsg (s : State) (die router sid kind : Nat) (payload : Word) : State :=
  if sidExists sid then s.sendMesh (routerUnit die router) die router (dieOf sid) (routerOf sid) (.msg sid ⟨kind, 0xFFFF, payload⟩) else s

/-- A place as PARENT names it: package, die and router (R38). -/
def placeNo (die router : Nat) : Nat := Config.package % 256 * 256 + die % 4 * 64 + router % 64
/-- The place is in another package. -/
def isForeign (place : Nat) : Bool := place / 256 % 256 != Config.package % 256

/-- A message of a unit to the router of a place: one of another package leaves through an OL port (R380), and routers 48 to 63 are
no routers (R14). -/
def State.sendPlace (s : State) (src die router place : Nat) (b : MeshBody) : State :=
  if 48 ≤ place % 64 then s
  else if isForeign place then { s with fabric := s.fabric ++ [(place, b)] }
  else s.sendMesh src die router (place / 64 % 4) (place % 64) b

/-- No earlier message of one source unit to one destination unit of the same class stands at the same place (R17). -/
def State.mayMove (s : State) (i : Nat) (m : MeshMsg) : Bool :=
  !(s.mesh.take i).any fun x =>
    x.die == m.die && x.router == m.router && x.src == m.src && x.body.cls == m.body.cls &&
      x.body.unit x.ddie x.drouter == m.body.unit m.ddie m.drouter

/-- No message of a class that is served first waits for the same link (R17). The buffers of a router have no size that the spec gives: when a
message moves on is free, so that one may wait for a buffer at any router. -/
def State.linkFree (s : State) (m : MeshMsg) : Bool :=
  let hop (x : MeshMsg) := nextHop x.die x.router x.ddie x.drouter
  !s.mesh.any fun x => x.die == m.die && x.router == m.router && hop x == hop m && !(x.ddie == x.die && x.drouter == x.router) && decide (x.body.cls < m.body.cls)

def MeshMsg.arrived (m : MeshMsg) : Bool := m.die == m.ddie && m.router == m.drouter

/-- A message taken off the mesh at its destination. -/
def State.meshTake (s : State) (i : Nat) : Option (MeshMsg × State) :=
  match s.mesh[i]? with
  | none => none
  | some m => if m.arrived && s.mayMove i m then some (m, { s with mesh := s.mesh.eraseIdx i }) else none

/-- The first message on the mesh that meets a condition and may be taken at its destination. -/
def State.meshFind (s : State) (p : MeshMsg → Bool) : Option Nat :=
  (List.range s.mesh.length).find? fun i => match s.mesh[i]? with
    | some m => p m && m.arrived && s.mayMove i m
    | none => false

/-- ERRHEAD0 without VALID, as record KIND, NERR, UNIT and TIMEUS stand in it (R388). -/
def ErrRec.head (r : ErrRec) : Word := word (r.timeus % 2 ^ 32 + r.unit * 2 ^ 32 + r.nerr * 2 ^ 48 + r.kind * 2 ^ 52)

/-- One bit of CRC-32 of IEEE 802.3. -/
def crcBit (c : BitVec 32) : BitVec 32 := if c.getLsbD 0 then (c >>> 1) ^^^ 0xEDB88320 else c >>> 1
def crcByte (c : BitVec 32) (b : Byte) : BitVec 32 :=
  crcBit (crcBit (crcBit (crcBit (crcBit (crcBit (crcBit (crcBit (c ^^^ b.setWidth 32))))))))
/-- CRC-32 (IEEE 802.3) of bytes. -/
def crc32 (bs : List Byte) : Nat := (~~~(bs.foldl crcByte 0xFFFFFFFF)).toNat

/-- The datagram of a KHT message (R372): its header with MAGIC, LEN and CRC, and the payload. -/
def Kht.bytes (m : Kht) : List Byte :=
  let head := toBytes 2 0x4B48 ++ toBytes 1 (m.ver / 256) ++ toBytes 1 m.ver ++ toBytes 2 m.ty ++ toBytes 2 m.flags ++ toBytes 4 m.session ++
    toBytes 4 m.seq ++ toBytes 4 m.ack ++ toBytes 4 m.payload.length ++ toBytes 4 m.status
  head ++ toBytes 4 (crc32 (head ++ toBytes 4 0 ++ m.payload)) ++ m.payload

/-- Datagrams go out to the host. -/
def State.emit (s : State) (ms : List Kht) : State := { s with host := { s.host with out := s.host.out ++ ms.map Kht.bytes } }

/-- A message of the device goes out, to be resent after 50 µs (R373). -/
def Session.transmit (x : Session) (now : Nat) (m : Kht) : Session := { x with unacked := x.unacked ++ [⟨m, now + 50000, 50000⟩] }

/-- The device sends a KHT message in a session: it stays unacknowledged until the host acknowledges it, and while 256 are
unacknowledged it is held back (R373). -/
def State.khtSend (s : State) (session ty status : Nat) (payload : List Byte) : State :=
  match s.host.sessions.find session with
  | none => s
  | some x =>
    let m : Kht := ⟨ty, 0, session, x.txNext, x.rxNext, status, x.ver, payload⟩
    let y : Session := { x with txNext := (x.txNext + 1) % 2 ^ 32 }
    let put (z : Session) : State := { s with host := { s.host with sessions := s.host.sessions.insert session z } }
    if 256 ≤ x.unacked.length then put { y with later := y.later ++ [m] }
    else (put (y.transmit s.clock.time m)).emit [m]

/-- An error record of a die (R387): it enters the log of 64 or is counted in OVF, sends a message of KIND 5 to
ERRCTL.TARGET, and goes as an EVENT to each open session of version 1.2 or later. -/
def State.logError (s : State) (die kind nerr unit : Nat) (addr : Word) : State :=
  let d := s.die die
  let r : ErrRec := ⟨kind, nerr, unit, s.clock.time / 1000 % 2 ^ 32, addr⟩
  let s1 := if d.errs.length < 64 then s.setDie die { d with errs := d.errs ++ [r] }
    else s.setDie die { d with ovf := Nat.min 255 (d.ovf + 1) }
  let s2 := s1.sendMsg die 40 d.errTarget.toNat 5 (word (kind + unit * 2 ^ 16))
  let payload := toBytes 8 (r.head.toNat + 2 ^ 63) ++ toBytes 8 addr.toNat
  s2.host.sessions.foldl (fun t x => if x.2.ver < 0x102 then t else t.khtSend x.1 0x40 0 payload) s2

/-- UNIT of a record that names a strand slot, a cluster, an HBM stack, or an OL port (R388). -/
def unitSlot (sid : Nat) : Nat := sid % 2 ^ 14
def unitCluster (cl : Nat) : Nat := 0x4000 + cl * 128
def unitStack (k : Nat) : Nat := 0x8000 + k
def unitPort (p : Nat) : Nat := 0xF000 + p

end Sys2Proof.Machine
end

