-- ==== Sys2Proof/Machine/Banks.lean ====
section
/-! DEFINITION. The scratchpad banks of a cluster (R217 to R222, R226): which bank holds a word, the bank check of an
access, proofing and touches, bit errors and poison, and the full/empty bits (R229). -/

namespace Sys2Proof.Machine

/-- The word offsets (address div 8) that `n` bytes from `a` on touch. -/
def wordsOf (a n : Nat) : List Nat :=
  if n = 0 then [] else (List.range ((a + n - 1) / 8 - a / 8 + 1)).map (a / 8 + ·)

/-- The bank that holds L offset `a`: by the stripe of its region (R218); none when the group is unallocated. -/
def Cluster.bankOf (c : Cluster) (a : Nat) : Option Nat :=
  match c.groups.find (a / 0x2000) with
  | none => none
  | some r =>
    let stripe := 8 * 2 ^ r.stripe
    let base := r.first * 0x2000
    let start := base + (a - base) / (stripe * 1024) * (stripe * 1024)
    some (start / 1024 + (a - start) / 8 % stripe)

/-- The power state of a bank; none when it is OFF. -/
def Cluster.bankState (c : Cluster) (b : Nat) : Option BankSt := (c.banks.find b).map (·.st)

/-- The byte's bank is allocated and not OFF (R213). -/
def Cluster.present (c : Cluster) (a : Nat) : Bool :=
  match c.bankOf a with
  | none => false
  | some b => (c.bankState b).isSome

/-- Every byte of an access lies in a bank that is allocated and not OFF. -/
def Cluster.presentAll (c : Cluster) (a n : Nat) : Bool := (wordsOf a n).all fun w => c.present (8 * w)

/-- The lowest address of an access whose bank is unallocated or OFF. -/
def Cluster.firstAbsent (c : Cluster) (a n : Nat) : Option Nat :=
  ((wordsOf a n).find? fun w => !c.present (8 * w)).map fun w => Nat.max a (8 * w)

/-- The banks of an access that have to be proofed first: every one that is not ON. -/
def Cluster.asleep (c : Cluster) (a n : Nat) : List Nat :=
  ((wordsOf a n).filterMap fun w => c.bankOf (8 * w)).eraseDups.filter fun b => c.bankState b != some .on

/-- The banks of an access are touched (R220). -/
def Cluster.touch (c : Cluster) (now a n : Nat) : Cluster :=
  let bs := ((wordsOf a n).filterMap fun w => c.bankOf (8 * w)).eraseDups
  { c with banks := c.banks.map fun x => if bs.contains x.1 then (x.1, { x.2 with touch := now }) else x }

/-- The stripe set of an allocated group: the offset it starts at, and its banks (R218). -/
def Region.stripeAt (r : Region) (g : Nat) : Nat × Nat := ((r.first + (g - r.first) / 2 ^ r.stripe * 2 ^ r.stripe) * 0x2000, 8 * 2 ^ r.stripe)

/-- A bank holds a word of the range, by the stripe of its region (R218): of the part of the range in its stripe set, S words reach every bank. -/
def Cluster.bankIn (c : Cluster) (b a n : Nat) : Bool :=
  match c.groups.find (b / 8) with
  | none => false
  | some r =>
    let (start, banks) := r.stripeAt (b / 8)
    let lo := Nat.max a start
    let hi := Nat.min (a + n) (start + banks * 1024)
    (wordsOf lo (Nat.min (hi - lo) (8 * banks))).any fun w => c.bankOf (8 * w) == some b

/-- Banks of a range woken (R225): those in RET start proofing, and the idle count of every allocated one restarts. -/
def Cluster.wake (c : Cluster) (now a n : Nat) : Cluster :=
  { c with banks := c.banks.map fun x =>
      if c.bankIn x.1 a n then (x.1, ⟨if x.2.st = .ret then .proofing else x.2.st, now⟩) else x }

/-- The full/empty bit of an L word (R229). -/
def Cluster.isFull (c : Cluster) (word : Nat) : Bool := c.full.contains word
def Cluster.setFull (c : Cluster) (word : Nat) : Cluster := { c with full := setInsert c.full word }
def Cluster.setEmpty (c : Cluster) (word : Nat) : Cluster := { c with full := c.full.filter (· != word) }
/-- The bits of every word of a range cleared, or set. -/
def Cluster.emptyRange (c : Cluster) (a n : Nat) : Cluster :=
  { c with full := c.full.filter fun w => !(wordsOf a n).contains w }
def Cluster.fillRange (c : Cluster) (a n : Nat) : Cluster := (wordsOf a n).foldl Cluster.setFull c

/-- Bytes written at a bank: a store of all 8 bytes of a word clears its poison and its bit errors (R222). -/
def Cluster.store (c : Cluster) (a : Nat) (bs : List (Option Byte)) : Cluster :=
  let whole (w : Nat) : Bool := (List.range 8).all fun k =>
    decide (a ≤ 8 * w + k) && (match bs[8 * w + k - a]? with | some (some _) => true | _ => false)
  { c with
    mem := c.mem.writeMask a bs
    poison := c.poison.filter fun w => !whole w
    latent := c.latent.filter fun x => !whole x.1 }

/-- The first poisoned word that a store writes, and does not write whole (R222). -/
def Cluster.narrowed (c : Cluster) (a : Nat) (bs : List (Option Byte)) : Option Nat :=
  let written (w : Nat) : Bool := (List.range 8).any fun k => decide (a ≤ 8 * w + k) && (bs[8 * w + k - a]?).join.isSome
  (wordsOf a bs.length).find? fun w => (c.store a bs).poison.contains w && written w

/-- A word of the access is poisoned (R222). -/
def Cluster.poisoned (c : Cluster) (a n : Nat) : Option Nat := (wordsOf a n).find? fun w => c.poison.contains w

/-- A word of the access holds bit errors not yet found (R222). -/
def Cluster.flawed (c : Cluster) (a n : Nat) : Option Nat :=
  (wordsOf a n).find? fun w => (c.latent.find w).isSome && !c.poison.contains w

/-- A word with bit errors is read in ON: one error is corrected and written back, more poison the word; each makes an
error record (R222, R387). -/
def State.scrub (s : State) (cl w : Nat) : State :=
  let c := s.cluster cl
  let one := c.latent.find w == some 1
  let c' := { c with latent := c.latent.erase w, poison := if one then c.poison else setInsert c.poison w }
  (s.setCluster cl c').logError (cl / 32) (if one then 1 else 3) (if one then 1 else 0) (unitCluster cl) (word (8 * w))

/-- Every flawed word among the next `n` of the access is read. -/
def State.scrubAll (s : State) (cl a n : Nat) : Nat → State
  | 0 => s
  | k + 1 => match (s.cluster cl).flawed a n with
    | none => s
    | some w => State.scrubAll (s.scrub cl w) cl a n k

/-- What a bank check comes to (R213, R220): the access may proceed; the banks to proof first; or the address that is OFF. -/
inductive BankCheck where
  | ok
  | proof (banks : List Nat)
  | off (a : Nat)
deriving DecidableEq, Repr

def Cluster.check (c : Cluster) (a n : Nat) : BankCheck :=
  match c.firstAbsent a n with
  | some x => .off x
  | none => match c.asleep a n with
    | [] => .ok
    | b :: bs => .proof (b :: bs)

/-- The groups that `n` bytes from `a` on touch. -/
def groupsAt (a n : Nat) : List Nat := if n = 0 then [] else (List.range ((a + n - 1) / 0x2000 - a / 0x2000 + 1)).map (a / 0x2000 + ·)

/-- The groups an access touches, latest first, kept for the bandwidth phase when the phase holds any (R226). -/
def Slot.notePhase (x : Slot) (a n : Nat) : Slot :=
  if natField x.ctl.bwphase 0 3 = 0 ∧ x.ctl.bwphase.getLsbD 8 = false then x
  else if n = 0 then x
  else
    let gs := groupsAt a n
    { x with sched := { x.sched with phase := gs.reverse ++ x.sched.phase.filter fun g => !gs.contains g } }

/-- A strand holds a group (R226): one of the CLASS groups it touched last, any group touched under KEEPON, or an
allocated group of the residency hint. -/
def Slot.holds (x : Slot) (g : Nat) : Bool :=
  match x.phase with
  | .free => false
  | .suspended .. => false
  | _ =>
    let keep := if x.ctl.bwphase.getLsbD 8 then x.sched.phase else x.sched.phase.take (natField x.ctl.bwphase 0 3)
    keep.contains g || x.sched.hint.contains g

/-- The banks that words of an allocated group lie in: those of its stripe set (R218). -/
def Cluster.banksOf (c : Cluster) (g : Nat) : List Nat :=
  match c.groups.find g with
  | none => []
  | some r => (List.range (r.stripeAt g).2).map ((r.stripeAt g).1 / 1024 + ·)

/-- A touch of its own cluster by a strand enters its phase; what it holds from then on leaves RET (R220, R226, R227). -/
def State.noteTouch (s : State) (sid a n : Nat) : State :=
  let x := (s.slot sid).notePhase a n
  let c := s.cluster (clusterOf sid)
  let s1 := s.setSlot sid x
  match (groupsAt a n).filter x.holds with
  | [] => s1
  | gs => s1.setCluster (clusterOf sid) (c.proofBanks (gs.flatMap c.banksOf))

/-- Some strand of the cluster holds the group. -/
def State.groupHeld (s : State) (cl g : Nat) : Bool :=
  ((s.cluster cl).groups.find g).isSome && s.slots.any fun x => clusterOf x.1 = cl && x.2.holds g

/-- The granules (64-byte blocks) that tile commands of the cluster's cores claim (R310). -/
def State.claimed (s : State) (cl gran : Nat) : Bool :=
  s.cores.any fun x => x.1 / 16 = cl && x.2.tileq.any fun t => t.claims.contains gran

/-- Some granule of the range is claimed. -/
def State.claimedRange (s : State) (cl a n : Nat) : Bool :=
  n != 0 && (List.range ((a + n - 1) / 64 - a / 64 + 1)).any fun k => s.claimed cl (a / 64 + k)

/-- The bank check of a strand's access to a scratchpad: BANK_OFF, or proofing, or the touch (R213, R220). `ea` is the
address that TVAL reports (R212); without one, for an L access of an item, it is the first byte in a freed bank (R288). -/
def bankAccess (cl a n : Nat) (ea : Option Word) : M Unit := do
  let s ← get
  match (s.cluster cl).check a n with
  | .off x => trap cBankOff (ea.getD (word x))
  | .proof bs => block (.proof cl bs)
  | .ok =>
    set (s.setCluster cl ((s.cluster cl).touch s.clock.time a n))
    if cl = clusterOf s.cur then modify fun t => t.noteTouch t.cur a n

end Sys2Proof.Machine
end

