-- ==== Sys2Proof/Machine/Translate.lean ====
section
/-! DEFINITION. Translation of G addresses (R214, R352 to R358): canonical form, the walk, the TLB, permissions, and the
precise faults of a strand's access. -/

namespace Sys2Proof.Machine

/-- A canonical G address lies in the user half or in the supervisor half (R214). -/
def canonical (a : Int) : Bool :=
  decide (0 ≤ a) && decide (a < 2 ^ 64) && (a.toNat / 2 ^ 52 == 0 || a.toNat / 2 ^ 52 == 0xFFF)
/-- The address lies in the supervisor half. -/
def supervisor (a : Nat) : Bool := a / 2 ^ 52 == 0xFFF
/-- The owning die: bits [51:50] (R214). -/
def ownerDie (a : Nat) : Nat := a / 2 ^ 50 % 4
/-- The ASID an address is translated under (R354). -/
def effAsid (asid a : Nat) : Nat := if supervisor a then 0 else asid

/-- What a translation comes to: the physical address; a failure with REASON and LEVEL (R356); or an entry whose SB is
set, at this physical address (R363). -/
inductive Xlat where
  | ok (pa : Nat)
  | fail (reason level : Nat)
  | busy (leaf : Nat)
deriving DecidableEq, Repr

/-- Eight bytes of near memory as a page-table entry (R353). -/
def State.read8 (s : State) (pa : Nat) : Word := word (ofBytes (s.mem.readN pa 8))

def pteFrame (e : Word) : Nat := natField e 16 32 * 2 ^ 16
def pteSize (e : Word) : Nat := natField e 7 2
def pteReservedBad (e : Word) : Bool := natField e 48 16 != 0 || natField e 11 5 != 0
/-- Bytes of a page of SIZE 1 to 3. -/
def pageBytes (size : Nat) : Nat := if size = 1 then 2 ^ 16 else if size = 2 then 2 ^ 21 else 2 ^ 30
/-- The leaf is malformed at this level (R352, R354): size, alignment of the frame, or TIER against the frame. -/
def leafBad (die level : Nat) (e : Word) : Bool :=
  let f := pteFrame e
  pteSize e != 4 - level || f % pageBytes (pteSize e) != 0 ||
    (if e.getLsbD 9 then decide (f < 2 ^ 40) else !(f / 2 ^ 36 == 2 * die || f / 2 ^ 36 == 2 * die + 1))
/-- The access has the permissions it needs (R355). -/
def permitted (acc : Access) (mode : Mode) (e : Word) : Bool :=
  (match acc with
    | .read => e.getLsbD 1
    | .fetch => e.getLsbD 1
    | .write => e.getLsbD 2
    | .rmw => e.getLsbD 1 && e.getLsbD 2) && (decide (mode ≠ .u) || e.getLsbD 3)
def Access.writes : Access → Bool
  | .write => true
  | .rmw => true
  | _ => false
def Access.code : Access → Nat
  | .read => 0
  | .write => 1
  | .fetch => 2
  | .rmw => 3

/-- The leaf with A set, and D for a write (R354). -/
def markUsed (acc : Access) (e : Word) : Word := bitOn (if acc.writes then bitOn e 6 else e) 5

/-- Where the walk ended: the leaf entry, its physical address and its level, or the failure. -/
inductive Leaf where
  | found (e : Word) (pa level : Nat)
  | fail (reason level : Nat)
  | busy (pa : Nat)
deriving DecidableEq, Repr

/-- The levels of a walk, from the table at `table` on (R354): the list holds the levels left with their indices. -/
def State.walkLevels (s : State) (die : Nat) (acc : Access) (mode : Mode) : Nat → List (Nat × Nat) → Leaf
  | _, [] => .fail 3 3
  | table, (level, idx) :: rest =>
    let pa := table + 8 * idx
    if 2 ^ 39 ≤ pa then .fail 3 level
    else
      let e := s.read8 pa
      if e.getLsbD 0 = false then .fail 2 level
      else if pteReservedBad e then .fail 3 level
      else if pteSize e = 0 then
        if level = 3 then .fail 3 3 else State.walkLevels s die acc mode (pteFrame e) rest
      else if leafBad die level e then .fail 3 level
      else if e.getLsbD 10 then .busy pa
      else if e.getLsbD 9 then .fail 4 level
      else if permitted acc mode e then .found e pa level
      else .fail 5 level

/-- The walk of R354 at die `die`, from the root table. -/
def State.walk (s : State) (die asid ea : Nat) (acc : Access) (mode : Mode) : Leaf :=
  let root := (s.die die).ptroot
  let pa := natField root 16 32 * 2 ^ 16 + 8 * effAsid asid ea
  if root.getLsbD 0 = false ∨ 2 ^ 39 ≤ pa then .fail 1 0
  else
    let e := s.read8 pa
    if e.getLsbD 0 = false then .fail 1 0
    else if pteSize e ≠ 0 ∨ e &&& 0xFFFF00000000FE7E ≠ 0 then .fail 3 0
    else s.walkLevels die acc mode (pteFrame e)
      [(1, ea / 2 ^ 30 % 2 ^ 20), (2, ea / 2 ^ 21 % 2 ^ 9), (3, ea / 2 ^ 16 % 2 ^ 5)]

/-- The page of an address at a size. -/
def pageOf (size ea : Nat) : Nat := ea / pageBytes size * pageBytes size

/-- A TLB entry that translates the access: its page, and D already set for a write (R357). -/
def Tlb.hits (t : Tlb) (asid ea : Nat) (acc : Access) : Bool :=
  t.asid == effAsid asid ea && t.side == ea / 2 ^ 16 % 2 && t.va == pageOf t.size ea && (!acc.writes || t.leaf.getLsbD 6)

/-- The TLB of a die with room for one more entry on a memory side (R357): of a full side the entry filled longest ago leaves (which one
is not stated: DESIGN CHOICE, log 69; any entry may leave at any time by a turn of its own). -/
def tlbRoom (side : Nat) (ts : List Tlb) : List Tlb :=
  if ts.countP (fun t => t.side == side) < Config.tlbEntries then ts
  else (ts.filter fun t => t.side == side).take (Config.tlbEntries - 1) ++ ts.filter fun t => t.side != side

/-- SIZE of the page of an address: of its TLB entry, else of its leaf entry. -/
def State.pageSize (s : State) (asid ea : Nat) : Nat :=
  match (s.die (ownerDie ea)).tlb.find? fun t => t.hits asid ea .read with
  | some t => t.size
  | none => match s.walk (ownerDie ea) asid ea .read .m with
    | .found e _ _ => pteSize e
    | _ => 1

/-- Bytes written at physical addresses. -/
def State.writePhys (s : State) (pa : Nat) (bs : List Byte) : State := { s with mem := s.mem.writeN pa bs }

/-- A translation at the owning die, by the TLB or by a walk, which sets A and D and fills the TLB (R354, R357). `useTlb`
is false for the fresh walks of R360. -/
def State.translate (s : State) (asid ea : Nat) (acc : Access) (mode : Mode) (useTlb : Bool) : Xlat × State :=
  let d := ownerDie ea
  let hit := if useTlb then (s.die d).tlb.find? fun t => t.hits asid ea acc else none
  match hit with
  | some t =>
    if permitted acc mode t.leaf then (.ok (pteFrame t.leaf + ea % pageBytes t.size), s) else (.fail 5 (4 - t.size), s)
  | none => match s.walk d asid ea acc mode with
    | .fail r l => (.fail r l, s)
    | .busy pa => (.busy pa, s)
    | .found e pa _ =>
      let e' := markUsed acc e
      let s1 := if e' = e then s else s.writePhys pa (toBytes 8 e'.toNat)
      let entry : Tlb := ⟨effAsid asid ea, pageOf (pteSize e) ea, pteSize e, e', pa, ea / 2 ^ 16 % 2⟩
      let old := (s1.die d).tlb.filter fun t => !(t.asid == entry.asid && t.va == entry.va && t.size == entry.size && t.side == entry.side)
      let s2 := s1.setDie d { s1.die d with tlb := entry :: tlbRoom entry.side old }
      (.ok (pteFrame e + ea % pageBytes (pteSize e)), s2)

/-- XINFO of a failed walk (R356). -/
def xinfoWord (asid ea level : Nat) (acc : Access) (reason : Nat) : Word :=
  word (effAsid asid ea * 2 ^ 48 + level * 64 + acc.code * 16 + reason)

/-- Reasons 1 to 4 give PAGE_FAULT_LOAD, reason 5 PROTECTION (R358). -/
def xlatCause (reason : Nat) : Nat := if reason = 5 then cProtection else cPageFault

/-- The checks of a G access of `n` bytes before translation (R214), for a strand or an engine in a mode: the first
failure with its TVAL. `al` is the alignment the form requires (1 for none). -/
def gFault (mode : Mode) (ea : Int) (n al : Nat) : Option (Nat × Word) :=
  let last := ea + n - 1
  if ea % al ≠ 0 then some (cAlign, wordI ea)
  else if !canonical ea || !canonical last || supervisor ea.toNat != supervisor last.toNat then some (cNoncanon, wordI ea)
  else if ownerDie ea.toNat ≠ ownerDie last.toNat then some (cStraddle, wordI ea)
  else if mode = .u ∧ supervisor ea.toNat then some (cProtection, wordI ea)
  else none

def gCheck (ea : Int) (n al : Nat) : M Unit := do
  match gFault (← getMe).mode ea n al with
  | some (c, tv) => trap c tv
  | none => return ()

/-- A precise translation of one address of the issuing strand (R358). -/
def xlatOne (acc : Access) (ea : Nat) : M Nat := do
  let s ← get
  let x := s.me
  match s.translate x.ctl.asid.toNat ea acc x.mode true with
  | (.ok pa, s') => set s'; return pa
  | (.fail r l, _) =>
    trapWith { cause := xlatCause r, tval := word ea, xinfo := some (xinfoWord x.ctl.asid.toNat ea l acc r) }
  | (.busy pa, _) => block (.swapBusy pa)

/-- The physical addresses of `n` bytes from `ea` on, at most two pages (R358: the first byte that fails is reported). -/
def xlatRange (acc : Access) (ea n : Nat) : M (List Nat) := do
  let pa ← xlatOne acc ea
  let room := 2 ^ 16 - ea % 2 ^ 16
  if n ≤ room then return (List.range n).map (pa + ·)
  else
    let pb ← xlatOne acc (ea + room)
    return (List.range room).map (pa + ·) ++ (List.range (n - room)).map (pb + ·)

/-- The same translation outside a strand's instruction (a probe, an engine): the physical addresses, or the first failure
with its address; the state keeps what the walks set. -/
def State.xlatBytes (s : State) (asid ea n : Nat) (acc : Access) (mode : Mode) (useTlb : Bool) :
    Except (Xlat × Nat) (List Nat) × State :=
  match s.translate asid ea acc mode useTlb with
  | (.ok pa, s1) =>
    let room := 2 ^ 16 - ea % 2 ^ 16
    if n ≤ room then (.ok ((List.range n).map (pa + ·)), s1)
    else match s1.translate asid (ea + room) acc mode useTlb with
      | (.ok pb, s2) => (.ok ((List.range room).map (pa + ·) ++ (List.range (n - room)).map (pb + ·)), s2)
      | (x, s2) => (.error (x, ea + room), s2)
  | (x, s1) => (.error (x, ea), s1)

/-- The bytes at physical addresses. -/
def State.readPhys (s : State) (pas : List Nat) : List Byte := pas.map s.mem.read
/-- Bytes stored at physical addresses; a store of all 8 bytes of a word clears its poison (R222, R387). -/
def State.storePhys (s : State) (pas : List Nat) (bs : List (Option Byte)) : State :=
  let pairs := (pas.zip bs).filterMap fun x => x.2.map fun b => (x.1, b)
  let whole (w : Nat) : Bool := (List.range 8).all fun k => pairs.any fun x => x.1 == 8 * w + k
  { s with
    mem := pairs.foldl (fun mem x => mem.write x.1 x.2) s.mem
    hbmPoison := s.hbmPoison.filter fun w => !whole w }
/-- A byte of the range is in a poisoned HBM word. -/
def State.physPoisoned (s : State) (pas : List Nat) : Bool := pas.any fun pa => s.hbmPoison.contains (pa / 8)

end Sys2Proof.Machine
end

