-- ==== Sys2Proof/Machine/DataCache.lean ====
section
/-! DEFINITION. What a core holds of its strands' stores to G: which entries of buffers and side logs are a strand's own (R256, R275), the
data cache with its merged stores (R216, R258), and how these go home or into the side log (R273, R359, R362). -/

namespace Sys2Proof.Machine

/-! ### A strand's own entries (R256, R273, R275) -/

/-- The strand's own entries: in its core's buffer, and those that its context left in the buffers of other cores (R275). -/
def State.ownEntries (s : State) (sid : Nat) : List SbEntry :=
  let x := s.slot sid
  ((s.core (coreOf sid)).sb.filter fun e => e.ctx == x.ctx) ++
    (if x.debts.isEmpty then [] else s.cores.flatMap fun c => c.2.sb.filter fun e => x.debts.contains e.ctx)
/-- The entries that the strand's context left in the side logs of other cores (R275). -/
def State.leftLog (s : State) (sid : Nat) : List (Nat × LogEntry) :=
  let x := s.slot sid
  if x.debts.isEmpty then [] else s.cores.flatMap fun c => c.2.log.filter fun e => x.debts.contains e.2.entry.ctx
/-- The strand's own entries in side logs: its core's, oldest first, and those left behind. -/
def State.ownLog (s : State) (sid : Nat) : List (Nat × LogEntry) :=
  ((s.core (coreOf sid)).log.filter fun x => x.2.entry.ctx == (s.slot sid).ctx) ++ s.leftLog sid

/-- Stores that the context left in the buffers of other cores, or on its core under an earlier number (R275). -/
def State.leftEntries (s : State) (sid : Nat) : List SbEntry := (s.ownEntries sid).filter fun e => e.ctx != (s.slot sid).ctx

/-! ### The data cache (R216, R258) -/

/-- The line of the data cache that holds an address. -/
def Core.dcFind (c : Core) (asid va : Nat) : Option DcLine := c.dcache.find? fun x => x.asid == asid && x.va == va

/-- A cached line put in place of an older one of the same address. -/
def Core.dcPut (c : Core) (x : DcLine) : Core :=
  { c with dcache := x :: c.dcache.filter fun y => !(y.asid == x.asid && y.va == x.va) }

/-- The page of a cached line has gone far (R362): its merged stores have no home in HBM. -/
def DcLine.far (x : DcLine) : Bool := decide (2 ^ 40 ≤ x.pa)
def DcLine.isDirty (x : DcLine) : Bool := x.dirty.contains true
/-- Its merged stores fault when they are sent home, and stay in the line while the side log has no room for them (R359, R362). -/
def DcLine.stuck (x : DcLine) : Bool := x.far && x.isDirty
/-- The bytes merged in a line. -/
def DcLine.merged (x : DcLine) : List (Option Byte) := (x.data.zip x.dirty).map fun y => if y.2 then some y.1 else none
def DcLine.clean (x : DcLine) : DcLine := { x with dirty := List.replicate 64 false }
def DcLine.same (x y : DcLine) : Bool := y.asid == x.asid && y.va == x.va
def Core.dcClean (c : Core) (x : DcLine) : Core := { c with dcache := c.dcache.map fun y => if x.same y then y.clean else y }
/-- The lines that meet a condition leave, but for those whose merged stores could not be sent home. -/
def Core.dcDrop (c : Core) (p : DcLine → Bool) : Core := { c with dcache := c.dcache.filter fun x => !p x || x.stuck }

/-- A byte of the line is merged and was written by the store `w`. -/
def DcLine.wroteAt (x : DcLine) (w : Nat × Nat × Nat × Mode) (k : Nat) : Bool := x.dirty[k]?.getD false && x.by_[k]? == some w
/-- The stores whose bytes are merged in the line. -/
def DcLine.writers (x : DcLine) : List (Nat × Nat × Nat × Mode) :=
  ((x.by_.zip x.dirty).filterMap fun y => if y.2 then some y.1 else none).eraseDups
/-- The bytes of one store no longer merged. -/
def DcLine.without (x : DcLine) (w : Nat × Nat × Nat × Mode) : DcLine :=
  { x with dirty := (List.range x.dirty.length).map fun k => x.dirty[k]?.getD false && !x.wroteAt w k }
/-- A store of one of the contexts is merged in the line. -/
def DcLine.holdsOf (x : DcLine) (ctxs : List Nat) : Bool := x.writers.any fun w => ctxs.contains w.2.1

/-- The next place in the program order of the strands of a core: above that of every store on its way. -/
def Core.nextSeq (c : Core) : Nat :=
  let merged := c.dcache.foldl (fun m x => x.writers.foldl (fun m w => Nat.max m (w.2.2.1 + 1)) m) 0
  c.log.foldl (fun m x => Nat.max m (x.2.entry.seq + 1)) (c.sb.foldl (fun m e => Nat.max m (e.seq + 1)) merged)

/-! ### The side log (R273, R359) -/

/-- The free entries of the side log, lowest first. -/
def Core.logRoom (c : Core) : List Nat := (List.range Config.sideLogEntries).filter fun k => (c.log.find k).isNone

/-- The entries that a G store takes: one, or two for more than 32 bytes (R273, R359). -/
def SbEntry.logCost (e : SbEntry) : Nat :=
  match e.kind with
  | .faddx .. => 1
  | _ => if e.bytes.length ≤ 32 then 1 else 2

/-- A G store put into the side log (R273, R359); none when the log lacks room. -/
def Core.logPut (c : Core) (e : SbEntry) (reason : Nat) : Option (Core × Nat) :=
  let d := ownerDie e.addr
  if e.logCost = 1 then
    match c.logRoom with
    | k :: _ => some ({ c with log := c.log.insert k ⟨e, 0, d, reason, 0, false⟩ }, k)
    | [] => none
  else
    match c.logRoom with
    | k :: j :: _ =>
      let lo := { e with bytes := e.bytes.take 32, pas := none }
      let hi := { e with addr := e.addr + 32, bytes := e.bytes.drop 32, pas := none }
      some ({ c with log := (c.log.insert k ⟨lo, 1, d, reason, 0, false⟩).insert j ⟨hi, 2, d, reason, 0, false⟩ }, k)
    | _ => none

/-- The payload of a LOG message (R359). -/
def logPayload (sid idx cause reason : Nat) : Word := word (sid % 2 ^ 16 + idx * 2 ^ 16 + cause * 2 ^ 24 + reason * 2 ^ 32)

/-- A LOG message to LOGCTL.TARGET (R160, R359). -/
def State.sendLog (s : State) (core sid idx cause reason : Nat) : State :=
  s.sendMsg (core / 512) (routerOf (8 * core)) (natField (s.core core).logctl 48 16) 3 (logPayload sid idx cause reason)

/-! ### Merged stores leave (R258, R259, R362) -/

/-- What is still merged of one store, from its first byte to its last (log 47). -/
def DcLine.asStore (x : DcLine) (w : Nat × Nat × Nat × Mode) : SbEntry :=
  let ks := (List.range 64).filter (x.wroteAt w)
  let lo := ks.headD 0
  let bs := (List.range (ks.getLastD 0 + 1 - lo)).map fun k => if x.wroteAt w (lo + k) then x.data[lo + k]? else none
  ⟨w.1, w.2.1, w.2.2.1, .store, .g, 0, x.va + lo, bs, x.asid, w.2.2.2, 0, none⟩

/-- What is merged of one store in a line whose page has gone far, put into the side log with reason 4 (R359, R362). -/
def State.logMerged (core : Nat) (x : DcLine) (s : State) (w : Nat × Nat × Nat × Mode) : State :=
  match (s.core core).logPut (x.asStore w) 4 with
  | some (c, idx) =>
    (s.setCore core { c with dcache := c.dcache.map fun y => if x.same y then y.without w else y }).sendLog core w.1 idx cStoreLogged 4
  | none => s

/-- The dirty bytes of a core's line performed at their home (R258); those of a page that has gone far fault, and enter the side
log (R359, R362). -/
def State.flushLine (core : Nat) (s : State) (x : DcLine) : State :=
  if !x.isDirty then s
  else if !x.far then
    let s1 := s.storePhys ((List.range 64).map (x.pa + ·)) x.merged
    s1.setCore core ((s1.core core).dcClean x)
  else x.writers.foldl (State.logMerged core x) s

/-- Lines of a core's data cache leave, their merged stores sent home first. -/
def State.evictLines (s : State) (core : Nat) (p : DcLine → Bool) : State :=
  let s1 := ((s.core core).dcache.filter p).foldl (State.flushLine core) s
  s1.setCore core ((s1.core core).dcDrop p)

/-- The line of an address leaves a core's data cache, its merged stores sent home first (R216). -/
def State.dropLineOf (s : State) (core asid ea : Nat) : State :=
  match (s.core core).dcFind asid (ea / 64 * 64) with
  | none => s
  | some x => s.evictLines core x.same

/-- The data cache has room for one more line (R9): of a full one some line leaves, its merged bytes sent home first; which one is
free. -/
def State.dcRoom (s : State) (core : Nat) : State :=
  let c := s.core core
  if c.dcache.length < Config.dcacheLines then s
  else match c.dcache[Config.freeNat s.tick % c.dcache.length]? with
    | some x => { s with tick := s.tick + 1 }.evictLines core x.same
    | none => s

/-- An acquire: every line of another die leaves the core's data cache, its dirty bytes sent home first (R259). -/
def State.acquire (s : State) (core : Nat) : State := s.evictLines core fun _ => true
/-- A release: the stores merged in the core's data cache are performed at their home (R258, R259). -/
def State.writeThrough (s : State) (core : Nat) : State := (s.core core).dcache.foldl (State.flushLine core) s

/-- The stores of contexts that the data cache of a core holds merged are sent home (R258, R275). -/
def State.sendHome (ctxs : List Nat) (s : State) (core : Nat) : State :=
  ((s.core core).dcache.filter fun x => x.holdsOf ctxs).foldl (State.flushLine core) s

/-- Merged stores of a strand that its own core cannot perform at once: those of pages gone far, and those that its context left in caches of
other cores (R259, R275, R362). -/
def State.unsent (s : State) (sid : Nat) : Bool :=
  let x := s.slot sid
  ((s.core (coreOf sid)).dcache.any fun l => l.far && l.holdsOf (x.ctx :: x.debts)) ||
    (!x.debts.isEmpty && s.cores.any fun c => c.1 != coreOf sid && c.2.dcache.any fun l => l.holdsOf x.debts)

/-- The merged stores of a strand sent home, wherever they are: at once, or by way of the side log (R259, R273). -/
def State.sendOwn (s : State) (sid : Nat) : State :=
  let x := s.slot sid
  ((s.cores.map (·.1)).filter (· != coreOf sid)).foldl (State.sendHome x.debts) (s.writeThrough (coreOf sid))

end Sys2Proof.Machine
end

