-- ==== Sys2Proof/Machine/Exec.lean ====
section
/-! DEFINITION. What the execution of an instruction comes to: its next state, a trap taken, or a wait entered. -/

namespace Sys2Proof.Machine

/-- The state while the strand waits: BLOCKED or WAITING at the instruction (R20, R21). A wait for proofing starts it; a
read of a word with bit errors corrects or poisons it (R222); a release sends the strand's merged stores home (R259). -/
def waitState (w : Wait) (waiting : Bool) (s : State) : State :=
  let s1 := match w with
    | .proof cl banks => s.setCluster cl ((s.cluster cl).proofBanks banks)
    | .finishing (.proof cl banks) => s.setCluster cl ((s.cluster cl).proofBanks banks)
    | .errors cl a n => s.scrubAll cl a n (n + 1)
    | .finishing (.errors cl a n) => s.scrubAll cl a n (n + 1)
    | .merged => s.sendOwn s.cur
    | .finishing .merged => s.sendOwn s.cur
    | _ => s
  s1.setMe { s1.me with phase := if waiting then .waiting w else .blocked w }

/-- A state in which the instruction ends by itself: unless it has ended its strand, it has not retired, and its streams stay where they
were (R198). -/
def unretired (s s' : State) : State := if s'.me.phase = .free then s' else s'.setMe (s'.me.unpopped s.me)

/-- A wait that a halt does not abandon: the instruction completes first (R365 step 3), and no answer to it is left over. -/
def finishing {α : Type} (act : M α) : M α := fun s =>
  match act s with
  | .error (.wait w waiting) => .error (.wait (.finishing w) waiting)
  | .ok (a, s1) => .ok (a, s1.setMe { s1.me with sched := { s1.me.sched with reply := .none } })
  | r => r

/-- What the execution of an instruction comes to: its state, a trap taken, or a wait. -/
def outcome (act : M Unit) (s : State) : Out :=
  match act s with
  | .ok (_, s') => .next s'
  | .error (.trap t) => .next (takeTrap t s)
  | .error (.wait w waiting) => .next (waitState w waiting s)
  | .error (.done s') => .next (unretired s s')

end Sys2Proof.Machine
end

