-- ==== Sys2Proof/Machine/Mem.lean ====
section
/-! DEFINITION. Loads and stores of a strand in the spaces L, C and G: checks (R213, R214), copy-on-write of items (R285,
R286), forwarding from the store buffer (R256), the data cache (R216, R258), the side log (R273), and the entry of a store
into the buffer. -/

namespace Sys2Proof.Machine

/-! ### Addresses of L and C -/

/-- SPACE_RANGE and ALIGN of an L or C access, with the cluster and the offset it reaches (R211, R213). -/
def localFault (sid : Nat) (sp : Space) (ea : Int) (n al : Nat) : Except (Nat × Word) (Nat × Nat) :=
  let range : Bool := match sp with
    | .c => decide (ea < 0) || decide (2 ^ 26 ≤ ea) || decide (0x200000 < ea % 0x200000 + n)
    | _ => decide (ea < 0) || decide (0x200000 < ea + n)
  if range then .error (cSpaceRange, wordI ea)
  else if ea % al ≠ 0 then .error (cAlign, wordI ea)
  else match sp with
    | .c => .ok (dieOf sid * 32 + ea.toNat / 0x200000, ea.toNat % 0x200000)
    | _ => .ok (clusterOf sid, ea.toNat)

def localAddr (sp : Space) (ea : Int) (n al : Nat) : M (Nat × Nat) := do
  match localFault (← get).cur sp ea n al with
  | .error (c, tv) => trap c tv
  | .ok p => return p

/-- The cluster's scratchpad is reached by the strand: a management core has none, and its L accesses find no bank
(DEDUCED, log 10). -/
def hasScratch (sid : Nat) : Bool := !isManagement (coreOf sid)

/-! ### Items (R285, R286) -/

/-- Base, crumbs and quota of a template descriptor (R278); without a template store the quota is 0. -/
def tmplBase (t : Word) : Nat := natField t 0 21
def tmplCrumbs (t : Word) : Nat := natField t 32 16
def tmplQuota (t : Word) : Nat := if natField t 48 6 = 0 then 64 else natField t 48 6
def tmplPrivate (t : Word) : Nat := tmplBase t + 64 * tmplCrumbs t
/-- The L offset lies in the template crumbs. -/
def inTemplate (t : Word) (a : Nat) : Bool := decide (tmplBase t ≤ a) && decide (a < tmplBase t + 64 * tmplCrumbs t)
/-- The private area of a slot of the cluster (R278). -/
def privateArea (t : Word) (sid : Nat) : Nat := tmplPrivate t + 64 * tmplQuota t * (8 * coreNo (coreOf sid) + sid % 8)

/-- The chain of an item: itself with its starter, then the enclosing starters that were items (R276). -/
def State.chain (s : State) : Nat → Option Item → List (Item × Starter)
  | 0, _ => []
  | _, none => []
  | k + 1, some it => match (s.core it.home).starters.find it.index with
    | none => []
    | some r => (it, r) :: State.chain s k r.ctx.item

/-- The private crumb of an item that copies the crumb of an address. -/
def Item.privateOf (it : Item) (a : Nat) : Option Nat :=
  (it.crumbs.find? fun x => x.2 = a / 64).map fun x => it.area + 64 * x.1 + a % 64

/-- Where a read of an item takes the bytes of a crumb from (R286). -/
def crumbRead (s : State) (a : Nat) : Nat :=
  let ch := s.chain 3 s.me.item
  if ch.any fun x => inTemplate x.2.tmpl a then (ch.findSome? fun x => x.1.privateOf a).getD a else a

/-- The address of a word of a scratchpad in the space it is reached by: in C with the cluster of the die (R211). -/
def wordAddr (sp : Space) (cl w : Nat) : Word := word (8 * w + if sp = .c then cl % 32 * 0x200000 else 0)

/-- The bytes of an L or C range whose bank check has passed: bit errors are corrected, a poisoned word is a
MACHINE_CHECK (R222). -/
def readLocal (sp : Space) (cl a n : Nat) : M (List Byte) := do
  let c := (← get).cluster cl
  match c.flawed a n with
  | some _ => block (.errors cl a n)
  | none => match c.poisoned a n with
    | some w => trap cMachine (wordAddr sp cl w)
    | none => return c.mem.readN a n

/-- A crumb copied into the item's private area (R285): data and full/empty bits. -/
def copyCrumb (cl src dst : Nat) : M Unit := do
  let bs ← readLocal .l cl src 64
  let s ← get
  let c := s.cluster cl
  let c1 := c.store dst (bs.map some)
  let bits := (List.range 8).filter fun k => c.isFull (src / 8 + k)
  set (s.setCluster cl (bits.foldl (fun c k => c.setFull (dst / 8 + k)) (c1.emptyRange dst 64)))

/-- Where a write of an item lands: its private copy, made at the first write to the crumb (R285). -/
def crumbWrite (a : Nat) : M Nat := do
  let s ← get
  let ch := s.chain 3 s.me.item
  match ch, s.me.item with
  | (it, r) :: _, some _ =>
    if ch.any fun x => inTemplate x.2.tmpl a then
      match it.privateOf a with
      | some p => return p
      | none =>
        let k := it.crumbs.length
        if tmplCrumbs r.tmpl = 0 ∨ tmplQuota r.tmpl ≤ k then trap cCrumbQuota (word a)
        let src := crumbRead s (a / 64 * 64)
        let dst := it.area + 64 * k
        bankAccess (clusterOf s.cur) src 64 none
        bankAccess (clusterOf s.cur) dst 64 none
        if s.claimedRange (clusterOf s.cur) dst 64 then block (.claims dst 64)
        copyCrumb (clusterOf s.cur) src dst
        modMe fun x => { x with item := some { it with crumbs := it.crumbs ++ [(k, a / 64)] } }
        return dst + a % 64
    else return a
  | _, _ => return a

/-! ### The store buffer seen by a load (R256) -/

/-- The bytes that an entry writes overlap `n` bytes at `a`. -/
def SbEntry.overlaps (e : SbEntry) (sp : Space) (cl asid a n : Nat) : Bool :=
  (if sp = .g then e.sp == .g && e.asid == asid else e.sp != .g && e.cl == cl) &&
    (List.range n).any fun k => decide (e.addr ≤ a + k) && (match e.bytes[a + k - e.addr]? with | some (some _) => true | _ => false)

/-- An `amog` with RD = g0 (R237). -/
def SbEntry.isReduction (e : SbEntry) : Bool :=
  match e.kind with
  | .reduction .. => true
  | _ => false

/-- The bytes an entry gives to a load it covers. -/
def SbEntry.covers (e : SbEntry) (a n : Nat) : Option (List Byte) :=
  match e.kind with
  | .faddx .. => none
  | .reduction .. => none
  | .empty _ => none
  | _ => if a < e.addr then none else ((List.range n).map fun k => (e.bytes[a + k - e.addr]?).join).mapM id

/-- What the strand's own entries give a load of one piece of memory or, for a vector form, of several: nothing; the bytes of each piece, when the
youngest entry in their way covers every byte of the load; or a wait until it has left (R256). An entry left in the buffer of another core
gives nothing and is waited for (R275). An `amog` that is still to perform holds up every later load (R257). -/
def forwarded (sp : Space) (cl asid : Nat) (ps : List (Nat × Nat)) : M (Option (List (List Byte))) := do
  let s ← get
  if (s.ownEntries s.cur).any SbEntry.isReduction then block .stores
  match (s.ownEntries s.cur).findRev? fun e => ps.any fun p => e.overlaps sp cl asid p.1 p.2 with
  | none => return none
  | some e =>
    match if e.ctx = s.me.ctx then ps.mapM fun p => e.covers p.1 p.2 else none with
    | some bs => return some bs
    | none =>
      let p := (ps.find? fun p => e.overlaps sp cl asid p.1 p.2).getD (0, 0)
      block (.overlap sp cl p.1 p.2)

/-! ### Loads and stores of L and C -/

/-- The cluster and the offset of an access that passes R213: for an item's L access, after copy-on-write (R285, R286). -/
def localPlace (sp : Space) (ea : Int) (n al : Nat) (write : Bool) : M (Nat × Nat) := do
  let (cl, off) ← localAddr sp ea n al
  let s ← get
  if sp = .l ∧ hasScratch s.cur = false then trap cBankOff (wordI ea)
  let a ← (if sp = .l ∧ s.me.item.isSome then (if write then crumbWrite off else return crumbRead s off) else return off)
  bankAccess cl a n (if sp = .l ∧ s.me.item.isSome then none else some (wordI ea))
  return (cl, a)

/-- A load of `n` bytes of L or C. -/
def loadLocal (sp : Space) (ea : Int) (n al : Nat) : M (List Byte) := do
  let (cl, a) ← localPlace sp ea n al false
  match ← forwarded .l cl 0 [(a, n)] with
  | some bs => return bs.flatten
  | none => readLocal sp cl a n

/-- The start of window N + 2, where N is the window of TIME in which a store retires (R262). -/
def Clock.due (c : Clock) : Nat := (c.time / 2 ^ c.k + 2) * 2 ^ c.k

/-- A store of the issuing strand as an entry. -/
def State.entry (s : State) (kind : SbKind) (sp : Space) (cl a : Nat) (bs : List (Option Byte)) (asid : Nat) (pas : Option (List Nat)) : SbEntry :=
  ⟨s.cur, s.me.ctx, s.myCore.nextSeq, kind, sp, cl, a, bs, asid, s.me.mode, s.clock.due, pas⟩

/-- A store enters the buffer at retirement; a full buffer leaves the strand BLOCKED (R256), and so do stores that its context has left in
another buffer, since its stores perform in program order (R255, R275). -/
def pushEntry (e : SbEntry) : M Unit := do
  let s ← get
  if !(s.leftEntries s.cur).isEmpty then block .stores
  let c := s.myCore
  if Config.storeBufferEntries ≤ c.sb.length then block .storeRoom
  modCore fun c => { c with sb := c.sb ++ [e] }

/-- The strand has entries in the side log. -/
def logged : M Bool := do
  let s ← get
  return !(s.ownLog s.cur).isEmpty

/-- A store, `stlf` or cell form to a poisoned word that does not cover the word raises MACHINE_CHECK (R222). -/
def narrowPoison (sp : Space) (cl a : Nat) (bs : List (Option Byte)) : M Unit := do
  match ((← get).cluster cl).narrowed a bs with
  | some w => trap cMachine (wordAddr sp cl w)
  | none => return ()

/-- A store to L or C whose place is known: it waits while the strand's side log holds entries (R273), then enters the buffer. -/
def storeAt (kind : SbKind) (sp : Space) (cl a : Nat) (bs : List (Option Byte)) : M Unit := do
  if ← logged then block .sideLog
  let s ← get
  narrowPoison sp cl a bs
  pushEntry (s.entry kind .l cl a bs 0 none)

/-- A store of bytes to L or C. -/
def storeLocal (kind : SbKind) (sp : Space) (ea : Int) (al : Nat) (bs : List Byte) : M Unit := do
  let (cl, a) ← localPlace sp ea bs.length al true
  storeAt kind sp cl a (bs.map some)

/-! ### G -/

/-- A read at the home of physical addresses; a poisoned word is a MACHINE_CHECK with its address (R222). -/
def readHome (ea : Nat) (pas : List Nat) : M (List Byte) := do
  let s ← get
  match (List.range pas.length).find? fun k => s.hbmPoison.contains (pas[k]?.getD 0 / 8) with
  | some k => trap cMachine (word ((ea + k) / 8 * 8))
  | none => return s.readPhys pas

/-- One byte of a line of another die, through the core's data cache: a cached line may be stale (R258); a miss fills the
line. -/
def dcByte (asid ea pa : Nat) : M Byte := do
  let s ← get
  let va := ea / 64 * 64
  match s.myCore.dcFind asid va with
  | some x => return x.data[ea % 64]?.getD 0
  | none =>
    let pb := pa / 64 * 64
    let data ← readHome va ((List.range 64).map (pb + ·))
    let wOk := match s.translate asid va .write .s true with
      | (.ok _, _) => true
      | _ => false
    let size := s.pageSize asid va
    modify fun s => s.dcRoom (coreOf s.cur)
    modCore fun c => c.dcPut ⟨asid, va, size, data, List.replicate 64 false, wOk, pb, s.clock.time, List.replicate 64 default⟩
    return data[ea % 64]?.getD 0

def dcBytes (asid : Nat) : Nat → List Nat → M (List Byte)
  | _, [] => return []
  | ea, pa :: pas => do
    let b ← dcByte asid ea pa
    let bs ← dcBytes asid (ea + 1) pas
    return b :: bs

/-- A store that the context left merged in the cache of another core, and that cannot be sent home yet, overlaps the range (R254, R275). -/
def State.leftMerged (s : State) (sid asid a n : Nat) : Bool :=
  let x := s.slot sid
  !x.debts.isEmpty && s.cores.any fun c => c.1 != coreOf sid && c.2.dcache.any fun l =>
    l.asid == asid && decide (l.va < a + n) && decide (a < l.va + 64) && l.holdsOf x.debts

/-- A load waits for entries of its strand in side logs that overlap it (R273), and for stores that its context left in another cache (R275). -/
def needReplayed (asid : Nat) (ps : List (Nat × Nat)) : M Unit := do
  let s ← get
  if ps.any fun p => s.leftMerged s.cur asid p.1 p.2 then block .merged
  match ps.find? fun p => (s.ownLog s.cur).any fun x => x.2.entry.overlaps .g 0 asid p.1 p.2 with
  | some p => block (.overlap .g 0 p.1 p.2)
  | none => return ()

/-- The bytes of an unaligned or wide load whose words were not all read in one instant: those read before keep their value (R253). -/
def Slot.seen (x : Slot) (sp : Space) (cl a : Nat) (bs : List Byte) : List Byte :=
  (List.range bs.length).map fun k =>
    match x.sched.early.find? fun e => e.sp == sp && e.cl == cl && e.word == (a + k) / 8 with
    | some e => e.bytes[(a + k) % 8]?.getD 0
    | .none => bs[k]?.getD 0

/-- A G load of `n` bytes after the checks of R214: its translation, the wait for overlapping side-log entries (R273), the own
store buffer, then the data cache for lines of other dies and the home otherwise (R253: what it has read before stands). -/
def loadGlobalAt (ea n : Nat) (home : Bool) : M (List Byte) := do
  let pas ← xlatRange .read ea n
  let s ← get
  let asid := effAsid s.me.ctl.asid.toNat ea
  needReplayed asid [(ea, n)]
  match ← forwarded .g 0 asid [(ea, n)] with
  | some bs => return bs.flatten
  | none =>
    let bs ← (if home || ownerDie ea = dieOf s.cur then readHome ea pas else dcBytes asid ea pas)
    return if home then bs else s.me.seen .g asid ea bs

def loadGlobal (ea : Int) (n al : Nat) : M (List Byte) := do
  gCheck ea n al
  loadGlobalAt ea.toNat n false

/-- The poisoned HBM word that a G store meets, by its address: a word that it writes and does not write whole, or that a reduction or a cell form
reads (R222, R387). The bytes past the first page of an unaligned store are translated with it. -/
def State.homePoison (s : State) (kind : SbKind) (ea : Nat) (bs : List (Option Byte)) : Option Nat :=
  let reads := match kind with
    | .reduction .. => true
    | .faddx .. => true
    | _ => false
  let x := s.me
  match s.xlatBytes x.ctl.asid.toNat ea bs.length .write x.mode true with
  | (.ok pas, _) =>
    let left := (s.storePhys pas bs).hbmPoison
    (List.range bs.length).find? fun k =>
      (bs[k]?).join.isSome && (if reads then s.hbmPoison else left).contains (pas[k]?.getD 0 / 8)
  | _ => none

/-- A G store to a poisoned word raises MACHINE_CHECK at the store, as one in L does (R222, R387; log 71). -/
def needHome (kind : SbKind) (ea : Nat) (bs : List (Option Byte)) : M Unit := do
  match (← get).homePoison kind ea bs with
  | some k => trap cMachine (word ((ea + k) / 8 * 8))
  | none => return ()

/-- A G store at retirement: into the buffer, or behind the strand's side-log entries into the log (R256, R273). Behind log entries that its
context left on another core it waits (R275). -/
def storeGlobalAt (kind : SbKind) (ea : Nat) (bs : List (Option Byte)) : M Unit := do
  needHome kind ea bs
  let s ← get
  let e := s.entry kind .g 0 ea bs (effAsid s.me.ctl.asid.toNat ea) none
  if ← logged then
    if !(s.leftLog s.cur).isEmpty then block .sideLog
    match s.myCore.logPut e 0 with
    | some (c, _) => modify fun t => t.setCore (coreOf t.cur) c
    | none => block (.logRoom e.logCost)
  else pushEntry e

def storeGlobal (kind : SbKind) (ea : Int) (al : Nat) (bs : List Byte) : M Unit := do
  gCheck ea bs.length al
  storeGlobalAt kind ea.toNat (bs.map some)

/-! ### Loads and stores by space -/

def loadSpace (sp : Space) (ea : Int) (n al : Nat) : M (List Byte) :=
  match sp with
  | .g => loadGlobal ea n al
  | _ => loadLocal sp ea n al

def storeSpace (kind : SbKind) (sp : Space) (ea : Int) (al : Nat) (bs : List Byte) : M Unit :=
  match sp with
  | .g => storeGlobal kind ea al bs
  | _ => storeLocal kind sp ea al bs

/-- The strand's earlier stores have left the store buffer (R257). -/
def needStores : M Unit := do
  let s ← get
  if !(s.ownEntries s.cur).isEmpty then block .stores
/-- The strand's earlier stores have left the store buffer and its side log has drained (R235, R270). -/
def needDrained : M Unit := do
  let s ← get
  if !(s.ownEntries s.cur).isEmpty || !(s.ownLog s.cur).isEmpty then block .drained

def acquire : M Unit := modify fun s => s.acquire (coreOf s.cur)
/-- The merged stores of the core are sent home; those of the strand that cannot be performed at once, it waits for (R259, R273). -/
def sendMerged : M Unit := do
  let s ← get
  if s.unsent s.cur then block .merged
  modify fun s => s.writeThrough (coreOf s.cur)
/-- A release of package scope (R259): the strand's stores and its side log, then the merged stores of the cache. -/
def release : M Unit := do
  needDrained
  sendMerged

/-- Stream read-ahead is discarded (R199, R235). -/
def discardAhead : M Unit := modMe fun x => { x with streams := x.streams.map fun t => { t with ahead := [] } }

end Sys2Proof.Machine
end

