-- ==== Sys2Proof/Machine/StreamElem.lean ====
section
/-! DEFINITION. Stream elements (R191 to R199): the fields of a stream, the address of an element, a pop and a push with
their checks in the order of R194. -/

namespace Sys2Proof.Machine

def Stream.kind (t : Stream) : Nat := natField t.ctl 0 2
def Stream.esizeCode (t : Stream) : Nat := natField t.ctl 4 3
/-- Bytes of an element. -/
def Stream.esize (t : Stream) : Nat := if t.esizeCode = 4 then 64 else 2 ^ t.esizeCode
def Stream.isG (t : Stream) : Bool := t.ctl.getLsbD 7
def Stream.sext (t : Stream) : Bool := t.ctl.getLsbD 8
def Stream.ndim (t : Stream) : Nat := natField t.ctl 9 2
def Stream.idxBytes (t : Stream) : Nat := if t.ctl.getLsbD 11 then 4 else 2
def Stream.sentV (t : Stream) : Bool := t.ctl.getLsbD 12
def Stream.isStore (t : Stream) : Bool := t.ctl.getLsbD 13
def Stream.bound (t : Stream) : Bool := t.ctl.getLsbD 15
def Stream.space (t : Stream) : Space := if t.isG then .g else .l

/-- The bound of dimension d (R191). -/
def Stream.dimBound (t : Stream) (d : Nat) : Nat := natField t.geo0 (16 * d) 16 + 1
/-- The byte stride of dimension d. -/
def Stream.dimStride (t : Stream) (d : Nat) : Int :=
  (field (if d < 2 then t.geo1 else t.geo2) (32 * (d % 2)) 32).toInt
/-- The product of the bounds below dimension d. -/
def Stream.below (t : Stream) : Nat → Nat
  | 0 => 1
  | d + 1 => Stream.below t d * t.dimBound d

/-- COUNT of R193. -/
def Stream.count (t : Stream) : Nat :=
  if t.kind = 1 then t.below (t.ndim + 1) else if t.kind = 2 then natField t.geo0 0 32 else 0

/-- The address of an element of an affine stream (R193), computed exactly. -/
def Stream.affine (t : Stream) (q : Nat) : Int :=
  ((List.range (t.ndim + 1)).map fun d =>
    let c := q / t.below d
    ((if d < t.ndim then c % t.dimBound d else c : Nat) : Int) * t.dimStride d).sum + t.base.toNat

/-- A fault of a stream: CAUSE.SV and STREAM, and SFAULT := q (R194); MACHINE_CHECK stays as it is (R222). -/
def onStream {α : Type} (k q : Nat) (act : M α) : M α := fun s =>
  match act s with
  | .error (.trap t) => if t.cause = cMachine then .error (.trap t) else .error (.trap { t with stream := some k, sfault := some (word q) })
  | r => r

/-- The address of the element at position q, or none for the sentinel (R193), with checks 1 to 3 of R194. -/
def elemAddr (t : Stream) (q : Nat) : M (Option Int) := do
  if t.count ≤ q then trap cStreamRange 0
  if t.kind = 1 then return some (t.affine q)
  else
    let w := t.idxBytes
    let ia : Int := natField t.geo0 32 32 + q * w
    let (cl, a) ← localPlace .l ia w w false
    let x := ofBytes (← readLocal .l cl a w)
    if t.sentV && x == natField t.geo1 32 32 then return none
    let ib := natField t.geo1 0 32
    if ib ≠ 0 ∧ ib ≤ x then trap cStreamRange (word x)
    return some (t.base.toNat + x * (field t.geo2 0 32).toInt)

/-- Stream `k` moved on by one element. -/
def advance (k : Nat) : M Unit :=
  modMe fun x => x.setStream k { x.stream k with pos := (x.stream k).pos + 1,
                                                  ahead := (x.stream k).ahead.filter fun e => e.1 != (x.stream k).pos.toNat }

/-- The bytes of an element that passes its checks, as they are at this instant; pops see no store buffer (R199). -/
def elemBytes (t : Stream) (ea : Int) : M (List Byte) := do
  let n := t.esize
  if t.isG then
    gCheck ea n n
    let pas ← xlatRange .read ea.toNat n
    let s ← get
    if ownerDie ea.toNat = dieOf s.cur then readHome ea.toNat pas
    else dcBytes (effAsid s.me.ctl.asid.toNat ea.toNat) ea.toNat pas
  else
    let (cl, a) ← localPlace .l ea n n false
    readLocal .l cl a n

/-- A pop of stream `k` (R197 to R199): an element read ahead keeps the value of the instant it was read. -/
def popElem (k : Nat) : M (List Byte) := do
  let t := (← getMe).stream k
  let q := t.pos.toNat
  onStream k q do
    match ← elemAddr t q with
    | none => advance k; return List.replicate t.esize 0
    | some ea =>
      let now ← elemBytes t ea
      advance k
      return (NMap.find t.ahead q).getD now

/-- A push of the low ESIZE bytes of a result to stream `k`; an absent byte is not written (R197). -/
def pushElem (k : Nat) (bs : List (Option Byte)) : M Unit := do
  let t := (← getMe).stream k
  let q := t.pos.toNat
  onStream k q do
    match ← elemAddr t q with
    | none => advance k
    | some ea =>
      let b := bs.take t.esize
      if t.isG then
        gCheck ea t.esize t.esize
        storeGlobalAt .push ea.toNat b
      else
        let (cl, a) ← localPlace .l ea t.esize t.esize true
        storeAt .push .l cl a b
      advance k

/-- The value of an element popped into a g register (R197). -/
def Stream.extend (t : Stream) (bs : List Byte) : Word :=
  let n := 8 * t.esize
  let v := ofBytes bs
  if t.sext ∧ n < 64 ∧ 2 ^ (n - 1) ≤ v then wordI ((v : Int) - 2 ^ n) else word v

end Sys2Proof.Machine
end

