-- ==== Sys2Proof/Machine/Operands.lean ====
section
/-! DEFINITION. Operands: reading a register with its valid bit (R108), a bound stream (R197) or an open lookahead window
(R106); writing a register from the pool (R24); effective addresses (R212); guards and lane masks (R103, R171); and the
retirement of an instruction with its marks, windows, loops and repetition (R107, R109, R147, R206). -/

namespace Sys2Proof.Machine

/-! ### Streams bound to registers -/

/-- The stream bound to a register (R191): g(24 + k) for elements of up to 8 B, v(24 + k) for 64 B. -/
def Slot.boundTo (x : Slot) (c : Cls) (n : BitVec 5) : Option Nat :=
  if n.toNat < 24 ∨ 28 ≤ n.toNat then .none
  else
    let k := n.toNat - 24
    let t := x.stream k
    if t.bound && ((c == .g && t.esizeCode != 4) || (c == .v && t.esizeCode == 4)) then some k else .none

/-! ### Lookahead windows (R105, R106) -/

/-- The register's content as a number, with its valid bit. -/
def Regs.peek (r : Regs) (c : Cls) (n : BitVec 5) : Nat × Bool :=
  match c with
  | .g => ((r.getG n).toNat, r.validG n)
  | .v => ((r.getV n).toNat, r.validV n)
  | .p => ((r.getP n).toNat, r.validP n)
  | .x => (0, false)

/-- A read inside a window obtains the new value if an earlier read has, else either (R106). -/
def peekReg (c : Cls) (n : BitVec 5) : M (Nat × Bool) := do
  let x ← getMe
  let new := x.regs.peek c n
  match x.windows.find? fun w => w.cls == c && w.num == n.toNat with
  | none => return new
  | some w =>
    if w.seen then return new
    else if ← freshBit then
      modMe fun y => { y with windows := y.windows.map fun v =>
        if v.cls == c && v.num == n.toNat then { v with seen := true } else v }
      return new
    else return (w.prior, w.priorValid)

/-- Read a g register at a source position (R108, R197). -/
def readG (pos : Nat) (r : Reg) : M Word := do
  let x ← getMe
  if r.n = 0 then return 0
  match x.boundTo .g r.n with
  | some k =>
    if (x.stream k).isStore then invalidReg (specWord .g r) pos
    else
      let bs ← popElem k
      return (x.stream k).extend bs
  | none =>
    let (v, ok) ← peekReg .g r.n
    if ok then return word v else invalidReg (specWord .g r) pos

/-- Read a v register at a source position (R108, R197). -/
def readV (pos : Nat) (r : Reg) : M Vec := do
  let x ← getMe
  match x.boundTo .v r.n with
  | some k =>
    if (x.stream k).isStore then invalidReg (specWord .v r) pos
    else return BitVec.ofNat 512 (ofBytes (← popElem k))
  | none =>
    let (v, ok) ← peekReg .v r.n
    if ok then return BitVec.ofNat 512 v else invalidReg (specWord .v r) pos

/-- Read a p register at a source position; p0 reads as all ones (R108, R142). -/
def readP (pos : Nat) (r : Reg) : M Word := do
  if r.n = 0 then return BitVec.allOnes 64
  let (v, ok) ← peekReg .p r.n
  if ok then return word v else invalidReg (specWord .p r) pos

/-- The second operand of R130. -/
def readOpnd (pos : Nat) : Opnd → M Word
  | .reg r => readG pos r
  | .imm v => return sext64 v
  | .lit v => return v

/-! ### Writing registers -/

/-- A write that needs a physical register takes one from the pool, or waits for one (R24, R283). -/
def needPhysical (c : Cls) (n : BitVec 5) (held : Bool) : M Unit := do
  if held then return ()
  let s ← get
  if s.poolFree (coreOf s.cur) c then return ()
  block (.pool c (dstOf c n).toNat 0 s.myCore.issue.cycle)

/-- The source is this register. -/
def WindowSrc.names (r : WindowSrc) (c : Cls) (n : BitVec 5) : Bool := r.cls == c && r.num == n.toNat

/-- A write inside a window breaks the promise of R106: a written destination ends with either value, which is free, and a written source is
marked: the instruction of the window may have read it with its new value (`State.reread`). The answer says whether the write takes place. -/
def breach (c : Cls) (n : BitVec 5) : M Bool := do
  let x ← getMe
  let dst := x.windows.any fun w => w.cls == c && w.num == n.toNat
  let src := x.windows.any fun w => w.srcs.any fun r => r.names c n
  if !src && !dst then return true
  modMe fun y => { y with
    windows := (y.windows.filter fun w => !(w.cls == c && w.num == n.toNat)).map fun w =>
      { w with srcs := w.srcs.map fun r => if r.names c n then { r with hit := true } else r } }
  if dst then freshBit else return true

/-- Bytes of a number, each present. -/
def someBytes (n v : Nat) : List (Option Byte) := (toBytes n v).map some

/-- Write a g register: g0 and a bound load stream discard, a bound store stream pushes (R126, R197). -/
def writeG (n : BitVec 5) (v : Word) : M Unit := do
  if n = 0 then return ()
  let x ← getMe
  match x.boundTo .g n with
  | some k => if (x.stream k).isStore then pushElem k (someBytes 8 v.toNat)
  | none =>
    needPhysical .g n (x.regs.gv.getLsbD n.toNat && !x.regs.gs.getLsbD n.toNat)
    if ← breach .g n then modMe fun y => { y with regs := y.regs.putG n v }

/-- Write a v register; of a push only the bytes of `mask` are stored (R171, R197). -/
def writeV (mask : Word) (n : BitVec 5) (v : Vec) : M Unit := do
  let x ← getMe
  match x.boundTo .v n with
  | some k =>
    if (x.stream k).isStore then
      pushElem k ((List.range 64).map fun j => if mask.getLsbD j then some (field v (8 * j) 8) else none)
  | none =>
    needPhysical .v n (x.regs.vv.getLsbD n.toNat && !x.regs.vs.getLsbD n.toNat)
    if ← breach .v n then modMe fun y => { y with regs := y.regs.putV n v }

/-- Write a p register; p0 discards (R126). -/
def writeP (n : BitVec 5) (v : Word) : M Unit := do
  if n = 0 then return ()
  let x ← getMe
  needPhysical .p n (x.regs.pv.getLsbD n.toNat && !x.regs.ps.getLsbD n.toNat)
  if ← breach .p n then modMe fun y => { y with regs := y.regs.putP n v }

/-! ### Addresses -/

/-- The effective address of Format M, exact (R212). -/
def effAddr (base index : Word) (scale : BitVec 3) (disp : BitVec 40) : Int :=
  base.toNat + index.toNat * 2 ^ scale.toNat + disp.toInt

/-- BASE at position 1 and INDEX at position 2 (R108). -/
def readAddr (ad : Addr) : M Int := do
  let b ← readG 1 ad.base
  let i ← readG 2 ad.index
  return effAddr b i ad.scale ad.disp

/-! ### Lines and the next instruction (R85, R89, R93) -/

/-- Slot k of a line (R85). -/
def lineSlot (line : BitVec 512) (k : Nat) : SlotBits := field line (96 * k) 96
def lineVcount (line : BitVec 512) : Nat := natField line 489 3
def linePair (line : BitVec 512) (k : Nat) : Bool := line.getLsbD (485 + k)
def lineTmask (line : BitVec 512) (k : Nat) : Bool := line.getLsbD (480 + k)

/-- The line address and the slot of an instruction address (R90). -/
def lineOf (pc : Word) : Word := pc &&& ~~~63
def slotOf (pc : Word) : Nat := natField pc 0 3

/-- The address of the instruction that follows one in program order (R89): the next slot that is no literal below VCOUNT,
else slot 0 of the next line. After the last line of the address space there is none: the answer is then 0, which follows no instruction. -/
def nextOf (line : BitVec 512) (pc : Word) : Word :=
  let k := slotOf pc + (if isLitForm (lineSlot line (slotOf pc)) then 2 else 1)
  if k < lineVcount line then lineOf pc ||| word k else lineOf pc + 64

/-- next_pc of the executing instruction (R126): inside a repetition body, the body's own successor. -/
def nextPc : M Word := do
  let s ← get
  let x := s.me
  match x.rep.mode with
  | .running => match x.rep.body[natField x.rep.state 17 4]? with
    | some b => return b.next
    | none => return nextOf s.line x.pc
  | _ => return nextOf s.line x.pc

/-! ### Retirement -/

/-- A source: its position as TVAL counts it (R108), its class, its register with the mark. -/
abbrev Src := Nat × Cls × Reg

/-- What issue and retirement need to know of an instruction: LA and GD, its sources in position order, and its
destination. -/
structure Shape where
  h : Hdr
  srcs : List Src := []
  dst : Option (Cls × BitVec 5) := none
deriving DecidableEq, Repr, Inhabited

/-- Last-read marks take effect (R109): not on a register bound to a stream (R197), and not on the destination. -/
def release1 (dst : Option (Cls × BitVec 5)) (x : Slot) (c : Cls) (r : Reg) : Slot :=
  if r.mark && (x.boundTo c r.n).isNone && dst != some (c, r.n) then
    { x with regs := x.regs.drop c r.n
             windows := x.windows.filter fun w => !(w.cls == c && w.num == r.n.toNat) }
  else x
def Slot.releaseMarks (x : Slot) (sh : Shape) : Slot := sh.srcs.foldl (fun x m => release1 sh.dst x m.2.1 m.2.2) x

/-- The open windows move on by one instruction (R105). -/
def Slot.tickWindows (x : Slot) : Slot :=
  { x with windows := (x.windows.filter fun w => decide (1 < w.left)).map fun w => { w with left := w.left - 1 } }

/-- A source of an instruction that has retired, with what it held: a destination held `prior`. -/
def Slot.windowSrc (x : Slot) (sh : Shape) (prior : Nat × Bool) (m : Src) : WindowSrc :=
  ⟨m.2.1, m.2.2.n.toNat, if sh.dst = some (m.2.1, m.2.2.n) then prior.1 else (x.regs.peek m.2.1 m.2.2.n).1, false⟩

/-- LA = n opens a window over the next n instructions (R105); `prior` is what the destination held before. -/
def Slot.openWindow (x : Slot) (sh : Shape) (prior : Nat × Bool) : Slot :=
  match sh.dst with
  | some (c, n) =>
    if sh.h.la = 0 ∨ (c ≠ .v ∧ n = 0) ∨ (x.boundTo c n).isSome then x
    else { x with windows := ⟨c, n.toNat, sh.h.la.toNat, false, prior.1, prior.2, sh.srcs.map (x.windowSrc sh prior), .none, []⟩ ::
                      x.windows.filter fun w => !(w.cls == c && w.num == n.toNat) }
  | .none => x

def Loops.depth (l : Loops) : Nat := natField l.state 0 3
def Loops.immForm (l : Loops) (k : Nat) : Bool := l.state.getLsbD (4 + k)
def Loops.withDepth (l : Loops) (d : Nat) : Loops := { l with state := setField l.state 0 3 d }

/-- A count register at an end of pass: its newest value, or INVALID_REG at position 5 (R147, R206). -/
def readCount (n : BitVec 5) : M Word := do
  let x ← getMe
  if x.regs.validG n then return x.regs.getG n else invalidReg (dstOf .g n).toNat 5
/-- A count written at an end of pass. -/
def writeCount (n : BitVec 5) (v : Word) : M Unit := do
  modMe fun x => { x with windows := x.windows.filter fun w => !(w.cls == .g && w.num == n.toNat) }
  writeG n v

/-- The end of pass at LEND (R147), over the levels that share one END: the start of the next pass, or none where the loop has ended. -/
def endOfPass : Nat → M (Option Word)
  | 0 => return none
  | k + 1 => do
    let l := (← getMe).loops
    let n := BitVec.ofNat 5 (l.count[k % 4]'(Nat.mod_lt _ (by decide))).toNat
    let c ← (if l.immForm k then return l.count[k % 4]'(Nat.mod_lt _ (by decide)) else readCount n)
    let put (v : Word) : M Unit :=
      if l.immForm k then modMe fun x => { x with loops := { x.loops with count := x.loops.count.set (k % 4) v (Nat.mod_lt _ (by decide)) } }
      else writeCount n v
    if c.toNat ≤ 1 then
      put 0
      modMe fun x => { x with loops := x.loops.withDepth k }
      if 0 < k ∧ l.fin[(k - 1) % 4]'(Nat.mod_lt _ (by decide)) = l.fin[k % 4]'(Nat.mod_lt _ (by decide)) then endOfPass k
      else return none
    else
      put (c - 1)
      return some (l.start[k % 4]'(Nat.mod_lt _ (by decide)))

/-- Where an instruction that takes no transfer goes back to: the pass of a loop ends at LEND (R147). -/
def backEdge (pc : Word) : M (Option Word) := do
  let l := (← getMe).loops
  if l.depth = 0 then return none
  if l.fin[(l.depth - 1) % 4]'(Nat.mod_lt _ (by decide)) = pc then endOfPass l.depth else return none

/-- REPSTATE fields (R208). -/
def Rep.active (r : Rep) : Bool := r.state.getLsbD 63
def Rep.gn (r : Rep) : BitVec 5 := field r.state 25 5
def Rep.len (r : Rep) : Nat := natField r.state 21 4
def Rep.index (r : Rep) : Nat := natField r.state 17 4
def Rep.offset (r : Rep) : Nat := natField r.state 14 3
def Rep.stride (r : Rep) : Nat := natField r.state 11 3
def Rep.mask (r : Rep) : Nat := natField r.state 7 4
def Rep.back (r : Rep) : Nat := natField r.state 3 4
def Rep.startSlot (r : Rep) : Nat := natField r.state 0 3

/-- A repetition moved to body instruction `i`: INDEX, and BACK as the lines from the body's first line (R208). -/
def Rep.goto (r : Rep) (i : Nat) : Rep :=
  let lines := match r.body[0]?, r.body[i]? with
    | some a, some b => ((lineOf b.addr - lineOf a.addr).toNat / 64)
    | _, _ => 0
  { r with state := setField (setField r.state 17 4 i) 3 4 lines }

/-- The retirement of a body instruction of a running repetition: the next one of the body, or the end of the pass (R206). -/
def repStep : M Unit := do
  let r := (← getMe).rep
  let i := r.index
  if i + 1 < r.len then
    let r' := r.goto (i + 1)
    modMe fun x => { x with rep := r', pc := match r.body[i + 1]? with | some b => b.addr | none => x.pc }
  else
    let c ← readCount r.gn
    let after := match r.body[i]? with | some b => b.next | none => 0
    if c.toNat ≤ 1 then
      writeCount r.gn 0
      modMe fun x => { x with rep := ⟨setField x.rep.state 63 1 0, .off, []⟩, pc := after, sched := { x.sched with beyond := after == 0 } }
    else
      writeCount r.gn (c - 1)
      modMe fun x =>
        let r' := ({ x.rep with state := setField x.rep.state 14 3 ((r.offset + r.stride) % 8) } : Rep).goto 0
        { x with rep := r', pc := match r.body[0]? with | some b => b.addr | none => x.pc }

/-- The strand goes on at the successor of its instruction in program order; 0 is past the last line of the address space (R93). -/
def Slot.goOn (x : Slot) (next : Word) : Slot := { x with pc := next, sched := { x.sched with beyond := next == 0 } }

/-- The retirement of an instruction: marks, windows, and where the strand goes on; `jump` is a taken transfer. The marks of the instruction
at LEND take effect before the end of the pass reads the count register: a count register that it marks is invalid there (DESIGN CHOICE,
log 95). -/
def retireAt (sh : Shape) (prior : Nat × Bool) (jump : Option Word) : M Unit := do
  modMe fun x => x.releaseMarks sh
  let x ← getMe
  match jump with
  | some t => modMe fun y => { y with pc := t }
  | none =>
    match x.rep.mode with
    | .running => repStep
    | _ =>
      let next ← nextPc
      match ← backEdge x.pc with
      | some t => modMe fun y => { y with pc := t }
      | none => modMe fun y => y.goOn next
  modMe fun y => (y.tickWindows).openWindow sh prior

/-- The retirement of a guarded-off instruction (R104): it opens no window; its marks take effect. -/
def retireOff (sh : Shape) : M Unit := retireAt { sh with h := { sh.h with la := 0 }, dst := none } (0, false) none

/-! ### Guards (R103) -/

/-- The guard's predicate, or INVALID_REG at position 7 (R108, R111 step 5). -/
def guardPred (h : Hdr) : M Word := do
  let n : BitVec 5 := (field h.gd 0 3).setWidth 5
  if n = 0 then return BitVec.allOnes 64
  let (v, ok) ← peekReg .p n
  if ok then return word v else invalidReg (dstOf .p n).toNat 7

/-- A scalar instruction executes when bit 0 of pN XOR S is 1. -/
def guardOn (h : Hdr) : M Bool := do
  let p ← guardPred h
  return p.getLsbD 0 != h.gd.getLsbD 3

/-- The lane mask of a vector-group instruction: pN, inverted when S = 1 (R171). -/
def laneMask (h : Hdr) : M Word := do
  let p ← guardPred h
  return if h.gd.getLsbD 3 then ~~~p else p

/-! ### The run of one instruction -/

/-- INVALID_REG of a source (R108, R111 step 8): a bound store stream cannot be read (R197); inside a window the prior
content or the new one counts (R106). -/
def checkSource (src : Src) : M Unit := do
  let (pos, c, r) := src
  let x ← getMe
  if c ≠ .v ∧ r.n = 0 then return ()
  match x.boundTo c r.n with
  | some k => if (x.stream k).isStore then invalidReg (specWord c r) pos
  | none =>
    let (_, new) := x.regs.peek c r.n
    let prior := match x.windows.find? fun w => w.cls == c && w.num == r.n.toNat with
      | some w => if w.seen then new else w.priorValid
      | none => new
    if new && prior then return ()
    let (_, ok) ← peekReg c r.n
    if !ok then invalidReg (specWord c r) pos

/-- The checks of every source, in position order. -/
def checkSources : List Src → M Unit
  | [] => return ()
  | x :: xs => do checkSource x; checkSources xs

/-- What the destination holds before the instruction, for its window. -/
def priorOf (sh : Shape) : M (Nat × Bool) := do
  match sh.dst with
  | some (c, n) => return (← getMe).regs.peek c n
  | none => return (0, false)

/-- An instruction under a scalar guard that needs a mode: PRIVILEGE comes before the sources (R111 steps 5 to 9). Its body
answers a taken transfer, if any. -/
def privInstr (sh : Shape) (allowed : M Unit) (body : M (Option Word)) (s : State) : Out :=
  outcome (do
    if ← guardOn sh.h then
      allowed
      checkSources sh.srcs
      let prior ← priorOf sh
      let jump ← body
      retireAt sh prior jump
    else retireOff sh) s

/-- An instruction that every mode may execute. -/
def instr (sh : Shape) (body : M (Option Word)) (s : State) : Out := privInstr sh (return ()) body s

/-- An instruction that falls through. -/
def plainInstr (sh : Shape) (body : M Unit) (s : State) : Out := instr sh (do body; return none) s

/-- A vector-group instruction: guarded off as a whole when no lane byte `8·w·j` counted by `active` is on (R171). -/
def vecInstr (sh : Shape) (active : Word → Bool) (body : Word → M Unit) (s : State) : Out :=
  outcome (do
    let mask ← laneMask sh.h
    if active mask then
      checkSources sh.srcs
      let prior ← priorOf sh
      body mask
      retireAt sh prior none
    else retireOff sh) s

/-- The flags of an instruction are added to FFLAGS (R66). -/
def orFlags (f : BitVec 5) : M Unit := modMe fun x => { x with ctl := { x.ctl with fflags := x.ctl.fflags ||| f.setWidth 64 } }

end Sys2Proof.Machine
end

