-- ==== Sys2Proof/Machine/Fetch.lean ====
section
/-! DEFINITION. Instruction lines (R85 to R93): the line word, parity, the line checks, the fetch of a line through the
instruction cache, and checked transfers. -/

namespace Sys2Proof.Machine

/-! ### The line word (R86, R88) -/

/-- The XOR of the 16-bit halfwords of a number, over `n` of them. -/
def xorHalves : Nat → Nat → BitVec 16
  | 0, _ => 0
  | n + 1, x => BitVec.ofNat 16 x ^^^ xorHalves n (x / 2 ^ 16)
/-- PARITY of a line: over bits 495 to 0 (R86). -/
def lineParity (line : BitVec 512) : BitVec 16 := xorHalves 31 line.toNat
def lineParityOk (line : BitVec 512) : Bool := field line 496 16 == lineParity line

/-- Which slots from `k` on, of `n` left, are literals (R89, R100). -/
def litSlots (line : BitVec 512) : Nat → Nat → List Nat
  | 0, _ => []
  | 1, _ => []
  | n + 2, k => if isLitForm (lineSlot line k) then (k + 1) :: litSlots line n (k + 2) else litSlots line (n + 1) (k + 1)
/-- The slot holds the literal of the slot before it. -/
def isLiteral (line : BitVec 512) (k : Nat) : Bool := (litSlots line (Nat.min 5 (lineVcount line)) 0).contains k
/-- The last occupied slot is a LIT form of its own (sub-code 5 of R88). -/
def litOutside (line : BitVec 512) : Bool :=
  let n := lineVcount line
  n != 0 && isLitForm (lineSlot line (n - 1)) && !isLiteral line (n - 1)

/-- The sub-code of a line that fails a check (R88); of one that fails several, the lowest (DESIGN CHOICE, log 94). -/
def lineFault (line : BitVec 512) : Option Nat :=
  let n := lineVcount line
  if n = 0 ∨ 5 < n then some 1
  else if natField line 492 4 ≠ 0 then some 2
  else if (List.range 5).any fun k => decide (n ≤ k) && lineSlot line k != 0 then some 3
  else if (List.range 5).any fun k => lineTmask line k && (decide (n ≤ k) || isLiteral line k) then some 4
  else if litOutside line then some 5
  else none

/-! ### The fetch (R87, R154, R358) -/

/-- What a fetch comes to: the line, a trap of the strand, or a wait for a page that is being swapped (R363). -/
inductive Fetched where
  | line (b : BitVec 512)
  | trap (t : Trap)
  | wait (w : Wait)
deriving DecidableEq, Repr

/-- 64 bytes as a line. -/
def lineOfBytes (bs : List Byte) : BitVec 512 := BitVec.ofNat 512 (ofBytes bs)

/-- A line enters the instruction cache in place of an older one of the same address; of a full cache the line filled longest ago leaves
(R9; which line leaves is not stated: DESIGN CHOICE, log 69; any line may leave at any time by a turn of its own). -/
def Core.icPut (c : Core) (l : ICLine) : Core :=
  { c with icache := (l :: c.icache.filter fun y => !(y.asid == l.asid && y.va == l.va)).take Config.icacheLines }

/-- The fill of a line from memory at physical address `pl` (R87): a parity error in the first copy makes the core refetch,
with an error record; a second one is FETCH_PARITY with an error record. `ea` is the address fetched. -/
def State.fill (s : State) (sid : Nat) (asid va pl : Nat) (user : Bool) (ea : Word) : Fetched × State :=
  let pas := (List.range 64).map (pl + ·)
  let c := coreOf sid
  if s.physPoisoned pas then (.trap { cause := cMachine, tval := ea }, s)
  else
    let b := lineOfBytes (s.readPhys pas)
    if lineParityOk b then
      let s1 := if (s.core c).glitch then
          (s.setCore c { s.core c with glitch := false }).logError (dieOf sid) 4 0 (unitSlot sid) (word va)
        else s
      (.line b, s1.setCore c ((s1.core c).icPut ⟨asid, va, user, b⟩))
    else (.trap { cause := cFetchParity, tval := word va },
      s.logError (dieOf sid) 5 0 (unitSlot sid) (word va))

/-- U of the page of an address, as its walk finds it. -/
def State.userPage (s : State) (asid ea : Nat) (mode : Mode) : Bool :=
  match s.walk (ownerDie ea) asid ea .fetch mode with
  | .found e _ _ => e.getLsbD 3
  | _ => false

/-- What is wrong with an instruction address itself (R90, R154, R214): MISALIGNED_TARGET, NONCANON, PROTECTION. -/
def Slot.pcTrap (x : Slot) (ea : Word) : Option Trap :=
  if natField ea 3 3 ≠ 0 ∨ 4 < slotOf ea then some { cause := cMisaligned, tval := ea }
  else if canonical ea.toNat = false then some { cause := cNoncanon, tval := ea }
  else if x.mode = .u ∧ supervisor ea.toNat then some { cause := cProtection, tval := ea }
  else .none

/-- The fetch of the line of an instruction address by a strand: what is wrong with the address; the instruction cache; else the translation and
the fill (R90, R154, R214, R358). -/
def State.fetch (s : State) (sid : Nat) (ea : Word) : Fetched × State :=
  let x := s.slot sid
  let asid := effAsid x.ctl.asid.toNat ea.toNat
  let va := (lineOf ea).toNat
  match x.pcTrap ea with
  | some t => (.trap t, s)
  | none => match (s.core (coreOf sid)).icache.find? fun l => l.asid == asid && l.va == va && (l.user || x.mode != .u) with
    | some l => (.line l.bits, s)
    | none => match s.translate x.ctl.asid.toNat ea.toNat .fetch x.mode true with
      | (.ok pa, s1) => s1.fill sid asid va (pa / 64 * 64) (s.userPage x.ctl.asid.toNat ea.toNat x.mode) ea
      | (.fail r l, s1) =>
        (.trap { cause := xlatCause r, tval := ea, xinfo := some (xinfoWord x.ctl.asid.toNat ea.toNat l .fetch r) }, s1)
      | (.busy pa, s1) => (.wait (.swapBusy pa), s1)

/-- A line that the executing instruction needs beside its own: its fetch traps at the instruction. -/
def fetchLine (ea : Word) : M (BitVec 512) := do
  let s ← get
  match s.fetch s.cur ea with
  | (.line b, s1) => set s1; return b
  | (.trap t, s1) => throw (.done (takeTrap t s1))
  | (.wait w, _) => block w

/-- An address reached in program order from a lower one: beyond the last line there is none, since addresses never wrap (R93). -/
def onward (a : Word) : M Word := do
  if a = 0 then trap cNoncanon 0 else return a

/-- The address after an instruction of some line, in program order (R89): what follows slot 4 stands in the next line, whatever the line holds. -/
def addressAfter (a : Word) : M Word := do
  let s ← get
  if lineOf a = lineOf s.me.pc ∧ s.me.rep.mode ≠ .running then onward (nextOf s.line a)
  else if 4 ≤ slotOf a then onward (lineOf a + 64)
  else onward (nextOf (← fetchLine a) a)

/-! ### Checked transfers (R90, R91, R93) -/

/-- The address that a Format B offset names, exact (R93). -/
def targetAddr (t : Target) (pc : Word) : Int := (lineOf pc).toNat + t.line.toInt * 64 + t.slot.toNat

/-- The target of a Format B form, canonical (R93). -/
def targetOf (t : Target) : M Word := do
  let a := targetAddr t (← getMe).pc
  if canonical a then return wordI a else trap cNoncanon (wordI a)

/-- The checks of a taken transfer (R90, R91): they trap at the transferring instruction. A transfer waits for a line whose page is being
swapped. A line that cannot be fetched lets the transfer retire with its check still to be made, and the fetch at the target takes its
trap (R154). -/
def checkTarget (t : Word) : M Unit := do
  if natField t 3 3 ≠ 0 ∨ 4 < slotOf t then trap cMisaligned t
  if canonical t.toNat = false then trap cNoncanon t
  let s ← get
  match s.fetch s.cur t with
  | (.line b, s1) => if lineTmask b (slotOf t) then set s1 else trap cIllegalTarget t
  | (.wait w, _) => block w
  | (.trap _, _) => modMe fun x => { x with sched := { x.sched with checked := true } }

/-! ### Decoding on a core (R10, R110, R234, R279) -/

/-- FN as ILLEGAL_OP reports it, by the format of the opcode (R112). -/
def fnOf (w : SlotBits) : Nat :=
  let op := natField w 88 8
  if op = 0x26 ∨ (0x57 ≤ op ∧ op ≤ 0x59) ∨ op = 0x5B ∨ op = 0x70 then natField w 76 4
  else if op = 0x27 ∨ (0xC0 ≤ op ∧ op ≤ 0xCA) ∨ (0xD0 ≤ op ∧ op ≤ 0xDD) ∨ (0xE0 ≤ op ∧ op ≤ 0xE3) ∨ (0xE8 ≤ op ∧ op ≤ 0xEE)
      ∨ op = 0xF0 ∨ (0xF2 ≤ op ∧ op ≤ 0xF5) then natField w 72 8
  else natField w 68 12

/-- The slot is a form that the core lacks (R10, R234): vector and tile forms and `sbind` of a v register without a vector
unit; copy, task, exchange and gather forms on a management core. -/
def excludedOn (core : Nat) (w : SlotBits) : Bool :=
  let op := natField w 88 8
  let vector := (decide (0x80 ≤ op) && decide (op ≤ 0xBF)) || (decide (0xC4 ≤ op) && decide (op ≤ 0xC7)) || op == 0xD2 || op == 0xD3
    || (decide (0xE8 ≤ op) && decide (op ≤ 0xEF)) || (op == 0x7A && natField w 58 2 == 1)
  let engine := (decide (0xE0 ≤ op) && decide (op ≤ 0xE7)) || (decide (0xF0 ≤ op) && decide (op ≤ 0xF7))
  !isCompute core && (vector || (isManagement core && engine))

/-- The lowest bit of a PLACE mask that a refill or management core refuses (R279). -/
def placeOffence (core : Nat) (w : SlotBits) : Option Nat :=
  if isCompute core ∨ natField w 88 8 ≠ 0x70 then none else lowestSet 40 (field w 40 8)

/-- The instruction that a core decodes from a slot and its literal, or its encoding fault (R110 to R112). -/
def decodeOn (core : Nat) (w lit : SlotBits) : Except Trap Instr :=
  if excludedOn core w then .error { cause := cIllegalOp, tval := word (natField w 88 8 + 256 * fnOf w) }
  else match decode w lit, placeOffence core w with
    | .ok i, none => .ok i
    | .ok _, some n => .error { cause := cReservedField, tval := word n }
    | .error (.illegal tv), _ => .error { cause := cIllegalOp, tval := tv }
    | .error (.reserved tv), none => .error { cause := cReservedField, tval := tv }
    | .error (.reserved tv), some n => .error { cause := cReservedField, tval := if tv.toNat < n then tv else word n }

end Sys2Proof.Machine
end

