-- ==== Sys2Proof/Machine/Integer.lean ====
section
/-! DEFINITION. The integer and address group (R126 to R135): OP 0x00 to 0x28. -/

namespace Sys2Proof.Machine

/-! ### The functions of R130 to R132 -/

def divSigned (a b : Word) : Word := if b = 0 then BitVec.allOnes 64 else a.sdiv b
def divUnsigned (a b : Word) : Word := if b = 0 then BitVec.allOnes 64 else word (a.toNat / b.toNat)
def remSigned (a b : Word) : Word := if b = 0 then a else a.srem b
def remUnsigned (a b : Word) : Word := if b = 0 then a else word (a.toNat % b.toNat)
def mulHigh (a b : Word) : Word := wordI (a.toInt * b.toInt / 2 ^ 64)
def mulHighUnsigned (a b : Word) : Word := word (a.toNat * b.toNat / 2 ^ 64)
/-- The shift count: b mod 64. -/
def shiftCount (b : Word) : Nat := b.toNat % 64
/-- pos and w of a control word (R132). -/
def fieldPos (c : Word) : Nat := natField c 0 6
def fieldWidth (c : Word) : Nat := Nat.min (natField c 8 6 + 1) (64 - fieldPos c)
def bitExtract (a c : Word) : Word := word (natField a (fieldPos c) (fieldWidth c))
def bitInsert (a c x : Word) : Word := setField a (fieldPos c) (fieldWidth c) x.toNat
/-- The bytes of a word reversed (R131). -/
def byteSwap (a : Word) : Word := word (ofBytes (toBytes 8 a.toNat).reverse)

/-! ### Shapes -/

/-- The source that a second operand reads (R130). -/
def opndSrc (pos : Nat) : Opnd → List Src
  | .reg r => [(pos, .g, r)]
  | .imm _ => []
  | .lit _ => []

def intBinShape (f : IntBin) : Shape := ⟨f.h, (1, .g, f.a) :: opndSrc 2 f.b, some (.g, f.rd)⟩
def intTriShape (f : IntTri) : Shape := ⟨f.h, (1, .g, f.a) :: (opndSrc 2 f.b ++ [(3, .g, f.c)]), some (.g, f.rd)⟩
def unShape (f : Un) : Shape := ⟨f.h, [(1, .g, f.a)], some (.g, f.rd)⟩

/-- A two-operand form (R130): g[RD] := fn(a, b). -/
def intBinary (fn : Word → Word → Word) (f : IntBin) (s : State) : Out :=
  plainInstr (intBinShape f) (do
    let a ← readG 1 f.a
    let b ← readOpnd 2 f.b
    writeG f.rd (fn a b)) s

/-- A form with a third source (R132, R133). -/
def intTernary (fn : Word → Word → Word → Word) (f : IntTri) (s : State) : Out :=
  plainInstr (intTriShape f) (do
    let a ← readG 1 f.a
    let b ← readOpnd 2 f.b
    let c ← readG 3 f.c
    writeG f.rd (fn a b c)) s

/-- A unary form (R131). -/
def intUnary (fn : Word → Word) (f : Un) (s : State) : Out :=
  plainInstr (unShape f) (do
    let a ← readG 1 f.a
    writeG f.rd (fn a)) s

/-! ### The meanings -/

/-- NOP (R110): only the program counter moves. -/
def execNop (s : State) : Out := plainInstr ⟨⟨0, 0⟩, [], none⟩ (return ()) s

/-- ADD (R130): a + b. -/
def execAdd (f : IntBin) (s : State) : Out := intBinary (fun a b => a + b) f s
/-- SUB (R130): a − b. -/
def execSub (f : IntBin) (s : State) : Out := intBinary (fun a b => a - b) f s
/-- MUL (R130): the low 64 bits of a · b. -/
def execMul (f : IntBin) (s : State) : Out := intBinary (fun a b => a * b) f s
/-- MULH (R130): bits 127 to 64 of the signed product. -/
def execMulh (f : IntBin) (s : State) : Out := intBinary (mulHigh) f s
/-- MULHN (R130): bits 127 to 64 of the unsigned product. -/
def execMulhn (f : IntBin) (s : State) : Out := intBinary (mulHighUnsigned) f s
/-- DIV (R130): signed division. -/
def execDiv (f : IntBin) (s : State) : Out := intBinary (divSigned) f s
/-- DIVN (R130): unsigned division. -/
def execDivn (f : IntBin) (s : State) : Out := intBinary (divUnsigned) f s
/-- REM (R130): signed remainder. -/
def execRem (f : IntBin) (s : State) : Out := intBinary (remSigned) f s
/-- REMN (R130): unsigned remainder. -/
def execRemn (f : IntBin) (s : State) : Out := intBinary (remUnsigned) f s
/-- AND (R130): a AND b. -/
def execAnd (f : IntBin) (s : State) : Out := intBinary (fun a b => a &&& b) f s
/-- OR (R130): a OR b. -/
def execOr (f : IntBin) (s : State) : Out := intBinary (fun a b => a ||| b) f s
/-- XOR (R130): a XOR b. -/
def execXor (f : IntBin) (s : State) : Out := intBinary (fun a b => a ^^^ b) f s
/-- ANDN (R130): a AND NOT b. -/
def execAndn (f : IntBin) (s : State) : Out := intBinary (fun a b => a &&& ~~~b) f s
/-- ORN (R130): a OR NOT b. -/
def execOrn (f : IntBin) (s : State) : Out := intBinary (fun a b => a ||| ~~~b) f s
/-- SHL (R130): a shifted left. -/
def execShl (f : IntBin) (s : State) : Out := intBinary (fun a b => a <<< shiftCount b) f s
/-- SHR (R130): a shifted right, zero fill. -/
def execShr (f : IntBin) (s : State) : Out := intBinary (fun a b => a >>> shiftCount b) f s
/-- SRA (R130): a shifted right, sign fill. -/
def execSra (f : IntBin) (s : State) : Out := intBinary (fun a b => a.sshiftRight (shiftCount b)) f s
/-- ROL (R130): a rotated left. -/
def execRol (f : IntBin) (s : State) : Out := intBinary (fun a b => a.rotateLeft (shiftCount b)) f s
/-- ROR (R130): a rotated right. -/
def execRor (f : IntBin) (s : State) : Out := intBinary (fun a b => a.rotateRight (shiftCount b)) f s
/-- BEXT (R130): a bit field of a (R132). -/
def execBext (f : IntBin) (s : State) : Out := intBinary (bitExtract) f s
/-- MIN (R130): the smaller signed. -/
def execMin (f : IntBin) (s : State) : Out := intBinary (fun a b => if a.slt b then a else b) f s
/-- MAX (R130): the larger signed. -/
def execMax (f : IntBin) (s : State) : Out := intBinary (fun a b => if a.slt b then b else a) f s
/-- MINN (R130): the smaller unsigned. -/
def execMinn (f : IntBin) (s : State) : Out := intBinary (fun a b => if a.ult b then a else b) f s
/-- MAXN (R130): the larger unsigned. -/
def execMaxn (f : IntBin) (s : State) : Out := intBinary (fun a b => if a.ult b then b else a) f s
/-- SEQ (R130): a = b. -/
def execSeq (f : IntBin) (s : State) : Out := intBinary (fun a b => boolWord (a == b)) f s
/-- SNE (R130): a ≠ b. -/
def execSne (f : IntBin) (s : State) : Out := intBinary (fun a b => boolWord (a != b)) f s
/-- SLT (R130): s(a) < s(b). -/
def execSlt (f : IntBin) (s : State) : Out := intBinary (fun a b => boolWord (a.slt b)) f s
/-- SLTN (R130): a < b. -/
def execSltn (f : IntBin) (s : State) : Out := intBinary (fun a b => boolWord (a.ult b)) f s
/-- SLE (R130): s(a) ≤ s(b). -/
def execSle (f : IntBin) (s : State) : Out := intBinary (fun a b => boolWord (a.sle b)) f s
/-- SLEN (R130): a ≤ b. -/
def execSlen (f : IntBin) (s : State) : Out := intBinary (fun a b => boolWord (a.ule b)) f s
/-- BINS (R132): a with the field replaced by the low bits of g[RS3]. -/
def execBins (f : IntTri) (s : State) : Out := intTernary bitInsert f s
/-- SEL (R133): a when g[RS3] ≠ 0, else b. -/
def execSel (f : IntTri) (s : State) : Out := intTernary (fun a b c => if c = 0 then b else a) f s
/-- CLZ (R131): leading zero bits. -/
def execClz (f : Un) (s : State) : Out := intUnary (fun a => word (leadingZeros a)) f s
/-- CTZ (R131): trailing zero bits. -/
def execCtz (f : Un) (s : State) : Out := intUnary (fun a => word (trailingZeros a)) f s
/-- POPC (R131): one bits. -/
def execPopc (f : Un) (s : State) : Out := intUnary (fun a => word (popCount a)) f s
/-- BSWAP (R131): byte order reversed. -/
def execBswap (f : Un) (s : State) : Out := intUnary (byteSwap) f s
/-- ABS (R131): |s(a)| modulo 2^64. -/
def execAbs (f : Un) (s : State) : Out := intUnary (fun a => if a.msb then -a else a) f s
/-- MOV (R131): a. -/
def execMov (f : Un) (s : State) : Out := intUnary (fun a => a) f s
/-- LI (R134): g[RD] := IMM64. -/
def execLi (f : LoadImm) (s : State) : Out :=
  plainInstr ⟨f.h, [], some (.g, f.rd)⟩ (writeG f.rd f.imm) s

/-- The sources of a Format M address (R98). -/
def addrSrc (ad : Addr) : List Src := [(1, .g, ad.base), (2, .g, ad.index)]

/-- LEA (R135): the address modulo 2^64, with no check and no access. -/
def execLea (f : LeaOp) (s : State) : Out :=
  plainInstr ⟨f.h, addrSrc f.ad, some (.g, f.rd)⟩ (do
    let ea ← readAddr f.ad
    writeG f.rd (wordI ea)) s

end Sys2Proof.Machine
end

