-- ==== Sys2Proof/Machine/Scalar.lean ====
section
/-! DEFINITION. The scalar FP32 group (R127, R128, R136 to R141) and the predicate group (R142): OP 0x40 to 0x56. -/

namespace Sys2Proof.Machine

/-- The low 32 bits of a g register (R128). -/
def lo32 (x : Word) : Nat := natField x 0 32
/-- An FP32 value of a g register (R128). -/
def fp32Of (x : Word) : FVal := FFmt.fp32.read (lo32 x)

def binShape (f : Bin) : Shape := ⟨f.h, [(1, .g, f.a), (2, .g, f.b)], some (.g, f.rd)⟩
def triShape (f : Tri) : Shape := ⟨f.h, [(1, .g, f.a), (2, .g, f.b), (3, .g, f.c)], some (.g, f.rd)⟩

/-- STATUS.RM as a mode (R55). -/
def statusMode : M Rnd := do return Rnd.ofRM (← getMe).rm

/-- A result in bits [31:0] of RD with its flags (R66, R128). -/
def putFp (rd : BitVec 5) (r : Nat × Fl) : M Unit := do
  writeG rd (word (r.1 % 2 ^ 32))
  orFlags r.2

/-- A two-operand arithmetic form (R136). -/
def fpBinary (op : Rnd → FVal → FVal → Nat × Fl) (f : Bin) (s : State) : Out :=
  plainInstr (binShape f) (do
    let a ← readG 1 f.a
    let b ← readG 2 f.b
    putFp f.rd (op (← statusMode) (fp32Of a) (fp32Of b))) s

/-- A one-operand form (R136). -/
def fpUnary (op : Rnd → FVal → Nat × Fl) (f : Un) (s : State) : Out :=
  plainInstr (unShape f) (do
    let a ← readG 1 f.a
    putFp f.rd (op (← statusMode) (fp32Of a))) s

/-- FADD (R136). -/
def execFadd (f : Bin) (s : State) : Out := fpBinary FFmt.fp32.add f s
/-- FSUB (R136). -/
def execFsub (f : Bin) (s : State) : Out := fpBinary FFmt.fp32.sub f s
/-- FMUL (R136). -/
def execFmul (f : Bin) (s : State) : Out := fpBinary FFmt.fp32.mul f s
/-- FDIV (R136). -/
def execFdiv (f : Bin) (s : State) : Out := fpBinary FFmt.fp32.div f s
/-- FSQRT (R136). -/
def execFsqrt (f : Un) (s : State) : Out := fpUnary FFmt.fp32.sqrt f s
/-- FRSQE (R75 to R77): rounded under RNE, whatever the mode. -/
def execFrsqe (f : Un) (s : State) : Out := fpUnary (fun _ a => rsqrtEst a) f s
/-- FRCPE (R74, R76, R77). -/
def execFrcpe (f : Un) (s : State) : Out := fpUnary (fun _ a => recipEst a) f s
/-- FFMA (R136): a · b + c, rounded once. -/
def execFfma (f : Tri) (s : State) : Out :=
  plainInstr (triShape f) (do
    let a ← readG 1 f.a
    let b ← readG 2 f.b
    let c ← readG 3 f.c
    putFp f.rd (FFmt.fp32.fma (← statusMode) (fp32Of a) (fp32Of b) (fp32Of c))) s

/-- The smaller or the larger operand (R137). -/
def fpMinMax (larger : Bool) (f : Bin) (s : State) : Out :=
  plainInstr (binShape f) (do
    let a ← readG 1 f.a
    let b ← readG 2 f.b
    putFp f.rd (FFmt.fp32.minmax larger (lo32 a) (lo32 b))) s
/-- FMIN (R137). -/
def execFmin (f : Bin) (s : State) : Out := fpMinMax false f s
/-- FMAX (R137). -/
def execFmax (f : Bin) (s : State) : Out := fpMinMax true f s

/-- FCMP (R138): 1 or 0 under a condition code. -/
def execFcmp (f : CmpF) (s : State) : Out :=
  plainInstr ⟨f.h, [(1, .g, f.a), (2, .g, f.b)], some (.g, f.rd)⟩ (do
    let a ← readG 1 f.a
    let b ← readG 2 f.b
    let r := floatCond f.cc (fp32Of a) (fp32Of b)
    writeG f.rd (boolWord r.1)
    orFlags r.2) s

/-- The state of SEED after a number of draws (R63). -/
def setSeed (x : BitVec 32) : M Unit := modMe fun y => { y with ctl := { y.ctl with seed := x.setWidth 64 } }

/-- The mode of a conversion's rounding field (R55): DYN takes STATUS.RM, RSTOCH a draw of SEED; `draws` is false for a
conversion between two integer formats (R63). -/
def conversionMode (rnd : BitVec 3) (draws : Bool) : M Rnd := do
  if rnd = 7 then statusMode
  else if rnd = 4 then
    if draws then
      let x := seedDraw (field (← getMe).ctl.seed 0 32)
      setSeed x
      return .rstoch x.toNat
    else return .rne
  else return Rnd.ofRM rnd.toNat

/-- A converted value as FCVT writes it (R139): sign-extended for an I format, else zero-extended. -/
def extendResult (dst : BitVec 4) (v : Nat) : Word :=
  if (floatFmt false dst).isNone && decide (dst.toNat < 8) then wordI (intRead dst v) else word v

/-- FCVT (R139). -/
def execFcvt (f : CvtF) (s : State) : Out :=
  plainInstr ⟨f.h, [(1, .g, f.a)], some (.g, f.rd)⟩ (do
    let a ← readG 1 f.a
    let mode ← conversionMode f.rnd (conversionDraws f.dst f.src)
    let r := convertFmt (← getMe).nspec f.dst f.src mode (natField a 0 (8 * fmtBytes f.src))
    writeG f.rd (extendResult f.dst r.1)
    orFlags r.2) s

/-- FCLASS (R140). -/
def execFclass (f : Un) (s : State) : Out :=
  intUnary (fun a => word (2 ^ (fp32Of a).classBit .fp32)) f s

/-- FABS and FNEG (R141): the sign bit cleared or inverted; a NaN gives the canonical NaN. -/
def signForm (clear : Bool) (x : Nat) (F : FFmt) : Nat × Fl :=
  match F.read x with
  | .nan sig => (F.nan, flIf sig flNV)
  | v => (F.withSign (!clear && !v.neg) (x % F.signBit), 0)
def fpSign (clear : Bool) (f : Un) (s : State) : Out :=
  plainInstr (unShape f) (do
    let a ← readG 1 f.a
    putFp f.rd (signForm clear (lo32 a) .fp32)) s
/-- FABS (R141). -/
def execFabs (f : Un) (s : State) : Out := fpSign true f s
/-- FNEG (R141). -/
def execFneg (f : Un) (s : State) : Out := fpSign false f s

/-! ### Predicates (R142) -/

/-- The source that an operand of FN[4] reads. -/
def vopndSrc (c : Cls) (pos : Nat) : VOpnd → List Src
  | .reg r => [(pos, c, r)]
  | .imm _ => []

/-- The second operand of PCMP: a g register, or sext(IMM32). -/
def readVOpndG (pos : Nat) : VOpnd → M Word
  | .reg r => readG pos r
  | .imm v => return sext64 v

/-- PCMP (R142): all ones or zero. -/
def execPcmp (f : CmpI) (s : State) : Out :=
  plainInstr ⟨f.h, (1, .g, f.a) :: vopndSrc .g 2 f.b, some (.p, f.rd)⟩ (do
    let a ← readG 1 f.a
    let b ← readVOpndG 2 f.b
    writeP f.rd (boolMask (intCond f.cc a b))) s

/-- A predicate form of two sources (R142). -/
def predBinary (fn : Word → Word → Word) (f : Bin) (s : State) : Out :=
  plainInstr ⟨f.h, [(1, .p, f.a), (2, .p, f.b)], some (.p, f.rd)⟩ (do
    let a ← readP 1 f.a
    let b ← readP 2 f.b
    writeP f.rd (fn a b)) s
/-- PAND (R142). -/
def execPand (f : Bin) (s : State) : Out := predBinary (fun a b => a &&& b) f s
/-- POR (R142). -/
def execPor (f : Bin) (s : State) : Out := predBinary (fun a b => a ||| b) f s
/-- PXOR (R142). -/
def execPxor (f : Bin) (s : State) : Out := predBinary (fun a b => a ^^^ b) f s
/-- PNOT (R142). -/
def execPnot (f : Un) (s : State) : Out :=
  plainInstr ⟨f.h, [(1, .p, f.a)], some (.p, f.rd)⟩ (do
    let a ← readP 1 f.a
    writeP f.rd (~~~a)) s
/-- PSET (R142): g[RS1] copied, bit j giving byte lane j. -/
def execPset (f : Un) (s : State) : Out :=
  plainInstr ⟨f.h, [(1, .g, f.a)], some (.p, f.rd)⟩ (do
    let a ← readG 1 f.a
    writeP f.rd a) s
/-- PGET (R142). -/
def execPget (f : Un) (s : State) : Out :=
  plainInstr ⟨f.h, [(1, .p, f.a)], some (.g, f.rd)⟩ (do
    let a ← readP 1 f.a
    writeG f.rd a) s

end Sys2Proof.Machine
end

