-- ==== Sys2Proof/Machine/Control.lean ====
section
/-! DEFINITION. Transfers (R143) and hardware loops (R144 to R148): OP 0x57 to 0x5B. -/

namespace Sys2Proof.Machine

/-- A taken transfer to a checked target (R91). -/
def goTo (t : Word) : M (Option Word) := do
  checkTarget t
  return some t

/-- A Format B transfer taken when the condition holds (R143); an untaken one checks no target. -/
def branchIf (taken : Bool) (off : Target) : M (Option Word) := do
  if taken then
    let t ← targetOf off
    goTo t
  else return none

/-- BR (R143). -/
def execBr (f : Jump) (s : State) : Out := instr ⟨f.h, [], none⟩ (branchIf true f.off) s
/-- BRP (R143): bit 0 of p[RS1] decides. -/
def execBrp (f : Branch1) (s : State) : Out :=
  instr ⟨f.h, [(1, .p, f.a)], none⟩ (do
    let a ← readP 1 f.a
    branchIf (a.getLsbD 0) f.off) s
/-- BRZ (R143). -/
def execBrz (f : Branch1) (s : State) : Out :=
  instr ⟨f.h, [(1, .g, f.a)], none⟩ (do
    let a ← readG 1 f.a
    branchIf (a == 0) f.off) s
/-- BRNZ (R143). -/
def execBrnz (f : Branch1) (s : State) : Out :=
  instr ⟨f.h, [(1, .g, f.a)], none⟩ (do
    let a ← readG 1 f.a
    branchIf (a != 0) f.off) s

/-- A transfer on a comparison of two registers (R143). -/
def branchOn (cond : Word → Word → Bool) (f : Branch2) (s : State) : Out :=
  instr ⟨f.h, [(1, .g, f.a), (2, .g, f.b)], none⟩ (do
    let a ← readG 1 f.a
    let b ← readG 2 f.b
    branchIf (cond a b) f.off) s
/-- BEQ (R143). -/
def execBeq (f : Branch2) (s : State) : Out := branchOn (fun a b => a == b) f s
/-- BNE (R143). -/
def execBne (f : Branch2) (s : State) : Out := branchOn (fun a b => a != b) f s
/-- BLT (R143): signed. -/
def execBlt (f : Branch2) (s : State) : Out := branchOn (fun a b => a.slt b) f s

/-- CALL (R143): g31 := next_pc. -/
def execCall (f : Jump) (s : State) : Out :=
  instr ⟨f.h, [], some (.g, 31)⟩ (do
    let t ← targetOf f.off
    checkTarget t
    writeG 31 (← nextPc)
    return some t) s
/-- CALLR (R143): the target is read before the link is written. -/
def execCallr (f : Un) (s : State) : Out :=
  instr (unShape f) (do
    let t ← readG 1 f.a
    checkTarget t
    writeG f.rd (← nextPc)
    return some t) s
/-- JMPR (R143). -/
def execJmpr (f : JumpReg) (s : State) : Out :=
  instr ⟨f.h, [(1, .g, f.a)], none⟩ (do
    let t ← readG 1 f.a
    goTo t) s
/-- RET (R143): the same effect as JMPR; the hint to the fetch unit has none. -/
def execRet (f : JumpReg) (s : State) : Out :=
  instr ⟨f.h, [(1, .g, f.a)], none⟩ (do
    let t ← readG 1 f.a
    goTo t) s

/-! ### Hardware loops -/

/-- A level pushed (R146): its first and last instruction, the count or the count register, and its form. -/
def Loops.push (l : Loops) (start fin count : Word) (imm : Bool) : Loops :=
  let k := l.depth % 4
  { state := setField (if imm then bitOn l.state (4 + k) else bitOff l.state (4 + k)) 0 3 (l.depth + 1)
    start := l.start.set k start (Nat.mod_lt _ (by decide))
    fin := l.fin.set k fin (Nat.mod_lt _ (by decide))
    count := l.count.set k count (Nat.mod_lt _ (by decide)) }

/-- The checks of R146, before the count: LOOP_DEPTH, NONCANON, ILLEGAL_TARGET; the answer is END. -/
def loopEnd (off : Target) : M Word := do
  let x ← getMe
  if 4 ≤ x.loops.depth then trap cLoopDepth 0
  let fin ← targetOf off
  if fin.toNat ≤ x.pc.toNat then trap cIllegalTarget fin
  return fin

/-- Entering a loop (R146): a zero count skips the body. The skip is a transfer of control: where the loop itself stands at LEND of an outer
level, no pass of that level ends (R147; DESIGN CHOICE, log 95). -/
def loopEnter (fin count entry : Word) (imm : Bool) : M (Option Word) := do
  if count = 0 then return some (← addressAfter fin)
  else
    let start ← nextPc
    modMe fun x => { x with loops := x.loops.push start fin entry imm }
    return none

/-- LOOP (R146): the count register is read and not written; its number is kept. -/
def execLoop (f : Branch1) (s : State) : Out :=
  instr ⟨f.h, [(1, .g, f.a)], none⟩ (do
    let fin ← loopEnd f.off
    let c ← readG 1 f.a
    loopEnter fin c (f.a.n.setWidth 64) false) s
/-- LOOPI (R146). -/
def execLoopi (f : LoopImm) (s : State) : Out :=
  instr ⟨f.h, [], none⟩ (do
    let fin ← loopEnd f.off
    loopEnter fin (zext64 f.imm) (zext64 f.imm) true) s

end Sys2Proof.Machine
end

