-- ==== Sys2Proof/Machine/Streams.lean ====
section
/-! DEFINITION. The stream forms (R191 to R202): OP 0x78 to 0x7E. -/

namespace Sys2Proof.Machine

/-! ### The stream image (R191, R195) -/

/-- The fields that CTL of a KIND may hold: reserved fields and those the KIND does not use are zero (R191). -/
def ctlReservedBad (ctl : Word) : Bool :=
  natField ctl 16 48 != 0 || ctl.getLsbD 14 || natField ctl 2 2 != 0 ||
    (natField ctl 0 2 == 1 && natField ctl 11 2 != 0) || (natField ctl 0 2 == 2 && natField ctl 9 2 != 0)

/-- The required-zero bytes beyond CTL (R191). -/
def imageZeroBad (bs : List Byte) (ctl : Word) : Bool :=
  let tail := (bs.drop 48).any fun b => b != 0
  match natField ctl 0 2 with
  | 0 => bs.any fun b => b != 0
  | 1 => tail || numAt bs 24 8 / 2 ^ (16 * (natField ctl 9 2 + 1)) != 0
  | _ => tail || numAt bs 44 4 != 0

/-- The base checks of sub-code 3 (R195). -/
def imageBaseBad (bs : List Byte) (ctl : Word) : Bool :=
  let width := if ctl.getLsbD 11 then 4 else 2
  let idx := numAt bs 28 4
  (!ctl.getLsbD 7 && decide (0x200000 ≤ numAt bs 8 8)) ||
    (natField ctl 0 2 == 2 && (idx % width != 0 || decide (0x200000 ≤ idx)))

/-- A stream from its image, or the sub-code of the first fault (R195, R200); `kinds` are those the form takes. -/
def parseImage (bs : List Byte) (kinds : List Nat) (old : Stream) : Except Nat Stream :=
  let ctl := dwordAt bs 0
  if !kinds.contains (natField ctl 0 2) then .error 1
  else if decide (4 < natField ctl 4 3) || ctlReservedBad ctl || imageZeroBad bs ctl then .error 2
  else if imageBaseBad bs ctl then .error 3
  else if old.bound then .error 4
  else .ok ⟨ctl, dwordAt bs 1, dwordAt bs 2, dwordAt bs 3, dwordAt bs 4, dwordAt bs 5, old.sfault, []⟩

/-- The image of a stream (R191, R200): an unconfigured one writes zeros. -/
def Stream.image (t : Stream) : List Byte :=
  if t.kind = 0 then List.replicate 64 0
  else toBytes 8 t.ctl.toNat ++ toBytes 8 t.base.toNat ++ toBytes 8 t.pos.toNat ++ toBytes 8 t.geo0.toNat ++
    toBytes 8 t.geo1.toNat ++ toBytes 8 t.geo2.toNat ++ List.replicate 16 0

/-- A configuration fault: STREAM_RANGE with the sub-code, SFAULT := 2^64 − 1 (R195). -/
def configFault {α : Type} (k sub : Nat) : M α :=
  trapWith { cause := cStreamRange, tval := word sub, stream := some k, sfault := some (BitVec.allOnes 64) }

/-- An access to the descriptor: its faults name the stream and the descriptor address, and leave SFAULT; MACHINE_CHECK stays
as it is (R195, R222). -/
def onDescriptor {α : Type} (k : Nat) (a : Word) (act : M α) : M α := fun s =>
  match act s with
  | .error (.trap t) =>
    if t.cause = cMachine then .error (.trap t) else .error (.trap { t with stream := some k, tval := a })
  | r => r

/-- The descriptor of a configuration form, read as a load (R195). -/
def readImage (k : Nat) (a : Word) : M (List Byte) := onDescriptor k a (loadLocal .l a.toNat 64 64)

/-- The register of stream k released: invalid, with no physical register (R196). -/
def Slot.releaseBound (x : Slot) (k : Nat) (vec : Bool) : Slot :=
  let c : Cls := if vec then .v else .g
  let n := 24 + k % 4
  { x with regs := x.regs.drop c (BitVec.ofNat 5 n)
           windows := x.windows.filter fun w => !(w.cls == c && w.num == n) }

/-- The stream with BOUND set or clear. -/
def Stream.setBound (t : Stream) (b : Bool) : Stream := { t with ctl := if b then bitOn t.ctl 15 else bitOff t.ctl 15 }

/-- SCFG and SCFGI (R195): CTL, BASE and geometry from the image, POS and BOUND zero. -/
def configure (kind : Nat) (f : StreamReg) (s : State) : Out :=
  plainInstr ⟨f.h, [(1, .g, f.a)], none⟩ (do
    let a ← readG 1 f.a
    let k := f.st.toNat
    let bs ← readImage k a
    match parseImage bs [kind] ((← getMe).stream k) with
    | .error sub => configFault k sub
    | .ok t => modMe fun x => x.setStream k { t.setBound false with pos := 0 }) s
/-- SCFG (R195). -/
def execScfg (f : StreamReg) (s : State) : Out := configure 1 f s
/-- SCFGI (R195). -/
def execScfgi (f : StreamReg) (s : State) : Out := configure 2 f s

/-- SBIND (R196): the register becomes the stream's, and its old content is released. -/
def execSbind (f : StreamBind) (s : State) : Out :=
  plainInstr ⟨f.h, [], none⟩ (do
    let k := f.st.toNat
    let t := (← getMe).stream k
    if t.kind = 0 then configFault k 1
    if (t.esizeCode == 4) != f.vec then configFault k 5
    if t.bound then return ()
    modMe fun x => (x.releaseBound k f.vec).setStream k (t.setBound true)) s

/-- SUNBIND (R196): POS is kept, and the register stays invalid. -/
def execSunbind (f : StreamOnly) (s : State) : Out :=
  plainInstr ⟨f.h, [], none⟩ (do
    let k := f.st.toNat
    modMe fun x => x.setStream k ((x.stream k).setBound false)) s

/-- SSAVE (R200): the image written to L as a store of 64 B. -/
def execSsave (f : StreamReg) (s : State) : Out :=
  plainInstr ⟨f.h, [(1, .g, f.a)], none⟩ (do
    let a ← readG 1 f.a
    let k := f.st.toNat
    onDescriptor k a (storeLocal .vector .l a.toNat 64 ((← getMe).stream k).image)
    modMe fun x => x.setStream k { x.stream k with ahead := [] }) s

/-- SREST (R200): the whole state from an image, POS and BOUND included. A bound image of 64 B elements has no register on a core
without a vector unit, and gives sub-code 5 (log 14). -/
def execSrest (f : StreamReg) (s : State) : Out :=
  plainInstr ⟨f.h, [(1, .g, f.a)], none⟩ (do
    let a ← readG 1 f.a
    let k := f.st.toNat
    let bs ← readImage k a
    match parseImage bs [0, 1, 2] ((← getMe).stream k) with
    | .error sub => configFault k sub
    | .ok t =>
      if t.bound ∧ t.esizeCode = 4 ∧ isCompute (coreOf (← get).cur) = false then configFault k 5
      modMe fun x => (if t.bound then x.releaseBound k (t.esizeCode == 4) else x).setStream k t) s

/-- POS moved: what was read ahead is discarded; an unconfigured stream is a configuration fault (R195, R201). -/
def seekStream (k : Nat) (pos : Word) : M Unit := do
  if ((← getMe).stream k).kind = 0 then configFault k 1
  modMe fun x => x.setStream k { x.stream k with pos := pos, ahead := [] }

/-- SSEEK (R201). -/
def execSseek (f : StreamReg) (s : State) : Out :=
  plainInstr ⟨f.h, [(1, .g, f.a)], none⟩ (do
    let a ← readG 1 f.a
    seekStream f.st.toNat a) s

/-- Elements left (R201), saturated. -/
def Stream.left (t : Stream) : Nat := Nat.min (t.count - t.pos.toNat) (2 ^ 64 - 1)

/-- SSTAT (R201). -/
def execSstat (f : StreamStat) (s : State) : Out :=
  plainInstr ⟨f.h, [], some (.g, f.rd)⟩ (do
    let x ← getMe
    writeG f.rd (word (x.stream f.st.toNat).left)) s

end Sys2Proof.Machine
end

