-- ==== Sys2Proof/Machine/Rep.lean ====
section
/-! DEFINITION. Repetition (R203 to R210): the body, its conflicts, the stagger, `rep`, and the resumption of a repetition. -/

namespace Sys2Proof.Machine

/-- The specifier positions of a slot that can be staggered, with their lowest bits, by format (R108, R204). -/
def specPlaces (w : SlotBits) : List (Nat × Nat) :=
  let op := natField w 88 8
  if op = 0 then []
  else if op = 0x26 then [(0, 68)]
  else if op = 0x27 ∨ (0xC0 ≤ op ∧ op ≤ 0xCA) ∨ (0xD0 ≤ op ∧ op ≤ 0xDD) then [(0, 64), (1, 56), (2, 48)]
  else if (0xE0 ≤ op ∧ op ≤ 0xE3) ∨ (0xE8 ≤ op ∧ op ≤ 0xEE) then [(0, 64), (1, 56), (2, 48), (3, 40), (4, 32)]
  else [(0, 60), (1, 52), (2, 44), (3, 36)]

/-- The specifier at a place. -/
def specAt (w : SlotBits) (lo : Nat) : BitVec 8 := field w lo 8

/-- A specifier under offset `o` (R204): the number moves within its group of eight. A mark on g0 or p0 has no effect, and goes. -/
def staggerSpec (o : Nat) (sp : BitVec 8) : BitVec 8 :=
  if sp = 0 ∨ specCls sp = 3 then sp
  else
    let n := (specNum sp).toNat
    let n' := n / 8 * 8 + (n + o) % 8
    let r := setField sp 1 5 n'
    if n' = 0 ∧ specCls sp ≠ 1 then bitOff r 0 else r

/-- The slot of a body instruction under offset `o`: the positions of MASK are staggered (R204). -/
def staggerSlot (o mask : Nat) (w : SlotBits) : SlotBits :=
  (specPlaces w).foldl (fun w pl =>
    if pl.1 < 4 ∧ mask / 2 ^ pl.1 % 2 = 1 then setField w pl.2 8 (staggerSpec o (specAt w pl.2)).toNat else w) w

/-- The instruction has an operand of class g at a place: with g1 there it is an instruction. (A specifier of 0x00 stands for g0 where there is
an operand, and for nothing elsewhere.) -/
def operandAt (w lit : SlotBits) (lo : Nat) : Bool :=
  match decode (setField w lo 8 2) lit with
  | .ok _ => true
  | .error _ => false

/-- The body instruction names gn in a position not selected, or a g register of gn's group of eight in a selected one (reason 2 of R205);
0x00 is never staggered (R204), so it names g0 alone. -/
def namesCount (gn mask : Nat) (w lit : SlotBits) : Bool :=
  (specPlaces w).any fun pl =>
    let sp := specAt w pl.2
    let n := (specNum sp).toNat
    if sp = 0 then gn == 0 && operandAt w lit pl.2
    else specCls sp == 0 && (if pl.1 < 4 ∧ mask / 2 ^ pl.1 % 2 = 1 then n / 8 == gn / 8 else n == gn)

/-- The opcodes that no body holds (reason 1 of R205). -/
def barredOp (op : Nat) : Bool :=
  (decide (0x57 ≤ op) && decide (op ≤ 0x5B)) || (decide (0x60 ≤ op) && decide (op ≤ 0x6F)) || (decide (0x70 ≤ op) && decide (op ≤ 0x73))
    || (decide (0x78 ≤ op) && decide (op ≤ 0x7F)) || op == 0xDF || (decide (0xF0 ≤ op) && decide (op ≤ 0xF7))

/-- The address is LEND of an active loop level (reason 3 of R205). -/
def Loops.endsAt (l : Loops) (a : Word) : Bool := (l.fin.toList.take l.depth).contains a

/-- The first conflict of a body, as TVAL reports it: reason and body index (R205). -/
def bodyConflict (l : Loops) (gn mask : Nat) : Nat → List BodySlot → Option Nat
  | _, [] => none
  | i, b :: bs =>
    if barredOp (natField b.bits 88 8) then some (0x100 + i)
    else if namesCount gn mask b.bits b.lit then some (0x200 + i)
    else if l.endsAt b.addr then some (0x300 + i)
    else bodyConflict l gn mask (i + 1) bs

/-- The first occupied slot of a line from `k` on that is no literal (R89). -/
def firstSlot (line : BitVec 512) (k : Nat) : Option Nat :=
  (List.range 5).find? fun j => decide (k ≤ j) && decide (j < lineVcount line) && !isLiteral line j

/-- The `n` instructions from an address on in program order, with the line and encoding checks of R88 and R110 in body order; `fuel`
bounds the slots and lines passed. -/
def collectBody : Nat → Nat → Word → M (List BodySlot)
  | 0, _, _ => return []
  | _, 0, _ => return []
  | fuel + 1, n + 1, a => do
    let line ← fetchLine a
    match lineFault line with
    | some sub => trap cReservedField (lineOf a ||| word sub)
    | none =>
      match firstSlot line (slotOf a) with
      | none => do collectBody fuel (n + 1) (← onward (lineOf a + 64))
      | some k =>
        let here := lineOf a ||| word k
        let b : BodySlot := ⟨here, lineSlot line k, if k < 4 then lineSlot line (k + 1) else 0, nextOf line here⟩
        match decodeOn (coreOf (← get).cur) b.bits b.lit with
        | .error t => trapWith t
        | .ok _ =>
          if n = 0 then return [b]
          let rest ← collectBody fuel n (← onward b.next)
          return b :: rest

/-- REPSTATE of a new repetition (R206, R208). -/
def repWord (gn : BitVec 5) (len stride mask start : Nat) : Word :=
  word (2 ^ 63 + gn.toNat * 2 ^ 25 + len * 2 ^ 21 + stride * 2 ^ 11 + mask * 2 ^ 7 + start)

/-- The body of a `rep`, with its line and encoding faults raised at the fetch of the `rep`, before its guard is looked at (R205). A fault or
a wait of the fetch itself is kept for a `rep` that executes: a guarded-off one loads nothing (R206). -/
def fetchBody (n : Nat) : M (Except Stop (List BodySlot)) := fun s =>
  match (do collectBody 40 n (← onward (← nextPc)) : M (List BodySlot)) s with
  | .ok (b, s1) => .ok (.ok b, s1)
  | .error (.trap t) => if t.cause = cNoncanon then .ok (.error (.trap t), s) else .error (.trap t)
  | .error e => .ok (.error e, s)

/-- What a `rep` that executes does: the checks of R205, the skip, or the start of the repetition (R206). -/
def repBody (f : RepOp) (body : List BodySlot) : M (Option Word) := do
  let x ← getMe
  if x.rep.active then trap cRepConflict 0x400
  if x.loops.endsAt x.pc then trap cRepConflict 0x30F
  match bodyConflict x.loops f.gn.toNat f.mask.toNat 0 body with
  | some tv => trap cRepConflict (word tv)
  | none =>
    let c ← readG 1 ⟨f.gn, false⟩
    let after := match body.getLast? with | some b => b.next | none => 0
    if c = 0 then return some (← onward after)
    else
      let start := match body.head? with | some b => b.addr | none => 0
      modMe fun y => { y with rep := ⟨repWord f.gn f.len.toNat f.stride.toNat f.mask.toNat (slotOf start), .running, body⟩ }
      return some start

/-- REP (R203, R205, R206). -/
def execRep (f : RepOp) (s : State) : Out :=
  let sh : Shape := ⟨f.h, [(1, .g, ⟨f.gn, false⟩)], none⟩
  outcome (do
    let body ← fetchBody f.len.toNat
    if ← guardOn f.h then
      checkSources sh.srcs
      match body with
      | .error e => throw e
      | .ok b =>
        let jump ← repBody f b
        retireAt sh (0, false) jump
    else retireOff sh) s

/-- The resumption of a repetition (R209): the body reloaded from line(pc) − 64·BACK, checked, and continued at INDEX. Fields
that name no body instruction (LEN 0, or INDEX not below LEN) end the repetition at pc (log 15). -/
def repResume : M Unit := do
  let x ← getMe
  let r := x.rep
  let base := lineOf x.pc - word (64 * r.back)
  if r.len = 0 ∨ r.len ≤ r.index then
    modMe fun y => { y with rep := ⟨bitOff y.rep.state 63, .off, []⟩ }
  else if (lineOf x.pc).toNat < 64 * r.back then trap cNoncanon base
  else
    let body ← collectBody 40 r.len (base ||| word r.startSlot)
    match bodyConflict x.loops r.gn.toNat r.mask 0 body with
    | some tv =>
      let s ← get
      let s1 := s.setMe { s.me with rep := ⟨bitOff s.me.rep.state 63, .off, []⟩ }
      throw (.done (takeTrap { cause := cRepConflict, tval := word tv } s1))
    | none =>
      modMe fun y => { y with
        rep := ⟨y.rep.state, .running, body⟩
        pc := match body[r.index]? with | some b => b.addr | none => y.pc }

/-- The instruction that the repetition issues next, with its stagger (R204). -/
def Rep.current (r : Rep) : Option (SlotBits × SlotBits) :=
  (r.body[r.index]?).map fun b => (staggerSlot r.offset r.mask b.bits, b.lit)

end Sys2Proof.Machine
end

