-- ==== Sys2Proof/Machine/Vector.lean ====
section
/-! DEFINITION. The vector group (R170 to R190): OP 0x80 to 0xA4. -/

namespace Sys2Proof.Machine

/-! ### Lanes (R170, R171) -/

/-- Element j of width w bytes. -/
def elem (x : Vec) (w j : Nat) : Nat := natField x (8 * w * j) (8 * w)
/-- The number whose digits in base 2^(8w) these are. -/
def packElems (w : Nat) : List Nat → Nat
  | [] => 0
  | v :: vs => v % 2 ^ (8 * w) + 2 ^ (8 * w) * packElems w vs
/-- A vector of elements, element 0 first. -/
def ofElems (w : Nat) (vs : List Nat) : Vec := BitVec.ofNat 512 (packElems w vs)
/-- Element j is active (R171). -/
def activeAt (mask : Word) (w j : Nat) : Bool := mask.getLsbD (w * j)
/-- The element numbers of width w. -/
def lanesOf (w : Nat) : List Nat := List.range (64 / w)
/-- Some element is active (R171). -/
def anyActive (w : Nat) (mask : Word) : Bool := (lanesOf w).any (activeAt mask w)
/-- The bytes of the active elements, as a mask. -/
def activeBytes (w : Nat) (mask : Word) : Word :=
  word ((lanesOf w).foldl (fun m j => if activeAt mask w j then m + (2 ^ w - 1) * 2 ^ (w * j) else m) 0)
/-- The effect of R174: active elements receive their result, the others zero; the flags are those of active elements. -/
def mapLanes (w : Nat) (mask : Word) (f : Nat → Nat × Fl) : Vec × Fl :=
  let rs := (lanesOf w).map fun j => if activeAt mask w j then f j else (0, 0)
  (ofElems w (rs.map (·.1)), orAll (rs.map (·.2)))
/-- A result without flags. -/
def noFlags (n : Nat) : Nat × Fl := (n, 0)

/-- A vector result with its flags (R171). -/
def putV (bytes : Word) (rd : BitVec 5) (r : Vec × Fl) : M Unit := do
  writeV bytes rd r.1
  orFlags r.2

/-! ### Operands -/

/-- Operand b as its elements (R174): a register, or the low 8w bits of IMM32. -/
def readVB (pos : Nat) (w : Nat) : VOpnd → M (Nat → Nat)
  | .reg r => do
    let v ← readV pos r
    return fun j => elem v w j
  | .imm i => return fun _ => i.toNat % 2 ^ (8 * w)

/-- The shift count of each element (R178): a register, or IMM32 as a number, modulo 8w. -/
def readShift (pos : Nat) (w : Nat) : VOpnd → M (Nat → Nat)
  | .reg r => do
    let v ← readV pos r
    return fun j => elem v w j % (8 * w)
  | .imm i => return fun _ => i.toNat % (8 * w)

/-- An index: a g register, or IMM32 (R184). -/
def readIndex (pos : Nat) : VOpnd → M Nat
  | .reg r => do return (← readG pos r).toNat
  | .imm i => return i.toNat

/-! ### Element functions -/

/-- A two-operand function of an element: the floating-point or the integer one, by the code (R175, R176). -/
def elemOp (opF : FFmt → Rnd → FVal → FVal → Nat × Fl) (opI : Int → Int → Int) (code : BitVec 4) (mode : Rnd) (a b : Nat) : Nat × Fl :=
  match floatFmt false code with
  | some F => opF F mode (F.read a) (F.read b)
  | none => noFlags (intBits code (opI (intRead code a) (intRead code b)))

/-- The smaller or larger element (R137, R176). -/
def elemMinMax (larger : Bool) (code : BitVec 4) (a b : Nat) : Nat × Fl :=
  match floatFmt false code with
  | some F => F.minmax larger a b
  | none =>
    let less := decide (intRead code a < intRead code b)
    noFlags (if less != larger then a else b)

/-- The sign forms (R141, R175, R176). -/
def elemSign (clear : Bool) (code : BitVec 4) (a : Nat) : Nat × Fl :=
  match floatFmt false code with
  | some F => signForm clear a F
  | none =>
    let x := intRead code a
    noFlags (intBits code (if clear then x.natAbs else -x))

/-- An estimate of an element (R74 to R78). -/
def elemEst (est : FVal → Nat × Fl) (code : BitVec 4) (a : Nat) : Nat × Fl :=
  if code = 0 then est (FFmt.fp32.read a) else bfEst est a

/-- A two-operand element-wise form (R174). -/
def vecBinary (op : BitVec 4 → Rnd → Nat → Nat → Nat × Fl) (f : VBin) (s : State) : Out :=
  let w := fmtBytes f.fmt
  vecInstr ⟨f.h, (1, .v, f.a) :: vopndSrc .v 2 f.b, some (.v, f.rd)⟩ (anyActive w) (fun mask => do
    let a ← readV 1 f.a
    let b ← readVB 2 w f.b
    let mode ← statusMode
    putV (activeBytes w mask) f.rd (mapLanes w mask fun j => op f.fmt mode (elem a w j) (b j))) s

/-- A fused form (R174); `minus` subtracts c. -/
def vecFused (minus : Bool) (f : VTri) (s : State) : Out :=
  let w := fmtBytes f.fmt
  vecInstr ⟨f.h, (1, .v, f.a) :: (vopndSrc .v 2 f.b ++ [(3, .v, f.c)]), some (.v, f.rd)⟩ (anyActive w) (fun mask => do
    let a ← readV 1 f.a
    let b ← readVB 2 w f.b
    let c ← readV 3 f.c
    let mode ← statusMode
    let F := (floatFmt false f.fmt).getD .fp32
    putV (activeBytes w mask) f.rd (mapLanes w mask fun j =>
      let z := F.read (elem c w j)
      F.fma mode (F.read (elem a w j)) (F.read (b j)) (if minus then z.flip else z))) s

/-- A one-operand element-wise form (R174, R186). -/
def vecUnary (op : BitVec 4 → Nat → Nat × Fl) (f : VUn) (s : State) : Out :=
  let w := fmtBytes f.fmt
  vecInstr ⟨f.h, [(1, .v, f.a)], some (.v, f.rd)⟩ (anyActive w) (fun mask => do
    let a ← readV 1 f.a
    putV (activeBytes w mask) f.rd (mapLanes w mask fun j => op f.fmt (elem a w j))) s

/-- A shift form (R178). -/
def vecShift (op : BitVec 4 → Nat → Nat → Nat) (f : VBin) (s : State) : Out :=
  let w := fmtBytes f.fmt
  vecInstr ⟨f.h, (1, .v, f.a) :: vopndSrc .v 2 f.b, some (.v, f.rd)⟩ (anyActive w) (fun mask => do
    let a ← readV 1 f.a
    let b ← readShift 2 w f.b
    putV (activeBytes w mask) f.rd (mapLanes w mask fun j => noFlags (op f.fmt (elem a w j) (b j)))) s

/-- VADD (R174): a + b. -/
def execVadd (f : VBin) (s : State) : Out := vecBinary (fun code mode a b => elemOp FFmt.add (· + ·) code mode a b) f s
/-- VSUB (R174): a − b. -/
def execVsub (f : VBin) (s : State) : Out := vecBinary (fun code mode a b => elemOp FFmt.sub (· - ·) code mode a b) f s
/-- VMUL (R174): a · b. -/
def execVmul (f : VBin) (s : State) : Out := vecBinary (fun code mode a b => elemOp FFmt.mul (· * ·) code mode a b) f s
/-- VMIN (R174): the smaller. -/
def execVmin (f : VBin) (s : State) : Out := vecBinary (fun code _ a b => elemMinMax false code a b) f s
/-- VMAX (R174): the larger. -/
def execVmax (f : VBin) (s : State) : Out := vecBinary (fun code _ a b => elemMinMax true code a b) f s
/-- VAND (R179): a AND b. -/
def execVand (f : VBin) (s : State) : Out := vecBinary (fun _ _ a b => noFlags (a &&& b)) f s
/-- VOR (R179): a OR b. -/
def execVor (f : VBin) (s : State) : Out := vecBinary (fun _ _ a b => noFlags (a ||| b)) f s
/-- VXOR (R179): a XOR b. -/
def execVxor (f : VBin) (s : State) : Out := vecBinary (fun _ _ a b => noFlags (a ^^^ b)) f s
/-- VANDN (R179): a AND NOT b. -/
def execVandn (f : VBin) (s : State) : Out := vecBinary (fun _ _ a b => noFlags (a - (a &&& b))) f s
/-- VFMA (R174): a · b + c, rounded once. -/
def execVfma (f : VTri) (s : State) : Out := vecFused false f s
/-- VFMS (R174): a · b − c, rounded once. -/
def execVfms (f : VTri) (s : State) : Out := vecFused true f s
/-- VNEG (R174). -/
def execVneg (f : VUn) (s : State) : Out := vecUnary (elemSign false) f s
/-- VABS (R174). -/
def execVabs (f : VUn) (s : State) : Out := vecUnary (elemSign true) f s
/-- VRCPE (R174). -/
def execVrcpe (f : VUn) (s : State) : Out := vecUnary (elemEst recipEst) f s
/-- VRSQE (R174). -/
def execVrsqe (f : VUn) (s : State) : Out := vecUnary (elemEst rsqrtEst) f s
/-- VMOV (R186): active elements copied, the others zero. -/
def execVmov (f : VUn) (s : State) : Out := vecUnary (fun _ a => noFlags a) f s
/-- VSHL (R178). -/
def execVshl (f : VBin) (s : State) : Out := vecShift (fun _ a k => a * 2 ^ k) f s
/-- VSHR (R178). -/
def execVshr (f : VBin) (s : State) : Out := vecShift (fun _ a k => a / 2 ^ k) f s
/-- The element read as a signed number, whatever its code. -/
def signedElem (code : BitVec 4) (a : Nat) : Int :=
  let w := 8 * fmtBytes code
  if 2 ^ (w - 1) ≤ a then (a : Int) - 2 ^ w else a
/-- VSRA (R178): filled with copies of the sign bit. -/
def execVsra (f : VBin) (s : State) : Out := vecShift (fun code a k => intBits code (signedElem code a / 2 ^ k)) f s

/-- VDOT4 (R177). -/
def execVdot4 (f : V3) (s : State) : Out :=
  vecInstr ⟨f.h, [(1, .v, f.a), (2, .v, f.b), (3, .v, f.c)], some (.v, f.rd)⟩ (anyActive 4) (fun mask => do
    let a ← readV 1 f.a
    let b ← readV 2 f.b
    let c ← readV 3 f.c
    let dot (j : Nat) : Int := ((List.range 4).map fun k => intRead f.fmt (elem a 1 (4 * j + k)) * intRead f.fmt (elem b 1 (4 * j + k))).sum
    putV (activeBytes 4 mask) f.rd (mapLanes 4 mask fun j => noFlags ((((elem c 4 j : Nat) : Int) + dot j) % 2 ^ 32).toNat)) s

/-! ### Compare and select -/

/-- VCMP (R180): the byte lanes of an active element that meets the condition. -/
def execVcmp (f : VCmp) (s : State) : Out :=
  let w := fmtBytes f.fmt
  vecInstr ⟨f.h, [(1, .v, f.a), (2, .v, f.b)], some (.p, f.rd)⟩ (anyActive w) (fun mask => do
    let a ← readV 1 f.a
    let b ← readV 2 f.b
    let cond (j : Nat) : Bool × Fl := match floatFmt false f.fmt with
      | some F => floatCond f.cc (F.read (elem a w j)) (F.read (elem b w j))
      | none => (intCond f.cc (BitVec.ofNat (8 * w) (elem a w j)) (BitVec.ofNat (8 * w) (elem b w j)), 0)
    let rs := (lanesOf w).map fun j => if activeAt mask w j then cond j else (false, 0)
    let bits := rs.foldr (fun r acc => (if r.1 then 2 ^ w - 1 else 0) + 2 ^ w * acc) 0
    writeP f.rd (word bits)
    orFlags (orAll (rs.map (·.2)))) s

/-- VSEL (R181). -/
def execVsel (f : VSel) (s : State) : Out :=
  let w := fmtBytes f.fmt
  vecInstr ⟨f.h, [(1, .v, f.a), (2, .v, f.b), (3, .p, f.c)], some (.v, f.rd)⟩ (anyActive w) (fun mask => do
    let a ← readV 1 f.a
    let b ← readV 2 f.b
    let c ← readP 3 f.c
    putV (activeBytes w mask) f.rd (mapLanes w mask fun j => noFlags (if c.getLsbD (w * j) then elem a w j else elem b w j))) s

/-! ### Conversion (R182) -/

/-- The conversions of the elements in ascending order, with a draw each under RSTOCH (R63). -/
def convertLanes (nspec : Bool) (dst src : BitVec 4) (mode : Option Rnd) : List Nat → BitVec 32 → List (Nat × Fl) × BitVec 32
  | [], seed => ([], seed)
  | x :: xs, seed =>
    match mode with
    | some r =>
      let (rest, seed') := convertLanes nspec dst src mode xs seed
      (convertFmt nspec dst src r x :: rest, seed')
    | none =>
      let drawn := seedDraw seed
      let (rest, seed') := convertLanes nspec dst src mode xs drawn
      (convertFmt nspec dst src (.rstoch drawn.toNat) x :: rest, seed')

/-- VCVT (R182). -/
def execVcvt (f : VCvt) (s : State) : Out :=
  let ws := fmtBytes f.src
  let wd := fmtBytes f.dst
  let n := 64 / Nat.max ws wd
  let sbase := if ws < wd then f.part.toNat * n * ws else 0
  let dbase := if wd < ws then f.part.toNat * n * wd else 0
  let active (mask : Word) : List Nat := (List.range n).filter fun j => mask.getLsbD (dbase + j * wd)
  vecInstr ⟨f.h, [(1, .v, f.a)], some (.v, f.rd)⟩ (fun mask => !(active mask).isEmpty) (fun mask => do
    let a ← readV 1 f.a
    let x ← getMe
    let js := active mask
    let draws := f.rnd == 4 && conversionDraws f.dst f.src
    let mode ← (if draws then return none else return some (← conversionMode f.rnd false))
    let (rs, seed) := convertLanes x.nspec f.dst f.src mode (js.map fun j => natField a (8 * (sbase + j * ws)) (8 * ws)) (field x.ctl.seed 0 32)
    if draws then setSeed seed
    let out := (js.zip rs).foldl (fun v r => setField v (8 * (dbase + r.1 * wd)) (8 * wd) r.2.1) (0 : Vec)
    let bytes := js.foldl (fun m j => m + (2 ^ wd - 1) * 2 ^ (dbase + j * wd)) 0
    putV (word bytes) f.rd (out, orAll (rs.map (·.2)))) s

/-! ### Moves, broadcasts and permutes (R183 to R186) -/

/-- VBCAST (R183). -/
def execVbcast (f : VBcast) (s : State) : Out :=
  let w := fmtBytes f.fmt
  let srcs : List Src := match f.s with
    | .reg r => [(1, .g, r)]
    | .lit _ => []
  vecInstr ⟨f.h, srcs, some (.v, f.rd)⟩ (anyActive w) (fun mask => do
    let x ← (match f.s with
      | .reg r => readG 1 r
      | .lit v => return v)
    putV (activeBytes w mask) f.rd (mapLanes w mask fun _ => noFlags (natField x 0 (8 * w)))) s

/-- An element as `vext` and the reductions write it to a g register (R184, R187). -/
def extendElem (code : BitVec 4) (v : Nat) : Word := extendResult code v

/-- VEXT (R184). -/
def execVext (f : VExt) (s : State) : Out :=
  let w := fmtBytes f.fmt
  vecInstr ⟨f.h, (1, .v, f.a) :: vopndSrc .g 2 f.i, some (.g, f.rd)⟩ (anyActive w) (fun _ => do
    let a ← readV 1 f.a
    let i ← readIndex 2 f.i
    writeG f.rd (if i < 64 / w then extendElem f.fmt (elem a w i) else 0)) s

/-- VINS (R184). -/
def execVins (f : VIns) (s : State) : Out :=
  let w := fmtBytes f.fmt
  vecInstr ⟨f.h, (1, .v, f.a) :: (2, .g, f.s) :: vopndSrc .g 3 f.i, some (.v, f.rd)⟩ (anyActive w) (fun mask => do
    let a ← readV 1 f.a
    let x ← readG 2 f.s
    let i ← readIndex 3 f.i
    putV (activeBytes w mask) f.rd (mapLanes w mask fun j => noFlags (if j = i then natField x 0 (8 * w) else elem a w j))) s

/-- VPERM (R185). -/
def execVperm (f : V2) (s : State) : Out :=
  let w := fmtBytes f.fmt
  let n := 64 / w
  vecInstr ⟨f.h, [(1, .v, f.a), (2, .v, f.b)], some (.v, f.rd)⟩ (anyActive w) (fun mask => do
    let a ← readV 1 f.a
    let b ← readV 2 f.b
    putV (activeBytes w mask) f.rd (mapLanes w mask fun j =>
      let x := elem b w j
      noFlags (if x < n then elem a w x else 0))) s

/-- VSHUF (R185). -/
def execVshuf (f : V3) (s : State) : Out :=
  let w := fmtBytes f.fmt
  let n := 64 / w
  vecInstr ⟨f.h, [(1, .v, f.a), (2, .v, f.b), (3, .v, f.c)], some (.v, f.rd)⟩ (anyActive w) (fun mask => do
    let a ← readV 1 f.a
    let b ← readV 2 f.b
    let c ← readV 3 f.c
    putV (activeBytes w mask) f.rd (mapLanes w mask fun j =>
      let x := elem c w j
      noFlags (if x < n then elem a w x else if x < 2 * n then elem b w (x - n) else 0))) s

/-- The number of active elements below j (R186). -/
def activeBelow (mask : Word) (w j : Nat) : Nat := (List.range j).countP (activeAt mask w)

/-- VCOMPRESS (R186): the active elements packed from element 0 on. -/
def execVcompress (f : VUn) (s : State) : Out :=
  let w := fmtBytes f.fmt
  vecInstr ⟨f.h, [(1, .v, f.a)], some (.v, f.rd)⟩ (anyActive w) (fun mask => do
    let a ← readV 1 f.a
    let xs := ((lanesOf w).filter (activeAt mask w)).map (elem a w)
    putV (activeBytes w mask) f.rd (ofElems w xs, 0)) s

/-- VEXPAND (R186). -/
def execVexpand (f : VUn) (s : State) : Out :=
  let w := fmtBytes f.fmt
  vecInstr ⟨f.h, [(1, .v, f.a)], some (.v, f.rd)⟩ (anyActive w) (fun mask => do
    let a ← readV 1 f.a
    putV (activeBytes w mask) f.rd (mapLanes w mask fun j => noFlags (elem a w (activeBelow mask w j)))) s

/-- VIOTA (R186). -/
def execViota (f : VNull) (s : State) : Out :=
  let w := fmtBytes f.fmt
  vecInstr ⟨f.h, [], some (.v, f.rd)⟩ (anyActive w) (fun mask =>
    putV (activeBytes w mask) f.rd (mapLanes w mask fun j => noFlags (activeBelow mask w j))) s

/-- VPOPC (R186). -/
def execVpopc (f : VNull) (s : State) : Out :=
  let w := fmtBytes f.fmt
  vecInstr ⟨f.h, [], some (.g, f.rd)⟩ (anyActive w) (fun mask =>
    writeG f.rd (word ((lanesOf w).countP (activeAt mask w)))) s

/-! ### Reductions (R79, R80, R187) -/

/-- A node of the tree of R79: an inactive input passes the other through, unchanged and without a flag. A single active lane that is a NaN thus
reaches the result as it is (DESIGN CHOICE, log 72: R53 makes every NaN that an instruction produces canonical, with NV for a signalling one). -/
def treeNode (op : Nat → Nat → Nat × Fl) (a b : Option Nat) : Option Nat × Fl :=
  match a, b with
  | some x, some y => let r := op x y; (some r.1, r.2)
  | some x, none => (some x, 0)
  | none, y => (y, 0)

/-- One level: neighbours combined. -/
def treeLevel (op : Nat → Nat → Nat × Fl) : List (Option Nat) → List (Option Nat) × Fl
  | a :: b :: rest =>
    let (x, f) := treeNode op a b
    let (xs, g) := treeLevel op rest
    (x :: xs, f ||| g)
  | xs => (xs, 0)

/-- The levels of R79, `k` of them. -/
def treeSum (op : Nat → Nat → Nat × Fl) : Nat → List (Option Nat) → Option Nat × Fl
  | 0, xs => (xs.head?.join, 0)
  | k + 1, xs =>
    let (ys, f) := treeLevel op xs
    let (r, g) := treeSum op k ys
    (r, f ||| g)

/-- The sequential order of R80. -/
def chainSum (op : Nat → Nat → Nat × Fl) : Option Nat → List (Option Nat) → Option Nat × Fl
  | acc, [] => (acc, 0)
  | acc, none :: xs => chainSum op acc xs
  | none, some x :: xs => chainSum op (some x) xs
  | some a, some x :: xs =>
    let r := op a x
    let (z, f) := chainSum op (some r.1) xs
    (z, r.2 ||| f)

/-- The elements that take part in a reduction (R187). -/
def reductionElems (w : Nat) (mask pm : Word) (a : Vec) : List (Option Nat) :=
  (lanesOf w).map fun j => if activeAt mask w j && activeAt pm w j then some (elem a w j) else none

/-- A reduction: the elements that take part, reduced to a result for g[RD] with its flags (R187). -/
def reduce (result : BitVec 4 → Rnd → List (Option Nat) → Word × Fl) (f : VRed) (s : State) : Out :=
  let w := fmtBytes f.fmt
  let srcs : List Src := match f.pm with
    | some r => [(1, .v, f.a), (2, .p, r)]
    | none => [(1, .v, f.a)]
  vecInstr ⟨f.h, srcs, some (.g, f.rd)⟩ (anyActive w) (fun mask => do
    let a ← readV 1 f.a
    let pm ← (match f.pm with
      | some r => readP 2 r
      | none => return BitVec.allOnes 64)
    let r := result f.fmt (← statusMode) (reductionElems w mask pm a)
    writeG f.rd r.1
    orFlags r.2) s

/-- A rounded sum of two encodings. -/
def addCodes (F : FFmt) (mode : Rnd) (a b : Nat) : Nat × Fl := F.add mode (F.read a) (F.read b)

/-- VRED_ADD (R79, R187). -/
def execVredAdd (f : VRed) (s : State) : Out :=
  reduce (fun code mode xs => match floatFmt false code with
    | some F =>
      let (r, fl) := treeSum (addCodes F mode) 5 xs
      (word (r.getD F.signBit), fl)
    | none => (wordI ((xs.filterMap id).map (intRead code)).sum, 0)) f s

/-- VRED_MAX (R187). -/
def execVredMax (f : VRed) (s : State) : Out :=
  reduce (fun code _ xs => match floatFmt false code with
    | some F =>
      let (r, fl) := treeSum (F.minmax true) 5 xs
      (word (r.getD (F.inf true)), fl)
    | none => (wordI (((xs.filterMap id).map (intRead code)).foldl (fun m x => if m < x then x else m) (intRange code).1), 0)) f s

/-- VREDO_ADD (R80, R187): a single lane that is a NaN gives the canonical NaN, and its flag (R53). -/
def execVredoAdd (f : VRed) (s : State) : Out :=
  reduce (fun code mode xs =>
    let F := (floatFmt false code).getD .fp32
    let (r, fl) := chainSum (addCodes F mode) none xs
    match r with
    | none => (word F.signBit, fl)
    | some x => match F.read x with
      | .nan sn => (word F.nan, fl ||| flIf sn flNV)
      | _ => (word x, fl)) f s

/-! ### Function tables (R188 to R190) -/

/-- The number of segments of a header (R188). -/
def tableSegs (hd : List Byte) : Nat := numAt hd 5 1 + 1
/-- SH of a header, signed. -/
def tableSh (hd : List Byte) : Int := (BitVec.ofNat 8 (numAt hd 4 1)).toInt
/-- The header is one that loads a valid table (R189). -/
def tableHeaderOk (hd : List Byte) : Bool :=
  (match FFmt.fp32.read (numAt hd 0 4) with
    | .fin .. => true
    | _ => false) && decide (-32 ≤ tableSh hd) && decide (tableSh hd ≤ 32) && decide (numAt hd 6 1 < 2) && (hd.drop 7).all fun b => b == 0

/-- L bytes in pieces of at most 64, each as a load of its own (an item's crumbs may lie apart, R286). -/
def loadPieces (a : Nat) : Nat → Nat → M (List Byte)
  | 0, _ => return []
  | _, 0 => return []
  | fuel + 1, n => do
    let k := Nat.min 64 n
    let bs ← loadLocal .l a k 1
    let rest ← loadPieces (a + k) fuel (n - k)
    return bs ++ rest

/-- NSEG of the table at `a`, where its byte can be read: what SPACE_RANGE needs to know before the other checks (R189). -/
def glimpse (a : Nat) : M (Option Nat) := fun s =>
  match loadLocal .l (a + 5) 1 1 s with
  | .ok (bs, _) => .ok (some (ofBytes bs + 1), s)
  | .error _ => .ok (none, s)

/-- VTLOAD (R189): SPACE_RANGE of the header with its segments comes first; a bad header loads the table as invalid. -/
def execVtload (f : VTLoad) (s : State) : Out :=
  vecInstr ⟨f.h, [(1, .g, f.a)], none⟩ (anyActive 4) (fun _ => do
    let a := (← readG 1 f.a).toNat
    let least := (← glimpse a).getD 1
    let _ ← localAddr .l a (64 + 16 * least) 64
    let hd ← loadLocal .l a 64 64
    let n := tableSegs hd
    let _ ← localAddr .l a (64 + 16 * n) 64
    let body ← loadPieces (a + 64) 64 (16 * n)
    let coef (k j : Nat) : BitVec 32 := BitVec.ofNat 32 (numAt body (16 * k + 4 * j) 4)
    let segs := (List.range n).map fun k => Vector.ofFn fun j : Fin 4 => coef k j.val
    let t : FTable := ⟨BitVec.ofNat 32 (numAt hd 0 4), tableSh hd, numAt hd 6 1 % 2 == 1, segs⟩
    modCore fun c => { c with tables := if tableHeaderOk hd then c.tables.insert f.t.toNat t else c.tables.erase f.t.toNat }) s

/-- floor of a finite value. -/
def floorVal (neg : Bool) (mant : Nat) (e : Int) : Int :=
  let v : Int := if neg then -(mant : Int) else mant
  if 0 ≤ e then v * 2 ^ e.toNat else v / 2 ^ (-e).toNat

/-- The segment and the position in it, t as an FP32 encoding with the flags of its rounding, for a finite u (R190). Where u is -0 in segment
0, t is +0, the sum of -0 and +0 under RNE (DESIGN CHOICE, log 97). -/
def tablePlace (t : FTable) (neg : Bool) (mant : Nat) (e : Int) : Nat × (Nat × Fl) :=
  let i := floorVal neg mant e
  let last : Int := (t.segs.length : Int) - 1
  let less (k : Int) : FVal :=
    finSum .rne neg mant e (decide (0 < k)) k.natAbs 0
  let one : FVal := .fin false 1 0
  let zero : FVal := .fin false 0 0
  let r (x : FVal) : Nat × Fl := FFmt.fp32.roundVal .rne x
  if i < 0 then (0, r (if t.extrap then .fin neg mant e else zero))
  else if last < i then (last.toNat, r (if t.extrap then less last else one))
  else (i.toNat, r (less i))

/-- The fused steps of R190: y := y·t + c. -/
def tableSteps (tv : FVal) : List (BitVec 32) → Nat × Fl → Nat × Fl
  | [], y => y
  | c :: cs, y =>
    let r := FFmt.fp32.fma .rne (FFmt.fp32.read y.1) tv (FFmt.fp32.read c.toNat)
    tableSteps tv cs (r.1, y.2 ||| r.2)

/-- The interpolation of an FP32 value (R190). -/
def tableEval (t : Option FTable) (x : FVal) : Nat × Fl :=
  match t with
  | none => (FFmt.fp32.nan, flNV)
  | some t =>
    match x with
    | .nan sig => (FFmt.fp32.nan, flIf sig flNV)
    | _ =>
      let (dcode, f0) := match x with
        | .inf n => (FFmt.fp32.inf n, 0)
        | v => FFmt.fp32.sub .rne v (FFmt.fp32.read t.x0.toNat)
      let (k, (tcode, f1)) := match FFmt.fp32.read dcode with
        | .fin n mant e => tablePlace t n mant (e + t.sh)
        | .inf true => (0, (0, 0))
        | _ => (t.segs.length - 1, (0x3F800000, 0))
      match t.segs[k]? with
      | none => (FFmt.fp32.nan, flNV)
      | some seg =>
        let (y, f2) := tableSteps (FFmt.fp32.read tcode) [seg[2], seg[1], seg[0]] (seg[3].toNat, 0)
        (y, f0 ||| f1 ||| f2)

/-- The interpolation of an element: BF16 is widened exactly and rounded back (R190). -/
def elemTable (t : Option FTable) (code : BitVec 4) (a : Nat) : Nat × Fl :=
  if code = 0 then tableEval t (FFmt.fp32.read a)
  else
    let (y, f1) := tableEval t (FFmt.bf16.read a)
    let (z, f2) := FFmt.bf16.roundVal .rne (FFmt.fp32.read y)
    (z, f1 ||| f2)

/-- VTI (R190). -/
def execVti (f : VTable) (s : State) : Out :=
  let w := fmtBytes f.fmt
  vecInstr ⟨f.h, [(1, .v, f.a)], some (.v, f.rd)⟩ (anyActive w) (fun mask => do
    let a ← readV 1 f.a
    let t := (← get).myCore.tables.find f.t.toNat
    putV (activeBytes w mask) f.rd (mapLanes w mask fun j => elemTable t f.fmt (elem a w j))) s

end Sys2Proof.Machine
end

