-- ==== Sys2Proof/Machine/Memory.lean ====
section
/-! DEFINITION. Memory instructions: loads and stores of the three spaces (R211 to R216, R230 to R236, R260), bank
management (R223 to R225), atomics and exact-sum cells (R237 to R239, R257), and fences (R235, R266). -/

namespace Sys2Proof.Machine

/-! ### Scalar loads and stores (R231) -/

/-- n of R231. -/
def sizeBytes (size : BitVec 2) : Nat := 2 ^ size.toNat

/-- The loaded value in a register: zero- or sign-extended by Z (R231). -/
def extendLoad (z : Bool) (bs : List Byte) : Word :=
  let n := 8 * bs.length
  let v := ofBytes bs
  if z = false ∧ 0 < n ∧ 2 ^ (n - 1) ≤ v then wordI ((v : Int) - 2 ^ n) else word v

def loadShape (f : Load) : Shape := ⟨f.h, addrSrc f.ad, some (.g, f.rd)⟩
def storeShape (f : Store) : Shape := ⟨f.h, addrSrc f.ad ++ [(0, .g, f.src)], none⟩

/-- A load (R231): `get` reads n bytes at ea. -/
def scalarLoad (get : Int → Nat → M (List Byte)) (f : Load) (s : State) : Out :=
  plainInstr (loadShape f) (do
    let ea ← readAddr f.ad
    let bs ← get ea (sizeBytes f.size)
    writeG f.rd (extendLoad f.z bs)) s

/-- A store (R231): `put` writes the low n bytes at ea; the data register is read last (R197). -/
def scalarStore (put : Int → List Byte → M Unit) (f : Store) (s : State) : Out :=
  plainInstr (storeShape f) (do
    let ea ← readAddr f.ad
    let x ← readG 0 f.src
    put ea (toBytes (sizeBytes f.size) x.toNat)) s

/-- LDL (R231). -/
def execLdl (f : Load) (s : State) : Out := scalarLoad (fun ea n => loadSpace .l ea n n) f s
/-- LDC (R231). -/
def execLdc (f : Load) (s : State) : Out := scalarLoad (fun ea n => loadSpace .c ea n n) f s
/-- LDG (R231): no alignment is required. -/
def execLdg (f : Load) (s : State) : Out := scalarLoad (fun ea n => loadSpace .g ea n 1) f s
/-- STL (R231). -/
def execStl (f : Store) (s : State) : Out := scalarStore (fun ea bs => storeSpace .store .l ea bs.length bs) f s
/-- STC (R231). -/
def execStc (f : Store) (s : State) : Out := scalarStore (fun ea bs => storeSpace .store .c ea bs.length bs) f s
/-- STG (R231): no alignment is required. -/
def execStg (f : Store) (s : State) : Out := scalarStore (fun ea bs => storeSpace .store .g ea 1 bs) f s

/-- STRL (R260): its translation is precise; then it enters the store buffer and performs there once it is a release. -/
def execStrl (f : Store) (s : State) : Out :=
  scalarStore (fun ea bs => do
    gCheck ea bs.length bs.length
    let pas ← xlatRange .write ea.toNat bs.length
    needHome .strl ea.toNat (bs.map some)
    if ← logged then block .sideLog
    let s ← get
    pushEntry (s.entry .strl .g 0 ea.toNat (bs.map some) (effAsid s.me.ctl.asid.toNat ea.toNat) (some pas))) f s

/-! ### Full/empty forms (R230) -/

/-- An own entry changes the full/empty bit of a word, or for a taking load writes the word: the load waits for it (R255). -/
def SbEntry.guards (e : SbEntry) (cl word : Nat) (take : Bool) : Bool :=
  e.sp != .g && e.cl == cl && match e.kind with
    | .empty rs => rs.any fun r => (wordsOf r.1 r.2).contains word
    | .stlf => e.overlaps .l cl 0 (8 * word) 8
    | _ => take && e.overlaps .l cl 0 (8 * word) 8

/-- A load that waits for a full word (R230): checks first, then the wait, then the load; `take` sets the word empty. An item that takes a word
of a crumb it has not copied waits for the word it would copy (R285 to R287). With LA > 0 it waits as well: no instruction of its window
retires before it (R107; log 16). -/
def loadFull (take : Bool) (ea : Int) (n : Nat) : M (List Byte) := do
  let before ← get
  let (cl, a) ← localPlace .l ea n n take
  let s ← get
  if (s.ownEntries s.cur).any fun e => e.guards cl (a / 8) take then block (.overlap .l cl (a / 8 * 8) 8)
  if !(s.cluster cl).isFull (a / 8) then block (.full ((crumbRead before ea.toNat) / 8) (if s.me.item.isSome then word a else wordI ea))
  let bs ← (do
    match ← forwarded .l cl 0 [(a, n)] with
    | some bs => return bs.flatten
    | none => readLocal .l cl a n)
  if take then modify fun s => s.setCluster cl ((s.cluster cl).setEmpty (a / 8))
  return bs

/-- LDLF (R230). -/
def execLdlf (f : Load) (s : State) : Out := scalarLoad (loadFull false) f s
/-- LDLT (R230). -/
def execLdlt (f : Load) (s : State) : Out := scalarLoad (loadFull true) f s
/-- STLF (R230): the store sets the word full when it leaves the buffer. -/
def execStlf (f : Store) (s : State) : Out := scalarStore (fun ea bs => storeLocal .stlf .l ea bs.length bs) f s

/-! ### Ranges of L (R223 to R225, R230) -/

/-- The checks of a range form: SPACE_RANGE, then ALIGN of the address, then of the size (R223). -/
def rangeCheck (a b : Word) (al : Nat) : M Unit := do
  if 0x200000 < a.toNat + b.toNat then trap cSpaceRange a
  if a.toNat % al ≠ 0 then trap cAlign a
  if b.toNat % al ≠ 0 then trap cAlign b

/-- A management core has no scratchpad (log 10). -/
def needScratch (a : Word) : M Unit := do
  if hasScratch (← get).cur = false then trap cBankOff a

/-- The 64-byte blocks of a range, as address and size. -/
def blocksOf (a n : Nat) : List (Nat × Nat) :=
  if n = 0 then [] else
    (List.range ((a + n - 1) / 64 - a / 64 + 1)).map fun k =>
      let lo := Nat.max a (64 * (a / 64 + k))
      (lo, Nat.min (a + n) (64 * (a / 64 + k) + 64) - lo)

/-- The places of an item's write to a range: each crumb it touches is copied first (R285). -/
def itemRanges : List (Nat × Nat) → M (List (Nat × Nat))
  | [] => return []
  | (a, n) :: rest => do
    let (_, p) ← localPlace .l a n 1 true
    let ps ← itemRanges rest
    return (p, n) :: ps

/-- EMPTY (R230): the whole range is checked; it is ordered with the strand's stores as a store. -/
def execEmpty (f : Src2) (s : State) : Out :=
  plainInstr ⟨f.h, [(1, .g, f.a), (2, .g, f.b)], none⟩ (do
    let a ← readG 1 f.a
    let b ← readG 2 f.b
    rangeCheck a b 8
    if b = 0 then return ()
    needScratch a
    let s ← get
    let ranges ← (if s.me.item.isSome then itemRanges (blocksOf a.toNat b.toNat)
      else do
        bankAccess (clusterOf s.cur) a.toNat b.toNat (some a)
        return [(a.toNat, b.toNat)])
    if ← logged then block .sideLog
    let s ← get
    pushEntry (s.entry (.empty ranges) .l (clusterOf s.cur) 0 [] 0 none)) s

/-- The groups of a range. -/
def groupsOf (a b : Nat) : List Nat := (List.range (b / 0x2000)).map (a / 0x2000 + ·)

/-- BMUSER allows U-mode allocation of the group (R228). -/
def Cluster.userGroup (c : Cluster) (g : Nat) : Bool := (c.user[g / 64 % 4]'(Nat.mod_lt _ (by decide))).getLsbD (g % 64)
/-- A bank of the group failed its self-test (R221). -/
def Cluster.failedGroup (c : Cluster) (g : Nat) : Bool := c.failed.any fun b => b / 8 == g

/-- The status that refuses an allocation, if any: 3, then 2, then 1 (R223). -/
def Cluster.allocStatus (c : Cluster) (gs : List Nat) (user : Bool) : Nat :=
  if user && gs.any fun g => !c.userGroup g then 3
  else if gs.any c.failedGroup then 2
  else if gs.any fun g => (c.groups.find g).isSome then 1
  else 0

/-- The bytes of a range lost: memory, full/empty bits, poison and bit errors (R219, R220). -/
def Cluster.blank (c : Cluster) (a b : Nat) : Cluster :=
  let out (x : Nat) : Bool := decide (x < a) || decide (a + b ≤ x)
  { c with
    mem := c.mem.filter fun x => out x.1
    full := c.full.filter fun w => out (8 * w)
    poison := c.poison.filter fun w => out (8 * w)
    latent := c.latent.filter fun x => out (8 * x.1) }

/-- A region allocated (R223): its banks are ON, zero-filled and empty. -/
def Cluster.allocate (c : Cluster) (now a b stripe : Nat) : Cluster :=
  let gs := groupsOf a b
  let c1 := c.blank a b
  { c1 with
    groups := gs.foldl (fun m g => m.insert g ⟨a / 0x2000, gs.length, stripe⟩) c1.groups
    banks := (List.range (8 * gs.length)).foldl (fun m k => m.insert (8 * (a / 0x2000) + k) ⟨.on, now⟩) c1.banks }

/-- BALLOC (R223). -/
def execBalloc (f : Balloc) (s : State) : Out :=
  plainInstr ⟨f.h, [(1, .g, f.a), (2, .g, f.b)], some (.g, f.rd)⟩ (do
    let a ← readG 1 f.a
    let b ← readG 2 f.b
    rangeCheck a b (0x2000 * 2 ^ f.stripe.toNat)
    if b = 0 then writeG f.rd 0
    else
      needScratch a
      let s ← get
      let c := s.myCluster
      let st := c.allocStatus (groupsOf a.toNat b.toNat) (s.me.mode = .u)
      if st = 0 then modCluster fun c => c.allocate s.clock.time a.toNat b.toNat f.stripe.toNat
      writeG f.rd (word st)) s

/-- The groups of the stripe set that holds an allocated group (R218). -/
def stripeSet (r : Region) (g : Nat) : List Nat :=
  let span := 2 ^ r.stripe
  (List.range span).map (r.first + (g - r.first) / span * span + ·)

/-- The status of a `bfree` of allocated groups: 3 over 1 (R224). -/
def Cluster.freeStatus (c : Cluster) (gs : List Nat) (lo hi : Nat) (user : Bool) : Nat :=
  if user && gs.any fun g => !c.userGroup g then 3
  else if gs.any fun g => match c.groups.find g with
    | some r => (stripeSet r g).any fun x => decide (x < lo) || decide (hi ≤ x)
    | none => false then 1
  else 0

/-- A group freed: its banks are OFF and its contents lost (R220). -/
def Cluster.freeGroup (c : Cluster) (g : Nat) : Cluster :=
  let c1 := c.blank (0x2000 * g) 0x2000
  { c1 with groups := c1.groups.erase g, banks := c1.banks.filter fun x => x.1 / 8 != g }

/-- Some entry of a store buffer of the machine is to write or empty part of a range of a cluster's L (R224, R232). -/
def SbEntry.within (e : SbEntry) (cl a n : Nat) : Bool :=
  e.sp != .g && e.cl == cl && match e.kind with
    | .empty rs => rs.any fun r => decide (r.1 < a + n) && decide (a < r.1 + r.2)
    | _ => (List.range e.bytes.length).any fun k =>
        decide (a ≤ e.addr + k) && decide (e.addr + k < a + n) && (e.bytes[k]?).join.isSome
def State.buffered (s : State) (cl a n : Nat) : Bool := s.cores.any fun x => x.2.sb.any fun e => e.within cl a n

/-- Freed groups stop being held (R226). -/
def State.dropHeld (s : State) (cl : Nat) (gs : List Nat) : State :=
  { s with slots := s.slots.map fun x =>
      if clusterOf x.1 = cl then
        (x.1, { x.2 with sched := { x.2.sched with
          phase := x.2.sched.phase.filter fun g => !gs.contains g
          hint := x.2.sched.hint.filter fun g => !gs.contains g } })
      else x }

/-- The strands of a cluster that are BLOCKED in `ldlf` or `ldlt` on a word of a freed group take BANK_OFF (R224, R230). -/
def State.failWaits (s : State) (cl : Nat) (gs : List Nat) : State :=
  (s.slots.map (·.1)).foldl (fun t sid =>
    match (t.slot sid).phase with
    | .blocked (.full w ea) =>
      if clusterOf sid = cl ∧ gs.contains (8 * w / 0x2000) then t.trapAt sid { cause := cBankOff, tval := ea } else t
    | _ => t) s

/-- BFREE (R224): it waits for claims and for buffered writes to the groups. -/
def execBfree (f : Bin) (s : State) : Out :=
  plainInstr (binShape f) (do
    let a ← readG 1 f.a
    let b ← readG 2 f.b
    rangeCheck a b 0x2000
    if b = 0 then writeG f.rd 0
    else
      needScratch a
      let s ← get
      let cl := clusterOf s.cur
      let c := s.myCluster
      let gs := (groupsOf a.toNat b.toNat).filter fun g => (c.groups.find g).isSome
      let st := c.freeStatus gs (a.toNat / 0x2000) ((a.toNat + b.toNat) / 0x2000) (s.me.mode = .u)
      if st = 0 then
        if gs.any fun g => s.claimedRange cl (0x2000 * g) 0x2000 then block (.claims a.toNat b.toNat)
        if gs.any fun g => s.buffered cl (0x2000 * g) 0x2000 then block (.bankStores a.toNat b.toNat)
        set (((s.setCluster cl (gs.foldl Cluster.freeGroup c)).dropHeld cl gs).failWaits cl gs)
      writeG f.rd (word st)) s


/-- The groups that a range touches, within the scratchpad. -/
def groupsTouched (a b : Nat) : List Nat :=
  let hi := Nat.min (a + b) 0x200000
  if hi ≤ a then [] else (List.range ((hi - 1) / 0x2000 - a / 0x2000 + 1)).map (a / 0x2000 + ·)

/-- BWAKE (R225): it raises no fault and does not wait. -/
def execBwake (f : Src2) (s : State) : Out :=
  plainInstr ⟨f.h, [(1, .g, f.a), (2, .g, f.b)], none⟩ (do
    let a ← readG 1 f.a
    let b ← readG 2 f.b
    modify fun s => s.setCluster (clusterOf s.cur) (s.myCluster.wake s.clock.time a.toNat (Nat.min (a.toNat + b.toNat) 0x200000 - a.toNat))) s

/-! ### Vector loads and stores (R234) -/

/-- A vector access in the element order: address and number of each active element. -/
def activeElems (w : Nat) (mask : Word) (at_ : Nat → Int) : List (Nat × Int) :=
  ((lanesOf w).filter fun j => activeAt mask w j).map fun j => (j, at_ j)

/-- Checks 1 and 2 of R213 on one element: whole vectors are aligned to 64 bytes, gathered elements to their width (R215). -/
def elemRange (sp : Space) (whole : Option Int) (w : Nat) (a : Int) : M Unit := do
  match whole with
  | some ea =>
    let _ ← localAddr sp a w 1
    if ea % 64 ≠ 0 then trap cAlign (wordI ea)
  | none =>
    let _ ← localAddr sp a w w

/-- The places in L of the active elements (R213, R234); an item's write copies the crumbs in ascending order first (R285). -/
def placeElems (whole : Option Int) (w : Nat) (write : Bool) : List (Nat × Int) → M (List (Nat × Nat))
  | [] => return []
  | (j, a) :: rest => do
    elemRange .l whole w a
    let (_, p) ← localPlace .l a w 1 write
    let ps ← placeElems whole w write rest
    return (j, p) :: ps
def copyCrumbs : List Nat → M Unit
  | [] => return ()
  | a :: rest => do let _ ← crumbWrite a; copyCrumbs rest
/-- An item's write checks its elements in their order, with what each copy would check; nothing of that stands until all have passed. -/
def localElems (whole : Option Int) (w : Nat) (write : Bool) (es : List (Nat × Int)) : M (List (Nat × Nat)) := do
  if write && (← getMe).item.isSome then
    let s ← get
    let _ ← placeElems whole w write es
    set s
    copyCrumbs (es.foldl (fun m e => setInsert m e.2.toNat) [])
  placeElems whole w write es

/-- Elements read one by one, in ascending order. -/
def readElems (get : Nat → M (List Byte)) : List (Nat × Nat) → M (List (Nat × Nat))
  | [] => return []
  | (j, a) :: rest => do
    let bs ← get a
    let vs ← readElems get rest
    return (j, ofBytes bs) :: vs

/-- The elements of one vector load: all from the strand's own entry when it covers every byte of them, else each from memory (R256). -/
def loadElems (sp : Space) (cl asid w : Nat) (get : Nat → M (List Byte)) (es : List (Nat × Nat)) : M (List (Nat × Nat)) := do
  match ← forwarded sp cl asid (es.map fun e => (e.2, w)) with
  | some bs => return (es.zip bs).map fun x => (x.1.1, ofBytes x.2)
  | none => readElems get es

/-- The elements loaded from L (R234, R253, R256). -/
def loadElemsL (cl w : Nat) (es : List (Nat × Nat)) : M (List (Nat × Nat)) := do
  let x ← getMe
  loadElems .l cl 0 w (fun a => do return x.seen .l cl a (← readLocal .l cl a w)) es

/-- The checks of R214 on the active elements of a G form, with the alignment of the whole vector. -/
def checkElemsG (acc : Option Access) (ea : Int) (w : Nat) : List (Nat × Int) → M Unit
  | [] => return ()
  | (_, a) :: rest => do
    if ea % 64 ≠ 0 then trap cAlign (wordI ea)
    gCheck a w 1
    match acc with
    | some k => let _ ← xlatRange k a.toNat w
    | none => pure ()
    checkElemsG acc ea w rest
def loadElemsG (w : Nat) (es : List (Nat × Int)) : M (List (Nat × Nat)) := do
  let x ← getMe
  let asid := match es with
    | e :: _ => effAsid x.ctl.asid.toNat e.2.toNat
    | [] => 0
  needReplayed asid (es.map fun e => (e.2.toNat, w))
  loadElems .g 0 asid w (fun a => loadGlobalAt a w false) (es.map fun e => (e.1, e.2.toNat))

/-- The vector of loaded elements; inactive ones are zero (R171). -/
def gathered (w : Nat) (vs : List (Nat × Nat)) : Vec :=
  ofElems w ((lanesOf w).map fun j => (NMap.find vs j).getD 0)

/-- Element addresses of a contiguous form, and of a gather or scatter with an unsigned index per element (R234). -/
def contiguous (w : Nat) (ea : Int) (j : Nat) : Int := ea + w * j
def indexed (w : Nat) (base : Word) (idx : Vec) (ad : Addr) (j : Nat) : Int :=
  base.toNat + elem idx w j * 2 ^ ad.scale.toNat + ad.disp.toInt

/-- The addresses of an element form, read from its registers: the whole address, and the function of the element. -/
def vecAddr (gather : Bool) (w : Nat) (ad : Addr) : M (Option Int × (Nat → Int)) := do
  if gather then
    let b ← readG 1 ad.base
    let i ← readV 2 ad.index
    return (none, indexed w b i ad)
  else
    let ea ← readAddr ad
    return (some ea, contiguous w ea)

def vecMemShape (gather store : Bool) (f : VMem) : Shape :=
  let srcs : List Src := [(1, .g, f.ad.base), (2, if gather then .v else .g, f.ad.index)]
  if store then ⟨f.h, srcs ++ [(0, .v, f.r)], none⟩ else ⟨f.h, srcs, some (.v, f.r.n)⟩

/-- A vector load of L (R234). -/
def vecLoadL (gather : Bool) (f : VMem) (s : State) : Out :=
  let w := fmtBytes f.fmt
  vecInstr (vecMemShape gather false f) (anyActive w) (fun mask => do
    let (whole, at_) ← vecAddr gather w f.ad
    let es ← localElems whole w false (activeElems w mask at_)
    let vs ← loadElemsL (clusterOf (← get).cur) w es
    writeV (activeBytes w mask) f.r.n (gathered w vs)) s

/-- One store of several pieces: the lowest address, and the bytes from there on; a later piece remains (R234). -/
def spanOf (ps : List (Nat × List Byte)) : Nat × List (Option Byte) :=
  let lo := (minOf (ps.map (·.1))).getD 0
  let hi := ps.foldl (fun h p => Nat.max h (p.1 + p.2.length)) lo
  (lo, ps.foldl (fun bs p =>
    bs.take (p.1 - lo) ++ p.2.map some ++ bs.drop (p.1 - lo + p.2.length)) (List.replicate (hi - lo) none))

/-- A vector store of L (R234). -/
def vecStoreL (scatter : Bool) (f : VMem) (s : State) : Out :=
  let w := fmtBytes f.fmt
  vecInstr (vecMemShape scatter true f) (anyActive w) (fun mask => do
    let (whole, at_) ← vecAddr scatter w f.ad
    let v ← readV 0 f.r
    let es ← localElems whole w true (activeElems w mask at_)
    let (lo, bs) := spanOf (es.map fun e => (e.2, toBytes w (elem v w e.1)))
    storeAt .vector .l (clusterOf (← get).cur) lo bs) s

/-- VLDL (R234). -/
def execVldl (f : VMem) (s : State) : Out := vecLoadL false f s
/-- VGATHL (R234). -/
def execVgathl (f : VMem) (s : State) : Out := vecLoadL true f s
/-- VSTL (R234). -/
def execVstl (f : VMem) (s : State) : Out := vecStoreL false f s
/-- VSCATL (R234). -/
def execVscatl (f : VMem) (s : State) : Out := vecStoreL true f s
/-- VLDG (R234). -/
def execVldg (f : VMem) (s : State) : Out :=
  let w := fmtBytes f.fmt
  vecInstr (vecMemShape false false f) (anyActive w) (fun mask => do
    let ea ← readAddr f.ad
    let es := activeElems w mask (contiguous w ea)
    checkElemsG (some .read) ea w es
    let vs ← loadElemsG w es
    writeV (activeBytes w mask) f.r.n (gathered w vs)) s
/-- VSTG (R234): a translation fault is met in the store buffer, with the byte mask (R359). -/
def execVstg (f : VMem) (s : State) : Out :=
  let w := fmtBytes f.fmt
  vecInstr (vecMemShape false true f) (anyActive w) (fun mask => do
    let ea ← readAddr f.ad
    let v ← readV 0 f.r
    checkElemsG none ea w (activeElems w mask (contiguous w ea))
    let bytes := activeBytes w mask
    storeGlobalAt .vector ea.toNat ((List.range 64).map fun k => if bytes.getLsbD k then some (field v (8 * k) 8) else none)) s

/-! ### Prefetch (R236) -/

/-- An action whose failures drop it. -/
def quiet (act : M Unit) : M Unit := fun s =>
  match act s with
  | .ok r => .ok r
  | .error _ => .ok ((), s)

/-- PREFG (R236): no fault but encoding faults; the request may bring a line of another die into the data cache. -/
def execPrefg (f : Pref) (s : State) : Out :=
  outcome (do
    let sh : Shape := ⟨f.h, addrSrc f.ad, none⟩
    if ← guardOn f.h then
      quiet do
        let ea ← readAddr f.ad
        if ← freshBit then quiet do
          gCheck ea 1 1
          let pa ← xlatOne .read ea.toNat
          let s ← get
          if ownerDie ea.toNat = dieOf s.cur then return ()
          let _ ← dcByte (effAsid s.me.ctl.asid.toNat ea.toNat) ea.toNat pa
      retireAt sh (0, false) none
    else retireOff sh) s

/-! ### Atomics (R237, R257) -/

/-- new of R237, of n bytes: op by the codes of R113. -/
def atomicNew (op n old b e : Nat) : Nat :=
  let sg (x : Nat) : Int := if 2 ^ (8 * n - 1) ≤ x then (x : Int) - 2 ^ (8 * n) else x
  match op with
  | 0 => (old + b) % 2 ^ (8 * n)
  | 1 => if sg b < sg old then b else old
  | 2 => if sg old < sg b then b else old
  | 3 => if b < old then b else old
  | 4 => if old < b then b else old
  | 5 => b
  | 6 => if old = e then b else old
  | 7 => old &&& b
  | 8 => old ||| b
  | _ => old ^^^ b

/-- The line of an address leaves the core's data cache, its merged stores sent home first (R216). -/
def dropLine (asid ea : Nat) : M Unit :=
  modify fun s => s.dropLineOf (coreOf s.cur) asid ea

/-- LDAQ (R260): the load performs at the home, where merged stores of the line go first (R254), then every line of another die leaves the data cache; read-ahead ends (R199). -/
def execLdaq (f : Load) (s : State) : Out :=
  scalarLoad (fun ea n => do
    gCheck ea n n
    dropLine (effAsid (← getMe).ctl.asid.toNat ea.toNat) ea.toNat
    let bs ← loadGlobalAt ea.toNat n true
    acquire
    discardAhead
    return bs) f s

/-- A write of L at its home waits while the granule is claimed (R311). -/
def needUnclaimed (cl a n : Nat) : M Unit := do
  if (← get).claimedRange cl a n then block (.claims a n)

def amoBytes (f : Amo) : Nat := if f.dword then 8 else 4
def amoShape (f : Amo) : Shape :=
  ⟨f.h, (if f.op = 6 then [(0, .g, ⟨f.rd, false⟩)] else []) ++ [(1, .g, f.base), (2, .g, f.v)], some (.g, f.rd)⟩

/-- The operands of an atomic: the address, b, and for `cas` e (R237). -/
def amoOperands (f : Amo) : M (Int × Nat × Nat) := do
  let n := amoBytes f
  let e ← (if f.op = 6 then readG 0 ⟨f.rd, false⟩ else return 0)
  let base ← readG 1 f.base
  let v ← readG 2 f.v
  return (base.toNat + f.disp.toInt, natField v 0 (8 * n), natField e 0 (8 * n))

/-- AMOL (R237): one action at the bank, after every earlier store of the strand (R257). -/
def execAmol (f : Amo) (s : State) : Out :=
  plainInstr (amoShape f) (do
    let n := amoBytes f
    let (ea, b, e) ← amoOperands f
    let (cl, a) ← localPlace .l ea n n true
    needDrained
    needUnclaimed cl a n
    let old := ofBytes (← readLocal .l cl a n)
    modify fun s => s.setCluster cl ((s.cluster cl).store a (someBytes n (atomicNew f.op.toNat n old b e)))
    writeG f.rd (word old)) s

/-- AMOG (R237): with RD = g0 a reduction that enters the store buffer (R359), else one action at the home. Either waits until the
strand's earlier stores have left the buffer, and holds up its later loads (R257, `forwarded`). -/
def execAmog (f : Amo) (s : State) : Out :=
  plainInstr (amoShape f) (do
    let n := amoBytes f
    let (ea, b, e) ← amoOperands f
    gCheck ea n n
    if f.rd = 0 then
      needStores
      storeGlobalAt (.reduction f.op.toNat n b) ea.toNat (someBytes n b)
    else
      needDrained
      let pas ← xlatRange .rmw ea.toNat n
      dropLine (effAsid (← getMe).ctl.asid.toNat ea.toNat) ea.toNat
      let old := ofBytes (← readHome ea.toNat pas)
      modify fun s => s.storePhys pas (someBytes n (atomicNew f.op.toNat n old b e))
      writeG f.rd (word old)) s

/-! ### Exact-sum cells (R83, R238, R239) -/

/-- VALUE of a cell as a signed number. -/
def cellValue (bs : List Byte) : Int :=
  let v := numAt bs 0 40
  if 2 ^ 319 ≤ v then (v : Int) - 2 ^ 320 else v
/-- FLAGS of a cell (R238). -/
def cellFlags (bs : List Byte) : Nat := numAt bs 40 1 % 16

/-- An operand of `faddx` added to a cell: VALUE and FLAGS of the sum, 41 bytes (R83). -/
def cellAdd (bs : List Byte) (x : FVal) : List Byte :=
  let flags := numAt bs 40 1
  let put (v : Int) (f : Nat) : List Byte := toBytes 40 (v % 2 ^ 320).toNat ++ toBytes 1 (flags ||| f)
  match x with
  | .nan _ => put (cellValue bs) 1
  | .inf neg => put (cellValue bs) (if neg then 4 else 2)
  | .fin neg mant e =>
    let z := cellValue bs + signedAt neg mant e (-149)
    put z (if z < -(2 ^ 319) ∨ 2 ^ 319 ≤ z then 8 else 0)

/-- The operand that `faddx` widens to FP32 (R83). -/
def cellOperand (bf : Bool) (v : Nat) : FVal := (if bf then FFmt.bf16 else FFmt.fp32).read v

/-- The result of `rdx` (R83). -/
def cellRead (bs : List Byte) (mode : Rnd) : Nat × Fl :=
  let f := cellFlags bs
  let on (k : Nat) : Bool := f / 2 ^ k % 2 == 1
  if on 0 || on 3 || (on 1 && on 2) then (FFmt.fp32.nan, flNV)
  else if on 1 then (FFmt.fp32.inf false, 0)
  else if on 2 then (FFmt.fp32.inf true, 0)
  else
    let z := cellValue bs
    FFmt.fp32.roundVal mode (.fin (decide (z < 0)) z.natAbs (-149))

/-- FADDX (R239): it takes its place in the store order (R257). -/
def execFaddx (f : CellAdd) (s : State) : Out :=
  plainInstr ⟨f.h, addrSrc f.ad ++ [(0, .g, f.src)], none⟩ (do
    let ea ← readAddr f.ad
    let x ← readG 0 f.src
    let kind := SbKind.faddx f.bf (natField x 0 (if f.bf then 16 else 32))
    let bytes := List.replicate 64 (some (0 : Byte))
    if f.g then
      gCheck ea 64 64
      storeGlobalAt kind ea.toNat bytes
    else
      let (cl, a) ← localPlace .l ea 64 64 true
      let _ ← readLocal .l cl a 41
      storeAt kind .l cl a bytes) s

/-- RDX (R239): after every earlier store of the strand, at the home (R257). -/
def execRdx (f : CellRead) (s : State) : Out :=
  plainInstr ⟨f.h, addrSrc f.ad, some (.g, f.rd)⟩ (do
    let ea ← readAddr f.ad
    let bs ← (if f.g then do
        gCheck ea 64 64
        needDrained
        let pas ← xlatRange .read ea.toNat 64
        dropLine (effAsid (← getMe).ctl.asid.toNat ea.toNat) ea.toNat
        readHome ea.toNat pas
      else do
        let (cl, a) ← localPlace .l ea 64 64 false
        needDrained
        readLocal .l cl a 64)
    let mode ← statusMode
    let (r, fl) := cellRead bs mode
    writeG f.rd (word r)
    orFlags fl) s

/-- CLRX (R239): all 64 bytes become zero, at the home (R257). -/
def execClrx (f : CellClear) (s : State) : Out :=
  plainInstr ⟨f.h, addrSrc f.ad, none⟩ (do
    let ea ← readAddr f.ad
    let zero := List.replicate 64 (some (0 : Byte))
    if f.g then
      gCheck ea 64 64
      needDrained
      let pas ← xlatRange .write ea.toNat 64
      dropLine (effAsid (← getMe).ctl.asid.toNat ea.toNat) ea.toNat
      modify fun s => s.storePhys pas zero
    else
      let (cl, a) ← localPlace .l ea 64 64 true
      needDrained
      needUnclaimed cl a 64
      modify fun s => s.setCluster cl ((s.cluster cl).store a zero)) s

/-! ### Fences (R235, R259, R266) -/

/-- The wait of a fence (R235), with what it does in the data cache; read-ahead is discarded (R199). Levels: 0 core, 1 cluster
and die, 2 package and system. -/
def fenceBody (level : Nat) : M Unit := do
  needDrained
  if 0 < level then sendMerged
  if 1 < level then acquire
  discardAhead

def fenceForm (level : Nat) (f : Plain) (s : State) : Out := plainInstr ⟨f.h, [], none⟩ (fenceBody level) s

/-- FENCE_C (R235). -/
def execFenceC (f : Plain) (s : State) : Out := fenceForm 0 f s
/-- FENCE_K (R235). -/
def execFenceK (f : Plain) (s : State) : Out := fenceForm 1 f s
/-- FENCE_D (R235). -/
def execFenceD (f : Plain) (s : State) : Out := fenceForm 1 f s
/-- FENCE_P (R235): acquire and release (R259). -/
def execFenceP (f : Plain) (s : State) : Out := fenceForm 2 f s
/-- FENCE_Y (R235): acquire and release (R259). -/
def execFenceY (f : Plain) (s : State) : Out := fenceForm 2 f s
/-- FENCE_W (R266): until each earlier store is acknowledged or its window bound has passed, and the side log has drained;
without time lock as `fence.y`. It is no acquire. -/
def execFenceW (f : Plain) (s : State) : Out :=
  plainInstr ⟨f.h, [], none⟩ (do
    let s ← get
    if s.clock.lock = false then fenceBody 1
    else
      if ← logged then block .sideLog
      match (s.ownEntries s.cur).find? fun e => decide (s.clock.time < e.due) with
      | some e => block (.window e.due)
      | none =>
        sendMerged
        discardAhead) s

end Sys2Proof.Machine
end

