-- ==== Sys2Proof/Machine/StoreBuffer.lean ====
section
/-! DEFINITION. What happens behind a retired store: the entries of the store buffer leave (R255 to R258, R268, R311), their
translation probes (R359), the side log with its replay (R273, R274, R360), and the window boundary (R262, R264). -/

namespace Sys2Proof.Machine

/-! ### Performing an entry at its home -/

/-- The translation an entry needs (R355). -/
def SbEntry.access (e : SbEntry) : Access :=
  match e.kind with
  | .reduction .. => .rmw
  | .faddx .. => .rmw
  | _ => .write

/-- Bytes that an entry leaves at its home, given what is there (R83, R237). -/
def SbEntry.result (e : SbEntry) (old : List Byte) : List (Option Byte) :=
  match e.kind with
  | .reduction op n v => someBytes n (atomicNew op n (ofBytes old) v 0)
  | .faddx bf v => (cellAdd old (cellOperand bf v)).map some
  | _ => e.bytes

/-- The cores that must not keep an older value of what an entry writes: the one it was issued on, and the one that its strand has been moved to
(R254, R275). -/
def State.strandCores (s : State) (core : Nat) (e : SbEntry) : List Nat :=
  core :: (s.slots.filter fun x => x.2.debts.contains e.ctx).map fun x => coreOf x.1

/-- A G entry performed at its home (R252): the cached line of it goes, at its strand's cores. A reduction or a cell form of a poisoned word
leaves it poisoned: only a plain store of the whole word clears it (R222). -/
def State.performHome (s : State) (core : Nat) (e : SbEntry) (pas : List Nat) : State :=
  let drop (t : State) (c : Nat) : State := (t.dropLineOf c e.asid e.addr).dropLineOf c e.asid (e.addr + pas.length - 1)
  let s1 := (s.strandCores core e).foldl drop s
  let bs := e.result (s1.readPhys pas)
  let s2 := s1.storePhys (pas.take bs.length) bs
  if e.access = .rmw then { s2 with hbmPoison := s1.hbmPoison } else s2

/-- A line of another die brought into a core's data cache for a store. -/
def State.fillFor (s : State) (core asid va pa : Nat) : State :=
  let pas := (List.range 64).map (pa + ·)
  if ((s.core core).dcFind asid va).isSome || s.physPoisoned pas then s
  else
    let s1 := s.dcRoom core
    s1.setCore core ((s1.core core).dcPut ⟨asid, va, s.pageSize asid va, s1.readPhys pas, List.replicate 64 false, true, pa, s.clock.time, List.replicate 64 default⟩)

/-- A byte of a store merged into a cached line (R258). -/
def DcLine.merge (x : DcLine) (e : SbEntry) (k : Nat) (b : Byte) : DcLine :=
  { x with data := setAt x.data k b, dirty := setAt x.dirty k true, by_ := setAt x.by_ k (e.sid, e.ctx, e.seq, e.mode) }

/-- The bytes of a store: those of cached lines merge there, the others go home (R258). -/
def State.mergeStore (s : State) (core : Nat) (e : SbEntry) (pas : List Nat) : State :=
  let items := (List.range e.bytes.length).filterMap fun k => ((e.bytes[k]?).join).map fun b => (e.addr + k, pas[k]?.getD 0, b)
  let cached (x : Nat × Nat × Byte) : Bool := ((s.core core).dcFind e.asid (x.1 / 64 * 64)).isSome
  let here := items.filter cached
  let home := items.filter fun x => !cached x
  let c := here.foldl (fun c x => match c.dcFind e.asid (x.1 / 64 * 64) with
    | some l => c.dcPut (l.merge e (x.1 % 64) x.2.2)
    | none => c) (s.core core)
  (s.setCore core c).storePhys (home.map (·.2.1)) (home.map fun x => some x.2.2)

/-- A G entry leaves the store buffer: at the home for the own die, atomics and releases; else it may merge in the core's data
cache (R256, R258), unless its strand has left the core (R275). -/
def State.performG (s : State) (core : Nat) (e : SbEntry) (pas : List Nat) : State :=
  match e.kind with
  | .strl => s.performHome core e pas
  | .reduction .. => s.performHome core e pas
  | .faddx .. => s.performHome core e pas
  | _ =>
    if ownerDie e.addr = core / 512 ∨ (s.slot e.sid).ctx ≠ e.ctx then s.performHome core e pas
    else
      let pa := pas.headD 0
      let s1 := if Config.freeBit s.tick then s.fillFor core e.asid (e.addr / 64 * 64) (pa / 64 * 64) else s
      { s1 with tick := s.tick + 1 }.mergeStore core e pas

/-- The words that an entry writes. -/
def SbEntry.words (e : SbEntry) : List Nat :=
  ((List.range e.bytes.length).filterMap fun k => ((e.bytes[k]?).join).map fun _ => (e.addr + k) / 8).eraseDups

/-- The ranges of L that an entry acts on. -/
def SbEntry.ranges (e : SbEntry) : List (Nat × Nat) :=
  match e.kind with
  | .empty rs => rs
  | _ => e.words.map fun w => (8 * w, 8)

/-- An L or C entry performed at its bank (R256, R271): the touch, the bytes, the full/empty bits. -/
def Cluster.perform (c : Cluster) (now : Nat) (e : SbEntry) : Cluster :=
  let c1 := e.ranges.foldl (fun c r => c.touch now r.1 r.2) c
  match e.kind with
  | .empty rs => rs.foldl (fun c r => c.emptyRange r.1 r.2) c1
  | .stlf => (c1.store e.addr e.bytes).setFull (e.addr / 8)
  | .faddx .. => { c1.store e.addr (e.result (c1.mem.readN e.addr 64)) with poison := c1.poison }
  | _ => c1.store e.addr (e.result (c1.mem.readN e.addr 64))

/-! ### The buffer (R256, R359) -/

/-- An entry is held while the side log has an entry of its strand that precedes it in program order. -/
def Core.held (c : Core) (e : SbEntry) : Bool := c.log.any fun x => x.2.entry.ctx == e.ctx && decide (x.2.entry.seq < e.seq)

/-- The entries of the buffer with their places, oldest first. -/
def Core.places (c : Core) : List (Nat × SbEntry) := (List.range c.sb.length).filterMap fun k => (c.sb[k]?).map fun e => (k, e)

/-- A held `strl` at the head holds up every entry behind it. -/
def Core.strlHead (c : Core) : Bool :=
  match c.sb with
  | e :: _ => e.kind == .strl && c.held e
  | [] => false

/-- The entry that leaves next: the first that is not held. -/
def Core.nextOut (c : Core) : Option (Nat × SbEntry) :=
  if c.strlHead then none else c.places.find? fun x => !c.held x.2

/-- The words of a wide store perform one by one, in any order (R253). -/
def SbEntry.wide (e : SbEntry) : Bool :=
  (match e.kind with
    | .store => true
    | .push => true
    | .vector => true
    | _ => false) && decide (1 < e.words.length)

/-- The part of an entry inside a word, or outside it. -/
def SbEntry.part (e : SbEntry) (w : Nat) (inside : Bool) : SbEntry :=
  { e with bytes := (List.range e.bytes.length).map fun k => if decide ((e.addr + k) / 8 = w) == inside then (e.bytes[k]?).join else none }

/-- What leaves of an entry now, and what stays: the whole of it, or of a wide store one word, which is free (R253). -/
def SbEntry.leaving (e : SbEntry) (tick : Nat) : SbEntry × Option SbEntry :=
  if e.wide && Config.freeBit tick then
    let w := (e.words[Config.freeNat tick % e.words.length]?).getD 0
    (e.part w true, some (e.part w false))
  else (e, none)

/-- An entry, or one word of it, leaves place `k` of a core's buffer. -/
def State.takeOut (s : State) (core k : Nat) (e : SbEntry) : SbEntry × State :=
  let c := s.core core
  let (now, later) := e.leaving s.tick
  (now, { s with tick := s.tick + 1 }.setCore core { c with sb := match later with
    | some r => setAt c.sb k r
    | none => c.sb.eraseIdx k })

/-- STORE_BUFFER_DRAIN (R256): the next entry leaves and performs. It stays while it awaits its probe (R359), while an engine
claims a granule of it (R311), and while a bank is being proofed (R220). A `strl` sends the merged stores of its core home first, and stays
while one of its strand's is logged or cannot be sent (R260, R274). One that hit a line of a page gone far, which has left since, is
probed again (R362). -/
def State.drainOne (s : State) (core : Nat) : State :=
  let c := s.core core
  match c.nextOut with
  | none => s
  | some (k, e) =>
    let (now, out) := s.takeOut core k e
    if e.sp = .g then
      match e.pas with
      | none => s
      | some pas =>
        if pas.any (fun pa => decide (2 ^ 40 ≤ pa)) && ((c.dcFind e.asid (e.addr / 64 * 64)).isNone) then
          s.setCore core { c with sb := setAt c.sb k { e with pas := none } }
        else if e.kind = .strl then
          let sent := s.writeThrough core
          let k1 := sent.core core
          if k1.held e || k1.dcache.any (fun l => l.far && l.holdsOf [e.ctx]) then sent
          else (sent.setCore core { k1 with sb := k1.sb.eraseIdx k }).performG core e pas
        else out.performG core now pas
    else if e.ranges.any fun r => s.claimedRange e.cl r.1 r.2 then s
    else
      let cl := s.cluster e.cl
      match (e.ranges.flatMap fun r => cl.asleep r.1 r.2) with
      | b :: bs => s.setCluster e.cl (cl.proofBanks (b :: bs))
      | [] => out.setCluster e.cl (cl.perform s.clock.time now)

/-- A G entry that can enter the side log (R273). -/
def SbEntry.loggable (e : SbEntry) : Bool :=
  e.sp == .g && match e.kind with
    | .strl => false
    | _ => true

/-- Entries of one strand moved from the buffer to the log, in order, up to the first of another kind or until the log lacks
room (R359): the log, and what stays. -/
def Core.moveLogged (ctx : Nat) : Core → List SbEntry → Core × List SbEntry
  | c, [] => (c, [])
  | c, e :: es =>
    if e.ctx ≠ ctx then
      let (c', r) := Core.moveLogged ctx c es
      (c', e :: r)
    else if e.loggable then
      match c.logPut { e with pas := none } 0 with
      | some (c', _) => Core.moveLogged ctx c' es
      | none => (c, e :: es)
    else (c, e :: es)

/-- STORE_LOGGED (R359): a probe fails, so the entry and the strand's following G entries go to the side log. -/
def State.logStore (s : State) (core k : Nat) (e : SbEntry) (reason : Nat) : State :=
  let c := s.core core
  match c.logPut { e with pas := none } reason with
  | none => s
  | some (c1, idx) =>
    let (c2, rest) := Core.moveLogged e.ctx c1 (c.sb.drop (k + 1))
    (s.setCore core { c2 with sb := c.sb.take k ++ rest }).sendLog core e.sid idx cStoreLogged reason

/-- The physical addresses that a cached line with W gives to a store (R357). -/
def Core.lineAddrs (c : Core) (e : SbEntry) : Option (List Nat) :=
  match e.kind with
  | .reduction .. => none
  | .faddx .. => none
  | _ => match c.dcFind e.asid (e.addr / 64 * 64) with
    | some l => if l.w && decide (e.addr % 64 + e.bytes.length ≤ 64) then some ((List.range e.bytes.length).map (l.pa + e.addr % 64 + ·)) else none
    | none => none

/-- TRANSLATION_PROBE (R359): the probe of the first entry that awaits one comes back. An entry of a page that is being swapped
goes on waiting (R363). -/
def State.probeOne (s : State) (core : Nat) : State :=
  let c := s.core core
  let waiting := c.places.find? fun x => !c.held x.2 && x.2.loggable && x.2.pas.isNone
  match waiting with
  | none => s
  | some (k, e) =>
    match c.lineAddrs e with
    | some pas => s.setCore core { c with sb := setAt c.sb k { e with pas := some pas } }
    | none => match s.xlatBytes e.asid e.addr e.bytes.length e.access e.mode true with
      | (.ok pas, s1) =>
        let c1 := s1.core core
        s1.setCore core { c1 with sb := setAt c1.sb k { e with pas := some pas } }
      | (.error (.busy _, _), s1) => s1
      | (.error (.fail r _, _), s1) => s1.logStore core k e r
      | (.error (.ok _, _), s1) => s1

/-! ### The side log (R359, R360) -/

/-- Entries of a strand discarded (LOGCTL.OPC 1). -/
def Core.logDiscard (c : Core) (sid : Nat) : Core := { c with log := c.log.filter fun x => x.2.entry.sid != sid }
/-- Entries of a strand rearmed (LOGCTL.OPC 2). -/
def Core.logRearm (c : Core) (sid : Nat) : Core :=
  { c with log := c.log.map fun x => if x.2.entry.sid = sid then (x.1, { x.2 with retry := 0, persist := false }) else x }

/-- Program order of two entries of one strand: the first part of a store comes before the second. -/
def LogEntry.before (x y : LogEntry) : Bool := decide (x.entry.seq < y.entry.seq) || (x.entry.seq == y.entry.seq && decide (x.part < y.part))

/-- The oldest entry of a strand: its index and content. -/
def Core.oldest (c : Core) (ctx : Nat) : Option (Nat × LogEntry) :=
  (c.log.filter fun x => x.2.entry.ctx == ctx).foldl (fun best x => match best with
    | none => some x
    | some b => if x.2.before b.2 then some x else some b) none

/-- The contexts with entries. -/
def Core.logCtxs (c : Core) : List Nat := c.log.foldl (fun m x => setInsert m x.2.entry.ctx) []

/-- How far a replay has come: what it waits for, if it does; the log entries, by index, whose strands it has left; and the state. -/
structure Replay where
  wait : Option Wait
  left : Word
  st : State
deriving DecidableEq, Repr

/-- The replay of one strand's entries (R360), as far as it goes. It waits for a page being swapped (R363), and for stores of the strand that
are still in the buffer and precede the entry, since its stores become visible in program order (R274). -/
def State.replayStrand (core ctx : Nat) (left : Word) : Nat → State → Replay
  | 0, s => ⟨none, left, s⟩
  | fuel + 1, s =>
    match (s.core core).oldest ctx with
    | none => ⟨none, left, s⟩
    | some (k, x) =>
      if x.persist || left.getLsbD k then ⟨none, left, s⟩
      else if (s.core core).sb.any fun e => e.ctx == ctx && decide (e.seq < x.entry.seq) then ⟨some (.order ctx x.entry.seq), left, s⟩
      else
        let e := x.entry
        match s.xlatBytes e.asid e.addr e.bytes.length e.access e.mode false with
        | (.ok pas, s1) =>
          let c := s1.core core
          State.replayStrand core ctx left fuel ((s1.setCore core { c with log := c.log.erase k }).performHome core e pas)
        | (.error (.busy pa, _), s1) => ⟨some (.swapBusy pa), left, s1⟩
        | (.error (.ok _, _), s1) => ⟨none, left, s1⟩
        | (.error (.fail r _, _), s1) =>
          let c := s1.core core
          let last := x.retry + 1 == 4
          let y := { x with retry := x.retry + 1, reason := r, persist := last }
          let s2 := s1.setCore core { c with log := c.log.insert k y }
          ⟨none, bitOn left k, if last then s2.sendLog core e.sid k cPersistent r else s2⟩

/-- Replay of every strand's entries, one strand after another, and the first wait among them. -/
def State.replayAll (core : Nat) : List Nat → Word → State → Replay
  | [], left, s => ⟨none, left, s⟩
  | ctx :: rest, left, s =>
    let r := State.replayStrand core ctx left (Config.sideLogEntries + 1) s
    let r' := State.replayAll core rest r.left r.st
    { r' with wait := r.wait.or r'.wait }

/-- PTGEN of a die. -/
def State.ptgen (s : State) (d : Nat) : Word := (s.die d).ptgen

/-- The generation is stale for some die that owns an entry of the log (R360). -/
def State.staleLog (s : State) (core : Nat) (gen : Word) : Bool :=
  (s.core core).log.any fun x => decide (gen.toNat < (s.ptgen x.2.owndie).toNat)

/-! ### The window boundary (R264) -/

/-- Every entry that can leave does: eight words an entry at most. -/
def State.drainAll (core : Nat) : Nat → State → State
  | 0, s => s
  | n + 1, s => if (s.core core).nextOut.isNone then s else State.drainAll core n ((s.probeOne core).drainOne core)

/-- An entry that will leave keeps the window open (R262, R264): one whose probe fails, and finds no room in the side log, does not, nor do
those behind it. -/
def State.unperformed (s : State) (core : Nat) : Bool :=
  match (s.core core).nextOut with
  | none => false
  | some (_, e) => match e.sp, e.pas, s.xlatBytes e.asid e.addr e.bytes.length e.access e.mode true with
    | .g, none, (.error (.fail _ _, _), _) => false
    | _, _, _ => true

/-- The start of a window at a core (R264): its stores of the window before are performed at their homes, and lines of other
dies that it filled before the previous window began leave its data cache. -/
def State.windowBoundary (s : State) (core : Nat) : State :=
  let s1 := (State.drainAll core (8 * Config.storeBufferEntries) s).writeThrough core
  let w := 2 ^ s.clock.k
  let start := s.clock.time / w * w
  let c := s1.core core
  s1.setCore core (c.dcDrop fun x => decide (x.filled + w < start))

/-! ### The rows -/

/-- STORE_BUFFER_DRAIN (R256). -/
def execStoreBufferDrain (core : Nat) (s : State) : Out := .next (s.drainOne core)
/-- TRANSLATION_PROBE (R359). -/
def execTranslationProbe (core : Nat) (s : State) : Out := .next (s.probeOne core)
/-- LOG_DISCARD (R359): the entries of a strand in the issuing core's log are never performed. -/
def execLogDiscard (sid : Nat) (s : State) : Out := .next (s.setCore (coreOf s.cur) (s.myCore.logDiscard sid))
/-- LOG_REARM (R359). -/
def execLogRearm (sid : Nat) (s : State) : Out := .next (s.setCore (coreOf s.cur) (s.myCore.logRearm sid))
/-- WINDOW_BOUNDARY (R264). -/
def execWindowBoundary (core : Nat) (s : State) : Out := .next (s.windowBoundary core)

/-- LOGREPLAY (R360): 1 when the generation is stale, else 0 with the replay done. It blocks until the replay completes, and a halt does not
abandon it (R365): what it has replayed stays replayed, and `reply` says which strands it has left. -/
def execLogreplay (f : Un) (s : State) : Out :=
  privInstr (unShape f) (needSM 0) (do
    let gen ← readG 1 f.a
    let s ← get
    let core := coreOf s.cur
    if s.me.sched.reply.isNone && s.staleLog core gen then writeG f.rd 1
    else
      let r := State.replayAll core (s.core core).logCtxs (s.me.sched.reply.getD 0) s
      match r.wait with
      | some w => throw (.done (waitState (.finishing w) false (r.st.setMe { r.st.me with sched := { r.st.me.sched with reply := some r.left } })))
      | none =>
        set r.st
        modMe fun x => { x with sched := { x.sched with reply := .none } }
        writeG f.rd 0
    return none) s

end Sys2Proof.Machine
end

