-- ==== Sys2Proof/Machine/Planes.lean ====
section
/-! DEFINITION. Tensor slots and plane layouts (R67 to R73, R300 to R305): the fields of a slot record, its checks, the
addresses of planes, indices, scale words and metadata, the S20 scale, and the block conversion of `cpyc` and of drains
(R245, R319). -/

namespace Sys2Proof.Machine

/-- The fields of a tensor slot record (R300). -/
structure TSlot where
  fmt : Nat
  sparse : Bool
  p : Nat
  rows : Nat
  nver : Nat
  kext : Nat
  lbase : Nat
  pstride : Nat
  cstride : Nat
  sbase : Nat
  srstride : Nat
  mbase : Nat
  mrstride : Nat
  table : Nat
  vstride : Nat
deriving DecidableEq, Repr, Inhabited

def TSlot.ofRecord (r : BitVec 512) : TSlot where
  fmt := natField r 0 4
  sparse := r.getLsbD 4
  p := natField r 8 8
  rows := natField r 16 8
  nver := natField r 24 3
  kext := natField r 32 16
  lbase := natField r 64 32
  pstride := natField r 96 32
  cstride := natField r 128 32
  sbase := natField r 160 32
  srstride := natField r 192 32
  mbase := natField r 224 32
  mrstride := natField r 256 32
  table := natField r 288 32
  vstride := natField r 320 32

/-- PL and L8 by their codes. -/
def TSlot.isPL (t : TSlot) : Bool := t.fmt == 0xC
def TSlot.isL8 (t : TSlot) : Bool := t.fmt == 0xD
/-- Bytes of an element of an element format; 0 for the others (R300). -/
def TSlot.elemBytes (t : TSlot) : Nat := if t.fmt = 0 then 4 else if t.fmt = 2 then 2 else if t.fmt = 4 then 1 else 0
def ceilDiv (a b : Nat) : Nat := (a + b - 1) / b
/-- Logical positions of a chunk (R303, R304). -/
def TSlot.chunkSpan (t : TSlot) : Nat := if t.sparse then 512 else 256
def TSlot.chunks (t : TSlot) : Nat := ceilDiv t.kext t.chunkSpan
def TSlot.blocks (t : TSlot) : Nat := ceilDiv t.kext 32

/-- A row-plane-chunk, of 32 B, and a row-chunk of L8, of 64 B (R303). -/
def TSlot.planeAt (t : TSlot) (v c j r : Nat) : Nat := t.lbase + v * t.vstride + c * t.cstride + j * t.pstride + 32 * r
def TSlot.indexAt (t : TSlot) (v c r : Nat) : Nat := t.lbase + v * t.vstride + c * t.cstride + 64 * r
/-- The scale word of a row and block (R303), the metadata byte of a group (R304), an element (R305). -/
def TSlot.scaleAt (t : TSlot) (v r b : Nat) : Nat := t.sbase + v * t.vstride + r * t.srstride + 4 * b
def TSlot.metaAt (t : TSlot) (v r g : Nat) : Nat := t.mbase + v * t.vstride + r * t.mrstride + 64 * (g / 128) + g % 128 / 2
def TSlot.elemAt (t : TSlot) (v r c : Nat) : Nat := t.lbase + v * t.vstride + r * t.pstride + t.elemBytes * c

/-- One more than the last byte that a version of the record describes (sub-code 7 of R301). -/
def TSlot.extent (t : TSlot) (v : Nat) : Nat :=
  let w := t.elemBytes
  let r := t.rows - 1
  if w ≠ 0 then t.elemAt v r 0 + 8 * ceilDiv (t.kext * w) 8
  else
    let c := t.chunks - 1
    let data := if t.isPL then t.planeAt v c (t.p - 1) r + 32 else t.indexAt v c r + 64
    let scale := t.scaleAt v r (t.blocks - 1) + 4
    let md := if t.sparse then t.metaAt v r (ceilDiv t.kext 4 - 1) + 1 else 0
    let table := if t.isL8 ∧ t.table ≠ 0 then t.table + 512 else 0
    Nat.max (Nat.max data scale) (Nat.max md table)

/-- The sub-code of the first record check that fails (R301). -/
def TSlot.fault (t : TSlot) (r : BitVec 512) : Option Nat :=
  let w := t.elemBytes
  let plane := t.isPL || t.isL8
  let off (x n : Nat) : Bool := x % n != 0
  if !(plane || w != 0) then some 1
  else if (t.isPL && (t.p == 0 || decide (16 < t.p))) || (!t.isPL && t.p != 0) then some 2
  else if t.rows = 0 ∨ 32 < t.rows ∨ t.kext = 0 ∨ 16384 < t.kext ∨ (w ≠ 0 ∧ 32 < t.kext) then some 3
  else if t.sparse && !t.isPL then some 4
  else if (t.isPL && (off t.lbase 32 || off t.pstride 32 || off t.cstride 32)) || (t.isL8 && (off t.lbase 64 || off t.cstride 64)) ||
      (w != 0 && (off t.lbase 8 || off t.pstride 8)) || off t.sbase 4 || off t.srstride 4 || off t.mbase 64 || off t.mrstride 64 ||
      off t.table 64 || off t.vstride 64 then some 5
  else if (t.isPL && (decide (t.pstride < 32 * t.rows) || decide (t.cstride < t.p * t.pstride))) ||
      (t.isL8 && decide (t.cstride < 64 * t.rows)) || (w != 0 && decide (t.pstride < 8 * ceilDiv (t.kext * w) 8)) ||
      (plane && decide (t.srstride < 4 * t.blocks)) || (t.sparse && decide (t.mrstride < 64 * ceilDiv t.kext 512)) then some 6
  else if (List.range (t.nver + 1)).any fun v => decide (0x200000 < t.extent v) then some 7
  else if natField r 5 2 ≠ 0 ∨ natField r 27 5 ≠ 0 ∨ natField r 48 16 ≠ 0 ∨ natField r 352 160 ≠ 0 ∨ (t.isL8 ∧ t.pstride ≠ 0) ∨
      (w ≠ 0 ∧ (t.cstride ≠ 0 ∨ t.sbase ≠ 0 ∨ t.srstride ≠ 0)) ∨ (t.sparse = false ∧ (t.mbase ≠ 0 ∨ t.mrstride ≠ 0)) ∨
      (t.isL8 = false ∧ t.table ≠ 0) ∨ (t.nver = 0 ∧ t.vstride ≠ 0) then some 8
  else none

/-! ### S20 scales (R67, R68) -/

/-- What a scale word stands for: malformed, zero, NaN, or (4096 + f) · 2^e exactly. -/
inductive Scale where
  | bad
  | zero
  | nan
  | fin (mant : Nat) (e : Int)
deriving DecidableEq, Repr, Inhabited

def Scale.ofWord (w : Nat) : Scale :=
  let e := w / 4096 % 256
  if w / 2 ^ 20 % 4096 ≠ 0 then .bad
  else if e = 0 then .zero
  else if e = 255 then .nan
  else .fin (4096 + w % 4096) ((e : Int) - 127 - 12)

/-- The canonical NaN scale (R53). -/
def scaleNan : Nat := 0xFF000

/-- A positive value p · 2^e / q encoded under a mode (R68). -/
def scaleOf (mode : Rnd) (p q : Nat) (e : Int) : Nat × Fl :=
  if p = 0 then (0, 0)
  else
    let lead := leadExp p q e
    if lead < -126 then (4096, 0)
    else
      let (num, den) := fracOf p q (e - (lead - 12))
      let (n, _, _) := mode.whole false num den
      let (ex, f) := if n = 8192 then (lead + 1, 0) else (lead, n - 4096)
      if 127 < ex then (254 * 4096 + 4095, flOF) else ((ex + 127).toNat * 4096 + f, 0)

/-! ### The block conversion (R245, R319) -/

/-- The largest magnitude of finite values, as mant · 2^e. -/
def maxMagnitude : List FVal → Nat × Int
  | [] => (0, 0)
  | .fin _ mant e :: xs =>
    let (m2, e2) := maxMagnitude xs
    if mant = 0 then (m2, e2)
    else if m2 = 0 then (mant, e)
    else
      let base := if e ≤ e2 then e else e2
      if m2 * 2 ^ (e2 - base).toNat ≤ mant * 2 ^ (e - base).toNat then (mant, e) else (m2, e2)
  | _ :: xs => maxMagnitude xs

/-- A mantissa clamped to P bits, with OF and NX when it saturates (R245). -/
def clampMant (p : Nat) (v : Int) (inexact : Bool) : Int × Fl :=
  let lo : Int := -(2 ^ (p - 1))
  let hi : Int := 2 ^ (p - 1) - 1
  if v < lo then (lo, flOF ||| flNX) else if hi < v then (hi, flOF ||| flNX) else (v, flIf inexact flNX)

/-- The mantissa of one position under a finite scale. -/
def mantOf (p : Nat) (mode : Rnd) (sm : Nat) (se : Int) : FVal → Int × Fl
  | .nan _ => (0, 0)
  | .inf neg => (if neg then -(2 ^ (p - 1)) else 2 ^ (p - 1) - 1, flOF ||| flNX)
  | .fin neg mant e =>
    let (num, den) := fracOf mant sm (e - se)
    let (n, inexact, _) := mode.whole neg num den
    clampMant p (if neg then -(n : Int) else n) inexact

/-- A block of live values converted: the scale word, the mantissas, the flags. `modes` gives each position its rounding. -/
def convertBlock (p : Nat) (modes : List Rnd) (xs : List FVal) : Nat × List Int × Fl :=
  if xs.isEmpty then (0, [], 0)
  else if xs.any FVal.isNan then (scaleNan, xs.map fun _ => 0, flNV)
  else
    let d := Nat.max (2 ^ (p - 1) - 1) 1
    let hasInf := xs.any fun x => match x with
      | .inf _ => true
      | _ => false
    let (mant, e) := maxMagnitude xs
    let (w, f0) := if hasInf then (254 * 4096 + 4095, flOF) else scaleOf .rup mant d e
    match Scale.ofWord w with
    | .fin sm se =>
      let rs := (modes.zip xs).map fun x => mantOf p x.1 sm se x.2
      (w, rs.map (·.1), f0 ||| orAll (rs.map (·.2)))
    | _ => (w, xs.map fun _ => 0, f0)

/-! ### Rows in memory (R70, R303) -/

/-- Plane j of up to 256 mantissas, as the 32 bytes of a row-plane-chunk (R70). -/
def planeBytes (j : Nat) (ms : List Int) : List Byte :=
  toBytes 32 (ms.foldr (fun v acc => (v / 2 ^ j % 2).toNat + 2 * acc) 0)

/-- Bytes to write at an L offset. -/
abbrev Piece := Nat × List Byte

/-- A dense PL row: the planes of each chunk, and its scale words (R303). -/
def TSlot.rowPieces (t : TSlot) (v r : Nat) (ms : List Int) (scales : List Nat) : List Piece :=
  ((List.range (ceilDiv ms.length 256)).flatMap fun c =>
    (List.range t.p).map fun j => (t.planeAt v c j r, planeBytes j ((ms.drop (256 * c)).take 256))) ++
  (List.range scales.length).map fun b => (t.scaleAt v r b, toBytes 4 (scales[b]?.getD 0))

/-- The ranges that a dense PL row of the slot occupies, for a number of chunks and blocks. -/
def TSlot.rowRanges (t : TSlot) (v r chunks blocks : Nat) : List (Nat × Nat) :=
  ((List.range chunks).flatMap fun c => (List.range t.p).map fun j => (t.planeAt v c j r, 32)) ++
  (List.range blocks).map fun b => (t.scaleAt v r b, 4)

/-! ### L8 (R71, R72) -/

/-- Entry j of the default pattern table (R72). -/
def defaultEntry (j : Nat) : Nat := (255 - j) * 256 + j

/-- The eight weights of an index under a pattern table (R71). -/
def indexWeights (entry : Nat → Nat) (index : Nat) : List Int :=
  let e := entry (index / 256)
  (List.range 8).map fun k =>
    let q : Int := (e / 4 ^ k % 4 : Nat)
    (if index / 2 ^ k % 2 = 1 then -1 else 1) * (2 * q + 1)

/-- The mantissa of a position of a row-plane-chunk set: bit k of each plane, the top one negative (R69, R70). -/
def planeMant (planes : List (List Byte)) (k : Nat) : Int :=
  let p := planes.length
  ((List.range p).map fun j =>
    let bit : Int := ((planes[j]?.getD []).getD (k / 8) 0).toNat / 2 ^ (k % 8) % 2
    if j + 1 = p then -(bit * 2 ^ j) else bit * 2 ^ j).sum

end Sys2Proof.Machine
end

