-- ==== Sys2Proof/Machine/Engine.lean ====
section
/-! DEFINITION. What the engines share: operations and their handles (R242, R247 to R250), acceptance (R246, R270), and their
reads and writes of memory (R222, R243, R268, R311). -/

namespace Sys2Proof.Machine

/-! ### Status words, handles and operations -/

/-- The handle status word (R247). -/
def statusWord (code side pos : Nat) (flags : BitVec 5) (cancelled : Bool) : Word :=
  word (code % 256 + flags.toNat * 2 ^ 8 + (if cancelled then 2 ^ 13 else 0) + side % 4 * 2 ^ 14 + pos % 2 ^ 48 * 2 ^ 16)

def Slot.handle (x : Slot) (h : Nat) : Handle := x.handles[h % 8]'(Nat.mod_lt _ (by decide))
def Slot.setHandle (x : Slot) (h : Nat) (v : Handle) : Slot := { x with handles := x.handles.set (h % 8) v (Nat.mod_lt _ (by decide)) }
def Handle.isPending : Handle → Bool
  | .pending _ => true
  | _ => false
/-- The handle names the operation and waits for it. -/
def Handle.waitsFor (v : Handle) (op : Nat) : Bool :=
  match v with
  | .pending n => n == op
  | _ => false
def Slot.anyPending (x : Slot) : Bool := x.handles.toList.any Handle.isPending

/-- An operation completes: its handle gets the status, wherever it is held; an exported one keeps it for its import (R250). -/
def State.finishOp (s : State) (op : Nat) (w : Word) : State :=
  match s.ops.find op with
  | none => s
  | some o =>
    match o.holder with
    | .slot sid h =>
      let s1 := { s with ops := s.ops.erase op }
      if ((s.slot sid).handle h).waitsFor op then s1.setSlot sid ((s.slot sid).setHandle h (.complete op w)) else s1
    | .starter core r h =>
      let s1 := { s with ops := s.ops.erase op }
      match (s.core core).starters.find r with
      | some st =>
        if (st.ctx.handle h).waitsFor op then
          s1.setCore core { s.core core with starters := (s.core core).starters.insert r { st with ctx := st.ctx.setHandle h (.complete op w) } }
        else s1
      | none => s1
    | .token => { s with ops := s.ops.insert op { o with status := some w } }
    | .nobody => { s with ops := s.ops.erase op }

/-- HD names a PENDING handle: the command waits (R242). -/
def needHandle (hd : BitVec 3) : M Unit := do
  if ((← getMe).handle hd.toNat).isPending then block (.handle hd.toNat)

/-- A command accepted: a new operation that HD waits for; the earlier status is discarded (R242). -/
def newOp (hd : BitVec 3) : M Nat := do
  let s ← get
  let n := s.nextOp
  set { s with nextOp := n + 1, ops := s.ops.insert n ⟨.slot s.cur hd.toNat, none, false, false, none⟩ }
  modMe fun x => x.setHandle hd.toNat (.pending n)
  return n

/-- A command that completes at once. -/
def doneOp (hd : BitVec 3) (w : Word) : M Unit := do
  let s ← get
  set { s with nextOp := s.nextOp + 1 }
  modMe fun x => x.setHandle hd.toNat (.complete s.nextOp w)

/-- A refusal of R329. -/
def refusal (reason : Nat) : Word := statusWord cEngine 0 reason 0 false

/-! ### Pieces of a range -/

/-- `n` bytes from `a` on, cut at 8-byte boundaries: address and size. -/
def wordPieces (a n : Nat) : List (Nat × Nat) :=
  if n = 0 then [] else
    (List.range ((a + n - 1) / 8 - a / 8 + 1)).map fun k =>
      let lo := Nat.max a (8 * (a / 8 + k))
      (lo, Nat.min (a + n) (8 * (a / 8 + k) + 8) - lo)

/-- The words of data at an address, each with its offset as its position. -/
def dataWrites (sp : Space) (cl a : Nat) (bs : List Byte) (pos : Nat) : List EngWrite :=
  (wordPieces a bs.length).map fun p => ⟨sp, cl, p.1, ((bs.drop (p.1 - a)).take p.2).map some, pos + (p.1 - a)⟩

/-- Bytes put into the words of a list that is keyed by word: the bytes of several pieces of one word make one write (R320). -/
def addByte (m : NMap (List (Option Byte))) (a : Nat) (b : Byte) : NMap (List (Option Byte)) :=
  let old := (m.find (a / 8)).getD (List.replicate 8 none)
  m.insert (a / 8) (setAt old (a % 8) (some b))
def addPiece (m : NMap (List (Option Byte))) (p : Piece) : NMap (List (Option Byte)) :=
  (List.range p.2.length).foldl (fun m k => addByte m (p.1 + k) (p.2[k]?.getD 0)) m
/-- The words of L that pieces write, one write each; the position is the word's L offset (R309). -/
def pieceWrites (cl : Nat) (ps : List Piece) : List EngWrite := (ps.foldl addPiece []).map fun x => ⟨.l, cl, 8 * x.1, x.2, 8 * x.1⟩

/-- The offset of the first byte that a write writes, at or after an offset of it: the failing byte itself (R309). -/
def EngWrite.byteFrom (w : EngWrite) (off : Nat) : Nat :=
  ((List.range w.bytes.length).find? fun k => decide (off ≤ k) && (w.bytes[k]?).join.isSome).getD off

/-! ### Accesses -/

/-- What an access of an engine comes to: done, a wait, or a failure with its code at an offset of the access. -/
inductive EngRes (α : Type) where
  | ok (v : α) (st : State)
  | wait (st : State)
  | fail (code off : Nat) (st : State)
deriving DecidableEq, Repr

/-- The template store of a live starter: crumbs and private space (R278). -/
def templateRange (t : Word) : Option (Nat × Nat) :=
  if tmplCrumbs t = 0 then none else some (tmplBase t, tmplPrivate t + 4096 * tmplQuota t)
/-- The lowest offset of an L range in the template store of a live starter of the cluster (R243). -/
def State.templateHit (s : State) (cl a n : Nat) : Option Nat :=
  minOf ((s.cores.filter fun x => x.1 / 16 = cl).flatMap fun x => x.2.starters.filterMap fun r =>
    match templateRange r.2.tmpl with
    | some (lo, hi) => if Nat.max lo a < Nat.min hi (a + n) then some (Nat.max lo a) else none
    | none => none)

/-- A touch of an engine command enters the bandwidth phase of the strand that issued it (R226). -/
def State.engTouch (s : State) (by_ : Option Nat) (cl a n : Nat) : State :=
  match by_ with
  | some sid => if clusterOf sid = cl then s.noteTouch sid a n else s
  | none => s

/-- A bank access of an engine, for a command of a strand or for a unit: BANK_OFF, proofing, or the touch (R220). -/
def State.engBank (s : State) (by_ : Option Nat) (cl a n : Nat) : EngRes Unit :=
  match (s.cluster cl).check a n with
  | .off x => .fail cBankOff (x - a) s
  | .proof bs => .wait (s.setCluster cl ((s.cluster cl).proofBanks bs))
  | .ok => .ok () ((s.setCluster cl ((s.cluster cl).touch s.clock.time a n)).engTouch by_ cl a n)

/-- A read of L or C by an engine: poison ends it with CODE 0x7F (R222). -/
def State.engReadL (s : State) (by_ : Option Nat) (cl a n : Nat) : EngRes (List Byte) :=
  match s.engBank by_ cl a n with
  | .fail c o s1 => .fail c o s1
  | .wait s1 => .wait s1
  | .ok _ s1 =>
    let s2 := s1.scrubAll cl a n (n + 1)
    match (s2.cluster cl).poisoned a n with
    | some w => .fail cMachine (8 * w - a) s2
    | none => .ok ((s2.cluster cl).mem.readN a n) s2

/-- A read of G by an engine, of at most one word (R244, R354): the failure's code is that of a translation fault (R247). -/
def State.engReadG (s : State) (asid : Nat) (mode : Mode) (a n : Nat) : EngRes (List Byte) :=
  match gFault mode a n 1 with
  | some (c, _) => .fail c 0 s
  | none => match s.xlatBytes asid a n .read mode true with
    | (.ok pas, s1) =>
      match (List.range n).find? fun k => s1.hbmPoison.contains (pas[k]?.getD 0 / 8) with
      | some k => .fail cMachine k s1
      | none => .ok (s1.readPhys pas) s1
    | (.error (.fail r _, x), s1) => .fail (xlatCause r) (x - a) s1
    | (.error (_, _), s1) => .wait s1

def State.engRead (s : State) (by_ : Option Nat) (asid : Nat) (mode : Mode) (sp : Space) (cl a n : Nat) : EngRes (List Byte) :=
  match sp with
  | .g => s.engReadG asid mode a n
  | _ => s.engReadL by_ cl a n

/-- A write of L or C by an engine: it waits for claims (R311), fails in a template store through C (R287), in a bank that is OFF, and
where it writes a poisoned word only in part (CODE 0x7F: R222, R308); else it sets the word full (R229, R268). -/
def State.engWriteL (s : State) (by_ : Option Nat) (w : EngWrite) : EngRes Unit :=
  let n := w.bytes.length
  match (if w.sp = .c then s.templateHit w.cl w.addr n else none) with
  | some x => .fail cTemplate (x - w.addr) s
  | none =>
    if s.claimedRange w.cl w.addr n then .wait s
    else match s.engBank by_ w.cl w.addr n with
      | .ok _ s1 => match (s1.cluster w.cl).narrowed w.addr w.bytes with
        | some x => .fail cMachine (w.byteFrom (8 * x - w.addr)) s1
        | none => .ok () (s1.setCluster w.cl (((s1.cluster w.cl).store w.addr w.bytes).fillRange w.addr n))
      | .fail code off s1 => .fail code (w.byteFrom off) s1
      | .wait s1 => .wait s1

/-- A write of an engine (R268), performed at its home. -/
def State.engWrite (s : State) (by_ : Option Nat) (asid : Nat) (mode : Mode) (w : EngWrite) : EngRes Unit :=
  match w.sp with
  | .g =>
    match gFault mode w.addr w.bytes.length 1 with
    | some (c, _) => .fail c 0 s
    | none => match s.xlatBytes asid w.addr w.bytes.length .write mode true with
      | (.ok pas, s1) => .ok () (s1.storePhys pas w.bytes)
      | (.error (.fail r _, x), s1) => .fail (xlatCause r) (x - w.addr) s1
      | (.error (_, _), s1) => .wait s1
  | _ => s.engWriteL by_ w

/-- A run of reads, in ascending order, of one instant. -/
def State.engReads (s : State) (by_ : Option Nat) (asid : Nat) (mode : Mode) (sp : Space) (cl : Nat) : List (Nat × Nat) → EngRes (List Byte)
  | [] => .ok [] s
  | (a, n) :: rest =>
    match s.engRead by_ asid mode sp cl a n with
    | .fail c o s1 => .fail c (a + o) s1
    | .wait s1 => .wait s1
    | .ok bs s1 => match State.engReads s1 by_ asid mode sp cl rest with
      | .ok cs s2 => .ok (bs ++ cs) s2
      | r => r

/-! ### Operands at issue (R243) -/

/-- The check of a G range of an engine: steps 1 to 4 of R214 on the first and the last byte, with no alignment; a range may
cross owner windows (R244). -/
def rangeG (a n : Nat) : M Unit := do
  let mode := (← getMe).mode
  match gFault mode a 1 1, gFault mode (a + n - 1) 1 1 with
  | some (c, tv), _ => trap c tv
  | _, some (c, tv) => trap c tv
  | none, none => if supervisor a ≠ supervisor (a + n - 1) then trap cNoncanon (word a)

/-- The check of an L or C range: steps 1 and 2 of R213; destinations are multiples of 8 (R215). -/
def rangeL (sp : Space) (a n : Nat) (dest : Bool) : M (Nat × Nat) := do
  match localFault (← get).cur sp a n 1 with
  | .error (c, tv) => trap c tv
  | .ok p =>
    if dest then
      if a % 8 ≠ 0 then trap cAlign (word a)
      if n % 8 ≠ 0 then trap cAlign (word n)
    return p

/-- The whole 8-byte words of a range (R320). -/
def wholeWords (r : Nat × Nat) : Nat × Nat := (r.1 / 8 * 8, 8 * (wordsOf r.1 r.2).length)

/-- TEMPLATE_ENGINE of an L destination (R243). -/
def needNoTemplate (rs : List (Nat × Nat)) : M Unit := do
  let s ← get
  match minOf (rs.filterMap fun r => s.templateHit (clusterOf s.cur) r.1 r.2) with
  | some x => trap cTemplate (word x)
  | none => return ()

/-- The full/empty bits of a destination cleared at the acceptance of a strand's command (R246): a touch of its banks, which wakes
those in RET (R220). -/
def State.emptyDest (s : State) (sid cl : Nat) (rs : List (Nat × Nat)) : State :=
  let c := rs.foldl (fun c r => (c.wake s.clock.time r.1 r.2).emptyRange r.1 r.2) (s.cluster cl)
  rs.foldl (fun s r => s.engTouch (some sid) cl r.1 r.2) (s.setCluster cl c)
/-- That of a command of the strand that issues. -/
def emptyDest (cl : Nat) (rs : List (Nat × Nat)) : M Unit := modify fun s => s.emptyDest s.cur cl rs

end Sys2Proof.Machine
end

