-- ==== Sys2Proof/Machine/Copy.lean ====
section
/-! DEFINITION. The copy engine (R242 to R246, R249, R268, R270): the commands, their source reads and writes word by word,
their completion and cancellation. -/

namespace Sys2Proof.Machine

/-! ### Commands in the queue -/

/-- A piece of a source: the row it belongs to, what the status reports for it, and where it is; `far` lies in another package. -/
structure SrcPiece where
  row : Nat
  side : Nat
  pos : Nat
  sp : Space
  cl : Nat
  addr : Nat
  n : Nat
  far : Bool
deriving DecidableEq, Repr, Inhabited

/-- A space code with the cluster and the offset of an address (R211). -/
def spaceOf (code sid a : Nat) : Space × Nat × Nat :=
  match code with
  | 0 => (.l, clusterOf sid, a)
  | 1 => (.c, dieOf sid * 32 + a / 0x200000 % 32, a % 0x200000)
  | _ => (.g, 0, a)

/-- A contiguous source cut into words. -/
def contiguousPieces (row pos code sid a n : Nat) : List SrcPiece :=
  let (sp, cl, b) := spaceOf code sid a
  (wordPieces b n).map fun p => ⟨row, 2, pos + (p.1 - b), sp, cl, p.1, p.2, code == 3⟩

/-- Bytes of an element of a row-major source of `cpyc` (R245). -/
def cpycBytes (fmt : Nat) : Nat := if fmt = 0 then 4 else if fmt = 2 then 2 else 1

/-- The positions and blocks of an L8 row that a conversion takes from the source. -/
def l8Chunks (d t : TSlot) : Nat := ceilDiv (Nat.min d.kext t.kext) 256
def l8Blocks (d t : TSlot) : Nat := ceilDiv (Nat.min d.kext t.kext) 32

/-- The pieces of an L8 source: the pattern table, then the index bytes and the scale words of each row (R245, R303). -/
def l8Pieces (sid row rows : Nat) (d t : TSlot) : List SrcPiece :=
  let cl := clusterOf sid
  let table := if t.table = 0 then [] else (wordPieces t.table 512).map fun p => ⟨0, 3, p.1, .l, cl, p.1, p.2, false⟩
  table ++ (List.range rows).flatMap fun r =>
    ((List.range (l8Chunks d t)).flatMap fun c =>
      (wordPieces (t.indexAt 0 c (row + r)) 64).map fun p => ⟨r, 2, p.1, .l, cl, p.1, p.2, false⟩) ++
    (List.range (l8Blocks d t)).map fun b => ⟨r, 3, t.scaleAt 0 (row + r) b, .l, cl, t.scaleAt 0 (row + r) b, 4, false⟩

/-- What a command reads, in order. -/
def CopyCmd.pieces (c : CopyCmd) : List SrcPiece :=
  match c.kind with
  | .cpy _ ssp _ src len _ => contiguousPieces 0 0 ssp c.sid src len
  | .cpym _ src len _ ssp => contiguousPieces 0 0 ssp c.sid src len
  | .cpyc row src rows stride ds ss fmt _ ssp _ =>
    let d := TSlot.ofRecord ds
    if fmt = 0xD then l8Pieces c.sid row rows d (TSlot.ofRecord ss)
    else (List.range rows).flatMap fun r => contiguousPieces r (r * stride) ssp c.sid (src + r * stride) (d.kext * cpycBytes fmt)
  | .cpyf .. => []
  | .xsend .. => []

/-! ### The conversion of `cpyc` (R245) -/

/-- Blocks of 32 of a list. -/
def blocksOf32 {α : Type} : Nat → List α → List (List α)
  | 0, _ => []
  | k + 1, xs => xs.take 32 :: blocksOf32 k (xs.drop 32)

/-- A row of values converted block by block; RSTOCH draws one value per position (R63). -/
def convertRow (p : Nat) (mode : Option Rnd) : List (List FVal) → BitVec 32 → (List Int × List Nat × Fl) × BitVec 32
  | [], seed => (([], [], 0), seed)
  | b :: bs, seed =>
    let modes := match mode with
      | some r => b.map fun _ => r
      | none => (List.range b.length).map fun k => Rnd.rstoch (seedDraws (k + 1) seed).toNat
    let seed' := match mode with
      | some _ => seed
      | none => seedDraws b.length seed
    let (w, ms, f) := convertBlock p modes b
    let ((ms2, ws, f2), seed2) := convertRow p mode bs seed'
    ((ms ++ ms2, w :: ws, f ||| f2), seed2)

/-- The elements of a row-major row. -/
def rowValues (nspec : Bool) (fmt : Nat) (bs : List Byte) : List FVal :=
  let w := cpycBytes fmt
  let F := (floatFmt nspec (BitVec.ofNat 4 fmt)).getD .fp32
  (List.range (bs.length / w)).map fun k => F.read (numAt bs (w * k) w)

/-- The rows converted: the writes of each row, the flags. -/
def convertRows (d : TSlot) (nspec : Bool) (fmt row : Nat) (mode : Option Rnd) : Nat → List (List Byte) → BitVec 32 → List Piece × Fl
  | _, [], _ => ([], 0)
  | r, bs :: rest, seed =>
    let ((ms, ws, f), seed') := convertRow d.p mode (blocksOf32 d.blocks (rowValues nspec fmt bs)) seed
    let (ps, f2) := convertRows d nspec fmt row mode (r + 1) rest seed'
    (d.rowPieces 0 (row + r) ms ws ++ ps, f ||| f2)

/-- A decoded L8 row (R73): every block of the source that the destination has, decoded whole, all 32 weights of it, with its scale
word; none when a scale word is malformed, with its block. Blocks of the destination at or beyond the source's KEXT get zero mantissas and
the scale word 0 (DESIGN CHOICE, log 89: the spec says nothing of them). -/
def decodeRow (d t : TSlot) (entry : Nat → Nat) (bs : List Byte) : Except Nat (List Int × List Nat) :=
  let nidx := 64 * l8Chunks d t
  let ws := (List.range (l8Blocks d t)).map fun b => numAt bs (nidx + 4 * b) 4
  match (List.range ws.length).find? fun b => Scale.ofWord (ws[b]?.getD 0) == .bad with
  | some b => .error b
  | none =>
    let all := (List.range (32 * l8Chunks d t)).flatMap fun n => indexWeights entry (numAt bs (2 * n) 2)
    .ok (all.take (32 * ws.length) ++ List.replicate (32 * (d.blocks - ws.length)) 0, ws ++ List.replicate (d.blocks - ws.length) 0)

/-- The L8 rows decoded: the writes, and the status of the first malformed scale word (R67). -/
def decodeRows (d t : TSlot) (entry : Nat → Nat) (row : Nat) : Nat → List (List Byte) → List Piece × Option Word
  | _, [] => ([], none)
  | r, bs :: rest =>
    match decodeRow d t entry bs with
    | .error b => ([], some (statusWord cEngine 3 (t.scaleAt 0 (row + r) b) 0 false))
    | .ok (ms, ws) =>
      let (ps, e) := decodeRows d t entry row (r + 1) rest
      (d.rowPieces 0 (row + r) ms ws ++ ps, e)

/-- The mode of a conversion from its resolved code: none draws (R63). -/
def rndOf (code : Nat) : Option Rnd := if code = 4 then none else some (Rnd.ofRM code)

/-- The bytes read of each complete row; `n` rows are complete. -/
def rowsRead (ps : List SrcPiece) (got : List (List Byte)) (n : Nat) (skip : Nat) : List (List Byte) :=
  let ps := (ps.zip got).drop skip
  (List.range n).map fun r => (ps.filter fun x => x.1.row == r).flatMap (·.2)

/-- The writes of a command whose first `n` rows are read (all of them, when the source is read whole), with the flags and a failure. -/
def CopyCmd.plan (c : CopyCmd) (n : Nat) : List EngWrite × Fl × Option Word :=
  let cl := clusterOf c.sid
  let data := c.got.flatten
  match c.kind with
  | .cpy dsp _ dst _ _ _ =>
    let (sp, cl, a) := spaceOf dsp c.sid dst
    (dataWrites sp cl a data 0, 0, none)
  | .cpym off _ _ mask _ =>
    (((List.range 8).filter fun k => mask.getLsbD k).flatMap fun k => dataWrites .l cl (0x40000 * k + off) data 0, 0, none)
  | .cpyf dsp dst val len es =>
    let (sp, cl, a) := spaceOf dsp c.sid dst
    (dataWrites sp cl a ((List.range len).map fun k => field val (8 * (k % es)) 8) 0, 0, none)
  | .xsend .. => ([], 0, none)
  | .cpyc row _ _ _ ds ss fmt rnd _ seed =>
    let d := TSlot.ofRecord ds
    let ps := c.pieces
    if fmt = 0xD then
      let t := TSlot.ofRecord ss
      let skip := if t.table = 0 then 0 else 64
      let table := (c.got.take skip).flatten
      let entry := fun j => if t.table = 0 then defaultEntry j else numAt table (2 * j) 2
      let (w, e) := decodeRows d t entry row 0 (rowsRead ps c.got n skip)
      (pieceWrites cl w, 0, e)
    else
      let (w, f) := convertRows d c.nspec fmt row (rndOf rnd) 0 (rowsRead ps c.got n 0) (field seed 0 32)
      (pieceWrites cl w, f, none)

/-- Rows of a command. -/
def CopyCmd.rowCount (c : CopyCmd) : Nat :=
  match c.kind with
  | .cpyc _ _ rows .. => rows
  | _ => 1

/-! ### Steps of the engine -/

/-- A link of the package that is up reaches the device (R379, R380); a die that takes no part has none (R381). -/
def State.linkTo (s : State) (dev : Nat) : Bool := s.dies.any fun d => !d.2.absent && d.2.ports.any fun p => decide (0 < p.2.lanes) && p.2.reach.contains dev

/-- The device that a copy to or from another package names (R244). -/
def CopyKind.device : CopyKind → Nat
  | .cpy _ _ _ _ _ dev => dev
  | _ => 0

/-- A free truth value outside an instruction. -/
def State.freeBit (s : State) : Bool × State := (Config.freeBit s.tick, { s with tick := s.tick + 1 })
def State.freeNat (s : State) : Nat × State := (Config.freeNat s.tick, { s with tick := s.tick + 1 })
def State.freeBytes (s : State) (n : Nat) : List Byte × State :=
  (toBytes n (Config.freeWord s.tick).toNat, { s with tick := s.tick + 1 })

/-- The source is read: the writes are known. -/
def CopyCmd.begin (c : CopyCmd) : CopyCmd :=
  let (ws, f, e) := c.plan c.rowCount
  { c with begun := true, todo := ws, flags := f, fail := e }

/-- A read fails: of the writes whose sources are complete, a free number at the front is still performed (R243). -/
def CopyCmd.failRead (c : CopyCmd) (row keep : Nat) (w : Word) : CopyCmd :=
  let (ws, f, _) := c.plan row
  { c with begun := true, todo := ws.take (keep % (ws.length + 1)), flags := f, fail := some w }

/-- A read of the next source piece (R244, R270): words of other strands are seen as they are at that instant. -/
def State.copyRead (s : State) (c : CopyCmd) : CopyCmd × State :=
  match c.pieces[c.got.length]? with
  | none => (c.begin, s)
  | some p =>
    if p.far then
      if s.linkTo c.kind.device then
        let (bs, s1) := s.freeBytes p.n
        ({ c with got := c.got ++ [bs] }, s1)
      else (c.failRead 0 0 (statusWord cEngine 1 0 0 false), s)
    else match s.engRead (some c.sid) c.asid c.mode p.sp p.cl p.addr p.n with
      | .wait s1 => (c, s1)
      | .ok bs s1 => ({ c with got := c.got ++ [bs] }, s1)
      | .fail code off s1 =>
        let (k, s2) := s1.freeNat
        (c.failRead p.row k (statusWord code p.side (p.pos + off) 0 false), s2)

/-- The commands whose words are written in ascending order (R249). -/
def CopyKind.ordered : CopyKind → Bool
  | .cpy .. => true
  | .cpyf .. => true
  | _ => false
/-- The command writes to another package. -/
def CopyKind.farDest : CopyKind → Bool
  | .cpy 3 .. => true
  | _ => false

/-- A write of a word: the next one, or for the forms whose words are independent any one (R249). A failure ends the writes. -/
def State.copyWrite (s : State) (c : CopyCmd) (k : Nat) : CopyCmd × State :=
  let j := if c.kind.ordered then 0 else k % c.todo.length
  match c.todo[j]? with
  | none => (c, s)
  | some w =>
    let done := { c with todo := c.todo.eraseIdx j, written := c.written + (w.bytes.countP Option.isSome) }
    let failed (code pos : Nat) : CopyCmd := { c with todo := [], fail := some (c.fail.getD (statusWord code 1 pos 0 false)) }
    if c.kind.farDest then
      let (b, s1) := s.freeBit
      (if s1.linkTo c.kind.device && b then done else failed cEngine c.written, s1)
    else match s.engWrite (some c.sid) c.asid c.mode w with
      | .wait s1 => (c, s1)
      | .ok _ s1 => (done, s1)
      | .fail code off s1 => (failed code (w.pos + off), s1)

/-- The head of a core's copy queue replaced, or removed. -/
def State.putCopy (s : State) (core : Nat) (c : CopyCmd) : State :=
  s.setCore core { s.core core with copyq := c :: (s.core core).copyq.drop 1 }
def State.popCopy (s : State) (core : Nat) : State :=
  s.setCore core { s.core core with copyq := (s.core core).copyq.drop 1 }

/-- One step of the copy engine of a core: a read, or a write (R268). -/
def State.copyStep (s : State) (core k : Nat) : State :=
  match (s.core core).copyq with
  | [] => s
  | c :: _ =>
    let (c1, s1) := if c.begun then s.copyWrite c k else s.copyRead c
    s1.putCopy core c1

/-- COPY_COMMAND_COMPLETE (R242, R247): the head command has written everything, or has failed. An `xsend` completes at its inbox. -/
def State.copyComplete (s : State) (core : Nat) : State :=
  match (s.core core).copyq with
  | [] => s
  | c :: _ =>
    match c.kind, c.fail with
    | .xsend .., none => s
    | _, _ =>
      if c.begun && c.todo.isEmpty then
        let w := match c.fail with
          | some w => w ||| word (c.flags.toNat * 2 ^ 8)
          | none => statusWord 0 0 0 c.flags false
        (s.popCopy core).finishOp c.op w
      else s

/-- A number of further writes of a command being cancelled; it stops where one fails or waits. -/
def State.copyRun (core : Nat) : Nat → State → State
  | 0, s => s
  | n + 1, s => State.copyRun core n (s.copyStep core 0)

/-- How many words a command being cancelled may still write: up to its next 64-byte boundary (R249). -/
def CopyCmd.boundary (c : CopyCmd) : Nat :=
  match c.todo with
  | [] => 0
  | w :: ws => if c.written = 0 then 0 else ((w :: ws).takeWhile fun x => x.addr % 64 != 0).length

/-- A copy command cancelled (R249): a queued one is removed; a running one stops at its next 64-byte boundary at the latest. -/
def State.copyCancel (s : State) (core op : Nat) : State :=
  match (s.core core).copyq with
  | [] => s
  | c :: rest =>
    if c.op = op then
      let (k, s1) := s.freeNat
      let s2 := if c.begun then State.copyRun core (k % (c.boundary + 1)) s1 else s1
      match (s2.core core).copyq with
      | [] => s2
      | c2 :: _ => (s2.popCopy core).finishOp op (statusWord cEngine 0 c2.written c2.flags true)
    else if rest.any fun x => x.op == op then
      (s.setCore core { s.core core with copyq := c :: rest.filter fun x => x.op != op }).finishOp op (statusWord cEngine 0 0 0 true)
    else s

/-! ### The forms -/

/-- Issue of a command: HD, the queue, and the drain (R242, R270). -/
def needCopy (hd : BitVec 3) : M Unit := do
  needHandle hd
  let s ← get
  if Config.engineQueue ≤ s.myCore.copyq.length then block .copyQueue
  needDrained

/-- The command enters the queue. -/
def enqueueCopy (hd : BitVec 3) (kind : CopyKind) : M Unit := do
  let op ← newOp hd
  let x ← getMe
  let cmd : CopyCmd := ⟨(← get).cur, x.ctx, op, x.ctl.asid.toNat % 2 ^ 16, x.mode, x.nspec, kind, [], false, [], 0, 0, none⟩
  modCore fun c => { c with copyq := c.copyq ++ [cmd] }

/-- The check of an operand range of `n` bytes (R243); an empty range has no byte to check. -/
def checkRange (code : BitVec 2) (a : Word) (n : Nat) (dest : Bool) : M Unit := do
  if n = 0 then return ()
  match code.toNat with
  | 0 => do let _ ← rangeL .l a.toNat n dest
  | 1 => do let _ ← rangeL .c a.toNat n dest
  | 2 => rangeG a.toNat n
  | _ => return ()

/-- A length above 2^32 (R243): checked before the ranges, so that TVAL is the length for every space (DEDUCED, log 73). -/
def checkLength (n : Word) : M Unit := do
  if 2 ^ 32 < n.toNat then trap cSpaceRange n

/-- The bits of an L or C destination cleared at acceptance (R246). -/
def emptyRangeOf (code : BitVec 2) (a n : Nat) : M Unit := do
  let (_, cl, b) := spaceOf code.toNat (← get).cur a
  if code.toNat < 2 then emptyDest cl [(b, n)]

/-- The sources of an E-format command at positions 1 on. -/
def engSrcs (rs : List Reg) : List Src := (List.range rs.length).map fun k => (k + 1, .g, rs[k]?.getD ⟨0, false⟩)

/-- CPY (R244). -/
def execCpy (f : CopyOp) (s : State) : Out :=
  plainInstr ⟨f.h, engSrcs [f.dst, f.src, f.len, f.dev], none⟩ (do
    let dst ← readG 1 f.dst
    let src ← readG 2 f.src
    let len ← readG 3 f.len
    let dev ← readG 4 f.dev
    let n := len.toNat
    checkLength len
    checkRange f.dsp dst n true
    checkRange f.ssp src n false
    if f.dsp = 0 then needNoTemplate [(dst.toNat, n)]
    if n = 0 then
      needHandle f.hd
      doneOp f.hd 0
    else
      needCopy f.hd
      emptyRangeOf f.dsp dst.toNat n
      enqueueCopy f.hd (.cpy f.dsp.toNat f.ssp.toNat dst.toNat src.toNat n (natField dev 0 16))) s

/-- CPYM (R244): the same bytes at an offset of each selected core's near banks. -/
def execCpym (f : CopyMulti) (s : State) : Out :=
  plainInstr ⟨f.h, engSrcs [f.off, f.src, f.len], none⟩ (do
    let off ← readG 1 f.off
    let src ← readG 2 f.src
    let len ← readG 3 f.len
    let n := len.toNat
    checkLength len
    if 0x40000 ≤ off.toNat ∨ 0x40000 < off.toNat + n then trap cSpaceRange off
    if n ≠ 0 then
      if off.toNat % 8 ≠ 0 then trap cAlign off
      if n % 8 ≠ 0 then trap cAlign len
    checkRange f.ssp src n false
    let dests := ((List.range 8).filter fun k => f.cmask.getLsbD k).map fun k => (0x40000 * k + off.toNat, n)
    needNoTemplate dests
    if n = 0 then
      needHandle f.hd
      doneOp f.hd 0
    else
      needCopy f.hd
      emptyDest (clusterOf (← get).cur) dests
      enqueueCopy f.hd (.cpym off.toNat src.toNat n f.cmask f.ssp.toNat)) s

/-- CPYF (R244): a value repeated. -/
def execCpyf (f : CopyFill) (s : State) : Out :=
  plainInstr ⟨f.h, engSrcs [f.dst, f.val, f.len], none⟩ (do
    let dst ← readG 1 f.dst
    let val ← readG 2 f.val
    let len ← readG 3 f.len
    let n := len.toNat
    let es := 2 ^ f.es.toNat
    checkLength len
    checkRange f.dsp dst n true
    if n % es ≠ 0 then trap cAlign len
    if f.dsp = 0 then needNoTemplate [(dst.toNat, n)]
    if n = 0 then
      needHandle f.hd
      doneOp f.hd 0
    else
      needCopy f.hd
      emptyRangeOf f.dsp dst.toNat n
      enqueueCopy f.hd (.cpyf f.dsp.toNat dst.toNat val n es)) s

/-- A tensor slot as read at issue, or TSLOT_INVALID with sub-code 0 (R245, R308). -/
def readTslot (n : BitVec 6) : M (BitVec 512) := do
  match (← get).myCluster.tslots.find n.toNat with
  | some r => return r
  | none => trap cTslotInvalid (n.setWidth 64)

/-- CPYC (R245): rows converted into the planes of a slot; RSTOCH takes its draws from SEED at once (R63). -/
def execCpyc (f : CopyConv) (s : State) : Out :=
  plainInstr ⟨f.h, engSrcs [f.row, f.src, f.rows, f.stride], none⟩ (do
    let row ← readG 1 f.row
    let src ← readG 2 f.src
    let rows ← readG 3 f.rows
    let stride ← readG 4 f.stride
    let l8 := f.fmt == 13
    let ds ← readTslot f.dslot
    let ss ← (if l8 then readTslot f.sslot else return ds)
    let d := TSlot.ofRecord ds
    let t := TSlot.ofRecord ss
    let names := word (f.dslot.toNat + (if l8 then f.sslot.toNat * 256 else 0))
    if !d.isPL || (l8 && (!t.isL8 || d.p != 4)) || d.sparse then trap cFormat names
    let fin := row.toNat + rows.toNat
    if d.rows < fin ∨ (l8 ∧ t.rows < fin) then trap cSpaceRange (word fin)
    let k := rows.toNat
    if k ≠ 0 ∧ l8 = false then checkRange f.ssp src ((k - 1) * stride.toNat + d.kext * cpycBytes f.fmt.toNat) false
    let dests := (List.range k).flatMap fun r => d.rowRanges 0 (row.toNat + r) d.chunks d.blocks
    needNoTemplate dests
    if k = 0 then
      needHandle f.hd
      doneOp f.hd 0
    else
      needCopy f.hd
      let x ← getMe
      let code := if f.rnd = 7 then x.rm else f.rnd.toNat
      if code = 4 ∧ l8 = false then setSeed (seedDraws (k * d.kext) (field x.ctl.seed 0 32))
      emptyDest (clusterOf (← get).cur) dests
      enqueueCopy f.hd (.cpyc row.toNat src.toNat k stride.toNat ds ss f.fmt.toNat code f.ssp.toNat x.ctl.seed)) s

/-- COPY_COMMAND_COMPLETE (R242). -/
def execCopyCommandComplete (core : Nat) (s : State) : Out := .next (s.copyComplete core)

end Sys2Proof.Machine
end

