-- ==== Sys2Proof/Machine/Tile.lean ====
section
/-! DEFINITION. The tile engine (R299 to R323): tensor slots, accumulators, the tile queue, multiply-accumulate chunk by chunk,
drains word by word, claims, cancellation, the checkpoint, and the queries. -/

namespace Sys2Proof.Machine

/-! ### Accumulators (R306) -/

def Core.acc (c : Core) (k : Nat) : Acc := (c.accs.find k).getD ⟨none, []⟩
/-- An accumulator replaced; a free one that holds +0 everywhere is not listed. -/
def Core.setAcc (c : Core) (k : Nat) (x : Acc) : Core :=
  { c with accs := if x = ⟨none, []⟩ then c.accs.filter (fun y => y.1 != k) else c.accs.insert k x }
/-- Element 32i + j. -/
def Acc.el (x : Acc) (n : Nat) : Nat := ((x.els.find n).getD 0).toNat
def Acc.setEl (x : Acc) (n v : Nat) : Acc :=
  { x with els := if v % 2 ^ 32 = 0 then x.els.filter (fun e => e.1 != n) else x.els.insert n (BitVec.ofNat 32 v) }
/-- Every element from bytes in the layout of `tldacc` (R312). -/
def elsOfBytes (bs : List Byte) : NMap (BitVec 32) :=
  (List.range 1024).filterMap fun n =>
    let v := numAt bs (4 * n) 4
    if v = 0 then none else some (n, BitVec.ofNat 32 v)
/-- The bytes of an accumulator in that layout. -/
def Acc.bytes (x : Acc) : List Byte := (List.range 1024).flatMap fun n => toBytes 4 (x.el n)

/-- An owner number of a strand that is a starter record (its accumulators and commands wait for its resumption, R280). -/
def starterOwner (core r : Nat) : Nat := 65536 + 8 * core + r
/-- The STRANDID that an owner number stands for. -/
def State.ownerSid (s : State) (o : Nat) : Nat :=
  if o < 65536 then o
  else
    let core := (o - 65536) / 8
    match (s.core core).starters.find (o % 8) with
    | some r => 8 * core + r.slot
    | none => 0

/-- Accumulator use (R306): its own, or for an initialising command a free one. -/
def needAcc (k : Nat) (init : Bool) : M Unit := do
  let s ← get
  match (s.myCore.acc k).owner with
  | some o => if o ≠ s.cur then trap cEngine (word (k + s.ownerSid o * 2 ^ 16))
  | none => if init = false then trap cEngine (word (k + 256))

/-! ### Commands -/

/-- Logical positions of a chunk of the command. -/
def TileCmd.span (c : TileCmd) : Nat := if c.code = 0xEC then 512 else 256
/-- Chunks in its K range (R316). -/
def TileCmd.total (c : TileCmd) : Nat := c.klen / c.span
def TileCmd.isMul (c : TileCmd) : Bool := c.code == 0xEB || c.code == 0xEC
def TileCmd.isDrain (c : TileCmd) : Bool := c.code == 0xED || c.code == 0xEE
/-- Slot record n of the command, and its version. -/
def TileCmd.tslot (c : TileCmd) (n : Nat) : TSlot := TSlot.ofRecord (c.slots[n]?.getD 0)
def TileCmd.version (c : TileCmd) (n : Nat) : Nat := if n = 0 then c.va else c.vb
/-- One more than the last position that can be live (R314). -/
def TileCmd.kmax (c : TileCmd) : Nat := Nat.min (Nat.min (c.tslot 0).kext (c.tslot 1).kext) (c.k0 + c.klen)

/-- A read of L: SIDE, address, size. -/
abbrev TileRead := Nat × Nat × Nat

/-- The data of a row in a chunk of its slot (R303). -/
def TSlot.dataReads (t : TSlot) (v ch r : Nat) : List TileRead :=
  if t.chunks ≤ ch then []
  else if t.isL8 then [(2, t.indexAt v ch r, 64)]
  else (List.range t.p).map fun j => (2, t.planeAt v ch j r, 32)
/-- The pattern table (R72). -/
def TSlot.tableReads (t : TSlot) : List TileRead := if t.isL8 ∧ t.table ≠ 0 then [(3, t.table, 512)] else []

/-- The chunks of slot n that chunk `q` of the command covers: a 2:4 chunk of A meets two chunks of B (R304). -/
def TileCmd.chunksOf (c : TileCmd) (n q : Nat) : List Nat := if c.code = 0xEC ∧ n = 1 then [2 * q, 2 * q + 1] else [q]
/-- The number of the command's chunk d in the slots' own count. -/
def TileCmd.chunkNo (c : TileCmd) (d : Nat) : Nat := c.k0 / c.span + d

/-- The groups of A in the K range from chunk d on that have a position below KEXT_A (R315). -/
def TileCmd.groupsFrom (c : TileCmd) (d : Nat) : List Nat :=
  let lo := (c.k0 + 512 * d) / 4
  let hi := ceilDiv (Nat.min (c.k0 + c.klen) (c.tslot 0).kext) 4
  (List.range (hi - lo)).map (lo + ·)
def TileCmd.metaReads (c : TileCmd) (d : Nat) : List TileRead :=
  let t := c.tslot 0
  (List.range t.rows).flatMap fun r =>
    ((c.groupsFrom d).map fun g => ((3, t.metaAt c.va r g, 1) : TileRead)).eraseDups

/-- What the command may still read from chunk d on (R310). -/
def TileCmd.readsFrom (c : TileCmd) (d : Nat) : List TileRead :=
  if c.code = 0xEA then [(2, c.addr, 4096)]
  else if c.isMul then
    [0, 1].flatMap (fun n =>
      let t := c.tslot n
      let v := c.version n
      t.tableReads ++ (List.range (c.total - d)).flatMap fun k =>
        let q := c.chunkNo (d + k)
        (List.range t.rows).flatMap fun r =>
          ((c.chunksOf n q).flatMap fun ch => t.dataReads v ch r) ++
          (List.range (c.span / 32)).filterMap fun b =>
            let blk := q * (c.span / 32) + b
            if blk < t.blocks then some (3, t.scaleAt v r blk, 4) else none) ++
    (if c.code = 0xEC then c.metaReads d else [])
  else []
/-- The granules of a list of reads. -/
def granulesOf (rs : List TileRead) : List Nat :=
  rs.foldl (fun m r => if r.2.2 = 0 then m else
    (List.range ((r.2.1 + r.2.2 - 1) / 64 - r.2.1 / 64 + 1)).foldl (fun m k => setInsert m (r.2.1 / 64 + k)) m) []
/-- The granules that the command still needs. -/
def TileCmd.needs (c : TileCmd) : List Nat := if c.fail.isSome then [] else granulesOf (c.readsFrom c.done)

/-- The command has nothing left to do. -/
def TileCmd.finished (c : TileCmd) : Bool :=
  if c.isDrain then c.begun && c.todo.isEmpty else c.fail.isSome || (c.begun && decide (c.total ≤ c.done))

/-- The head of a core's tile queue replaced, or removed. -/
def State.putTile (s : State) (core : Nat) (c : TileCmd) : State :=
  s.setCore core { s.core core with tileq := c :: (s.core core).tileq.drop 1 }
def State.popTile (s : State) (core : Nat) : State :=
  s.setCore core { s.core core with tileq := (s.core core).tileq.drop 1 }

/-! ### Reads of the engine -/

/-- The reads of a step at one instant: banks proof first (a wait); then the failures among them, as status words; a word with
bit errors is corrected or poisoned (R222). -/
def State.tileReads (s : State) (cl : Nat) (rs : List TileRead) : EngRes (List Word) :=
  match rs.flatMap fun r => if ((s.cluster cl).firstAbsent r.2.1 r.2.2).isSome then [] else (s.cluster cl).asleep r.2.1 r.2.2 with
  | b :: bs => .wait (s.setCluster cl ((s.cluster cl).proofBanks (b :: bs)))
  | [] =>
    let s1 := rs.foldl (fun t r => t.scrubAll cl r.2.1 r.2.2 (r.2.2 + 1)) s
    let s2 := s1.setCluster cl (rs.foldl (fun c r => c.touch s.clock.time r.2.1 r.2.2) (s1.cluster cl))
    .ok (rs.filterMap fun r =>
      match (s2.cluster cl).firstAbsent r.2.1 r.2.2 with
      | some x => some (statusWord cBankOff r.1 x 0 false)
      | none => match (s2.cluster cl).poisoned r.2.1 r.2.2 with
        | some w => some (statusWord cMachine r.1 (Nat.max r.2.1 (8 * w)) 0 false)
        | none => none) s2

/-- One of several failures found in one step; which one is free. -/
def State.oneOf (s : State) (ws : List Word) : Option Word × State :=
  match ws with
  | [] => (none, s)
  | w :: rest =>
    let (k, s1) := s.freeNat
    ((w :: rest)[k % (rest.length + 1)]?, s1)

/-! ### Multiply-accumulate (R314) -/

/-- The mantissas of a row in a chunk of its slot, as memory holds them (R69 to R71). -/
def TSlot.rowMants (t : TSlot) (mem : Memory) (v ch r : Nat) : List Int :=
  if t.isL8 then
    let bs := mem.readN (t.indexAt v ch r) 64
    let entry := fun j => if t.table = 0 then defaultEntry j else ofBytes (mem.readN (t.table + 2 * j) 2)
    (List.range 32).flatMap fun n => indexWeights entry (numAt bs (2 * n) 2)
  else
    let planes := (List.range t.p).map fun j => mem.readN (t.planeAt v ch j r) 32
    (List.range 256).map (planeMant planes)

/-- The metadata nibble of a group (R304). -/
def TSlot.nibble (t : TSlot) (mem : Memory) (v r g : Nat) : Nat := (mem.read (t.metaAt v r g)).toNat / (if g % 2 = 0 then 1 else 16) % 16

/-- The live positions of row r of A in chunk q: the offset in the chunk, and the stored position (R314). -/
def TileCmd.live (c : TileCmd) (mem : Memory) (q r : Nat) : List (Nat × Nat) :=
  let base := q * c.span
  if c.code = 0xEC then
    (List.range 128).flatMap fun g =>
      let n := (c.tslot 0).nibble mem c.va r (base / 4 + g)
      [(4 * g + n % 4, 2 * g), (4 * g + n / 4, 2 * g + 1)].filter fun x => decide (base + x.1 < c.kmax)
  else ((List.range 256).filter fun o => decide (base + o < c.kmax)).map fun o => (o, o)

/-- A live row of A in a chunk: its number, and its positions. -/
abbrev LiveRow := Nat × List (Nat × Nat)
def TileCmd.liveRows (c : TileCmd) (mem : Memory) (q : Nat) : List LiveRow :=
  ((List.range (c.tslot 0).rows).map fun r => (r, c.live mem q r)).filter fun x => !x.2.isEmpty

/-- Some position of block b of the chunk is live in the row. -/
def LiveRow.inBlock (x : LiveRow) (b : Nat) : Bool := x.2.any fun p => p.1 / 32 == b

/-- The scale words that a chunk reads, with the block of each. -/
def TileCmd.scaleReads (c : TileCmd) (q : Nat) (rows : List LiveRow) : List Nat :=
  (List.range (c.span / 32)).flatMap fun b =>
    let blk := q * (c.span / 32) + b
    let here := rows.filter fun x => LiveRow.inBlock x b
    if here.isEmpty then []
    else (here.map fun x => (c.tslot 0).scaleAt c.va x.1 blk) ++
      (List.range (c.tslot 1).rows).map fun j => (c.tslot 1).scaleAt c.vb j blk

/-- The chunks of B that hold a live position. -/
def TileCmd.liveB (c : TileCmd) (q : Nat) (rows : List LiveRow) : List Nat :=
  (c.chunksOf 1 q).filter fun ch => rows.any fun x => x.2.any fun p => (q * c.span + p.1) / 256 == ch

/-- What the engine reads for chunk q (R314). -/
def TileCmd.chunkReads (c : TileCmd) (q : Nat) (rows : List LiveRow) : List TileRead :=
  if rows.isEmpty then []
  else
    (c.tslot 0).tableReads ++ (c.tslot 1).tableReads ++
    (rows.flatMap fun x => (c.tslot 0).dataReads c.va q x.1) ++
    ((c.liveB q rows).flatMap fun ch => (List.range (c.tslot 1).rows).flatMap fun j => (c.tslot 1).dataReads c.vb ch j) ++
    (c.scaleReads q rows).map fun a => (3, a, 4)

/-- One block added to an element (R81, R82). -/
def blockAdd (x : Nat) (sa sb : Scale) (d : Int) : Nat × Fl :=
  match sa, sb with
  | .zero, _ => (x, 0)
  | _, .zero => (x, 0)
  | .fin ma ea, .fin mb eb =>
    let (v, f1) := FFmt.fp32.round .rne (decide (d < 0)) (d.natAbs * ma * mb) 1 (ea + eb)
    let (y, f2) := FFmt.fp32.add .rne (FFmt.fp32.read x) (FFmt.fp32.read v)
    (y, f1 ||| f2)
  | _, _ => (FFmt.fp32.nan, flNV)

/-- The exact sum of products of a block (R81). -/
def blockDot (a b : List Int) (ps : List (Nat × Nat)) : Int :=
  (ps.map fun p => (a[p.2]?.getD 0) * (b[p.1]?.getD 0)).sum

/-- The accumulation of chunk q from what memory holds: the elements and the flags. -/
def TileCmd.chunkAdd (c : TileCmd) (mem : Memory) (q : Nat) (rows : List LiveRow) (acc : Acc) : Acc × Fl :=
  let A := c.tslot 0
  let B := c.tslot 1
  let word4 (a : Nat) : Scale := Scale.ofWord (ofBytes (mem.readN a 4))
  let am := rows.map fun x => (x, A.rowMants mem c.va q x.1)
  let bm := (List.range B.rows).map fun j => (j, (c.chunksOf 1 q).flatMap fun ch =>
    if (c.liveB q rows).contains ch then B.rowMants mem c.vb ch j else List.replicate 256 0)
  (List.range (c.span / 32)).foldl (fun st b =>
    let blk := q * (c.span / 32) + b
    am.foldl (fun st a =>
      let ps := a.1.2.filter fun p => p.1 / 32 == b
      if ps.isEmpty then st
      else
        let sa := word4 (A.scaleAt c.va a.1.1 blk)
        bm.foldl (fun (st : Acc × Fl) bj =>
          let n := 32 * a.1.1 + bj.1
          let (y, f) := blockAdd (st.1.el n) sa (word4 (B.scaleAt c.vb bj.1 blk)) (blockDot a.2 bj.2 ps)
          (st.1.setEl n y, st.2 ||| f)) st) st) (acc, 0)

/-- The illegal group that is reported (R315). -/
def TileCmd.badGroup (c : TileCmd) (mem : Memory) (d : Nat) : Option Nat :=
  let t := c.tslot 0
  ((List.range t.rows).flatMap fun r => (c.groupsFrom d).map fun g => (r, g)).findSome? fun x =>
    let n := t.nibble mem c.va x.1 x.2
    if n / 4 ≤ n % 4 then some (t.metaAt c.va x.1 x.2) else none

/-- The first step of a multiplication: the metadata check of `tmmas` (R315). -/
def State.tileBegin (s : State) (core : Nat) (c : TileCmd) : State :=
  let cl := core / 16
  if c.code = 0xEC then
    match s.tileReads cl (c.metaReads c.done) with
    | .wait s1 => s1
    | .fail _ _ s1 => s1
    | .ok ws s1 => match s1.oneOf ws with
      | (some w, s2) => s2.putTile core { c with begun := true, fail := some w }
      | (none, s2) => match c.badGroup (s2.cluster cl).mem c.done with
        | some a => s2.putTile core { c with begun := true, fail := some (statusWord cSelector 3 a 0 false) }
        | none => s2.putTile core { c with begun := true }
  else s.putTile core { c with begun := true }

/-- A chunk (R309, R314): a failure leaves the accumulator as the chunks before it left it. -/
def State.tileChunk (s : State) (core : Nat) (c : TileCmd) : State :=
  let cl := core / 16
  let q := c.chunkNo c.done
  let mem := (s.cluster cl).mem
  let rows := c.liveRows mem q
  match s.tileReads cl (c.chunkReads q rows) with
  | .wait s1 => s1
  | .fail _ _ s1 => s1
  | .ok ws s1 =>
    let bad := ((c.scaleReads q rows).filter fun a => Scale.ofWord (ofBytes (mem.readN a 4)) == .bad).map fun a =>
      statusWord cEngine 3 a 0 false
    match s1.oneOf (ws ++ bad) with
    | (some w, s2) => s2.putTile core { c with fail := some w }
    | (none, s2) =>
      let (acc, f) := c.chunkAdd mem q rows ((s2.core core).acc c.acc)
      (s2.setCore core ((s2.core core).setAcc c.acc acc)).putTile core { c with done := c.done + 1, flags := c.flags ||| f }

/-! ### Initialising commands (R312) -/

/-- `tzero` and `tldacc` act. -/
def State.tileInit (s : State) (core : Nat) (c : TileCmd) : State :=
  if c.code = 0xE9 then
    (s.setCore core ((s.core core).setAcc c.acc { (s.core core).acc c.acc with els := [] })).putTile core { c with begun := true }
  else match s.engReadL (some c.sid) (core / 16) c.addr 4096 with
    | .wait s1 => s1
    | .fail code off s1 => s1.putTile core { c with begun := true, fail := some (statusWord code 2 (c.addr + off) 0 false) }
    | .ok bs s1 =>
      (s1.setCore core ((s1.core core).setAcc c.acc { (s1.core core).acc c.acc with els := elsOfBytes bs })).putTile core { c with begun := true }

/-! ### Drains (R317 to R320) -/

/-- Row r of an output slot: the bytes it writes, and the flags; `x` gives position j of the row as FP32. -/
def TSlot.drainRow (t : TSlot) (v : Nat) (nspec : Bool) (r : Nat) (x : Nat → Nat) : List Piece × Fl :=
  let n := Nat.min t.kext 32
  let vals := (List.range n).map fun j => FFmt.fp32.read (x j)
  if t.isPL then
    let (w, ms, f) := convertBlock t.p (vals.map fun _ => Rnd.rne) vals
    (t.rowPieces v r ms [w], f)
  else
    let F := (floatFmt nspec (BitVec.ofNat 4 t.fmt)).getD .fp32
    let rs := vals.map fun y => F.convert .rne y
    let bs := rs.flatMap fun y => toBytes t.elemBytes y.1
    ([(t.elemAt v r 0, bs ++ List.replicate (8 * ceilDiv (t.kext * t.elemBytes) 8 - bs.length) 0)], orAll (rs.map (·.2)))

/-- Every row of a slot. -/
def TSlot.drainRows (t : TSlot) (v : Nat) (nspec : Bool) (x : Nat → Nat → Nat) : List Piece × Fl :=
  let rs := (List.range t.rows).map fun r => t.drainRow v nspec r (x r)
  (rs.flatMap (·.1), orAll (rs.map (·.2)))

/-- The writes of a drain of an accumulator, word by word, and its flags. -/
def TileCmd.drainPlan (c : TileCmd) (cl : Nat) (a : Acc) : List EngWrite × Fl :=
  let (p, f) := (c.tslot 0).drainRows c.va c.nspec fun i j => a.el (32 * i + j)
  if c.code = 0xEE then
    let (p2, f2) := (c.tslot 1).drainRows c.vb c.nspec fun j i => a.el (32 * i + j)
    (pieceWrites cl (p ++ p2), f ||| f2)
  else (pieceWrites cl p, f)

/-- The ranges that a drain into a slot writes (R318, R319). -/
def TSlot.drainRanges (t : TSlot) (v : Nat) : List (Nat × Nat) :=
  (List.range t.rows).flatMap fun r =>
    if t.isPL then t.rowRanges v r 1 1
    else [(t.elemAt v r 0, 8 * ceilDiv (t.kext * t.elemBytes) 8)]
/-- Those of a command. -/
def TileCmd.drainDest (c : TileCmd) : List (Nat × Nat) :=
  (c.tslot 0).drainRanges c.va ++ (if c.code = 0xEE then (c.tslot 1).drainRanges c.vb else [])

/-- The drain reads its accumulator. -/
def State.drainBegin (s : State) (core : Nat) (c : TileCmd) : State :=
  let (ws, f) := c.drainPlan (core / 16) ((s.core core).acc c.acc)
  s.putTile core { c with begun := true, todo := ws, flags := f }

/-- The words left of granules that a drain has begun and not finished (R320). -/
def TileCmd.begunWords (c : TileCmd) : List EngWrite :=
  let all := (c.drainDest.flatMap fun r => wordsOf r.1 r.2).eraseDups
  let left := c.todo.map fun w => w.addr / 8
  c.todo.filter fun w => all.any fun x => x / 8 == w.addr / 64 && !left.contains x

/-- A word of a drain is written (R320): any of those left in the granule it has begun, else any. After a failure the begun granule is still
finished. -/
def State.drainWord (s : State) (core k : Nat) (c : TileCmd) : State :=
  let begun := c.begunWords
  let next := if begun.isEmpty then c.todo else begun
  match next[k % next.length]? with
  | none => s
  | some w => match s.engWriteL (some c.sid) w with
    | .wait s1 => s1
    | .ok _ s1 => s1.putTile core { c with todo := c.todo.filter (· != w), written := c.written + w.bytes.countP Option.isSome }
    | .fail code off s1 =>
      s1.putTile core { c with todo := begun.filter (· != w), fail := some (c.fail.getD (statusWord code 1 (w.addr + off) 0 false)) }

/-- ENGINE_WORD_WRITE of a tile engine. -/
def State.tileWrite (s : State) (core k : Nat) : State :=
  match (s.core core).tileq with
  | [] => s
  | c :: _ => if c.isDrain && c.begun then s.drainWord core k c else s

/-- A step of the engine other than a word write. -/
def State.tileStep (s : State) (core : Nat) : State :=
  match (s.core core).tileq with
  | [] => s
  | c :: _ =>
    if c.finished then s
    else if c.isDrain then (if c.begun then s else s.drainBegin core c)
    else if c.isMul then (if c.begun then s.tileChunk core c else s.tileBegin core c)
    else s.tileInit core c

/-- TILE_COMMAND_COMPLETE (R307): the status, and of a drain without failure ZERO and FREE (R317). -/
def State.tileComplete (s : State) (core : Nat) : State :=
  match (s.core core).tileq with
  | [] => s
  | c :: _ =>
    if c.finished then
      let a := (s.core core).acc c.acc
      let s1 := if c.isDrain && c.fail.isNone then
          s.setCore core ((s.core core).setAcc c.acc ⟨if c.free then none else a.owner, if c.zero then [] else a.els⟩)
        else s
      let w := match c.fail with
        | some w => w ||| word (c.flags.toNat * 2 ^ 8)
        | none => statusWord 0 0 0 c.flags false
      (s1.popTile core).finishOp c.op w
    else s

/-! ### Cancellation, checkpoint, claims -/

/-- The status of a command cancelled outside its run: a multiplication that a checkpoint has interrupted reports what it had done (R309). -/
def TileCmd.cancelled (c : TileCmd) : Word := statusWord cEngine 0 (c.done * c.span) c.flags true

/-- The running command cancelled (R323): a multiplication stops at its next chunk boundary; a drain goes on with the granules
it has begun, and its status is settled; an initialising command that has begun completes. -/
def State.tileStop (s : State) (core : Nat) (c : TileCmd) : State :=
  if c.begun = false then (s.popTile core).finishOp c.op c.cancelled
  else if c.finished then s.tileComplete core
  else if c.isDrain then
    let ws := c.begunWords
    let n := c.written + (ws.map fun w => w.bytes.countP Option.isSome).sum
    (s.putTile core { c with todo := ws, fail := some (statusWord cEngine 0 n 0 true) })
  else
    let (b, s1) := s.freeBit
    let s2 := if b then s1.tileChunk core c else s1
    match (s2.core core).tileq with
    | [] => s2
    | d :: _ => match d.fail with
      | some _ => s2.tileComplete core
      | none => (s2.popTile core).finishOp d.op d.cancelled

/-- A tile command cancelled (R249, R323). -/
def State.tileCancel (s : State) (core op : Nat) : State :=
  match (s.core core).tileq with
  | [] => s
  | c :: rest =>
    if c.op = op then s.tileStop core c
    else match rest.find? fun x => x.op == op with
      | some x => (s.setCore core { s.core core with tileq := c :: rest.filter fun y => y.op != op }).finishOp op x.cancelled
      | none => s

/-- Ownership of a strand ends; the contents are kept (R306). -/
def Core.releaseAccs (c : Core) (owner : Nat) : Core :=
  { c with accs := (c.accs.map fun x => if x.2.owner = some owner then (x.1, ({ x.2 with owner := none } : Acc)) else x).filter fun x => x.2 != ⟨none, []⟩ }

/-- The command may be taken out of the queue now: none that is in the midst of a drain or of its initialisation (R322). -/
def TileCmd.removable (c : TileCmd) : Bool := c.isMul || !c.begun

/-- GRANULE_CLAIM_END (R310): claims end on a granule that no remaining read of the command needs. -/
def State.endClaim (s : State) (cl gran : Nat) : State :=
  { s with cores := s.cores.map fun x =>
      if x.1 / 16 = cl then
        (x.1, { x.2 with tileq := x.2.tileq.map fun t => if t.needs.contains gran then t else { t with claims := t.claims.filter (· != gran) } })
      else x }

/-! ### The forms -/

/-- The named slots, in order: invalid ones, then versions out of range (R308). -/
def namedSlots : List (BitVec 6) → M (List (BitVec 512))
  | [] => return []
  | n :: ns => do
    let r ← readTslot n
    let rs ← namedSlots ns
    return r :: rs
def checkVersions (vw : Word) : Nat → List (BitVec 6 × BitVec 512) → M Unit
  | _, [] => return ()
  | k, (n, r) :: rest => do
    if (TSlot.ofRecord r).nver < natField vw (3 * k) 3 then trap cTslotInvalid (word (n.toNat + 9 * 256))
    checkVersions vw (k + 1) rest

/-- Issue of a tile command: HD, the queue, the drain of the strand's stores (R307). -/
def needTile (hd : BitVec 3) : M Unit := do
  needHandle hd
  let s ← get
  if Config.engineQueue ≤ s.myCore.tileq.length then block .tileQueue
  needDrained

/-- Acceptance (R307): the claims, the entry, the handle. -/
def enqueueTile (hd : BitVec 3) (mk : Nat → Nat → Bool → TileCmd) : M Unit := do
  let op ← newOp hd
  let x ← getMe
  let c := mk (← get).cur op x.nspec
  modCore fun k => { k with tileq := k.tileq ++ [{ c with claims := granulesOf (c.readsFrom 0) }] }

/-- A tile command without anything particular. -/
def TileCmd.basic (code acc sid op : Nat) (nspec : Bool) : TileCmd :=
  ⟨sid, op, code, acc, [], 0, 0, 0, 0, 0, nspec, false, false, 0, false, [], 0, 0, none, []⟩

/-- TSLOT (R301). -/
def execTslot (f : TslotOp) (s : State) : Out :=
  plainInstr ⟨f.h, engSrcs [f.a], none⟩ (do
    let a ← readG 1 f.a
    needHandle f.hd
    let r := lineOfBytes (← loadLocal .l a.toNat 64 64)
    if r.getLsbD 7 then
      match (TSlot.ofRecord r).fault r with
      | some sub => trap cTslotInvalid (word (f.n.toNat + sub * 256))
      | none => modCluster fun c => { c with tslots := c.tslots.insert f.n.toNat r }
    else modCluster fun c => { c with tslots := c.tslots.erase f.n.toNat }
    doneOp f.hd 0) s

/-- The issuing strand takes an accumulator (R306). -/
def takeAcc (k : Nat) : M Unit := modify fun s =>
  s.setCore (coreOf s.cur) (s.myCore.setAcc k { s.myCore.acc k with owner := some s.cur })

/-- TZERO (R312). -/
def execTzero (f : AccOnly) (s : State) : Out :=
  plainInstr ⟨f.h, [], none⟩ (do
    needAcc f.acc.toNat true
    needTile f.hd
    takeAcc f.acc.toNat
    enqueueTile f.hd fun sid op ns => TileCmd.basic 0xE9 f.acc.toNat sid op ns) s

/-- TLDACC (R312): the checks of R213 at issue. -/
def execTldacc (f : AccLoad) (s : State) : Out :=
  plainInstr ⟨f.h, [(2, .g, f.a)], none⟩ (do
    let a ← readG 2 f.a
    let (cl, off) ← localAddr .l a.toNat 4096 64
    if !((← get).cluster cl).presentAll off 4096 then trap cBankOff a
    needAcc f.acc.toNat true
    needTile f.hd
    takeAcc f.acc.toNat
    enqueueTile f.hd fun sid op ns => { TileCmd.basic 0xEA f.acc.toNat sid op ns with addr := off }) s

/-- The format rule of R313. -/
def mulFormats (sparse : Bool) (a b : TSlot) : Bool :=
  a.fmt == b.fmt && a.p == b.p && !b.sparse && (if sparse then a.isPL && a.sparse else (a.isPL || a.isL8) && !a.sparse)

/-- `tmma` and `tmmas` (R308, R312 to R314). -/
def tileMul (code : Nat) (f : AccMul) (s : State) : Out :=
  plainInstr ⟨f.h, [(2, .g, f.k0), (3, .g, f.klen), (4, .g, f.v)], none⟩ (do
    let k0 ← readG 2 f.k0
    let klen ← readG 3 f.klen
    let vw ← readG 4 f.v
    let slots ← namedSlots [f.tsA, f.tsB]
    checkVersions vw 0 ([f.tsA, f.tsB].zip slots)
    let a := TSlot.ofRecord (slots[0]?.getD 0)
    let b := TSlot.ofRecord (slots[1]?.getD 0)
    if !mulFormats (code == 0xEC) a b then trap cFormat (word (f.tsA.toNat + f.tsB.toNat * 256))
    let span := if code = 0xEC then 512 else 256
    if k0.toNat % span ≠ 0 then trap cAlign k0
    if klen.toNat % span ≠ 0 then trap cAlign klen
    if 16384 < k0.toNat + klen.toNat then trap cSpaceRange (k0 + klen)
    needAcc f.acc.toNat false
    if klen = 0 then
      needHandle f.hd
      doneOp f.hd 0
    else
      needTile f.hd
      enqueueTile f.hd fun sid op ns => { TileCmd.basic code f.acc.toNat sid op ns with
        slots := slots, k0 := k0.toNat, klen := klen.toNat, va := natField vw 0 3, vb := natField vw 3 3 }) s

/-- TMMA (R314). -/
def execTmma (f : AccMul) (s : State) : Out := tileMul 0xEB f s
/-- TMMAS (R314, R315). -/
def execTmmas (f : AccMul) (s : State) : Out := tileMul 0xEC f s

/-- The format rule of R317. -/
def TSlot.drainable (t : TSlot) : Bool := (t.isPL && !t.sparse) || t.elemBytes != 0

/-- A drain (R317): the format, the accumulator, the template stores, then acceptance with the empty bits of its words. Its destination is
whole words, for the template stores too (R320). -/
def tileDrain (code : Nat) (names : List (BitVec 6)) (f : AccDrain) (s : State) : Out :=
  plainInstr ⟨f.h, [(2, .g, f.v)], none⟩ (do
    let vw ← readG 2 f.v
    let slots ← namedSlots names
    checkVersions vw 0 (names.zip slots)
    if slots.any fun r => !(TSlot.ofRecord r).drainable then
      trap cFormat (word ((names[0]?.getD 0).toNat + (names[1]?.getD 0).toNat * 256))
    needAcc f.acc.toNat false
    let mk := fun sid op ns => { TileCmd.basic code f.acc.toNat sid op ns with
      slots := slots, va := natField vw 0 3, vb := natField vw 3 3, free := f.free, zero := f.zero }
    let dest := (mk 0 0 false).drainDest
    needNoTemplate (dest.map wholeWords)
    needTile f.hd
    emptyDest (clusterOf (← get).cur) dest
    enqueueTile f.hd mk) s

/-- TDRAIN (R317). -/
def execTdrain (f : AccDrain) (s : State) : Out := tileDrain 0xED [f.ts] f s
/-- TDRAINT (R317). -/
def execTdraint (f : AccDrain) (s : State) : Out := tileDrain 0xEE [f.ts, f.tsT] f s

/-- The address of the checkpoint area of a slot (R366). -/
def Core.ckptArea (c : Core) (slot : Nat) : Nat := natField c.eckbase 16 48 * 2 ^ 16 + 0x10000 * slot

/-- The checkpoint area of a slot as a physical address: one 64 KiB of a page under ASID 0 (R366). -/
def State.areaAddr (s : State) (area : Nat) (acc : Access) : Xlat × State :=
  match gFault .s area 1 1 with
  | some _ => (.fail 0 0, s)
  | none => s.translate 0 area acc .s true

/-- Bytes written to an area, physically. -/
def State.areaWrite (s : State) (pa off : Nat) (bs : List Byte) : State :=
  s.storePhys ((List.range bs.length).map (pa + off + ·)) (bs.map some)

/-- Bit k of a number per accumulator. -/
def accMask (p : Nat → Bool) : Nat := ((List.range 8).map fun k => if p k then 2 ^ k else 0).sum

/-- The words of `tqry` (R321). -/
def State.tileQuery (s : State) (sel : Nat) : Word :=
  let c := s.myCore
  if sel = 0 then
    let head := match c.tileq with
      | [] => 0
      | t :: _ => s.ownerSid t.sid * 2 ^ 48 + t.done * 2 ^ 32 + t.total * 2 ^ 16 + t.code * 2 ^ 8
    word (head + (if c.tileq.any fun t => t.sid == s.cur then 4 else 0) + c.tileq.length)
  else
    let saved := match s.me.sched.ckptAt.bind fun a => s.ckpts.find a with
      | some k => accMask fun n => (k.accs.find n).isSome
      | none => 0
    word (saved * 2 ^ 24 + (accMask fun n => c.tileq.any fun t => t.acc == n) * 2 ^ 16 +
      (accMask fun n => (c.acc n).owner == some s.cur) * 2 ^ 8 + accMask fun n => (c.acc n).owner.isSome)

/-- TQRY (R321): it never blocks. -/
def execTqry (f : Query) (s : State) : Out :=
  plainInstr ⟨f.h, [], some (.g, f.rd)⟩ (do
    writeG f.rd ((← get).tileQuery (f.sel.toNat % 2))) s

/-- TILE_COMMAND_COMPLETE (R307). -/
def execTileCommandComplete (core : Nat) (s : State) : Out := .next (s.tileComplete core)
/-- GRANULE_CLAIM_END (R310). -/
def execGranuleClaimEnd (cl gran : Nat) (s : State) : Out := .next (s.endClaim cl gran)

end Sys2Proof.Machine
end

