-- ==== Sys2Proof/Machine/Gather.lean ====
section
/-! DEFINITION. Gather and scatter-add (R347 to R349), the operands of the task group in L (R328), and idempotent regions
(R350). -/

namespace Sys2Proof.Machine

/-! ### Operands in L (R328) -/

/-- The check of an L operand at issue (R213, R215). -/
def opCheck (a : Word) (n al : Nat) : M Unit := do
  let (cl, off) ← localAddr .l a.toNat n al
  if !((← get).cluster cl).presentAll off n then trap cBankOff a

/-- The bytes of an L operand at acceptance; a poisoned word gives the status of the command (R222). -/
def opRead (a : Word) (n side : Nat) : M (Except Word (List Byte)) := do
  let cl := clusterOf (← get).cur
  bankAccess cl a.toNat n (some a)
  let c := (← get).cluster cl
  match c.flawed a.toNat n with
  | some _ => block (.errors cl a.toNat n)
  | none => match c.poisoned a.toNat n with
    | some w => return .error (statusWord cMachine side (8 * w - a.toNat) 0 false)
    | none => return .ok (c.mem.readN a.toNat n)

/-- The issue of a command of the task group: HD, and the strand's stores (R270, R328). -/
def needTask (hd : BitVec 3) : M Unit := do
  needHandle hd
  needDrained

/-! ### The table descriptor (R347) -/

structure GatherDesc where
  tbase : Nat
  rowb : Nat
  rstride : Nat
  nrows : Nat
  fmt : Nat
  sent : Bool
deriving DecidableEq, Repr, Inhabited

def GatherDesc.ofBytes (bs : List Byte) : GatherDesc where
  tbase := numAt bs 0 8
  rowb := numAt bs 8 4
  rstride := numAt bs 12 4
  nrows := numAt bs 16 4
  fmt := numAt bs 20 1
  sent := numAt bs 21 1 % 2 == 1

/-- Reason 10 of R329. -/
def gatherMalformed (scatter : Bool) (bs : List Byte) : Bool :=
  let d := GatherDesc.ofBytes bs
  decide (d.rowb < 8) || decide (4096 < d.rowb) || d.rowb % 8 != 0 || decide (d.rstride < d.rowb) || d.rstride % 8 != 0 ||
    (scatter && !(d.fmt == 0 || d.fmt == 2 || d.fmt == 5)) || decide (2 ≤ numAt bs 21 1) || (bs.drop 22).any fun b => b != 0

def DgeCmd.table (c : DgeCmd) : GatherDesc := GatherDesc.ofBytes c.desc
/-- The index at a position; none at a sentinel position. -/
def DgeCmd.index (c : DgeCmd) (p : Nat) : Option Nat :=
  let x := c.idx[p]?.getD 0
  if c.table.sent && x == 2 ^ 32 - 1 then none else some x

/-! ### Gather (R348) -/

/-- The words of a position, with the offset from dst as their positions. -/
def DgeCmd.positionWrites (c : DgeCmd) (p : Nat) (row : List Byte) : List EngWrite :=
  dataWrites .l (clusterOf c.sid) (c.laddr + p * c.table.rowb) row (p * c.table.rowb)

/-- The next step of a gather: an index out of bounds ends it; a sentinel position writes zeros; a row is fetched word by word,
once for each distinct index; a position whose row is there has its words to write. -/
def State.gatherStep (s : State) (c : DgeCmd) : DgeCmd × State :=
  let d := c.table
  match c.index c.next with
  | none => ({ c with todo := c.positionWrites c.next (List.replicate d.rowb 0), next := c.next + 1 }, s)
  | some x =>
    if d.nrows ≠ 0 ∧ d.nrows ≤ x then ({ c with fail := some (statusWord cStreamRange 3 (4 * c.next) 0 false) }, s)
    else
      let got := (c.rows.find x).getD []
      if d.rowb ≤ got.length then ({ c with todo := c.positionWrites c.next got, next := c.next + 1 }, s)
      else
        let a := d.tbase + x * d.rstride
        match (wordPieces a d.rowb).find? fun p => p.1 == a + got.length with
        | none => (c, s)
        | some p => match s.engReadG c.asid c.mode p.1 p.2 with
          | .wait s1 => (c, s1)
          | .ok bs s1 => ({ c with rows := c.rows.insert x (got ++ bs) }, s1)
          | .fail code off s1 => ({ c with fail := some (statusWord code 2 (p.1 + off - d.tbase) 0 false) }, s1)

/-- A word of the current position is written: any of those left. -/
def State.gatherWrite (s : State) (c : DgeCmd) (k : Nat) : DgeCmd × State :=
  let j := k % c.todo.length
  match c.todo[j]? with
  | none => (c, s)
  | some w => match s.engWriteL (some c.sid) w with
    | .wait s1 => (c, s1)
    | .ok _ s1 => ({ c with todo := c.todo.eraseIdx j, written := c.written + w.bytes.length }, s1)
    | .fail code off s1 => ({ c with todo := [], fail := some (statusWord code 1 (w.pos + off) 0 false) }, s1)

/-! ### Scatter-add (R349) -/

/-- Bytes of an element of FMT. -/
def dgeWidth (fmt : Nat) : Nat := if fmt = 2 then 2 else 4
/-- The distinct indices in ascending order. -/
def DgeCmd.order (c : DgeCmd) : List Nat := ((List.range c.idx.length).filterMap c.index).foldl setInsert []
/-- The positions of an index. -/
def DgeCmd.positions (c : DgeCmd) (x : Nat) : List Nat := (List.range c.idx.length).filter fun p => c.index p == some x
/-- Element e of the source row of a position: BF16 widened to FP32. -/
def DgeCmd.srcElem (c : DgeCmd) (p e : Nat) : Nat :=
  let w := dgeWidth c.table.fmt
  let v := numAt c.src (p * c.table.rowb + e * w) w
  if c.table.fmt = 2 then v * 2 ^ 16 else v
/-- The sum of an element over positions, in ascending order, with its flags. -/
def dgeSum (fmt : Nat) : Nat → List Nat → Nat × Fl
  | a, [] => (a, 0)
  | a, x :: xs =>
    let (b, f) := if fmt = 5 then ((a + x) % 2 ^ 32, (0 : Fl)) else FFmt.fp32.add .rne (FFmt.fp32.read a) (FFmt.fp32.read x)
    let (r, f2) := dgeSum fmt b xs
    (r, f ||| f2)
/-- An element of the table row after the addition of a combined element. -/
def dgeAdd (fmt : Nat) (old comb : Nat) : Nat × Fl :=
  if fmt = 5 then ((old + comb) % 2 ^ 32, 0)
  else if fmt = 2 then FFmt.bf16.add .rne (FFmt.bf16.read old) (FFmt.fp32.read comb)
  else FFmt.fp32.add .rne (FFmt.fp32.read old) (FFmt.fp32.read comb)

/-- Elements of a row. -/
def DgeCmd.perRow (c : DgeCmd) : Nat := c.table.rowb / dgeWidth c.table.fmt

/-- The translation of every byte of a row for read and write, before its first element. -/
def State.rowFault (s : State) (c : DgeCmd) (a : Nat) : EngRes Unit :=
  match gFault c.mode a 1 1, gFault c.mode (a + c.table.rowb - 1) 1 1 with
  | some (code, _), _ => .fail code 0 s
  | none, some (code, _) => .fail code (c.table.rowb - 1) s
  | none, none => match s.xlatBytes c.asid a c.table.rowb .rmw c.mode true with
    | (.ok _, s1) => .ok () s1
    | (.error (.fail r _, x), s1) => .fail (xlatCause r) (x - a) s1
    | (.error (_, _), s1) => .wait s1

/-- The addition of one element, a single-copy atomic read-modify-write (R349). -/
def State.scatterElem (s : State) (c : DgeCmd) (x a : Nat) : DgeCmd × State :=
  let d := c.table
  let w := dgeWidth d.fmt
  let e := c.next % c.perRow
  let b := a + e * w
  match s.engReadG c.asid c.mode b w with
  | .wait s1 => (c, s1)
  | .fail code off s1 => ({ c with fail := some (statusWord code 1 (b + off - d.tbase) 0 false) }, s1)
  | .ok bs s1 =>
    let vals := (c.positions x).map fun p => c.srcElem p e
    let (comb, f1) := dgeSum d.fmt (vals.headD 0) (vals.drop 1)
    let (v, f2) := dgeAdd d.fmt (ofBytes bs) comb
    match s1.engWrite (some c.sid) c.asid c.mode ⟨.g, 0, b, someBytes w v, 0⟩ with
    | .wait s2 => (c, s2)
    | .fail code off s2 => ({ c with fail := some (statusWord code 1 (b + off - d.tbase) 0 false) }, s2)
    | .ok _ s2 => ({ c with next := c.next + 1, written := c.written + w, flags := c.flags ||| f1 ||| f2 }, s2)

/-- The next step of a scatter-add. -/
def State.scatterStep (s : State) (c : DgeCmd) : DgeCmd × State :=
  let d := c.table
  match c.order[c.next / c.perRow]? with
  | none => (c, s)
  | some x =>
    let a := d.tbase + x * d.rstride
    if d.nrows ≠ 0 ∧ d.nrows ≤ x then
      ({ c with fail := some (statusWord cStreamRange 3 (4 * (c.positions x).headD 0) 0 false) }, s)
    else if c.next % c.perRow = 0 then
      match s.rowFault c a with
      | .ok _ s1 => s1.scatterElem c x a
      | .wait s1 => (c, s1)
      | .fail code off s1 => ({ c with fail := some (statusWord code 1 (a + off - d.tbase) 0 false) }, s1)
    else s.scatterElem c x a

/-! ### The DGE of a core's commands (R347) -/

/-- The command has nothing left to do. -/
def DgeCmd.finished (c : DgeCmd) : Bool :=
  c.fail.isSome || (c.todo.isEmpty && (if c.scatter then decide (c.order.length * c.perRow ≤ c.next) else decide (c.idx.length ≤ c.next)))

def State.putDge (s : State) (core j : Nat) (c : DgeCmd) : State := s.setCore core { s.core core with dge := setAt (s.core core).dge j c }

/-- A step of command j of a core: commands begin in issue order (R347). -/
def State.dgeStep (s : State) (core j k : Nat) : State :=
  match (s.core core).dge[j]? with
  | none => s
  | some c =>
    if c.finished then s
    else if ((s.core core).dge.take j).any fun x => !x.begun then s
    else
      let c := { c with begun := true }
      let (c1, s1) := if c.scatter then s.scatterStep c else if c.todo.isEmpty then s.gatherStep c else s.gatherWrite c k
      s1.putDge core j c1

/-- DGE_COMMAND_COMPLETE of command j. -/
def State.dgeComplete (s : State) (core j : Nat) : State :=
  match (s.core core).dge[j]? with
  | none => s
  | some c =>
    if c.finished then
      let w := match c.fail with
        | some w => w ||| word (c.flags.toNat * 2 ^ 8)
        | none => statusWord 0 0 0 c.flags false
      (s.setCore core { s.core core with dge := (s.core core).dge.eraseIdx j }).finishOp c.op w
    else s

/-- A DGE command cancelled (R249): it stops where it is. -/
def State.dgeCancel (s : State) (core op : Nat) : State :=
  match (s.core core).dge.find? fun c => c.op == op with
  | none => s
  | some c =>
    (s.setCore core { s.core core with dge := (s.core core).dge.filter fun x => x.op != op }).finishOp op
      (statusWord cEngine 0 c.written c.flags true)

/-- The command enters the DGE. -/
def enqueueDge (hd : BitVec 3) (scatter : Bool) (desc : List Byte) (idx : List Nat) (src : List Byte) (laddr : Nat) : M Unit := do
  let op ← newOp hd
  let x ← getMe
  let cmd : DgeCmd := ⟨(← get).cur, op, x.ctl.asid.toNat % 2 ^ 16, x.mode, scatter, desc, idx, src, laddr, false, [], 0, [], 0, 0, none⟩
  modCore fun c => { c with dge := c.dge ++ [cmd] }

/-- The index array as 32-bit values. -/
def indexList (n : Nat) (bs : List Byte) : List Nat := (List.range n).map fun k => numAt bs (4 * k) 4

/-- A DGE command of an idempotent region is noted (R351). -/
def Slot.noteDge (x : Slot) (op : Nat) : Slot := if x.idem.active then { x with idem := { x.idem with dge := op :: x.idem.dge } } else x

/-- What both forms do up to acceptance (R328, R347): the count, the operands, the waits; then `accept` gets the last operand,
the descriptor and the indices. A malformed descriptor is refused with reason 10. -/
def dgeForm (scatter : Bool) (f : Eng4) (accept : Word → List Byte → List Nat → M Unit) (s : State) : Out :=
  plainInstr ⟨f.h, engSrcs [f.a, f.b, f.c, f.d], none⟩ (do
    let tab ← readG 1 f.a
    let ix ← readG 2 f.b
    let nw ← readG 3 f.c
    let last ← readG 4 f.d
    if scatter ∧ (← getMe).idem.active then trap cIdem 0
    let n := nw.toNat
    if n < 1 ∨ 4096 < n then trap cSpaceRange nw
    opCheck tab 64 64
    opCheck ix (4 * n) 4
    needHandle f.hd
    if 4 ≤ (← get).myCore.dge.length then block .dgeQueue
    needDrained
    modify fun t => t.setMe (t.me.noteDge t.nextOp)
    match ← opRead tab 64 3, ← opRead ix (4 * n) 3 with
    | .error w, _ => doneOp f.hd w
    | _, .error w => doneOp f.hd w
    | .ok desc, .ok ib =>
      if gatherMalformed scatter desc then doneOp f.hd (refusal 10)
      else accept last desc (indexList n ib)) s

/-- GATHER (R348): the bits of its destination are cleared at acceptance. -/
def execGather (f : Eng4) (s : State) : Out :=
  dgeForm false f (fun dst desc idx => do
    let n := idx.length * (GatherDesc.ofBytes desc).rowb
    opCheck dst n 8
    needNoTemplate [(dst.toNat, n)]
    emptyDest (clusterOf (← get).cur) [(dst.toNat, n)]
    enqueueDge f.hd false desc idx [] dst.toNat) s

/-- SCATADD (R349): the source rows are read at acceptance (R328). -/
def execScatadd (f : Eng4) (s : State) : Out :=
  dgeForm true f (fun src desc idx => do
    let n := idx.length * (GatherDesc.ofBytes desc).rowb
    opCheck src n 1
    match ← opRead src n 2 with
    | .error w => doneOp f.hd w
    | .ok bs => enqueueDge f.hd true desc idx bs src.toNat) s

/-- DGE_COMMAND_COMPLETE (R347). -/
def execDgeCommandComplete (core k : Nat) (s : State) : Out := .next (s.dgeComplete core k)

/-! ### Idempotent regions (R350) -/

/-- IDEMB (R350): PC is its own address. -/
def execIdemb (f : Plain) (s : State) : Out :=
  plainInstr ⟨f.h, [], none⟩ (modify fun s =>
    s.setMe { s.me with idem := ⟨true, s.me.pc, s.me.loops.depth, []⟩ }) s
/-- IDEME (R350). -/
def execIdeme (f : Plain) (s : State) : Out :=
  plainInstr ⟨f.h, [], none⟩ (modMe fun x => { x with idem := { x.idem with active := false } }) s

end Sys2Proof.Machine
end

