-- ==== Sys2Proof/Machine/Exchange.lean ====
section
/-! DEFINITION. The exchange (R343 to R346): inboxes, `xsend`, the arrival of packets, and `xrecv`. -/

namespace Sys2Proof.Machine

/-- `n` free bytes. -/
def State.freeRun (s : State) : Nat → List Byte × State
  | 0 => ([], s)
  | n + 1 =>
    let (bs, s1) := s.freeBytes 8
    let (cs, s2) := State.freeRun s1 n
    (bs ++ cs, s2)

/-- Bytes that a unit keeps and software may have overwritten (R324): word by word the copy kept or what the ring holds. -/
def mixWords (tick : Nat) : Nat → List Byte → List Byte → List Byte
  | 0, _, _ => []
  | n + 1, kept, ring =>
    (if Config.freeBit (tick + n) then kept.take 8 else ring.take 8) ++ mixWords tick n (kept.drop 8) (ring.drop 8)
def State.mixed (s : State) (kept ring : List Byte) : List Byte × State :=
  let n := ceilDiv kept.length 8
  ((mixWords s.tick n kept ring).take kept.length, { s with tick := s.tick + n })

/-- The unit writes bytes of a receiver's L at its bank: it waits for claims (R311), the proofing of banks, and traps at a poisoned
word that it covers in part (R222). -/
def landBytes (a : Word) (bs : List Byte) : M Unit := do
  let s ← get
  let cl := clusterOf s.cur
  if bs.isEmpty then return ()
  if s.claimedRange cl a.toNat bs.length then block (.claims a.toNat bs.length)
  bankAccess cl a.toNat bs.length (some a)
  narrowPoison .l cl a.toNat (bs.map some)
  modify fun s => s.setCluster cl ((s.cluster cl).store a.toNat (bs.map some))

/-! ### Inboxes (R343) -/

/-- The inbox of a cluster holds packets, or has not handed out what it expects. -/
def Inbox.busy (b : Inbox) : Bool := !b.packets.isEmpty || b.taken != b.expect

/-- XINBOX (R343). -/
def execXinbox (f : Eng2) (s : State) : Out :=
  plainInstr ⟨f.h, engSrcs [f.a, f.b], none⟩ (do
    let base ← readG 1 f.a
    let size ← readG 2 f.b
    let n := size.toNat
    let _ ← localAddr .l base.toNat n 64
    if n ≠ 0 ∧ (n % 64 ≠ 0 ∨ n < 4160 ∨ 0x100000 < n) then trap cAlign size
    opCheck base n 64
    needTask f.hd
    let c := (← get).myCluster
    if c.inbox.busy then doneOp f.hd (refusal 9)
    else
      modCluster fun c => { c with inbox := ⟨base.toNat, n, 0, [], 0, 0, false⟩ }
      doneOp f.hd 0) s

/-! ### Sending (R344) -/

/-- DMEM fields (R34). -/
def Slot.members (x : Slot) : Nat := natField x.ctl.dmem 0 24
def Slot.domid (x : Slot) : Nat := natField x.ctl.dmem 24 16
def Slot.level (x : Slot) : Nat := natField x.ctl.dmem 40 3
def Slot.exchange (x : Slot) : Bool := x.ctl.dmem.getLsbD 44

/-- The conditions of reason 8 (R344). -/
def Slot.mayNotSend (x : Slot) (b : Nat) : Bool :=
  decide (x.level < 2) || decide (4 < x.level) || !x.exchange || decide (32 ≤ b) || !x.domain.pattern.getLsbD b

/-- XSEND (R344): the payload is read at acceptance (R328). -/
def execXsend (f : XsendOp) (s : State) : Out :=
  plainInstr ⟨f.h, engSrcs [f.bit, f.src, f.len], none⟩ (do
    let b ← readG 1 f.bit
    let src ← readG 2 f.src
    let len ← readG 3 f.len
    let n := len.toNat
    if n < 1 ∨ 4096 < n then trap cSpaceRange len
    opCheck src n 1
    needHandle f.hd
    if (← getMe).mayNotSend b.toNat then
      needDrained
      doneOp f.hd (refusal 8)
    else
      needCopy f.hd
      release
      match ← opRead src n 2 with
      | .error w => doneOp f.hd w
      | .ok bs => enqueueCopy f.hd (.xsend (dieOf (← get).cur * 32 + b.toNat) bs f.narrow)) s

/-- A place in the ring for a packet of `need` bytes; none when there is no room (R344). -/
def Inbox.place (b : Inbox) (need : Nat) : Option Nat :=
  match b.packets with
  | [] => if b.tail + need ≤ b.size then some b.tail else if need ≤ b.size then some 0 else none
  | p :: _ =>
    if p.off < b.tail then
      if b.tail + need ≤ b.size then some b.tail else if need ≤ p.off then some 0 else none
    else if b.tail + need ≤ p.off then some b.tail else none

/-- One more packet of a strand accepted by an inbox (R345). -/
def Domain.count (d : Domain) (b : Nat) : Domain := { d with counts := d.counts.insert b ((d.counts.find b).getD 0 + 1) }
def Slot.count (x : Slot) (ctx b : Nat) : Slot := if x.ctx = ctx then { x with domain := x.domain.count b } else x
/-- The packet counts for the context that sent it, wherever it is: in a slot, frozen as a starter, or saved. -/
def State.countPacket (s : State) (ctx b : Nat) : State :=
  { s with
    slots := s.slots.map fun x => (x.1, x.2.count ctx b)
    cores := s.cores.map fun c => (c.1, { c.2 with starters := c.2.starters.map fun r => (r.1, { r.2 with ctx := r.2.ctx.count ctx b }) })
    saved := s.saved.map fun v => (v.1, if v.2.ctx = ctx then { v.2 with domain := v.2.domain.count b } else v.2) }

/-- An earlier packet of the same context to the inbox stands in the copy queue of another core, which the context has left (R344, R369). -/
def State.sentBefore (s : State) (core : Nat) (c : CopyCmd) (inbox : Nat) : Bool :=
  s.cores.any fun k => k.1 != core && k.2.copyq.any fun d => d.ctx == c.ctx && decide (d.op < c.op) && match d.kind with
    | .xsend b _ _ => b == inbox
    | _ => false

/-- PACKET_ARRIVAL (R344): the packet of a core's running `xsend` is placed, in the order in which its strand has sent, or dropped when the inbox has no room, is disabled,
or has a bank that is OFF; its bytes wait for claims (R311). The layout of the header is not given: its bytes are free. -/
def State.packetArrives (s : State) (core : Nat) : State :=
  match (s.core core).copyq with
  | [] => s
  | c :: _ =>
    match c.kind, c.begun && c.fail.isNone with
    | .xsend inbox data narrow, true =>
      let cl := s.cluster inbox
      let len := data.length
      let need := 64 + 64 * ceilDiv len 64
      let end_ (s : State) (w : Word) : State := (s.popCopy core).finishOp c.op w
      if s.sentBefore core c inbox then s
      else match (if cl.inbox.size = 0 then none else cl.inbox.place need) with
      | none => end_ s (statusWord cOverflow 0 0 0 false)
      | some off =>
        let a := cl.inbox.base + off
        if s.claimedRange inbox a (64 + len) then s
        else match s.engBank (some c.sid) inbox a (64 + len) with
        | .wait s1 => s1
        | .fail _ _ s1 => end_ s1 (statusWord cBankOff 0 0 0 false)
        | .ok _ s1 =>
          let (head, s2) := s1.freeRun 8
          let k := s2.cluster inbox
          let k1 := k.store a ((head ++ data).map some)
          let pkt : Packet := ⟨off, s.ownerSid c.sid % 2 ^ 16, c.nspec, narrow, data⟩
          let s3 := s2.setCluster inbox { k1 with inbox := { k.inbox with tail := off + need, packets := k.inbox.packets ++ [pkt] } }
          end_ (s3.countPacket c.ctx (inbox % 32)) 0
    | _, _ => s

/-- PACKET_ARRIVAL (R344). -/
def execPacketArrival (core : Nat) (s : State) : Out := .next (s.packetArrives core)

/-! ### Receiving (R346) -/

/-- NARROW_MISMATCH (R84). -/
def needNarrow (narrow nspec : Bool) : M Unit := do
  if narrow && nspec != (← getMe).nspec then trap cNarrow (boolWord nspec)

/-- XRECV (R346): "none" where packets remain that no inbox has counted, and every counted one is taken (R345). -/
def execXrecv (f : XrecvOp) (s : State) : Out :=
  plainInstr ⟨f.h, engSrcs [f.dst], none⟩ (do
    let dst ← readG 1 f.dst
    needTask f.hd
    let s ← get
    let b := s.myCluster.inbox
    match b.packets with
    | [] => if f.nb || b.taken == b.expect then doneOp f.hd 0 else pause .xrecv
    | p :: rest =>
      if b.missed && b.taken == b.expect then doneOp f.hd 0
      else
      needNarrow p.narrow p.nspec
      opCheck dst p.data.length 1
      needNoTemplate [(dst.toNat, p.data.length)]
      let (bs, s1) := s.mixed p.data (s.myCluster.mem.readN (b.base + p.off + 64) p.data.length)
      set s1
      landBytes dst bs
      modCluster fun c => { c with inbox := { c.inbox with packets := rest, taken := c.inbox.taken + 1 } }
      acquire
      doneOp f.hd (statusWord 0 0 (p.src * 2 ^ 16 + p.data.length) 0 false)) s

end Sys2Proof.Machine
end

