-- ==== Sys2Proof/Machine/Tasks.lean ====
section
/-! DEFINITION. Task units (R324 to R337): queues and their rings, the commands of the task group at the unit, dependency
counters, the dependence table, `deq`, and the queue operations of QSEL (R325, R342). -/

namespace Sys2Proof.Machine

/-! ### Queues (R324, R325) -/

def Queue.base (q : Queue) : Nat := natField q.ring 16 48 * 2 ^ 16
def Queue.capacity (q : Queue) : Nat := 64 * 2 ^ natField q.ring 0 4
def Queue.enabled (q : Queue) : Bool := q.ctl.getLsbD 15
def Queue.userOk (q : Queue) : Bool := q.ctl.getLsbD 14
def Queue.dispensed (q : Queue) : Bool := q.ctl.getLsbD 13
def Queue.nosteal (q : Queue) : Bool := q.ctl.getLsbD 12
/-- The number of the home dispenser: 4·die + quadrant. -/
def Queue.home (q : Queue) : Nat := 4 * natField q.ctl 10 2 + natField q.ctl 8 2
def Queue.prio (q : Queue) : Nat := natField q.ctl 4 2
def Queue.owner (q : Queue) : Nat := natField q.ctl 48 16
/-- Some slot of the ring is free; open reservations count as occupied (R330). -/
def Queue.room (q : Queue) : Bool := decide (q.slots.length < q.capacity)
def QSlot.isReserved : QSlot → Bool
  | .reserved _ => true
  | _ => false
/-- Tombstones at the head are discarded (R332). -/
def Queue.settleFrom (head : Nat) : List QSlot → Nat × List QSlot
  | .tomb :: rest => Queue.settleFrom (head + 1) rest
  | slots => (head, slots)
def Queue.settle (q : Queue) : Queue :=
  let (h, xs) := Queue.settleFrom q.head q.slots
  { q with head := h, slots := xs }
/-- The record visible at the head (R331). -/
def Queue.visible (q : Queue) : Option RecInfo :=
  match q.slots with
  | .record r :: _ => some r
  | _ => none

def State.queue (s : State) (q : Nat) : Queue := ((s.unit (q / 128)).queues.find q).getD default
def State.setQueue (s : State) (q : Nat) (x : Queue) : State :=
  s.setUnit (q / 128) { s.unit (q / 128) with queues := (s.unit (q / 128)).queues.insert q x }

/-- The header of a record, and HDR fields (R326). -/
def recHdr (bs : List Byte) : Nat := numAt bs 16 2
/-- A required-zero bit of the header is set. -/
def recBad (bs : List Byte) : Bool := decide (16 ≤ recHdr bs)
/-- SRC written by the unit. -/
def withSrc (bs : List Byte) (src : Nat) : List Byte := bs.take 18 ++ toBytes 2 src ++ bs.drop 20

/-- Bytes of a ring under ASID 0 (R324): the access of an engine, which stalls at a busy page (R363) and may fail (R329). -/
def State.ringWrite (s : State) (a : Nat) (bs : List Byte) : EngRes Unit := s.engWrite none 0 .s ⟨.g, 0, a, bs.map some, 0⟩
def State.ringRead (s : State) (a n : Nat) : EngRes (List Byte) := s.engReads none 0 .s .g 0 (wordPieces a n)

/-- Where record n of the publication sequence stands. -/
def Queue.slotAt (q : Queue) (n : Nat) : Nat := q.base + 64 * (n % q.capacity)

/-- A record written into slot `n` of the sequence, and the queue with it published (R330, R331). -/
def State.slotPut (s : State) (q n : Nat) (slots : List QSlot) (r : RecInfo) : EngRes Unit :=
  let x := s.queue q
  match s.ringWrite (x.slotAt n) r.bytes with
  | .ok _ s1 => .ok () (s1.setQueue q ({ x with slots := slots } : Queue).settle)
  | e => e

/-- A record put at the tail (R330, R331). -/
def State.tailPut (s : State) (q : Nat) (r : RecInfo) : EngRes Unit :=
  let x := s.queue q
  s.slotPut q (x.head + x.slots.length) (x.slots ++ [.record r]) r

/-- Some command waits at the unit for room in a queue. -/
def UnitCmd.waitsFor (c : UnitCmd) (q : Nat) : Bool :=
  c.arrived && match c.what with
    | .enq p _ => p == q
    | .enqres p => p == q
    | .publish p _ => p == q
    | _ => false
def State.queued (s : State) (q : Nat) : Bool := (s.unit (q / 128)).cmds.any fun c => c.waitsFor q

/-- The record waits at the unit for its ring, behind those that wait already. -/
def State.publishLater (s : State) (q : Nat) (r : RecInfo) : State :=
  let u := s.unit (q / 128)
  s.setUnit (q / 128) { u with cmds := u.cmds ++ [⟨0, 0, r.mode, .publish q r, .nobody, true⟩] }

/-- A record that a counter or the dependence table publishes: at the tail, or behind those that wait for the ring (R334). The ring's
write may fail (R329). -/
def State.publishNow (s : State) (q : Nat) (r : RecInfo) : EngRes Unit :=
  if (s.queue q).room && !s.queued q then
    match s.tailPut q r with
    | .wait s1 => .ok () (s1.publishLater q r)
    | e => e
  else .ok () (s.publishLater q r)

/-- One that no PENDING handle can report a failure for: when its ring cannot be written, it waits as well (DESIGN CHOICE, log 74). -/
def State.publish (s : State) (q : Nat) (r : RecInfo) : State :=
  match s.publishNow q r with
  | .ok _ s1 => s1
  | .wait s1 => s1
  | .fail _ _ s1 => s1.publishLater q r

/-- The status of a command that publishes: 0, or the code of the ring's write that failed (R329). -/
def publishStatus (code off : Nat) : Word := statusWord code 1 off 0 false

/-- The refusal of a queue's use, reasons 1 and 2 of R329. -/
def State.queueRefusal (s : State) (q : Nat) (mode : Mode) : Option Nat :=
  if 1024 ≤ q ∨ (s.queue q).enabled = false then some 1
  else if mode = .u ∧ (s.queue q).userOk = false then some 2
  else none

/-! ### Answers -/

/-- The unit answers: the handle of the strand, or the word of a record of a LAUNCH; the last word sends LAUNCHREPLY (R375). -/
def State.answer (s : State) (a : Answer) (w : Word) : State :=
  match a with
  | .op n => s.finishOp n w
  | .nobody => s
  | .launch session k =>
    match s.host.sessions.find session with
    | none => s
    | some x =>
      let ws := setAt x.launch k (some w)
      let put (ws : List (Option Word)) : State :=
        { s with host := { s.host with sessions := s.host.sessions.insert session { x with launch := ws } } }
      match ws.mapM id with
      | some vs => (put []).khtSend session 0x11 0 (vs.flatMap fun v => toBytes 8 v.toNat)
      | none => put ws

/-! ### The dependence table (R335 to R337) -/

/-- Two rectangles intersect. -/
def DepTile.meets (a b : DepTile) : Bool :=
  a.tensor == b.tensor && a.version == b.version &&
    decide (a.row0 < b.row0 + b.nrows) && decide (b.row0 < a.row0 + a.nrows) &&
    decide (a.col0 < b.col0 + b.ncols) && decide (b.col0 < a.col0 + a.ncols)
/-- Two tasks conflict (R336). -/
def tilesConflict (xs ys : List DepTile) : Bool := xs.any fun a => ys.any fun b => a.meets b && (a.write || b.write)
/-- The task waits for an earlier one. -/
def TaskUnit.waits (u : TaskUnit) (t : DepTask) : Bool := u.deps.any fun x => decide (x.2.seq < t.seq) && tilesConflict x.2.tiles t.tiles

/-- The tiles of a descriptor (R335), unbound; none when a rule of reason 6 is broken. -/
def depTiles (u : TaskUnit) (bs : List Byte) : Option (List DepTile) :=
  let h := dwordAt bs 0
  let nr := natField h 0 3
  let nw := natField h 4 2
  let entry (i : Nat) : Word := dwordAt bs (1 + i)
  let tile (i : Nat) : DepTile :=
    let e := entry i
    ⟨natField e 48 16, 0, natField e 36 12, natField e 24 12, natField e 12 12, natField e 0 12, decide (nr ≤ i)⟩
  let ts := (List.range (nr + nw)).map tile
  let outside (t : DepTile) : Bool :=
    t.nrows == 0 || t.ncols == 0 || match u.tensors.find t.tensor with
      | some x => decide (x.nrows < t.row0 + t.nrows) || decide (x.ncols < t.col0 + t.ncols)
      | none => false
  if h &&& ~~~0x37 ≠ 0 ∨ 4 < nr ∨ 2 < nw then none
  else if ((List.range 7).drop (nr + nw)).any fun i => entry i != 0 then none
  else if ts.any outside then none
  else some ts

/-- The versions bound in order (R337): a write tile over a whole registered tensor of several versions renames it. -/
def bindTiles (tensors : NMap Tensor) : List DepTile → List DepTile × NMap Tensor
  | [] => ([], tensors)
  | t :: ts =>
    match tensors.find t.tensor with
    | none =>
      let (xs, m) := bindTiles tensors ts
      (t :: xs, m)
    | some x =>
      let whole := t.row0 == 0 && t.col0 == 0 && t.nrows == x.nrows && t.ncols == x.ncols
      if t.write && whole && decide (1 ≤ x.nverm1) then
        let w := (x.cur + 1) % (x.nverm1 + 1)
        let (xs, m) := bindTiles (tensors.insert t.tensor { x with cur := w }) ts
        ({ t with version := w } :: xs, m)
      else
        let (xs, m) := bindTiles tensors ts
        ({ t with version := x.cur } :: xs, m)

/-- The version word of MBOX7 (R337). -/
def versionWord (ts : List DepTile) : Word := word (((List.range ts.length).map fun i => ((ts[i]?.map (·.version)).getD 0) * 2 ^ (3 * i)).sum)

/-- The lowest free entry of the table. -/
def TaskUnit.freeDep (u : TaskUnit) : Option Nat := (List.range (u.deps.length + 1)).find? fun k => decide (k < 8192) && (u.deps.find k).isNone

/-- The held task that was submitted first, among those that wait for nothing. -/
def TaskUnit.ready (u : TaskUnit) : Option (Nat × DepTask) :=
  (u.deps.filter fun x => x.2.held.isSome && !u.waits x.2).foldl (fun best x => match best with
    | none => some x
    | some b => if x.2.seq < b.2.seq then some x else some b) none

/-- Tasks that wait for nothing any more are published, in submission order (R336). -/
def State.publishReady (u : Nat) : Nat → State → State
  | 0, s => s
  | n + 1, s =>
    match (s.unit u).ready with
    | none => s
    | some (k, t) =>
      let s1 := s.setUnit u { s.unit u with deps := (s.unit u).deps.insert k { t with held := none } }
      State.publishReady u n (match t.held with
        | some r => s1.publish t.queue r
        | none => s1)

/-- An entry of the dependence table released (R336). -/
def State.releaseDep (s : State) (u k : Nat) : State :=
  let s1 := s.setUnit u { s.unit u with deps := (s.unit u).deps.erase k }
  State.publishReady u ((s1.unit u).deps.length) s1

/-! ### Commands at the unit (R328 to R337) -/

/-- A counter that comes to zero publishes its record and is no longer live (R334). A failure of the ring's write goes to the command that
brought it to zero, where a handle waits for it (`report`), and the counter stays as it was (R329; log 74). -/
def State.counterZero (s : State) (c : Nat) (x : Counter) (report : Bool) : Word × State :=
  let u := s.unit (c / 2 ^ 15)
  let s1 := s.setUnit (c / 2 ^ 15) { u with counters := u.counters.erase c }
  match s1.publishNow x.queue x.held with
  | .fail code off s2 =>
    if report then (publishStatus code off, s2.setUnit (c / 2 ^ 15) u) else (0, s2.publishLater x.queue x.held)
  | .ok _ s2 => (0, s2)
  | .wait s2 => (0, s2)

/-- A counter changed by an addend (R334). -/
def State.counterAdd (s : State) (c : Nat) (mode : Mode) (a : Int) (report : Bool) : Word × State :=
  let u := s.unit (c / 2 ^ 15)
  if 2 ^ 18 ≤ c then (refusal 1, s)
  else match u.counters.find c with
  | none => (refusal 4, s)
  | some x =>
    let new := (x.count : Int) + a
    if mode = .u ∧ (s.queue x.queue).userOk = false then (refusal 2, s)
    else if new < 0 ∨ 2 ^ 31 - 1 < new then (refusal 5, s)
    else if new = 0 then s.counterZero c x report
    else (0, s.setUnit (c / 2 ^ 15) { u with counters := u.counters.insert c { x with count := new.toNat } })

/-- A tensor registered or unregistered (R335). -/
def TaskUnit.register (u : TaskUnit) (w : Word) : Word × TaskUnit :=
  let t := natField w 0 16
  if natField w 43 21 ≠ 0 ∨ (u.tensors.find t).isSome ∨ 1024 ≤ u.tensors.length then (refusal 6, u)
  else (0, { u with tensors := u.tensors.insert t ⟨natField w 16 12, natField w 28 12, natField w 40 3, 0⟩ })
def TaskUnit.unregister (u : TaskUnit) (w : Word) : Word × TaskUnit :=
  let t := natField w 0 16
  if natField w 43 21 ≠ 0 ∨ (u.deps.any fun x => x.2.tiles.any fun y => y.tensor == t) then (refusal 6, u)
  else (0, { u with tensors := u.tensors.erase t })

/-- A task submitted (R335 to R337); none while the table is full. One that waits for nothing is published at once, and takes no entry when
its ring's write fails (R329; log 74). -/
def State.submit (s : State) (q : Nat) (src : Nat) (mode : Mode) (rec_ desc : List Byte) : Option (Word × State) :=
  let n := q / 128
  let u := s.unit n
  if recBad rec_ then some (refusal 6, s)
  else match depTiles u desc with
  | none => some (refusal 6, s)
  | some ts => match u.freeDep with
    | none => none
    | some k =>
      let (bound, tensors) := bindTiles u.tensors ts
      let r : RecInfo := ⟨withSrc rec_ src, mode, src, some k, versionWord bound⟩
      let t : DepTask := ⟨u.depSeq, q, bound, some r⟩
      let held (t : DepTask) : State := s.setUnit n { u with depSeq := u.depSeq + 1, deps := u.deps.insert k t, tensors := tensors }
      if u.waits t then some (0, held t)
      else match (held { t with held := none }).publishNow q r with
        | .ok _ s1 => some (0, s1)
        | .wait s1 => some (0, s1)
        | .fail code off s1 => some (publishStatus code off, s1.setUnit n u)

/-- A command performed at its unit; none when it has to wait for the ring or the table (R330, R336). `ring` tells whether a
command for that queue may be served now. -/
def State.unitDo (s : State) (u : Nat) (ring : Nat → Bool) (c : UnitCmd) : Option State :=
  let answer (x : Word × State) : State := x.2.answer c.ans x.1
  let refuse (r : Nat) : Option State := some (s.answer c.ans (refusal r))
  let plain (bs : List Byte) : RecInfo := ⟨withSrc bs c.sid, c.mode, c.sid, none, 0⟩
  let put (r : EngRes Unit) : Option State := match r with
    | .ok _ s1 => some (s1.answer c.ans 0)
    | .wait _ => none
    | .fail code off s1 => some (s1.answer c.ans (publishStatus code off))
  match c.what with
  | .enq q bs =>
    match s.queueRefusal q c.mode with
    | some r => refuse r
    | none => if recBad bs then refuse 6
      else if ring q then put (s.tailPut q (plain bs)) else none
  | .enqres q =>
    match s.queueRefusal q c.mode with
    | some r => refuse r
    | none =>
      if ring q then
        let x := s.queue q
        let t := (x.head + x.slots.length) % 2 ^ 32
        some ((s.setQueue q { x with slots := x.slots ++ [.reserved c.ctx] }).answer c.ans (statusWord 0 0 t 0 false))
      else none
  | .enqpub q t bs =>
    match s.queueRefusal q c.mode with
    | some r => refuse r
    | none =>
      if recBad bs then refuse 6
      else
        let x := s.queue q
        match (List.range x.slots.length).find? fun k => x.slots[k]? == some (.reserved c.ctx) && (x.head + k) % 2 ^ 32 == t with
        | none => refuse 7
        | some k => put (s.slotPut q (x.head + k) (setAt x.slots k (.record (plain bs))) (plain bs))
  | .dcnew k q bs n =>
    if 2 ^ 18 ≤ k ∨ q / 128 ≠ k / 2 ^ 15 then refuse 1
    else match s.queueRefusal q c.mode with
    | some r => refuse r
    | none =>
      if ((s.unit u).counters.find k).isSome then refuse 3
      else if 2 ^ 31 - 1 < n then refuse 5
      else if recBad bs then refuse 6
      else if n = 0 then put (s.publishNow q (plain bs))
      else some ((s.setUnit u { s.unit u with counters := (s.unit u).counters.insert k ⟨n, q, plain bs⟩ }).answer c.ans 0)
  | .dcadd k a => some (answer (s.counterAdd k c.mode a (c.ans != .nobody)))
  | .taskdep q bs desc =>
    match s.queueRefusal q c.mode with
    | some r => refuse r
    | none => (s.submit q c.sid c.mode bs desc).map answer
  | .reg w =>
    let (x, t) := (s.unit u).register w
    some ((s.setUnit u t).answer c.ans x)
  | .unreg w =>
    let (x, t) := (s.unit u).unregister w
    some ((s.setUnit u t).answer c.ans x)
  | .publish q r =>
    if ring q then
      match s.tailPut q r with
      | .ok _ s1 => some s1
      | _ => none
    else none

/-- A command may be taken next: one on its way whose strand has no earlier command on its way, or the first of those that wait
for its queue, or for the table. -/
def TaskUnit.mayTake (u : TaskUnit) (k : Nat) : Bool :=
  match u.cmds[k]? with
  | none => false
  | some c =>
    let before := u.cmds.take k
    if c.arrived then
      match c.what with
      | .enq q _ => !before.any fun x => x.waitsFor q
      | .enqres q => !before.any fun x => x.waitsFor q
      | .publish q _ => !before.any fun x => x.waitsFor q
      | _ => !before.any fun x => x.arrived && (match x.what with
        | .taskdep .. => true
        | _ => false)
    else !before.any fun x => !x.arrived && x.ctx == c.ctx && (c.ctx != 0 || x.sid == c.sid)

/-- Command k of a unit is taken: performed, or put behind those that wait. -/
def State.unitTake (s : State) (u k : Nat) : State :=
  let x := s.unit u
  match x.cmds[k]? with
  | none => s
  | some c =>
    let out := s.setUnit u { x with cmds := x.cmds.eraseIdx k }
    let ring (q : Nat) : Bool := (s.queue q).room && (c.arrived || !s.queued q)
    match out.unitDo u ring c with
    | some s1 => s1
    | none => if c.arrived then s else out.setUnit u { out.unit u with cmds := (out.unit u).cmds ++ [{ c with arrived := true }] }

/-- TASK_UNIT_COMMAND_COMPLETE (R329): one of the commands that may be taken next; which one is free. -/
def State.unitStep (s : State) (u : Nat) : State :=
  let may := (List.range (s.unit u).cmds.length).filter (s.unit u).mayTake
  match may with
  | [] => s
  | k :: rest =>
    let (n, s1) := s.freeNat
    s1.unitTake u (((k :: rest)[n % (rest.length + 1)]?).getD k)

/-- QUEUE_SLOT_FREED (R330): the first command that waits for the queue is served. -/
def State.slotFreed (s : State) (q : Nat) : State :=
  let u := q / 128
  match (List.range (s.unit u).cmds.length).find? fun k => match (s.unit u).cmds[k]? with
    | some c => c.waitsFor q
    | none => false with
  | some k => s.unitTake u k
  | none => s

/-- A command that has not been performed is withdrawn (R249, R330). -/
def State.unitCancel (s : State) (op : Nat) : State :=
  if s.units.any fun u => u.2.cmds.any fun c => c.ans == .op op then
    ({ s with units := s.units.map fun u => (u.1, { u.2 with cmds := u.2.cmds.filter fun c => c.ans != .op op }) } : State).finishOp op
      (statusWord cEngine 0 0 0 true)
  else s

/-! ### The forms -/

/-- A command sent to a unit. -/
def sendUnit (hd : BitVec 3) (u : Nat) (what : UnitOp) : M Unit := do
  let op ← newOp hd
  let x ← getMe
  modify fun s => s.setUnit (u % 8) { s.unit (u % 8) with cmds := (s.unit (u % 8)).cmds ++ [⟨s.cur, x.ctx, x.mode, what, .op op, false⟩] }

/-- Acceptance with a record in L: a poisoned record gives its status (R222). -/
def withRecord (hd : BitVec 3) (a : Word) (go : List Byte → M Unit) : M Unit := do
  match ← opRead a 64 2 with
  | .error w => doneOp hd w
  | .ok bs => go bs

/-- ENQ (R330): a release of package scope. -/
def execEnq (f : Eng2) (s : State) : Out :=
  plainInstr ⟨f.h, engSrcs [f.a, f.b], none⟩ (do
    let q ← readG 1 f.a
    let r ← readG 2 f.b
    opCheck r 64 64
    needTask f.hd
    release
    withRecord f.hd r fun bs => sendUnit f.hd (q.toNat / 128) (.enq q.toNat bs)) s

/-- ENQRES (R330). -/
def execEnqres (f : Eng1) (s : State) : Out :=
  plainInstr ⟨f.h, engSrcs [f.a], none⟩ (do
    let q ← readG 1 f.a
    needTask f.hd
    sendUnit f.hd (q.toNat / 128) (.enqres q.toNat)) s

/-- ENQPUB (R330). -/
def execEnqpub (f : Eng3) (s : State) : Out :=
  plainInstr ⟨f.h, engSrcs [f.a, f.b, f.c], none⟩ (do
    let q ← readG 1 f.a
    let t ← readG 2 f.b
    let r ← readG 3 f.c
    opCheck r 64 64
    needTask f.hd
    release
    withRecord f.hd r fun bs => sendUnit f.hd (q.toNat / 128) (.enqpub q.toNat t.toNat bs)) s

/-- DCNEW (R334). -/
def execDcnew (f : Eng4) (s : State) : Out :=
  plainInstr ⟨f.h, engSrcs [f.a, f.b, f.c, f.d], none⟩ (do
    let c ← readG 1 f.a
    let q ← readG 2 f.b
    let r ← readG 3 f.c
    let n ← readG 4 f.d
    opCheck r 64 64
    needTask f.hd
    release
    withRecord f.hd r fun bs => sendUnit f.hd (c.toNat / 2 ^ 15) (.dcnew c.toNat q.toNat bs n.toNat)) s

/-- DCDEC (R334): `dcadd` with addend −1. -/
def execDcdec (f : Eng1) (s : State) : Out :=
  plainInstr ⟨f.h, engSrcs [f.a], none⟩ (do
    let c ← readG 1 f.a
    needTask f.hd
    release
    sendUnit f.hd (c.toNat / 2 ^ 15) (.dcadd c.toNat (-1))) s

/-- DCADD (R334). -/
def execDcadd (f : Eng2) (s : State) : Out :=
  plainInstr ⟨f.h, engSrcs [f.a, f.b], none⟩ (do
    let c ← readG 1 f.a
    let a ← readG 2 f.b
    needTask f.hd
    release
    sendUnit f.hd (c.toNat / 2 ^ 15) (.dcadd c.toNat a.toInt)) s

/-- TASKDEP (R335, R336). -/
def execTaskdep (f : Eng3) (s : State) : Out :=
  plainInstr ⟨f.h, engSrcs [f.a, f.b, f.c], none⟩ (do
    let q ← readG 1 f.a
    let r ← readG 2 f.b
    let d ← readG 3 f.c
    opCheck r 64 64
    opCheck d 64 64
    needTask f.hd
    release
    withRecord f.hd r fun bs => withRecord f.hd d fun ds => sendUnit f.hd (q.toNat / 128) (.taskdep q.toNat bs ds)) s

/-- TASKDEP with KIND 1 (R335): the unit is left open by the spec. -/
def execTaskdepReg (f : Eng1) (s : State) : Out :=
  plainInstr ⟨f.h, engSrcs [f.a], none⟩ (do
    let w ← readG 1 f.a
    needTask f.hd
    release
    sendUnit f.hd (Config.tensorUnit (dieOf (← get).cur) (natField w 0 16)) (.reg w)) s
/-- TASKDEP with KIND 2 (R335). -/
def execTaskdepUnreg (f : Eng1) (s : State) : Out :=
  plainInstr ⟨f.h, engSrcs [f.a], none⟩ (do
    let w ← readG 1 f.a
    needTask f.hd
    release
    sendUnit f.hd (Config.tensorUnit (dieOf (← get).cur) (natField w 0 16)) (.unreg w)) s

/-- The record at the head of a queue taken: its bytes as published, as the ring holds them, or a mixture (R324). -/
def State.takeHead (s : State) (q : Nat) (r : RecInfo) : EngRes RecInfo :=
  let x := s.queue q
  match s.ringRead (x.slotAt x.head) 64 with
  | .wait s1 => .wait s1
  | .fail code off s1 => .fail code off s1
  | .ok ring s1 =>
    let (bs, s2) := s1.mixed r.bytes ring
    .ok { r with bytes := bs } (s2.setQueue q ({ x with head := x.head + 1, slots := x.slots.drop 1 } : Queue).settle)

/-- A taken record releases its entry of the dependence table (R333). -/
def State.dropDep (s : State) (q : Nat) (dep : Option Nat) : State :=
  match dep with
  | some k => s.releaseDep (q / 128) k
  | none => s

/-- A command that the strand has sent to the unit is still on its way. -/
def State.onWay (s : State) (sid u : Nat) : Bool := (s.unit u).cmds.any fun c => !c.arrived && c.ctx == (s.slot sid).ctx

/-- The physical address of a page that makes an access under ASID 0 stall. -/
def State.busyPage (s : State) (a : Nat) (acc : Access) : Nat :=
  match s.translate 0 a acc .s true with
  | (.busy pa, _) => pa
  | _ => 0

/-- DEQ (R333): it reaches the unit behind the strand's earlier commands (R334). A ring that cannot be read gives its code, and the record
stays (R329). -/
def execDeq (f : DeqOp) (s : State) : Out :=
  plainInstr ⟨f.h, engSrcs [f.q, f.dst], none⟩ (do
    let q ← readG 1 f.q
    let dst ← readG 2 f.dst
    opCheck dst 64 64
    needNoTemplate [(dst.toNat, 64)]
    needTask f.hd
    let s ← get
    if s.onWay s.cur (q.toNat / 128) then block (.unit (q.toNat / 128))
    match s.queueRefusal q.toNat s.me.mode with
    | some r => doneOp f.hd (refusal r)
    | none =>
      match (s.queue q.toNat).visible with
      | none => if f.nb then doneOp f.hd 0 else pause (.deq q.toNat)
      | some r =>
        needNarrow (recHdr r.bytes / 8 % 2 == 1) (recHdr r.bytes / 4 % 2 == 1)
        match s.takeHead q.toNat r with
        | .wait _ => block (.swapBusy (s.busyPage ((s.queue q.toNat).slotAt (s.queue q.toNat).head) .read))
        | .fail code off s1 =>
          set s1
          doneOp f.hd (statusWord code 2 off 0 false)
        | .ok r1 s1 =>
          set s1
          landBytes dst r1.bytes
          modify fun s => s.dropDep q.toNat r.dep
          acquire
          doneOp f.hd (statusWord 0 0 64 0 false)) s

/-- TASK_UNIT_COMMAND_COMPLETE (R329); the units of a die that takes no part do nothing (R381). -/
def execTaskUnitCommandComplete (u : Nat) (s : State) : Out := .next (if (s.die (u / 2)).absent then s else s.unitStep u)
/-- QUEUE_SLOT_FREED (R330). -/
def execQueueSlotFreed (q : Nat) (s : State) : Out := .next (s.slotFreed q)

/-! ### Queue operations (R325, R342) -/

/-- QCTL as an operation reports it: COUNT and RESV with the configuration. -/
def Queue.ctlWord (q : Queue) : Word :=
  let resv := q.slots.countP QSlot.isReserved
  setField (setField q.ctl 32 16 (q.slots.length - resv)) 16 16 resv

/-- The ports of a slot after an operation; ERR tells a refusal. -/
def SlotPorts.result (p : SlotPorts) (qsel : Word) (err : Bool) : SlotPorts :=
  { p with qsel := if err then bitOn qsel 13 else bitOff qsel 13 }

/-- The ports of the issuing slot changed. -/
def State.modPorts (s : State) (f : SlotPorts → SlotPorts) : State := s.setMe { s.me with ports := f s.me.ports }

/-- OPC 1 (R325): the queue is read into QRING, QCTL and QWDOG. -/
def State.queueRead (s : State) (v : Word) : State :=
  let q := s.queue (natField v 0 10)
  s.modPorts fun p => { p with qring := q.ring, qctl := q.ctlWord, qwdog := q.wdog }.result v false

/-- The stages that are not zero rise strictly. -/
def stagesOk (w : Word) : Bool :=
  let xs := [natField w 0 16, natField w 16 16, natField w 32 16].filter (· != 0)
  (xs.zip (xs.drop 1)).all fun x => decide (x.1 < x.2)

/-- The page is mapped: its walk ends at a leaf, whatever the leaf allows, be it in near or far memory, and while it is being swapped. -/
def State.mapped (s : State) (asid a : Nat) : Bool :=
  match s.walk (ownerDie a) asid a .read .s with
  | .found .. => true
  | .busy _ => true
  | .fail reason _ => reason == 4 || reason == 5

/-- OPC 2 (R325): the queue is configured from the slot's registers, or refused. -/
def State.queueWrite (s : State) (v : Word) : State :=
  let n := natField v 0 10
  let q := s.queue n
  let p := s.me.ports
  let base := natField p.qring 16 48 * 2 ^ 16
  if (p.qring ≠ q.ring ∧ q.slots ≠ []) ∨ base / 2 ^ 52 ≠ 0xFFF ∨ ownerDie base ≠ n / 256 ∨ s.mapped 0 base = false ∨ stagesOk p.qwdog = false then
    s.modPorts fun p => p.result v true
  else
    (s.setQueue n { q with ring := p.qring, ctl := p.qctl &&& 0xFFFF00000000FF30, wdog := p.qwdog }).modPorts fun p => p.result v false

/-- OPC 3 (R342): a core is admitted again; one that does not exist is refused (DESIGN CHOICE, log 75). -/
def State.coreReadmit (s : State) (v : Word) : State :=
  let c := natField v 32 11
  if coreExists c then (s.setCore c { s.core c with fenced := false }).modPorts fun p => p.result v false
  else s.modPorts fun p => p.result v true

/-- OPC 4 (R325, R332): published records are discarded, open reservations become tombstones. -/
def State.queueEmpty (s : State) (v : Word) : State :=
  let n := natField v 0 10
  let q := s.queue n
  (s.setQueue n ({ q with slots := q.slots.map fun _ => .tomb } : Queue).settle).modPorts fun p => p.result v false

/-- QUEUE_READ, QUEUE_WRITE, CORE_READMIT, QUEUE_EMPTY: a write of QSEL performs its operation (R325). -/
def execQueueRead (v : Word) (s : State) : Out := .next (s.queueRead v)
def execQueueWrite (v : Word) (s : State) : Out := .next (s.queueWrite v)
def execCoreReadmit (v : Word) (s : State) : Out := .next (s.coreReadmit v)
def execQueueEmpty (v : Word) (s : State) : Out := .next (s.queueEmpty v)

end Sys2Proof.Machine
end

