-- ==== Sys2Proof/Machine/Handles.lean ====
section
/-! DEFINITION. Handles (R247 to R250): `fwait`, `ftest`, `fcancel`, `fexp`, `fimp`, and the cancellation of an operation
wherever it runs. -/

namespace Sys2Proof.Machine

/-- A core holds commands of an operation. -/
def Core.runs (c : Core) (op : Nat) : Bool :=
  c.copyq.any (fun x => x.op == op) || c.tileq.any (fun x => x.op == op) || c.dge.any fun x => x.op == op

/-- A tile command that an engine checkpoint holds is cancelled: it is taken out of it, as a queued command is out of its queue (R322,
R323). -/
def State.ckptCancel (s : State) (op : Nat) : State :=
  let mine (k : Ckpt) : Option TileCmd := k.cmds.find? fun c => c.op == op
  match s.ckpts.findSome? fun x => (mine x.2).map fun c => (x.1, x.2, c) with
  | some (area, k, c) =>
    ({ s with ckpts := s.ckpts.insert area { k with cmds := k.cmds.filter fun d => d.op != op } } : State).finishOp op c.cancelled
  | none => s

/-- An operation cancelled (R249, R323): in the queue or the engine that holds it, in an engine checkpoint, or at its unit. -/
def State.cancelOp (s : State) (op : Nat) : State :=
  match s.cores.find? fun x => x.2.runs op with
  | some (core, _) => ((s.copyCancel core op).tileCancel core op).dgeCancel core op
  | none => (s.ckptCancel op).unitCancel op

/-- HANDLE_INVALID on an EMPTY handle (R248). -/
def needUsed (h : Nat) : M Handle := do
  match (← getMe).handle h with
  | .empty => trap cHandle (word h)
  | v => return v

/-- FWAIT (R248): the status read is an acquire of package scope (R259). -/
def execFwait (f : HandleRead) (s : State) : Out :=
  plainInstr ⟨f.h, [], some (.g, f.rd)⟩ (do
    match ← needUsed f.hs.toNat with
    | .complete _ w =>
      acquire
      writeG f.rd w
    | _ => block (.handle f.hs.toNat)) s

/-- FTEST (R248): it never blocks; COMPLETE seen is an acquire. -/
def execFtest (f : HandleRead) (s : State) : Out :=
  plainInstr ⟨f.h, [], some (.p, f.rd)⟩ (do
    match ← needUsed f.hs.toNat with
    | .complete .. =>
      acquire
      writeP f.rd (boolMask true)
    | _ => writeP f.rd (boolMask false)) s

/-- FCANCEL (R249): it returns once the operation can write nothing more. -/
def execFcancel (f : HandleOnly) (s : State) : Out :=
  plainInstr ⟨f.h, [], none⟩ (do
    match ← needUsed f.hs.toNat with
    | .pending op =>
      let s1 := (← get).cancelOp op
      if (s1.me.handle f.hs.toNat).isPending then throw (.done (waitState (.handle f.hs.toNat) false s1))
      set s1
    | _ => return ()) s

/-- The token of an operation (R250). -/
def tokenOf (sid h op : Nat) : Word := word (sid % 2 ^ 16 + h % 8 * 2 ^ 16 + op % 2 ^ 16 * 2 ^ 32)

/-- A handle exported: its token holds the operation, or its status. -/
def State.exportOp (s : State) (sid h : Nat) : Word × State :=
  match (s.slot sid).handle h with
  | .empty => (0, s)
  | .pending op =>
    let t := tokenOf sid h op
    let s1 := { s with ops := s.ops.insert op ⟨.token, some t, false, true, none⟩ }
    (t, s1.setSlot sid ((s1.slot sid).setHandle h .empty))
  | .complete op w =>
    let t := tokenOf sid h op
    let s1 := { s with ops := s.ops.insert op ⟨.token, some t, false, true, some w⟩ }
    (t, s1.setSlot sid ((s1.slot sid).setHandle h .empty))

/-- FEXP (R250). -/
def execFexp (f : HandleRead) (s : State) : Out :=
  plainInstr ⟨f.h, [], some (.g, f.rd)⟩ (do
    let _ ← needUsed f.hs.toNat
    let s ← get
    let (t, s1) := s.exportOp s.cur f.hs.toNat
    set s1
    writeG f.rd t) s

/-- The operation that a token names and that no one has imported. -/
def State.tokenOp (s : State) (t : Word) : Option (Nat × Op) := s.ops.find? fun x => x.2.token == some t && !x.2.imported

/-- A token bound to a handle (R250). -/
def State.importOp (s : State) (sid h n : Nat) (o : Op) : State :=
  match o.status with
  | some w => { s with ops := s.ops.erase n }.setSlot sid ((s.slot sid).setHandle h (.complete n w))
  | none => { s with ops := s.ops.insert n { o with holder := .slot sid h, imported := true } }.setSlot sid ((s.slot sid).setHandle h (.pending n))

/-- FIMP (R250). -/
def execFimp (f : HandleImport) (s : State) : Out :=
  plainInstr ⟨f.h, [(1, .g, f.a)], none⟩ (do
    let t ← readG 1 f.a
    match (← get).tokenOp t with
    | none => trap cHandle t
    | some (n, o) =>
      needHandle f.hd
      modify fun s => s.importOp s.cur f.hd.toNat n o) s

end Sys2Proof.Machine
end

