-- ==== Sys2Proof/Machine/Starters.lean ====
section
/-! DEFINITION. Starters and items (R276 to R298): `freeze`, stamping, shipping, resumption, `retire`, `yield`, `itemq`; the end of a
record and of a killed strand (R167, R297, R338). -/

namespace Sys2Proof.Machine

/-! ### Moving what a strand holds between its slot and its record (R280, R292) -/

/-- The holders of operations changed. -/
def State.mapHolders (s : State) (f : Holder → Holder) : State :=
  { s with ops := s.ops.map fun x => (x.1, { x.2 with holder := f x.2.holder }) }

/-- Accumulators and engine commands of a core pass from one owner number to another. -/
def Core.relabel (c : Core) (old new : Nat) : Core :=
  let own (o : Nat) : Nat := if o = old then new else o
  { c with
    accs := c.accs.map fun x => (x.1, { x.2 with owner := x.2.owner.map own })
    copyq := c.copyq.map fun x => { x with sid := own x.sid }
    tileq := c.tileq.map fun x => { x with sid := own x.sid }
    dge := c.dge.map fun x => { x with sid := own x.sid } }

/-- The slot becomes FREE (R21, R367): its ports and its M bank stay; its messages are discarded. -/
def Slot.freed (x : Slot) : Slot := { Slot.none with ports := x.ports, mTrap := x.mTrap }
def State.freeSlot (s : State) (sid : Nat) : State := s.setSlot sid (s.slot sid).freed

def State.isFree (s : State) (sid : Nat) : Bool := decide ((s.slot sid).phase = .free)
/-- The lowest FREE slot of a core. -/
def State.lowestFree (s : State) (core : Nat) : Option Nat :=
  ((List.range (slotCount core)).map (8 * core + ·)).find? s.isFree

/-! ### freeze (R277 to R280) -/

/-- The private areas of a core of the cluster (R278). -/
def coreAreas (t : Word) (n : Nat) : Nat × Nat := (tmplPrivate t + 512 * tmplQuota t * n, 512 * tmplQuota t)

/-- The lowest address whose bank is unallocated or OFF, of the template crumbs and of the areas of the cores of PLACE (check 7 of R279). -/
def State.templateAbsent (s : State) (sid : Nat) (t : Word) (place : BitVec 16) : Option Nat :=
  if isManagement (coreOf sid) then some (tmplBase t)
  else
    let c := s.cluster (clusterOf sid)
    minOf (((tmplBase t, 64 * tmplCrumbs t) :: ((List.range 16).filter place.getLsbD).map (coreAreas t)).filterMap fun r => c.firstAbsent r.1 r.2)

/-- Depth of the starter that the strand would become. -/
def State.freezeDepth (s : State) (sid : Nat) : Nat :=
  match (s.slot sid).item with
  | some it => match (s.core it.home).starters.find it.index with
    | some r => r.depth + 1
    | none => 1
  | none => 1

/-- Required-zero bits of a template descriptor (R278). -/
def tmplBad (t : Word) : Bool := natField t 54 10 != 0 || natField t 21 11 != 0 || natField t 0 6 != 0

/-- Checks 3 to 7 of R279; the answer is the record's index. -/
def freezeCheck (t : Word) (place : BitVec 16) : M Nat := do
  let s ← get
  if 3 < s.freezeDepth s.cur then trap cFreezeDepth 1
  match (List.range 8).find? fun k => (s.myCore.starters.find k).isNone with
  | none => trap cFreezeDepth 2
  | some k =>
    if tmplCrumbs t ≠ 0 then
      if tmplBad t then trap cAlign t
      if 0x8000 < tmplCrumbs t ∨ 0x200000 < tmplPrivate t + 4096 * tmplQuota t then trap cSpaceRange t
      match s.templateAbsent s.cur t place with
      | some a => trap cBankOff (word a)
      | none => pure ()
    return k

/-- The record formed, and the slot FREE (R280). -/
def State.form (s : State) (k : Nat) (cont entry : Word) (e : Nat) (t : Word) (place : BitVec 16) : State :=
  let sid := s.cur
  let core := coreOf sid
  let x := s.me
  let gen := (s.myCore.gens.find k).getD 0 + 1
  let rcd : Starter := ⟨{ x with pc := cont, windows := [], msgs := [] }, entry, e, 0, 0, 0, 0, t, place, s.freezeDepth sid, sid % 8, gen, [], []⟩
  let c := s.myCore.relabel sid (starterOwner core k)
  let s1 := s.setCore core { c with starters := c.starters.insert k rcd, gens := c.gens.insert k gen }
  (s1.mapHolders fun o => match o with
    | .slot sd h => if sd = sid then .starter core k h else o
    | _ => o).freeSlot sid

/-- FREEZE (R277 to R280). -/
def execFreeze (f : FreezeOp) (s : State) : Out :=
  instr ⟨f.h, [(1, .g, f.a), (2, .g, f.b)], none⟩ (do
    let cont ← targetOf f.off
    checkTarget cont
    let e ← readG 1 f.a
    let t ← readG 2 f.b
    if e = 0 then return some cont
    let home := coreNo (coreOf (← get).cur)
    let place := bitOn (f.place.setWidth 16) home
    let k ← freezeCheck t place
    needDrained
    let entry ← nextPc
    throw (.done ((← get).form k cont entry e.toNat t place))) s

/-! ### The items of a starter -/

/-- The item belongs to the record. -/
def Item.isOf (it : Item) (core r gen : Nat) : Bool := it.home == core && it.index == r && it.gen == gen
def Slot.isOf (x : Slot) (core r gen : Nat) : Bool :=
  match x.item with
  | some it => it.isOf core r gen
  | .none => false
/-- The live items of a record that occupy slots. -/
def State.itemSlots (s : State) (core r gen : Nat) : List Nat :=
  (s.slots.filter fun x => decide (x.2.phase ≠ .free) && x.2.isOf core r gen).map (·.1)
/-- The records whose starters are items of a record: core, index, generation (R295). -/
def State.nestedOf (s : State) (core r gen : Nat) : List (Nat × Nat × Nat) :=
  s.cores.flatMap fun c => (c.2.starters.filter fun x => x.2.ctx.isOf core r gen).map fun x => (c.1, x.1, x.2.gen)
/-- The record with the records nested in it, outermost first; three levels at most. -/
def State.family (s : State) : Nat → Nat × Nat × Nat → List (Nat × Nat × Nat)
  | 0, _ => []
  | n + 1, r => r :: (s.nestedOf r.1 r.2.1 r.2.2).flatMap (State.family s n)
/-- Every item of a record and of its nested records. -/
def State.allItems (s : State) (r : Nat × Nat × Nat) : List Nat := (s.family 3 r).flatMap fun x => s.itemSlots x.1 x.2.1 x.2.2

def State.starter (s : State) (core r : Nat) : Option Starter := (s.core core).starters.find r
def State.setStarter (s : State) (core r : Nat) (x : Starter) : State :=
  s.setCore core { s.core core with starters := (s.core core).starters.insert r x }

def Phase.isSuspended : Phase → Bool
  | .suspended .. => true
  | _ => false

/-- An item ends: it counts as retired, and when killed as killed; then its done contribution of 1 goes over the control mesh to the home
core of its starter, which counts nothing more (R291, R297; log 37). -/
def State.endItem (s : State) (sid : Nat) (it : Option Item) (killed : Bool) : State :=
  match it with
  | none => s
  | some i =>
    let s1 := match s.starter i.home i.index with
      | some r =>
        if r.gen = i.gen then
          s.setStarter i.home i.index { r with live := r.live - 1, retired := r.retired + 1, killed := r.killed + if killed then 1 else 0 }
        else s
      | none => s
    s1.sendFrom sid (i.home / 512) (routerOf (8 * i.home)) (.itemDone i.home i.index i.gen killed)

/-! ### Stamping (R281) -/

/-- The slot for the next item: on the lowest core of PLACE whose copy is present, the lowest FREE slot. -/
def State.stampSlot (s : State) (core : Nat) (r : Starter) : Option Nat :=
  ((List.range 16).filter fun n => r.place.getLsbD n && (n == coreNo core || r.copies.find n == some 0)).findSome? fun n =>
    s.lowestFree (core / 16 * 16 + n)

/-- SEED of item IX (R64). -/
def itemSeed (seed : Word) (ix : Nat) : Word := seedStored ((field seed 0 32 ^^^ BitVec.ofNat 32 (ix * 0x9E3779B9)).setWidth 64)

/-- The state of a newly stamped item (R281): its slot keeps its own ports and M bank. -/
def Starter.item (r : Starter) (core k sid : Nat) (old : Slot) (ctx : Nat) : Slot :=
  let x := r.ctx
  let area := if tmplCrumbs r.tmpl = 0 then 0 else privateArea r.tmpl sid
  { Slot.none with
    phase := .ready
    pc := r.entry
    regs := { x.regs with gs := x.regs.gv, vs := x.regs.vv, ps := x.regs.pv }
    ctl := { x.ctl with ix := word r.next, nx := word r.extent, seed := itemSeed x.ctl.seed r.next }
    sTrap := x.sTrap
    mTrap := old.mTrap
    loops := { x.loops with state := 0 }
    ports := old.ports
    streams := x.streams.map fun t => { t with ahead := [] }
    item := some ⟨core, k, r.gen, area, []⟩
    ctx := ctx }

/-- A starter that was pre-empted stamps nothing until the items that this halted have been resumed (R296). -/
def State.withheld (s : State) (r : Starter) : Bool :=
  s.slots.any fun x => r.halted.contains x.2.ctx && (x.2.phase.isSuspended || x.2.sched.halt)

/-- ITEM_STAMP (R281): the next item of a record is stamped, when a slot is there for it. -/
def State.stamp (s : State) (core k : Nat) : State :=
  match s.starter core k with
  | none => s
  | some r =>
    if r.extent ≤ r.next ∨ s.withheld r then s
    else match s.stampSlot core r with
      | none => s
      | some sid =>
        let s1 := { s with nextCtx := s.nextCtx + 1 }.setSlot sid (r.item core k sid (s.slot sid) s.nextCtx)
        s1.setStarter core k { r with next := r.next + 1, live := r.live + 1 }

/-- ITEM_STAMP (R281). -/
def execItemStamp (core r : Nat) (s : State) : Out := .next (s.stamp core r)

/-! ### Shipping (R282) -/

/-- The pools of a core supply a copy of the starter. -/
def State.poolsSupply (s : State) (core : Nat) (r : Regs) : Bool :=
  [Cls.g, .v, .p].all fun c => decide (s.poolUsed core c + r.copied c ≤ poolSize core c)

/-- A copy under way: 1 while it waits for the pools, then the TIME at which it is complete (200 cluster cycles on). -/
def State.shipState (s : State) (core : Nat) (r : Regs) : Nat := if s.poolsSupply core r then s.clock.time + 89 else 1

/-- STARTER_SHIP (R282): shipping to a core begins when no core whose copy is present has a FREE slot and that core has one. -/
def State.ship (s : State) (core k dst : Nat) : State :=
  match s.starter core k with
  | none => s
  | some r =>
    let there := core / 16 * 16 + dst % 16
    if r.next < r.extent ∧ s.stampSlot core r = none ∧ dst % 16 ≠ coreNo core ∧ r.place.getLsbD (dst % 16) ∧ (r.copies.find (dst % 16)).isNone
        ∧ (s.lowestFree there).isSome then
      s.setStarter core k { r with copies := r.copies.insert (dst % 16) (s.shipState there r.ctx.regs) }
    else s

/-- STARTER_SHIP_COMPLETE (R282): a copy that waits for the pools takes its registers; one whose time has come is present. -/
def State.shipped (s : State) (core k dst : Nat) : State :=
  match s.starter core k with
  | none => s
  | some r =>
    match r.copies.find (dst % 16) with
    | none => s
    | some 0 => s
    | some 1 => s.setStarter core k { r with copies := r.copies.insert (dst % 16) (s.shipState (core / 16 * 16 + dst % 16) r.ctx.regs) }
    | some t => if t ≤ s.clock.time then s.setStarter core k { r with copies := r.copies.insert (dst % 16) 0 } else s

/-- STARTER_SHIP (R282). -/
def execStarterShip (core r dst : Nat) (s : State) : Out := .next (s.ship core r dst)
/-- STARTER_SHIP_COMPLETE (R282). -/
def execStarterShipComplete (core r dst : Nat) (s : State) : Out := .next (s.shipped core r dst)

/-! ### Resumption (R292) -/

/-- The record taken away with its copies. -/
def State.dropStarter (s : State) (core k : Nat) : State :=
  s.setCore core { s.core core with starters := (s.core core).starters.erase k }

/-- STARTER_RESUME (R292): when every item has retired, the starter takes its slot, or another FREE slot of the home core. A continuation whose
line could not be fetched at the `freeze` is checked now (R91, R279). -/
def State.resumeStarter (s : State) (core k : Nat) : State :=
  match s.starter core k with
  | none => s
  | some r =>
    if r.retired < r.extent then s
    else match (if s.isFree (8 * core + r.slot) then some (8 * core + r.slot) else s.lowestFree core) with
      | none => s
      | some sid =>
        let old := s.slot sid
        let s1 := (s.dropStarter core k).setSlot sid { r.ctx with
          phase := .ready
          ports := old.ports
          mTrap := old.mTrap
          msgs := []
          sched := { Slot.none.sched with checked := r.ctx.sched.checked } }
        let s2 := s1.mapHolders fun o => match o with
          | .starter cr j h => if cr = core ∧ j = k then .slot sid h else o
          | _ => o
        (s2.setCore core ((s2.core core).relabel (starterOwner core k) sid)).acquire core

/-- STARTER_RESUME (R292). -/
def execStarterResume (core r : Nat) (s : State) : Out := .next (s.resumeStarter core r)

/-! ### The end of a record (R338) -/

/-- The record is held by no strand any more. -/
def Slot.dropRecord (x : Slot) (id : Nat) : Slot := if x.record.map (·.id) = some id then { x with record := .none } else x
def State.clearRecord (s : State) (id : Nat) : State :=
  { s with
    slots := s.slots.map fun x => (x.1, x.2.dropRecord id)
    cores := s.cores.map fun c => (c.1, { c.2 with starters := c.2.starters.map fun r => (r.1, { r.2 with ctx := r.2.ctx.dropRecord id }) }) }

/-- The record ends: the counter DCDONE is decremented, the entry of the dependence table released, the watchdog stopped. -/
def State.endRecord (s : State) (sid ctx : Nat) (mode : Mode) (rcd : Option Record) : State :=
  match rcd with
  | none => s
  | some r =>
    let n := r.dcdone - 1
    let s1 := if r.dcdone = 0 ∨ 2 ^ 18 ≤ n then s
      else
        let u := n / 2 ^ 15
        s.setUnit u { s.unit u with cmds := (s.unit u).cmds ++ [⟨sid, ctx, mode, .dcadd n (-1), .nobody, false⟩] }
    (s1.dropDep (natField r.tag 0 10) r.dep).clearRecord r.id

/-! ### Kills (R167, R297, R370) -/

/-- The unexported operations of a holder are cancelled; nobody waits for any operation of it. -/
def State.dropOps (s : State) (own : Holder → Bool) : State :=
  let mine := (s.ops.filter fun x => own x.2.holder && !x.2.exported).map (·.1)
  mine.foldl State.cancelOp (s.mapHolders fun o => if own o then .nobody else o)

/-- The open reservations of a context become tombstones (R332). -/
def State.tombAll (s : State) (ctx : Nat) : State :=
  let bury (q : Queue) : Queue := ({ q with slots := q.slots.map fun x => if x = .reserved ctx then .tomb else x } : Queue).settle
  { s with units := s.units.map fun u => (u.1, { u.2 with queues := u.2.queues.map fun q => (q.1, bury q.2) }) }

/-- The strand leaves the waiting list of its dispenser, and a record in flight to it is returned (R22). -/
def State.leaveWork (s : State) (sid : Nat) : State :=
  let d := sid / 1024 % 16
  let x := s.disp d
  if x.waiting.contains sid then
    let back := (x.held.bind (·.dest)) == some sid
    let s1 : State := { s with mesh := if back then s.mesh.filter fun m => !m.body.isRecord d else s.mesh }
    s1.setDisp d { x with
      waiting := x.waiting.filter (· != sid)
      held := if back then x.held.map fun t => { t with dest := .none } else x.held }
  else s

/-- A checkpoint that no image names is discarded, with the operations of its commands (R370), and its area holds none from then on (R366). -/
def State.dropCkpt (s : State) (a : Option Nat) : State :=
  match a with
  | none => s
  | some k => match s.ckpts.find k with
    | none => s
    | some c =>
      if s.saved.any fun v => v.2.ckpt == some k then s
      else
        let s1 : State := { s with ckpts := s.ckpts.erase k, ops := s.ops.filter fun x => !(c.cmds.any fun t => t.op == x.1) || x.2.exported }
        match s1.areaAddr k .write with
        | (.ok pa, s2) => s2.areaWrite pa 0 [0]
        | _ => s1

/-- A strand killed (R167): what it retired into the store buffer and the side log still completes. -/
def State.killSlot (s : State) (sid : Nat) : State :=
  let x := s.slot sid
  let s1 := (s.dropCkpt x.sched.ckptAt).dropOps fun o => match o with
    | .slot sd _ => sd == sid
    | _ => false
  let s2 := s1.setCore (coreOf sid) ((s1.core (coreOf sid)).releaseAccs sid)
  let s3 := (((s2.tombAll x.ctx).endRecord sid x.ctx x.mode x.record).leaveWork sid).endItem sid x.item true
  s3.freeSlot sid

/-- A starter killed with its record, when every item of it is gone (R297). -/
def State.killRecord (s : State) (core k : Nat) : State :=
  match s.starter core k with
  | none => s
  | some r =>
    let sid := 8 * core + r.slot
    let s1 := s.dropOps fun o => match o with
      | .starter cr j _ => cr == core && j == k
      | _ => false
    let s2 := s1.setCore core ((s1.core core).releaseAccs (starterOwner core k))
    let s3 := ((s2.tombAll r.ctx.ctx).endRecord sid r.ctx.ctx r.ctx.mode r.ctx.record).endItem sid r.ctx.item true
    s3.dropStarter core k

/-- A starter killed (R297): every live item of it and of its nested starters, then the records, innermost first. -/
def State.killStarter (s : State) (core k : Nat) : State :=
  match s.starter core k with
  | none => s
  | some r =>
    let all := s.family 3 (core, k, r.gen)
    let items := all.flatMap fun x => s.itemSlots x.1 x.2.1 x.2.2
    all.reverse.foldl (fun t x => t.killRecord x.1 x.2.1) (items.foldl State.killSlot s)

/-- A pre-emption of a starter (R296): every live item of it and of its nested starters halts, and no pending item is stamped. -/
def State.haltStarter (s : State) (core k : Nat) : State :=
  match s.starter core k with
  | none => s
  | some r =>
    let all := s.family 3 (core, k, r.gen)
    let items := all.flatMap fun x => s.itemSlots x.1 x.2.1 x.2.2
    all.foldl (fun t x => match t.starter x.1 x.2.1 with
      | some y => t.setStarter x.1 x.2.1 { y with halted := (items.map fun sid => (s.slot sid).ctx) ++ y.halted }
      | none => t) (items.foldl State.askHalt s)

/-! ### retire, yield, itemq (R290 to R294) -/

/-- DMEM makes the strand a level-0 domain of one (R34). -/
def Slot.alone (x : Slot) : Bool := x.members == 0 || x.level == 0
/-- The strand is a member of a tree: it is no item (R289) and no domain of one. -/
def Slot.inTree (x : Slot) : Bool := x.item.isNone && !x.alone

/-- A done contribution of a member goes to the entry of its own router (R43). -/
def State.sendDone (s : State) (sid : Nat) : State :=
  let x := s.slot sid
  if x.inTree then s.sendFrom sid (dieOf sid) (routerOf sid) (.done x.domid false sid) else s

/-- RETIRE (R291). -/
def execRetire (f : Plain) (s : State) : Out :=
  plainInstr ⟨f.h, [], none⟩ (do
    if (← getMe).anyPending then block .handles
    release
    let s ← get
    let x := s.me
    let sid := s.cur
    let ended := s.endRecord sid x.ctx x.mode x.record
    let s1 := ended.setCore (coreOf sid) ((ended.core (coreOf sid)).releaseAccs sid)
    throw (.done (((s1.endItem sid x.item false).sendDone sid).freeSlot sid))) s

/-- YIELD (R293). -/
def execYield (f : Plain) (s : State) : Out :=
  plainInstr ⟨f.h, [], none⟩ (modMe fun x => { x with sched := { x.sched with yielded := some (0, []) } }) s

/-- The counts of `itemq` (R294). -/
def Starter.count (r : Starter) (sel : Nat) : Nat :=
  match sel with
  | 0 => r.live
  | 1 => r.extent - r.next
  | 2 => r.retired
  | 3 => r.killed
  | 4 => r.extent
  | _ => r.depth

/-- ITEMQ (R294): a strand that is no item writes 0. -/
def execItemq (f : Query) (s : State) : Out :=
  plainInstr ⟨f.h, [], some (.g, f.rd)⟩ (do
    let s ← get
    writeG f.rd (match s.me.item with
      | some it => match s.starter it.home it.index with
        | some r => word (r.count f.sel.toNat)
        | none => 0
      | none => 0)) s

end Sys2Proof.Machine
end

