-- ==== Sys2Proof/Machine/Work.lean ====
section
/-! DEFINITION. `work` and `done` (R338), the dispensers (R339, R340), the delivery of records (R327), the watchdog (R341). -/

namespace Sys2Proof.Machine

/-! ### work and done -/

/-- The dispenser of a strand: 4·die + quadrant. -/
def dispenserOf (sid : Nat) : Nat := sid / 1024 % 16

/-- The strand is WAITING in `work`, behind the strands of its quadrant that wait longer. -/
def State.joinWork (s : State) : State :=
  let d := dispenserOf s.cur
  let x := s.disp d
  waitState .work true (s.setDisp d { x with waiting := x.waiting.filter (· != s.cur) ++ [s.cur] })

def workBody : M Unit := do
  if (← getMe).anyPending then block .handles
  throw (.done (← get).joinWork)

/-- WORK (R338). -/
def execWork (f : Plain) (s : State) : Out := plainInstr ⟨f.h, [], none⟩ workBody s

/-- DONE (R338). -/
def execDone (f : Plain) (s : State) : Out :=
  plainInstr ⟨f.h, [], none⟩ (do
    if (← getMe).anyPending then block .handles
    if (← getMe).record.isSome then
      release
      modify fun s => s.endRecord s.cur s.me.ctx s.me.mode s.me.record
    workBody) s

/-! ### What a dispenser takes (R339) -/

/-- The queues that a dispenser may take from, with their record. -/
def State.servable (s : State) : List (Nat × Queue × RecInfo) :=
  s.units.flatMap fun u => u.2.queues.filterMap fun q =>
    if q.2.enabled && q.2.dispensed then q.2.visible.map fun r => (q.1, q.2, r) else none

/-- The first of the candidates: highest PRIO, then the queue that comes first in the order `rank`. -/
def bestQueue (rank : Nat → Nat → Nat) : List (Nat × Queue × RecInfo) → Option (Nat × Queue × RecInfo)
  | [] => none
  | x :: xs => match bestQueue rank xs with
    | none => some x
    | some y =>
      if y.2.1.prio < x.2.1.prio ∨ (x.2.1.prio = y.2.1.prio ∧ rank x.2.1.prio x.1 < rank y.2.1.prio y.1) then some x else some y

/-- The dispensers that a dispenser steals from, in order (steps 2 and 3 of R339). -/
def stealOrder (d : Nat) : List Nat :=
  let die := d / 4
  let q := d % 4
  ([1, 2, 3].map fun k => 4 * die + (q + k) % 4) ++
    [1, 3, 2].flatMap fun j => [0, 1, 2, 3].map fun k => 4 * ((die + j) % 4) + (q + k) % 4

/-- The queue that the dispenser takes from, and whether it is a home queue. -/
def State.nextRecord (s : State) (d : Nat) : Option (Nat × Queue × RecInfo) :=
  let all := s.servable
  let last (p : Nat) : Nat := ((s.disp d).served.find p).getD 1023
  match bestQueue (fun p q => (q + 1024 - 1 - last p) % 1024) (all.filter fun x => x.2.1.home == d) with
  | some x => some x
  | none => (stealOrder d).findSome? fun h => bestQueue (fun _ q => q) (all.filter fun x => x.2.1.home == h && !x.2.1.nosteal)

/-- The region of its die that a core lies in: that of its cluster; a management core lies in none (R14, R385). -/
def regionOf (core : Nat) : Option Nat := if isManagement core then none else some (core / 16 % 32 / 2)

/-- The core lies in a region that is HOT or over budget (R385). -/
def State.hotCore (s : State) (core : Nat) : Bool :=
  let p := (s.die (core / 512)).power
  (regionOf core).any fun r => p.hot.getLsbD r || p.overBudget.getLsbD r

/-- The strand that a dispenser delivers to (R340): the one that has waited longest, but none on a fenced core, nor (`power`) in a HOT or
over-budget region. -/
def State.receiver (s : State) (d : Nat) (power : Bool) : Option Nat :=
  (s.disp d).waiting.find? fun sid => !(s.core (coreOf sid)).fenced && !(power && s.hotCore (coreOf sid))

/-- A record that only its receivers' regions hold back is withheld from now on (R340). -/
def State.withhold (s : State) (d : Nat) : State :=
  match (s.disp d).held with
  | none => s
  | some t =>
    if t.dest.isNone && t.withheld.isNone && (s.receiver d true).isNone && (s.receiver d false).isSome then
      s.setDisp d { s.disp d with held := some { t with withheld := some s.clock.time } }
    else s

/-- DISPENSER_TAKE (R339): a dispenser with a strand WAITING in `work` takes a record, and holds at most one. A record whose ring cannot be
read stays in its queue (log 74). -/
def State.dispTake (s : State) (d : Nat) : State :=
  let x := s.disp d
  if x.held.isSome || x.waiting.isEmpty || (s.die (d / 4)).absent then s
  else match s.nextRecord d with
    | none => s
    | some (q, y, r) =>
      match s.takeHead q r with
      | .ok r1 s1 =>
        (s1.setDisp d { x with
          held := some ⟨q, r1, s.clock.time, none, none⟩
          served := if y.home = d then x.served.insert y.prio q else x.served }).withhold d
      | .wait s1 => s1
      | .fail _ _ s1 => s1

/-! ### Delivery (R327, R340) -/

/-- DMEM as a write stores it (R34, R35): reserved LEVEL 7 is 0, PHASE is 0. -/
def dmemStored (w : Word) : Word :=
  let w := w &&& 0xFFFF07FFFFFFFFFF
  if natField w 40 3 = 7 then setField w 40 3 0 else w

/-- The tag of a record (R326). -/
def RecInfo.tag (r : RecInfo) (q : Nat) : Word :=
  word (q % 1024 + r.src % 2 ^ 16 * 2 ^ 16 + match r.dep with
    | some k => 2 ^ 32 + k % 8192 * 2 ^ 33
    | none => 0)

/-- The state of a strand that a record is delivered to (R202, R247, R327); the pattern of its last `sync.x` stays agreed (R344). -/
def Slot.receive (x : Slot) (t : Taken) (id now : Nat) : Slot :=
  let bs := t.r.bytes
  let hdr := recHdr bs
  let arg (k : Nat) : Word := dwordAt bs (3 + k)
  let dcdone := numAt bs 20 4
  let status := fixStatus (setField (setField x.ctl.status 8 2 hdr) 10 1 (hdr / 4))
  { x with
    phase := .ready
    pc := dwordAt bs 0
    regs := Regs.none
    windows := []
    ctl := { x.ctl with
      status := status
      fflags := 0
      ix := 0
      nx := 0
      bwphase := 0
      dmem := if t.r.mode = .u then 0 else dmemStored (dwordAt bs 1)
      mbox := #v[arg 0, arg 1, arg 2, arg 3, arg 4, t.r.tag t.queue, word dcdone, t.r.vers] }
    loops := { x.loops with state := 0 }
    rep := ⟨0, .off, []⟩
    streams := Vector.replicate 4 Stream.none
    handles := Vector.replicate 8 .empty
    domain := { (default : Domain) with pattern := x.domain.pattern }
    record := some ⟨id, t.r.tag t.queue, dcdone, t.r.dep, now, 0⟩
    idem := ⟨false, 0, 0, []⟩
    sched := { x.sched with checked := true, owed := .none, beyond := false, vecFetch := false, phase := [], hint := []
                            waited := false, redo := false, was := .none, early := [] } }

/-- The record of a dispenser delivered to a strand: an acquire of package scope, and a wake event of its core (R383). -/
def State.deliver (s : State) (d sid : Nat) (t : Taken) : State :=
  let x := s.disp d
  let s1 := s.setDisp d { x with held := none, waiting := x.waiting.filter (· != sid) }
  let s2 := { s1 with nextOp := s1.nextOp + 1 }.setSlot sid ((s1.slot sid).receive t s1.nextOp s1.clock.time)
  (s2.acquire (coreOf sid)).unpause (coreOf sid)

/-- The record that a dispenser holds goes out to a strand over the control mesh (R16). -/
def State.dispatch (s : State) (d : Nat) (t : Taken) (sid : Nat) : State :=
  (s.setDisp d { s.disp d with held := some { t with dest := some sid, withheld := none } }).sendMesh
    (routerUnit (d / 4) (32 + d % 4)) (d / 4) (32 + d % 4) (dieOf sid) (routerOf sid) (.record d sid)

/-- The record that a dispenser has sent reaches its strand; when the strand has left WAITING in `work`, it is returned (R22), and when its
core has been fenced (R342). -/
def State.recordArrives (s : State) (d sid : Nat) : State :=
  match (s.disp d).held with
  | none => s
  | some t =>
    if (s.disp d).waiting.contains sid && !(s.core (coreOf sid)).fenced then s.deliver d sid t
    else (s.setDisp d { s.disp d with held := some { t with dest := none } }).withhold d

/-- RECORD_DELIVERY (R340): a record that has arrived at its strand is delivered; else one that the dispenser holds goes out. -/
def State.recordDelivery (s : State) (d : Nat) : State :=
  match (s.meshFind fun m => m.body.isRecord d).bind s.meshTake with
  | some (m, s1) => match m.body with
    | .record _ sid => s1.recordArrives d sid
    | _ => s
  | none => match (s.disp d).held with
    | some t =>
      if t.dest.isSome then s
      else match s.receiver d true with
        | some sid => s.dispatch d t sid
        | none => s.withhold d
    | none => s

/-- DISPENSER_TAKE (R339). -/
def execDispenserTake (d : Nat) (s : State) : Out := .next (s.dispTake d)
/-- RECORD_DELIVERY (R327, R340). -/
def execRecordDelivery (d : Nat) (s : State) : Out := .next (s.recordDelivery d)
/-- WITHHOLD_TIMEOUT (R340): a record withheld for 4,000 mc goes to a strand whatever its region. -/
def execWithholdTimeout (d : Nat) (s : State) : Out :=
  .next (match (s.disp d).held with
    | some t => match t.withheld, s.receiver d true, s.receiver d false with
      | some since, none, some sid => if since + 4000 ≤ s.clock.time then s.dispatch d t sid else s
      | _, _, _ => s
    | none => s)

/-! ### The watchdog (R341) -/

/-- The strand, or the starter record, that a watchdog watches: its record, its core, its STRANDID. -/
def State.watched (s : State) (n : Nat) : Option (Record × Nat × Nat) :=
  if n < 65536 then (s.slot n).record.map fun r => (r, coreOf n, n)
  else
    let core := (n - 65536) / 8
    match s.starter core (n % 8) with
    | some x => x.ctx.record.map fun r => (r, core, 8 * core + x.slot)
    | none => none

/-- The time of a stage in µs; 0 when it is disabled. -/
def stageTime (w : Word) (k : Nat) : Nat := natField w (16 * (k - 1)) 16

/-- Stage k of the record is due: its time has passed, and no earlier enabled stage is still to come. -/
def State.stageDue (s : State) (r : Record) (k : Nat) : Bool :=
  let w := (s.queue (natField r.tag 0 10)).wdog
  decide (stageTime w k ≠ 0) && decide (r.stages < k) && decide (r.since + 1000 * stageTime w k ≤ s.clock.time) &&
    ((List.range k).all fun j => decide (j ≤ r.stages) || decide (stageTime w j = 0))

/-- A stage noted in the record, wherever it is held. -/
def Slot.noteStage (x : Slot) (id k : Nat) : Slot :=
  { x with record := x.record.map fun r => if r.id = id then { r with stages := k } else r }
def State.noteStage (s : State) (id k : Nat) : State :=
  { s with
    slots := s.slots.map fun x => (x.1, x.2.noteStage id k)
    cores := s.cores.map fun c => (c.1, { c.2 with starters := c.2.starters.map fun r => (r.1, { r.2 with ctx := r.2.ctx.noteStage id k }) }) }

/-- The message of a stage: KIND 4 from the task unit, to OWNER, or to slot 0 of the die's management core. -/
def State.wdogMessage (s : State) (r : Record) (sid k cause : Nat) : State :=
  let q := natField r.tag 0 10
  let u := q / 128
  let owner := (s.queue q).owner
  s.sendMsg (u / 2) (38 + u % 2) (if sidExists owner then owner else mgmtSid (dieOf sid)) 4
    (word (sid + q * 2 ^ 16 + k * 2 ^ 26 + cause * 2 ^ 32))

/-- A stage that is due acts. -/
def State.stage (s : State) (n k cause : Nat) (act : State → Nat → State) : State :=
  match s.watched n with
  | none => s
  | some (r, core, sid) =>
    if s.stageDue r k then act ((s.noteStage r.id k).wdogMessage r sid k cause) core else s

/-- Stage 1 halts the strand, or the items of the starter (R296); one that is SUSPENDED already stays so (R370). -/
def State.wdogHalt (n : Nat) (s : State) (core : Nat) : State :=
  if 65536 ≤ n then s.haltStarter core (n % 8)
  else s.askHalt n

/-- WATCHDOG_PREEMPT (R341). -/
def execWatchdogPreempt (n : Nat) (s : State) : Out := .next (s.stage n 1 0x60 (State.wdogHalt n))
/-- WATCHDOG_KILL (R341). -/
def execWatchdogKill (n : Nat) (s : State) : Out :=
  .next (s.stage n 2 0x61 fun t core => if 65536 ≤ n then t.killStarter core (n % 8) else t.killSlot n)
/-- WATCHDOG_FENCE (R341): the core is fenced if the slot is still not FREE. -/
def execWatchdogFence (n : Nat) (s : State) : Out :=
  .next (match s.watched n with
    | none => s
    | some (_, _, sid) => s.stage n 3 0x61 fun t core =>
      if (t.slot sid).phase = .free then t else t.setCore core { t.core core with fenced := true })

end Sys2Proof.Machine
end

