-- ==== Sys2Proof/Machine/Domain.lean ====
section
/-! DEFINITION. Domains (R33 to R46, R240, R241, R289, R345): the domain forms, the combining tree with its messages, messages on the
control mesh (R17, R160), and the operations of MTCMD (R168). -/

namespace Sys2Proof.Machine

/-! ### Combining entries -/

def TreeEntry.isRoot (e : TreeEntry) : Bool := e.parent == 0xFFFF

/-- The entry of a domain at a router: its key 16·router + index. -/
def State.entryOf (s : State) (die router domid : Nat) : Option (Nat × TreeEntry) :=
  (s.die die).tree.find? fun x => x.1 / 16 == router && x.2.domid == domid
def State.setEntry (s : State) (die key : Nat) (e : TreeEntry) : State := s.setDie die { s.die die with tree := (s.die die).tree.insert key e }

/-- Every member at and below the entry has retired. -/
def TreeEntry.gone (e : TreeEntry) : Bool := decide (e.loc ≤ e.retired) && decide (e.child ≤ e.doneChildren)
/-- The contributions of its current epoch. -/
def TreeEntry.now (e : TreeEntry) : List Contrib := e.got.filter fun c => c.epoch == e.epoch
/-- The entry combines its current epoch (R41, R43). -/
def TreeEntry.complete (e : TreeEntry) : Bool :=
  !e.now.isEmpty && decide (e.loc ≤ e.retired + e.now.countP fun c => !c.child) && decide (e.child ≤ e.doneChildren + e.now.countP fun c => c.child)

/-- A child entry of another package has told the entry of itself: the results go down to it too. -/
def TreeEntry.knows (e : TreeEntry) (place : Nat) : TreeEntry :=
  if isForeign place then { e with foreign := setInsert e.foreign place } else e

def TreeEntry.data (e : TreeEntry) : TreeData :=
  ⟨word (e.domid % 2 ^ 16 * 2 ^ 48 + e.epoch % 2 ^ 16 * 2 ^ 32 + e.parent % 2 ^ 16 * 2 ^ 16 + e.owner % 2 ^ 16),
    word (e.loc % 128 * 2 ^ 16 + e.child % 16 * 2 ^ 8 + e.retired % 128), e.last⟩
/-- The entry that a write leaves: LOCAL is 72 at most and CHILD 8 (R168); it holds no contribution (R39). -/
def TreeData.entry (d : TreeData) : TreeEntry :=
  ⟨natField d.d0 48 16, natField d.d0 32 16, natField d.d0 16 16, Nat.min 72 (natField d.d1 16 7), Nat.min 8 (natField d.d1 8 4),
    natField d.d1 0 7, natField d.d0 0 16, d.d2, 0, [], [], []⟩

/-- The answer to an operation of MTCMD leaves a router for the strand that started it. -/
def State.answerOp (s : State) (die router sid n : Nat) (d : Option TreeData) : State :=
  if sid < 65536 then s.sendMesh (routerUnit die router) die router (dieOf sid) (routerOf sid) (.mtReply sid n d)
  else s.sendPlace (routerUnit die router) die router (sid / 65536 - 1) (.mtReply (sid % 65536) n d)

/-- The writes that have waited for an entry's combined word take effect, in the order they came (R168). -/
def State.applyWrites (s : State) (die key : Nat) (ws : List (Nat × Nat × TreeData)) : State :=
  ws.foldl (fun t w => (t.setEntry die key w.2.2.entry).answerOp die (key / 16) w.1 w.2.1 none) s

/-! ### Contributions (R40, R42) -/

def TreeOp.apply (op : TreeOp) (a b : Word) : Word :=
  match op with
  | .and => a &&& b
  | .or => a ||| b
  | .add => a + b
  | .max => if a.ult b then b else a

/-- Two count vectors added word by word. -/
def addCounts (a b : NMap Nat) : NMap Nat := b.foldl (fun m x => m.insert x.1 (((m.find x.1).getD 0 + x.2) % 2 ^ 64)) a

/-- Two contributions combined; of different kinds or operations they are not (R42). -/
def Contrib.merge (a b : Contrib) : Contrib :=
  { a with
    w := a.op.apply a.w b.w
    w2 := a.w2 ||| b.w2
    vec := addCounts a.vec b.vec
    bad := a.bad || b.bad || decide (a.kind ≠ b.kind) || decide (a.op ≠ b.op) }

def Contrib.mergeAll : List Contrib → Option Contrib
  | [] => none
  | c :: cs => some (cs.foldl Contrib.merge c)

/-! ### Results -/

/-- The strand is attached to the router. -/
def atRouter (sid die router : Nat) : Bool := dieOf sid == die && routerOf sid == router

/-- The result reaches a member that has contributed to the epoch (R41). -/
def Slot.hear (x : Slot) (domid epoch : Nat) (w : Word) (fault : Bool) (tval : Word) : Slot :=
  match x.domain.sent with
  | some (e, _) =>
    if e = epoch ∧ x.domid = domid ∧ x.inTree then { x with domain := { x.domain with result := some (w, fault, tval) } } else x
  | .none => x

/-- The inbox of a cluster that holds members adds its word of the vector to EXPECT (R345). -/
def State.expectMore (s : State) (cl n : Nat) : State :=
  if n = 0 then s else s.setCluster cl { s.cluster cl with inbox := { (s.cluster cl).inbox with expect := (s.cluster cl).inbox.expect + n } }

/-- The words of a combined vector whose clusters hold no member are added to no EXPECT (R345). -/
def State.missWords (s : State) (die : Nat) (vec : NMap Nat) (member : Nat → Bool) : State :=
  (vec.filter fun x => x.2 != 0 && decide (x.1 < 32) && !member x.1).foldl (fun (t : State) x =>
    let cl := die * 32 + x.1
    t.setCluster cl { t.cluster cl with inbox := { (t.cluster cl).inbox with missed := true } }) s

/-- The places of the child entries of a domain's entry at a router. -/
def State.kidsOf (s : State) (die router domid : Nat) (e : TreeEntry) : List Nat :=
  (s.dies.flatMap fun (d : Nat × Die) => (d.2.tree.filter fun x =>
    x.2.domid == domid && x.2.parent == placeNo die router && !x.2.isRoot).map fun x => placeNo d.1 (x.1 / 16)) ++ e.foreign

/-- The result of an epoch at a router: the entry goes on to the next epoch and keeps the word; its members hear it; it goes on
down the tree (R41). An epoch that ends in EXCHANGE_PATTERN completes no result word, and LAST stays as it was (DESIGN CHOICE, log 76). -/
def State.applyResult (s : State) (die router domid epoch : Nat) (w : Word) (fault : Bool) (tval : Word) (vec : NMap Nat) : State :=
  match s.entryOf die router domid with
  | none => s
  | some (key, e) =>
    if e.epoch ≠ epoch then s
    else
      let s1 : State := s.setEntry die key { e with
        epoch := (epoch + 1) % 2 ^ 16
        last := if fault then e.last else w
        got := e.got.filter fun c => c.epoch != epoch }
      let s2 : State := { s1 with slots := s1.slots.map fun x => if atRouter x.1 die router then (x.1, x.2.hear domid epoch w fault tval) else x }
      let s3 : State := if router < 32 ∧ e.loc ≠ 0 ∧ fault = false then s2.expectMore (die * 32 + router) ((vec.find router).getD 0) else s2
      (s3.kidsOf die router domid e).foldl (fun t k => t.sendPlace (routerUnit die router) die router k (.result domid epoch w fault tval vec)) s3

/-- The root delivers the result of an epoch, or EXCHANGE_PATTERN (R41, R42). -/
def State.rootDone (s : State) (die router : Nat) (e : TreeEntry) (c : Contrib) : State :=
  if c.bad then s.applyResult die router e.domid e.epoch 0 true 0 []
  else if c.kind = .syncX ∧ c.w ≠ c.w2 then s.applyResult die router e.domid e.epoch 0 true (c.w ^^^ c.w2) []
  else
    let member (b : Nat) : Bool := (s.entryOf die b e.domid).any fun x => x.2.loc != 0
    (s.missWords die c.vec member).applyResult die router e.domid e.epoch c.w false 0 c.vec

/-- An entry that holds what its epoch needs combines: at the root the epoch ends, else one word goes to the parent; then the writes that
waited for it take effect. -/
def State.tryCombine (s : State) (die key : Nat) : State :=
  match (s.die die).tree.find key with
  | none => s
  | some e =>
    if e.complete then
      match Contrib.mergeAll e.now with
      | none => s
      | some c =>
        let router := key / 16
        let e1 := { e with got := e.got.filter fun x => x.epoch != e.epoch, writes := [] }
        let s1 := s.setEntry die key e1
        let s2 := if e.isRoot then s1.rootDone die router e1 c
          else s1.sendPlace (routerUnit die router) die router e.parent (.contrib { c with child := true, src := placeNo die router })
        s2.applyWrites die key e.writes
    else s

/-- A contribution arrives at the entry of its domain (R41); without one it is lost (R39). -/
def State.treeArrive (s : State) (die router : Nat) (c : Contrib) : State :=
  match s.entryOf die router c.domid with
  | none => s
  | some (key, e) =>
    let e1 := if c.child then e.knows c.src else e
    (s.setEntry die key { e1 with got := e1.got ++ [c] }).tryCombine die key

/-- A done contribution arrives (R43): the member counts as an identity from then on; when all have retired, the entry tells its
parent, and the root the OWNER. -/
def State.doneArrive (s : State) (die router domid : Nat) (child : Bool) (src : Nat) : State :=
  match s.entryOf die router domid with
  | none => s
  | some (key, e) =>
    let e1 := if child then { e.knows src with doneChildren := e.doneChildren + 1 } else { e with retired := Nat.min 127 (e.retired + 1) }
    let s1 := (s.setEntry die key e1).tryCombine die key
    if e1.gone && !e.gone then
      if e1.isRoot then
        s1.sendMsg die router e1.owner 2 (word (domid + ((s1.die die).tree.find key |>.getD e1).epoch * 2 ^ 16))
      else s1.sendPlace (routerUnit die router) die router e1.parent (.done domid true (placeNo die router))
    else s1

/-! ### MTCMD (R168) -/

/-- MTCMD as a write stores it, with ERR. -/
def mtStored (v : Word) (err : Bool) : Word := if err then bitOn (v &&& 0xFFFF000F00000003) 2 else v &&& 0xFFFF000F00000003

/-- The operation of a write to MTCMD leaves the strand for the named router, and the strand is BLOCKED until it is answered. -/
def State.startOp (s : State) (v : Word) : State :=
  let place := natField v 48 16
  let p := s.me.ports
  let name := if isForeign place then 65536 * (1 + placeNo (dieOf s.cur) (routerOf s.cur)) + s.cur else s.cur
  let s1 := { s with nextOp := s.nextOp + 1 }.sendPlace (coreOf s.cur) (dieOf s.cur) (routerOf s.cur) place
    (.mtOp (natField v 0 2) (natField v 32 4) name s.nextOp ⟨p.mtd0, p.mtd1, p.mtd2⟩)
  waitState (.reply s.nextOp) false s1

/-- A write to MTCMD (R168): with OPC 0 it only stores; routers 48 to 63 complete with ERR; else the operation goes out, and the write
completes with its answer. -/
def mtCommand (v : Word) : M Unit := do
  let s ← get
  let put (err : Bool) : M Unit := modMe fun x => { x with
    ports := { x.ports with mtcmd := mtStored v err }
    sched := { x.sched with reply := .none } }
  if natField v 0 2 = 0 then put (s.me.ports.mtcmd.getLsbD 2)
  else if 48 ≤ natField v 48 6 then put true
  else if s.me.sched.reply.isSome then put false
  else throw (.done (s.startOp v))

/-- An operation of MTCMD at its router. A write that reaches an entry while an epoch of it combines waits there for the combined word: from
the first contribution that the entry holds until the word is sent (DESIGN CHOICE, log 91). A clear takes the writes that wait with it (DESIGN
CHOICE, log 78). A read of an index that holds no entry gives zeros (DESIGN CHOICE, log 91). -/
def State.treeOp (s : State) (die router opc idx sid n : Nat) (d : TreeData) : State :=
  let key := 16 * router + idx % 16
  let old := (s.die die).tree.find key
  match opc with
  | 1 => s.answerOp die router sid n (some (match old with
    | some e => e.data
    | none => ⟨0, 0, 0⟩))
  | 2 => match old with
    | some e => if e.got.isEmpty then s.applyWrites die key [(sid, n, d)] else s.setEntry die key { e with writes := e.writes ++ [(sid, n, d)] }
    | none => s.applyWrites die key [(sid, n, d)]
  | _ =>
    let s1 := s.setDie die { s.die die with tree := (s.die die).tree.erase key }
    let waiting := match old with
      | some e => e.writes
      | none => []
    waiting.foldl (fun t w => t.answerOp die router w.1 w.2.1 none) (s1.answerOp die router sid n none)

/-- The slot waits for the answer to the numbered message. -/
def Slot.awaits (x : Slot) (n : Nat) : Bool :=
  match x.phase with
  | .blocked (.reply k) => k == n
  | .blocked (.finishing (.reply k)) => k == n
  | _ => false
/-- The answer reaches the strand that waits for it: a read leaves the entry in MTDATA0 to MTDATA2 (R168). -/
def Slot.answered (x : Slot) (n : Nat) (v : Word) (d : Option TreeData) : Slot :=
  if x.awaits n then { x with
    ports := match d with
      | .some e => { x.ports with mtd0 := e.d0, mtd1 := e.d1, mtd2 := e.d2 }
      | .none => x.ports
    sched := { x.sched with reply := some v } }
  else x

/-- The message at a place of the mesh is taken when it is an operation of the given code, or an answer to one. -/
def State.mtMove (s : State) (i opc : Nat) : State :=
  match s.meshTake i with
  | some (m, s1) => match m.body with
    | .mtOp o idx sid n d => if o = opc then s1.treeOp m.die m.router o idx sid n d else s
    | .mtReply sid n d => if d.isSome = decide (opc = 1) then s1.modSlot sid fun x => x.answered n 0 d else s
    | _ => s
  | none => s

/-- MTCMD_READ (R168): the operation reaches its router, or its answer the strand. -/
def execMtcmdRead (i : Nat) (s : State) : Out := .next (s.mtMove i 1)
/-- MTCMD_WRITE (R168). -/
def execMtcmdWrite (i : Nat) (s : State) : Out := .next (s.mtMove i 2)
/-- MTCMD_CLEAR (R168). -/
def execMtcmdClear (i : Nat) (s : State) : Out := .next (s.mtMove i 3)

/-! ### Messages on the mesh (R17, R160, R161) -/

/-- MESH_MESSAGE_FORWARD (R17): a message moves on by one hop; one of time distribution ends at its router. -/
def State.meshForward (s : State) (i : Nat) : State :=
  match s.mesh[i]? with
  | none => s
  | some m =>
    if m.arrived then (if m.body = .time then { s with mesh := s.mesh.eraseIdx i } else s)
    else if !s.mayMove i m || !s.linkFree m then s
    else
      let (d, r) := nextHop m.die m.router m.ddie m.drouter
      { s with mesh := setAt s.mesh i { m with die := d, router := r } }

/-- The message is for the strand: an interrupt or inter-strand message, or the answer to its `ipi`. -/
def MeshBody.forStrand (sid : Nat) : MeshBody → Bool
  | .msg k _ => k == sid
  | .ipi k _ _ _ => k == sid
  | .ipiReply k _ _ => k == sid
  | _ => false

/-- A message enters the queue of a slot: a wake event of its core (R383). -/
def State.queueMsg (s : State) (sid : Nat) (m : Msg) : State := (s.modSlot sid fun x => { x with msgs := x.msgs ++ [m] }).unpause (coreOf sid)

/-- The message of an `ipi` reaches its target (R161): the status, and the state with the message queued. -/
def State.ipiArrives (s : State) (sid src : Nat) (payload : Word) : Nat × State :=
  let x := s.slot sid
  if x.phase = .free then (2, s)
  else if Config.messageQueue ≤ x.msgs.length then (1, s)
  else (0, s.queueMsg sid ⟨0, src, payload⟩)

/-- The message can reach the strand: at a full queue those of hardware units are held, and no other waits behind them (R160, R161). -/
def State.canArrive (s : State) (sid : Nat) (b : MeshBody) : Bool :=
  b.forStrand sid && match b with
    | .msg .. => decide ((s.slot sid).phase = .free) || decide ((s.slot sid).msgs.length < Config.messageQueue)
    | _ => true

/-- MESSAGE_ARRIVAL (R160, R161): a message that has come for the strand enters its queue; at a full queue one of a hardware unit is held, and
an `ipi` is answered with its status. For a FREE slot a unit's message is discarded (log 36). -/
def State.messageArrive (s : State) (sid : Nat) : State :=
  match (s.meshFind fun m => s.canArrive sid m.body).bind s.meshTake with
  | some (m, s1) => match m.body with
    | .msg _ x => if (s.slot sid).phase = .free then s1 else s1.queueMsg sid x
    | .ipi _ src n payload =>
      let r := s1.ipiArrives sid src payload
      r.2.sendFrom sid (dieOf src) (routerOf src) (.ipiReply src n r.1)
    | .ipiReply _ n code => s1.modSlot sid fun x => x.answered n (word code) none
    | _ => s
  | none => s

/-- A message of another package enters the mesh at an OL router: of a combining tree from or to an entry there, of an operation of MTCMD
started there, or the answer to one started here (R38, R41, R43, R168, R380). What other packages send is free (log 78). -/
def State.fabricIn (s : State) (die router ddie drouter : Nat) (b : MeshBody) : State :=
  if router < 41 ∨ 44 < router ∨ 4 ≤ die ∨ 4 ≤ ddie ∨ 48 ≤ drouter then s
  else
    let enter (x : MeshBody) : State := s.sendMesh (routerUnit die router) die router ddie drouter x
    match b with
    | .contrib c => if c.src < 65536 ∧ isForeign c.src then enter (.contrib { c with child := true }) else s
    | .done domid _ src => if src < 65536 ∧ isForeign src then enter (.done domid true src) else s
    | .result domid epoch w fault tval vec => match s.entryOf ddie drouter domid with
      | some (_, e) => if !e.isRoot && isForeign e.parent then enter (.result domid epoch w fault tval vec) else s
      | none => s
    | .mtOp opc idx sid n d => if 65536 ≤ sid ∧ isForeign (sid / 65536 - 1) then enter (.mtOp opc idx sid n d) else s
    | .mtReply sid n d =>
      let asks (x : Nat × MeshBody) : Bool := match x.2 with
        | .mtOp opc _ k j _ => k == 65536 * (1 + placeNo (dieOf sid) (routerOf sid)) + sid && j == n && d.isSome == (opc == 1)
        | _ => false
      if s.fabric.any asks then
        { s with fabric := s.fabric.filter fun x => !asks x }.sendMesh (routerUnit die router) die router (dieOf sid) (routerOf sid) (.mtReply sid n d)
      else s
    | _ => s

/-- TREE_CONTRIBUTION (R41). -/
def execTreeContribution (i : Nat) (s : State) : Out :=
  .next (match s.meshTake i with
    | some (m, s1) => match m.body with
      | .contrib c => s1.treeArrive m.die m.router c
      | _ => s
    | none => s)
/-- SYNC_RESULT_DELIVERY (R41). -/
def execSyncResultDelivery (i : Nat) (s : State) : Out :=
  .next (match s.meshTake i with
    | some (m, s1) => match m.body with
      | .result domid epoch w fault tval vec => s1.applyResult m.die m.router domid epoch w fault tval vec
      | _ => s
    | none => s)
/-- DONE_ARRIVAL (R43): of a member or a child at its entry, or of an item at the home core of its starter (R291). -/
def execDoneArrival (i : Nat) (s : State) : Out :=
  .next (match s.meshTake i with
    | some (m, s1) => match m.body with
      | .done domid child src => s1.doneArrive m.die m.router domid child src
      | .itemDone .. => s1
      | _ => s
    | none => s)
/-- MESH_MESSAGE_FORWARD (R17). -/
def execMeshMessageForward (i : Nat) (s : State) : Out := .next (s.meshForward i)
/-- MESSAGE_ARRIVAL (R160). -/
def execMessageArrival (sid : Nat) (s : State) : Out := .next (s.messageArrive sid)

/-! ### The domain forms (R240, R241) -/

/-- The fence of a level: 0 core, 1 cluster and die, 2 package and system (R241). -/
def fenceLevel (level : Nat) : Nat := if level < 2 then 0 else if level < 5 then 1 else 2

/-- An `xsend` of the strand is in a copy queue (R345). -/
def State.sending (s : State) : Bool :=
  s.cores.any fun (k : Nat × Core) => k.2.copyq.any fun c => c.ctx == s.me.ctx && match c.kind with
    | .xsend .. => true
    | _ => false

/-- The place of the root that DMEM names, in the layout of PARENT (R34). -/
def Slot.rootPlace (x : Slot) : Nat := natField x.ctl.dmem 56 8 * 256 + natField x.ctl.dmem 54 2 * 64 + natField x.ctl.dmem 48 6
/-- The domain's entry at a place of this package. -/
def State.entryAt (s : State) (place domid : Nat) : Option TreeEntry :=
  if isForeign place then none else (s.entryOf (place / 64 % 4) (place % 64) domid).map (·.2)

/-- The entry that tells a member of its epochs (R45): at its own router; where it has moved to a router without one, the root that DMEM
names, or, with a root in another package, the entry that its contribution entered at. -/
def State.memberEntry (s : State) (sid : Nat) : Option TreeEntry :=
  let x := s.slot sid
  match s.entryOf (dieOf sid) (routerOf sid) x.domid with
  | some (_, e) => some e
  | none => s.entryAt (if isForeign x.rootPlace then x.domain.entered else x.rootPlace) x.domid

/-- The result that a member may take: what the broadcast brought, or LAST when the entry has passed its epoch (R45). A member WAITING when its
tree is laid anew takes the LAST written into the entry when the written EPOCH is not its own, and else stays WAITING, its contribution lost
with the old entry (DESIGN CHOICE, log 77). -/
def State.heard (s : State) (sid : Nat) : Option (Word × Bool × Word) :=
  let x := s.slot sid
  match x.domain.result, x.domain.sent with
  | some r, _ => some r
  | .none, some (e, _) => match s.memberEntry sid with
    | some t => if t.epoch ≠ e then some (t.last, false, 0) else none
    | none => none
  | .none, .none => none

/-- The contribution enters the mesh, and the strand is WAITING (R40, R45). -/
def State.contribute (s : State) (kind : TreeKind) (op : TreeOp) (w : Word) (vec : NMap Nat) : State :=
  let x := s.me
  let d := dieOf s.cur
  let r := routerOf s.cur
  let epoch := match s.entryOf d r x.domid with
    | some (_, e) => e.epoch
    | none => 0
  let s1 := s.sendFrom s.cur d r (.contrib ⟨x.domid, epoch, kind, op, w, w, vec, false, false, s.cur⟩)
  let code := match kind with
    | .sync => 0
    | .syncX => 1
    | .vote => 2
  waitState .sync true (s1.setMe { s1.me with domain := { s1.me.domain with sent := some (epoch, code), entered := placeNo d r } })

/-- The packets counted for the set bits of the agreed pattern (R345). -/
def Slot.countVector (x : Slot) : NMap Nat :=
  if x.exchange then x.domain.counts.filter fun c => x.domain.pattern.getLsbD c.1 else []

/-- An epoch ends for the strand: what it told the domain is done with. -/
def Domain.settled (d : Domain) : Domain := { d with sent := none, result := none }
/-- PHASE inverted (R35); the counts of a phase end with it. -/
def Slot.turnPhase (x : Slot) : Slot :=
  { x with
    ctl := { x.ctl with dmem := x.ctl.dmem ^^^ BitVec.twoPow 64 44 }
    domain := { x.domain with counts := [] } }

/-- The result of a form, or the wait for it: a domain of one and an item take their own contribution (R34, R289). -/
def domainResult (kind : TreeKind) (op : TreeOp) (w : Word) (before : M Unit) : M Word := do
  let x ← getMe
  if !x.inTree then
    before
    return w
  match (← get).heard (← get).cur with
  | some (v, false, _) =>
    modMe fun y => { y with domain := y.domain.settled }
    return v
  | some (_, true, tv) =>
    let s ← get
    throw (.done (takeTrap { cause := cPattern, tval := tv } (s.setMe { s.me with domain := s.me.domain.settled })))
  | none =>
    if x.domain.sent.isSome then pause .sync
    before
    let s ← get
    throw (.done (s.contribute kind op w (if kind = .sync then s.me.countVector else [])))

/-- The fence before a synchronisation (R241), a release at every level (R216, R259), and the end of the `xsend` commands at the end of an
EXCHANGE phase (R345). -/
def beforeSync (x : Slot) (sync : Bool) : M Unit := do
  if sync && x.exchange && (← get).sending then block .copyQueue
  fenceBody (Nat.max 1 (fenceLevel x.level))
/-- The acquire after it (R259). -/
def afterSync : M Unit := do
  acquire
  discardAhead

/-- SYNC (R240). -/
def execSync (f : Plain) (s : State) : Out :=
  plainInstr ⟨f.h, [], none⟩ (do
    let x ← getMe
    let _ ← domainResult .sync .and (BitVec.allOnes 64) (beforeSync x true)
    afterSync
    if !x.inTree then
      let y ← getMe
      let b := clusterOf (← get).cur
      modify fun s => (s.expectMore b ((y.countVector.find (b % 32)).getD 0)).missWords (dieOf s.cur) y.countVector fun k => k == b % 32
    modMe Slot.turnPhase) s

/-- SYNC_X (R240). -/
def execSyncX (f : Un) (s : State) : Out :=
  plainInstr (unShape f) (do
    let a ← readG 1 f.a
    let x ← getMe
    let v ← domainResult .syncX .and a (beforeSync x false)
    afterSync
    writeG f.rd v
    modMe fun y => { y.turnPhase with domain := { y.turnPhase.domain with pattern := v } }) s

/-- A vote (R240): it fences nothing. That of an item inverts its own PHASE (R289). -/
def voteForm (op : TreeOp) (f : Un) (s : State) : Out :=
  plainInstr (unShape f) (do
    let a ← readG 1 f.a
    writeG f.rd (← domainResult .vote op a (return ()))
    if (← getMe).item.isSome then modMe Slot.turnPhase) s
/-- VOTE_AND (R240). -/
def execVoteAnd (f : Un) (s : State) : Out := voteForm .and f s
/-- VOTE_OR (R240). -/
def execVoteOr (f : Un) (s : State) : Out := voteForm .or f s
/-- VOTE_ADD (R240). -/
def execVoteAdd (f : Un) (s : State) : Out := voteForm .add f s
/-- VOTE_MAX (R240). -/
def execVoteMax (f : Un) (s : State) : Out := voteForm .max f s

/-! ### Words of an engine (R268) -/

/-- ENGINE_WORD_WRITE (R268): the next step of an engine's running command on a word. -/
def execEngineWordWrite (core : Nat) (e : Engine) (k : Nat) (s : State) : Out :=
  .next (match e with
    | .copy => s.copyStep core k
    | .tile => s.tileWrite core k
    | .dge => s.dgeStep core (k % 4) (k / 4))

end Sys2Proof.Machine
end

