-- ==== Sys2Proof/Machine/Swap.lean ====
section
/-! DEFINITION. The swap engine (R361 to R363): SWCMD.GO, the checks, SB in both leaf entries, the exchange of the frames. -/

namespace Sys2Proof.Machine

/-- SWCMD of a slot once an exchange has ended (R361). -/
def State.swapEnd (s : State) (sid status : Nat) : State :=
  s.setSlot sid { s.slot sid with ports := { (s.slot sid).ports with swcmd := word (status * 16) } }

/-- The die and the memory side that hold a near frame. -/
def frameDie (pa : Nat) : Nat := pa / 2 ^ 37 % 4
def frameSide (pa : Nat) : Nat := pa / 2 ^ 36 % 2

/-- A write of GO from the issuing slot (R361): ignored while BUSY. The exchange runs where the near frame lies. -/
def State.swapGo (s : State) : State :=
  let x := s.me
  if x.ports.swcmd.getLsbD 3 then s
  else
    let a := x.ctl.swptea.toNat
    let b := x.ctl.swpteb.toNat
    let n := pteFrame (s.read8 a)
    let d := frameDie n
    let s1 := s.setMe { x with ports := { x.ports with swcmd := bitOn x.ports.swcmd 3 } }
    s1.setDie d { s1.die d with swaps := (s1.die d).swaps ++ [⟨s.cur, a, b, frameSide n, false⟩] }

/-- A 64 KiB leaf (R362): V, SIZE 1, no required-zero bit, and the tier with a frame that fits it (R352). -/
def swapLeaf (far : Bool) (pa : Nat) (e : Word) : Bool :=
  decide (pa < 2 ^ 39) && e.getLsbD 0 && pteSize e == 1 && !pteReservedBad e && e.getLsbD 9 == far &&
    (if far then decide (2 ^ 40 ≤ pteFrame e) else decide (pteFrame e < 2 ^ 39))

/-- The checks of step 1 (R361, R362): the status of the first that fails. The owner of a far page is taken to be the die whose
memory holds its leaf entry (PRESUMED, log 46). -/
def State.swapFault (s : State) (w : Swap) : Option Nat :=
  let a := s.read8 w.pa
  let b := s.read8 w.pb
  if !swapLeaf false w.pa a then some 1
  else if !swapLeaf true w.pb b then some 2
  else if a.getLsbD 10 || b.getLsbD 10 then some 3
  else if frameDie (pteFrame a) ≠ frameDie w.pb then some 5
  else none

def State.putSwaps (s : State) (d : Nat) (ws : List Swap) : State := s.setDie d { s.die d with swaps := ws }
/-- The leaf entry at a physical address. -/
def State.writeLeaf (s : State) (pa : Nat) (e : Word) : State := s.writePhys pa (toBytes 8 e.toNat)

/-- Every TLB entry of the package with one of two leaf addresses removed. -/
def State.dropLeaves (s : State) (pa pb : Nat) : State :=
  { s with dies := s.dies.map fun (x : Nat × Die) => (x.1, { x.2 with tlb := x.2.tlb.filter fun t => t.leafPa != pa && t.leafPa != pb }) }

/-- Steps 1 and 2 of an exchange, once no earlier one of its side is left. -/
def State.swapBegin (s : State) (d k : Nat) : State :=
  let ws := (s.die d).swaps
  match ws[k]? with
  | none => s
  | some w =>
    if w.begun || (ws.take k).any (fun v => v.side == w.side) then s
    else match s.swapFault w with
      | some status => (s.putSwaps d (ws.eraseIdx k)).swapEnd w.sid status
      | none =>
        let s1 := (s.writeLeaf w.pa (bitOn (s.read8 w.pa) 10)).writeLeaf w.pb (bitOn (s.read8 w.pb) 10)
        (s1.dropLeaves w.pa w.pb).putSwaps d (setAt ws k { w with begun := true })

/-- A buffered store translated before step 2 is still to be performed in the frame (step 3). -/
def State.frameBusy (s : State) (frame : Nat) : Bool :=
  s.cores.any fun (x : Nat × Core) => x.2.sb.any fun e => match e.pas with
    | some pas => pas.any fun pa => pa / 2 ^ 16 == frame / 2 ^ 16
    | none => false

/-- The data-cache lines of two frames stay valid, and stand for the frames that hold their pages now. -/
def DcLine.moved (x : DcLine) (n f : Nat) : DcLine :=
  if x.pa / 2 ^ 16 = n / 2 ^ 16 then { x with pa := f / 2 ^ 16 * 2 ^ 16 + x.pa % 2 ^ 16 }
  else if x.pa / 2 ^ 16 = f / 2 ^ 16 then { x with pa := n / 2 ^ 16 * 2 ^ 16 + x.pa % 2 ^ 16 }
  else x
def State.moveLines (s : State) (n f : Nat) : State :=
  { s with cores := s.cores.map fun (x : Nat × Core) => (x.1, { x.2 with dcache := x.2.dcache.map fun l => l.moved n f }) }

/-- The contents of two frames exchanged, poisoned words with them. -/
def State.exchangeFrames (s : State) (n f : Nat) : State :=
  let a := s.mem.readN n 65536
  let b := s.mem.readN f 65536
  let move (w : Nat) : Nat :=
    if w / 8192 = n / 65536 then f / 8 + w % 8192 else if w / 8192 = f / 65536 then n / 8 + w % 8192 else w
  { s with
    mem := (s.mem.writeN n b).writeN f a
    hbmPoison := (s.hbmPoison.map move).foldl setInsert [] }

/-- SWAP_EXCHANGE_COMPLETE (R362): steps 3 to 5, or the restoration after a far access that failed. -/
def State.swapFinish (s : State) (d k : Nat) (farOk : Bool) : State :=
  let ws := (s.die d).swaps
  match ws[k]? with
  | none => s
  | some w =>
    let n := pteFrame (s.read8 w.pa)
    let f := pteFrame (s.read8 w.pb)
    if !w.begun || s.frameBusy n then s
    else
      let gone := s.putSwaps d (ws.eraseIdx k)
      if farOk then
        let s1 := (gone.moveLines n f).exchangeFrames n f
        let a := setField (bitOn (bitOff (s1.read8 w.pa) 10) 9) 16 32 (f / 2 ^ 16)
        let b := setField (bitOff (bitOff (s1.read8 w.pb) 10) 9) 16 32 (n / 2 ^ 16)
        ((s1.writeLeaf w.pa a).writeLeaf w.pb b).swapEnd w.sid 0
      else
        ((gone.writeLeaf w.pa (bitOff (s.read8 w.pa) 10)).writeLeaf w.pb (bitOff (s.read8 w.pb) 10)).swapEnd w.sid 4

/-- SWAP_GO (R361): the write of GO. -/
def execSwapGo (s : State) : Out := .next s.swapGo
/-- SWAP_EXCHANGE_COMPLETE (R362). -/
def execSwapExchangeComplete (die k : Nat) (farOk : Bool) (s : State) : Out := .next (s.swapFinish die k farOk)

end Sys2Proof.Machine
end

