-- ==== Sys2Proof/Machine/Sysreg.lean ====
section
/-! DEFINITION. System registers (R149 to R152, R158, R160, R168, R192, R226, R228, R325, R356 to R361, R384, R388): who may access them, what a
read gives, what a write stores and does; `mfs`, `mts`, `mtsb`, `mtsc`, and the rows that are effects of one register. -/

namespace Sys2Proof.Machine

/-! ### Views (R149) -/

def Mode.covers (mode view : Mode) : Bool := decide (view.code ≤ mode.code)
/-- The lowest mode that reads a register. -/
def sysReadView (n : Nat) : Mode :=
  if 0x102 ≤ n then .m else if (n < 0x040 ∧ ¬(2 ≤ n ∧ n ≤ 7)) ∨ n = 0x047 then .u else .s
/-- The lowest mode that writes it; a read-only register has its view (R149). -/
def sysWriteView (n : Nat) : Mode := if n = 0x00A then .s else if n = 0x061 then .m else sysReadView n

/-! ### Interrupts pending (R158) -/

/-- A message of a kind is queued. -/
def Slot.hasMsg (x : Slot) (kind : Nat) : Bool := x.msgs.any fun m => m.kind == kind
/-- IPEND: each bit is set while its condition holds. -/
def Slot.ipend (x : Slot) (now : Nat) : Word :=
  word (((List.range 6).map fun k => if (if k = 1 then decide (x.ctl.timecmp.toNat ≤ now) else x.hasMsg k) then 2 ^ k else 0).sum)
/-- The sources that are pending and enabled. -/
def Slot.raised (x : Slot) (now : Nat) : Word := x.ipend now &&& x.ctl.ienable &&& 0x3F

/-! ### Priorities (R26, R28, R29) and SLOTSTATE (R23) -/

/-- The priority after promotion by age (R28). -/
def Slot.promoted (x : Slot) : Nat := if Config.agePromotion ≤ x.sched.age then Nat.max x.prio 2 else x.prio
/-- The effective priority: 3 becomes 2 once the budget of the period is spent (R29). -/
def Core.eprio (c : Core) (x : Slot) : Nat := if x.promoted = 3 ∧ c.issue.limit ≤ c.issue.used then 2 else x.promoted
def Phase.code : Phase → Nat
  | .free => 0
  | .ready => 1
  | .blocked _ => 3
  | .waiting _ => 4
  | .suspended .. => 5
/-- SLOTSTATE (R23); EPRIO of a FREE slot reads 0 (DESIGN CHOICE, log 79). -/
def State.slotState (s : State) : Word :=
  let core := coreOf s.cur
  let part (k : Nat) : Nat :=
    let x := s.slot (8 * core + k)
    let code := if 8 * core + k = s.cur then 2 else x.phase.code
    if x.phase = .free then 0 else code * 2 ^ (4 * k) + s.myCore.eprio x * 2 ^ (32 + 2 * k)
  word (((List.range 8).map part).sum)

/-! ### The side log (R359) -/

def SbKind.logCode : SbKind → Nat
  | .push => 1
  | .reduction .. => 2
  | .faddx .. => 3
  | .vector => 4
  | _ => 0
/-- Bytes that an entry of the log holds. -/
def SbEntry.nbytes (e : SbEntry) : Nat :=
  match e.kind with
  | .faddx bf _ => if bf then 2 else 4
  | .reduction _ n _ => n
  | _ => e.bytes.length
/-- LOGHDR of an entry. -/
def LogEntry.header (x : LogEntry) : Word :=
  word (2 ^ 63 + (if x.persist then 2 ^ 62 else 0) + x.owndie % 4 * 2 ^ 60 + x.reason % 16 * 2 ^ 56 + x.retry % 8 * 2 ^ 53 +
    x.entry.kind.logCode * 2 ^ 50 + x.part % 4 * 2 ^ 48 + x.entry.sid % 2 ^ 16 * 2 ^ 32 + x.entry.asid % 2 ^ 16 * 2 ^ 16 + x.entry.nbytes)

/-! ### Bank map (R228) -/

/-- BSTATE of a bank. -/
def Cluster.bankCode (c : Cluster) (b : Nat) : Nat :=
  match c.bankState b with
  | none => 0
  | some .on => 1
  | some .ret => 2
  | some _ => 3
/-- BMGRP of a group. -/
def State.groupWord (s : State) (cl g : Nat) : Word :=
  let c := s.cluster cl
  let failed := ((List.range 8).map fun k => if c.failed.contains (8 * g + k) then 2 ^ k else 0).sum
  let banks := ((List.range 8).map fun k => c.bankCode (8 * g + k) * 4 ^ k).sum
  let region := match c.groups.find g with
    | some r => r.first % 256 * 2 ^ 16 + r.stripe % 8 * 2 ^ 9 + 2 ^ 8
    | none => 0
  word (failed * 2 ^ 40 + banks * 2 ^ 24 + region + if s.groupHeld cl g then 1 else 0)

/-! ### Error records (R388) -/

def ErrRec.word0 (r : ErrRec) : Word := bitOn r.head 63
/-- ERRCTL of a die. -/
def Die.errCtl (d : Die) : Word := word (natField d.errTarget 0 16 * 2 ^ 48 + d.ovf % 256 * 2 ^ 16 + d.errs.length % 256 * 2 ^ 8)
/-- A write of ERRCTL: TARGET, OVF cleared by a 1, OPC 1 removes the oldest record. -/
def Die.errWrite (d : Die) (v : Word) : Die :=
  { d with
    errTarget := word (natField v 48 16)
    ovf := if natField v 16 8 = 0 then d.ovf else 0
    errs := if natField v 0 2 = 1 then d.errs.drop 1 else d.errs }

/-! ### Reads -/

/-- A field that only M reads, seen from S: its value is free (R4). -/
def modeField (v : Nat) : M Nat := do
  if (← getMe).mode = .m then return v
  return (← freshWord).toNat

/-- The registers that serve units the core lacks read zero and ignore writes (R149): ECKBASE without a tile engine; BWPHASE and the
bank map registers on a management core. -/
def sysAbsent (core n : Nat) : Bool :=
  (!isCompute core && n == 0x098) || (isManagement core && (n == 0x00B || (decide (0x0B0 ≤ n) && decide (n ≤ 0x0B9))))

def TrapBank.read (b : TrapBank) (k : Nat) : Word :=
  match k with
  | 0 => b.epc
  | 1 => b.cause
  | 2 => b.tval
  | 3 => b.tvec
  | 4 => b.status
  | _ => b.scratch

def Stream.read (t : Stream) (k : Nat) : Word :=
  match k with
  | 0 => t.ctl
  | 1 => t.base
  | 2 => t.pos
  | _ => t.sfault

def Loops.read (l : Loops) (k : Nat) : Word :=
  if k = 0 then l.state
  else if k < 5 then l.start[(k - 1) % 4]'(Nat.mod_lt _ (by decide))
  else if k < 9 then l.fin[(k - 5) % 4]'(Nat.mod_lt _ (by decide))
  else l.count[(k - 9) % 4]'(Nat.mod_lt _ (by decide))

/-- Registers of the strand and its slot: the value read has no effect. -/
def Slot.readReg (x : Slot) (n now : Nat) : Option Word :=
  match n with
  | 0x000 => some x.ctl.status
  | 0x001 => some x.ctl.fflags
  | 0x008 => some x.ctl.ix
  | 0x009 => some x.ctl.nx
  | 0x00A => some x.ctl.dmem
  | 0x00B => some x.ctl.bwphase
  | 0x00E => some x.ctl.seed
  | 0x028 => some x.rep.state
  | 0x040 => some (x.ipend now)
  | 0x041 => some x.ctl.ienable
  | 0x045 => some (match x.msgs with
      | [] => 0
      | m :: _ => word (m.src % 2 ^ 16 * 2 ^ 16 + m.kind % 16 * 2 ^ 8 + x.msgs.length))
  | 0x046 => some x.ctl.timecmp
  | 0x050 => some x.ports.qsel
  | 0x051 => some x.ports.qring
  | 0x052 => some x.ports.qctl
  | 0x053 => some x.ports.qwdog
  | 0x070 => some x.ports.mtcmd
  | 0x071 => some x.ports.mtd0
  | 0x072 => some x.ports.mtd1
  | 0x073 => some x.ports.mtd2
  | 0x080 => some x.ctl.asid
  | 0x081 => some x.ports.xinfo
  | 0x090 => some x.ctl.swptea
  | 0x091 => some x.ctl.swpteb
  | 0x092 => some x.ports.swcmd
  | _ =>
    if 0x002 ≤ n ∧ n ≤ 0x007 then some (x.sTrap.read (n - 2))
    else if 0x010 ≤ n ∧ n ≤ 0x017 then some (x.ctl.mbox[(n - 0x010) % 8]'(Nat.mod_lt _ (by decide)))
    else if 0x018 ≤ n ∧ n ≤ 0x024 then some (x.loops.read (n - 0x018))
    else if 0x030 ≤ n ∧ n ≤ 0x03F then some ((x.stream ((n - 0x030) / 4)).read ((n - 0x030) % 4))
    else if 0x102 ≤ n ∧ n ≤ 0x107 then some (x.mTrap.read (n - 0x102))
    else .none

/-- Registers of the core, the cluster, the die and the package. TIMESTAT gives every mode its K, although K has access MO: R267 says that
every strand reads one value there (DEDUCED, log 90). -/
def State.readShared (s : State) (n : Nat) : M Word := do
  let core := coreOf s.cur
  let c := s.core core
  let d := s.die (dieOf s.cur)
  let cl := s.myCluster
  match n with
  | 0x00C => return word s.clock.time
  | 0x00D => return word c.issue.cycle
  | 0x00F => return word s.cur
  | 0x047 => return word (s.clock.k % 16 * 16 + (if s.clock.lost then 2 else 0) + if s.clock.lock then 1 else 0)
  | 0x060 => return s.slotState
  | 0x061 =>
    let limit ← modeField c.issue.limit
    return word (limit % 2 ^ 16 * 2 ^ 16 + c.issue.used % 2 ^ 16)
  | 0x082 => return d.ptroot
  | 0x084 => return s.ptgen 0
  | 0x085 => return s.ptgen 1
  | 0x086 => return s.ptgen 2
  | 0x087 => return s.ptgen 3
  | 0x088 => return setField c.logctl 0 6 c.log.length
  | 0x089 => return c.logsel
  | 0x08A => return (match c.log.find c.logsel.toNat with
      | some x => x.header
      | none => 0)
  | 0x08B => return (match c.log.find c.logsel.toNat with
      | some x => word x.entry.addr
      | none => 0)
  | 0x098 => return c.eckbase
  | 0x0A0 =>
    let pkg ← modeField s.budget.pkg
    return word (pkg % 2 ^ 16)
  | 0x0A1 => return word (d.power.hot.toNat * 2 ^ 48 + d.power.overBudget.toNat * 2 ^ 32 + d.power.draw % 2 ^ 16 * 2 ^ 16 + d.power.held % 2 ^ 16)
  | 0x0A2 =>
    let v ← modeField (d.power.thot % 256 * 256 + d.power.hyst % 256)
    return word (v % 2 ^ 16)
  | 0x0A8 => return (match d.errs with
      | r :: _ => r.word0
      | [] => 0)
  | 0x0A9 => return (match d.errs with
      | r :: _ => r.addr
      | [] => 0)
  | 0x0AA => return d.errCtl
  | 0x0B0 => return word cl.tidle
  | 0x0B8 => return cl.bmsel
  | 0x0B9 => return s.groupWord (clusterOf s.cur) (natField cl.bmsel 0 8)
  | _ =>
    if 0x0B1 ≤ n ∧ n ≤ 0x0B4 then return cl.user[(n - 0x0B1) % 4]'(Nat.mod_lt _ (by decide))
    else return 0

/-- MSGIN (R160): the head entry is popped, and its payload returned. -/
def popMsg : M Word := do
  match (← getMe).msgs with
  | [] => return 0
  | m :: rest =>
    modMe fun x => { x with msgs := rest }
    return m.payload

/-- The value of a register; only a read of MSGIN has an effect. -/
def readSys (n : Nat) : M Word := do
  let s ← get
  if sysAbsent (coreOf s.cur) n then return 0
  else if n = 0x044 then popMsg
  else match s.me.readReg n s.clock.time with
    | some v => return v
    | none => s.readShared n

/-! ### Writes -/

/-- STATUS as a write leaves it (R26, R150): IE from S and M only, PRIV never. -/
def Slot.writeStatus (x : Slot) (v : Word) : Word := fixStatus (mergeBits (if x.mode = .u then 0x730 else 0x738) x.ctl.status v)

def TrapBank.write (b : TrapBank) (k : Nat) (v : Word) : TrapBank :=
  match k with
  | 0 => { b with epc := v }
  | 1 => { b with cause := v &&& 0xFFF }
  | 2 => { b with tval := v }
  | 3 => { b with tvec := v &&& ~~~63 }
  | 4 => { b with status := v &&& 0x73B }
  | _ => { b with scratch := v }

/-- LOOPSTATE as a write stores it (R145). -/
def loopStored (v : Word) : Word := if 4 < natField v 0 3 then setField (v &&& 0xF7) 0 3 4 else v &&& 0xF7

def Loops.write (l : Loops) (k : Nat) (v : Word) : Loops :=
  if k = 0 then { l with state := loopStored v }
  else if k < 5 then { l with start := l.start.set ((k - 1) % 4) (v &&& ~~~0x38) (Nat.mod_lt _ (by decide)) }
  else if k < 9 then { l with fin := l.fin.set ((k - 5) % 4) (v &&& ~~~0x38) (Nat.mod_lt _ (by decide)) }
  else { l with count := l.count.set ((k - 9) % 4) v (Nat.mod_lt _ (by decide)) }

/-- A write of DMEM (R35): PHASE becomes 0, and what was told to the old domain is done with. -/
def Slot.writeDmem (x : Slot) (v : Word) : Slot :=
  { x with
    ctl := { x.ctl with dmem := dmemStored v }
    domain := { x.domain.settled with counts := [] } }

/-- MTDATA1 as a write stores it (R168). -/
def mtData1Stored (v : Word) : Word :=
  word (Nat.min 72 (natField v 16 7) * 2 ^ 16 + Nat.min 8 (natField v 8 4) * 2 ^ 8 + natField v 0 7)
/-- QRING as a write stores it (R325). -/
def qringStored (v : Word) : Word := setField (v &&& 0xFFFFFFFFFFFF0000) 0 4 (if 9 < natField v 0 4 then 9 else natField v 0 4)

/-- A write to a register of the strand or of its slot that only stores; none for another register. -/
def Slot.writeReg (x : Slot) (n : Nat) (v : Word) : Option Slot :=
  let ctl (y : Ctl) : Option Slot := some { x with ctl := y }
  let ports (y : SlotPorts) : Option Slot := some { x with ports := y }
  match n with
  | 0x000 => ctl { x.ctl with status := x.writeStatus v }
  | 0x001 => ctl { x.ctl with fflags := v &&& 0x1F }
  | 0x00A => some (x.writeDmem v)
  | 0x00E => ctl { x.ctl with seed := seedStored v }
  | 0x028 => some { x with rep := { x.rep with state := v &&& 0x800000003FFFFFFF } }
  | 0x041 => ctl { x.ctl with ienable := v &&& 0x3F }
  | 0x046 => ctl { x.ctl with timecmp := v }
  | 0x051 => ports { x.ports with qring := qringStored v }
  | 0x052 => ports { x.ports with qctl := mergeBits 0xFFFF00000000FF30 x.ports.qctl v }
  | 0x053 => ports { x.ports with qwdog := v &&& 0xFFFFFFFFFFFF }
  | 0x071 => ports { x.ports with mtd0 := v }
  | 0x072 => ports { x.ports with mtd1 := mtData1Stored v }
  | 0x073 => ports { x.ports with mtd2 := v }
  | 0x080 => ctl { x.ctl with asid := v &&& 0xFFFF }
  | 0x090 => ctl { x.ctl with swptea := v &&& ~~~7 }
  | 0x091 => ctl { x.ctl with swpteb := v &&& ~~~7 }
  | _ =>
    if 0x002 ≤ n ∧ n ≤ 0x007 then some { x with sTrap := x.sTrap.write (n - 2) v }
    else if 0x010 ≤ n ∧ n ≤ 0x017 then ctl { x.ctl with mbox := x.ctl.mbox.set ((n - 0x010) % 8) v (Nat.mod_lt _ (by decide)) }
    else if 0x018 ≤ n ∧ n ≤ 0x024 then some { x with loops := x.loops.write (n - 0x018) v }
    else if 0x102 ≤ n ∧ n ≤ 0x107 then some { x with mTrap := x.mTrap.write (n - 0x102) v }
    else .none

/-- The groups of a residency hint (R226). -/
def hintGroups (v : Word) : List Nat := ((List.range (natField v 40 8)).map (natField v 32 8 + ·)).filter (· < 256)

/-- A write of BWPHASE (R226): a phase begins; the hint holds its allocated groups and wakes them. -/
def State.writeBwphase (s : State) (v : Word) : State :=
  let v := v &&& 0x0000FFFF00000107
  let cl := clusterOf s.cur
  let gs := (hintGroups v).filter fun g => ((s.cluster cl).groups.find g).isSome
  let x := s.me
  (s.setCluster cl ((s.cluster cl).wake s.clock.time (0x2000 * natField v 32 8) (0x2000 * natField v 40 8))).setMe { x with
    ctl := { x.ctl with bwphase := v }
    sched := { x.sched with phase := [], hint := gs } }

/-- A write of QSEL (R325): OPC 0 stores, 1 to 4 operate on the queue, 5 to 7 set ERR. -/
def State.writeQsel (s : State) (v : Word) : State :=
  let v := v &&& 0x7FF00001FFF
  match natField v 10 3 with
  | 0 => s.modPorts fun p => { p with qsel := if p.qsel.getLsbD 13 then bitOn v 13 else v }
  | 1 => s.queueRead v
  | 2 => s.queueWrite v
  | 3 => s.coreReadmit v
  | 4 => s.queueEmpty v
  | _ => s.modPorts fun p => p.result v true

/-- A write of LOGCTL (R359): OPC 1 discards, 2 rearms. -/
def State.writeLogctl (s : State) (v : Word) : State :=
  let v := v &&& 0xFFFF00FFFF070000
  let s1 := s.setCore (coreOf s.cur) { s.myCore with logctl := v }
  match natField v 16 3 with
  | 1 => s1.setCore (coreOf s.cur) (s1.myCore.logDiscard (natField v 24 16))
  | 2 => s1.setCore (coreOf s.cur) (s1.myCore.logRearm (natField v 24 16))
  | _ => s1

/-- A write of TIMESTAT (R152, R267): LOST from S and M, K from M at the next multiple of 2^12 ns. -/
def State.writeTimestat (s : State) (v : Word) : State :=
  let mode := s.me.mode
  let k := natField v 4 4
  let c1 := if mode ≠ .u ∧ v.getLsbD 1 then { s.clock with lost := false } else s.clock
  { s with clock := if mode = .m ∧ 8 ≤ k ∧ k ≤ 12 then { c1 with pendingK := some k } else c1 }

/-- A write of PWRCAP (R384): it takes effect at the next pass of the token. -/
def State.writePwrcap (s : State) (v : Word) : State := { s with budget := { s.budget with pkg := natField v 0 16 } }

/-- A write to a register of the core, the cluster, the die or the package. -/
def State.writeShared (s : State) (n : Nat) (v : Word) : State :=
  let core := coreOf s.cur
  let die := dieOf s.cur
  let cl := clusterOf s.cur
  let d := s.die die
  let onCluster (f : Cluster → Cluster) : State := s.setCluster cl (f s.myCluster)
  let isM := decide (s.me.mode = .m)
  match n with
  | 0x00B => s.writeBwphase v
  | 0x047 => s.writeTimestat v
  | 0x050 => s.writeQsel v
  | 0x061 => s.setCore core { s.myCore with issue := { s.myCore.issue with limit := natField v 16 16 } }
  | 0x082 => s.setDie die { d with ptroot := v &&& 0x0000FFFFFFFF0001 }
  | 0x088 => s.writeLogctl v
  | 0x089 => s.setCore core { s.myCore with logsel := v &&& 31 }
  | 0x092 => if v.getLsbD 0 then s.swapGo else s
  | 0x098 => s.setCore core { s.myCore with eckbase := v &&& 0xFFFFFFFFFFFF0001 }
  | 0x0A0 => if isM then s.writePwrcap v else s
  | 0x0A2 => if isM then s.setDie die { d with power := { d.power with thot := natField v 8 8, hyst := natField v 0 8 } } else s
  | 0x0AA => s.setDie die (d.errWrite v)
  | 0x0B0 => onCluster fun c => { c with tidle := natField v 0 32 }
  | 0x0B8 => onCluster fun c => { c with bmsel := v &&& 0xFF }
  | _ =>
    if 0x0B1 ≤ n ∧ n ≤ 0x0B4 then onCluster fun c => { c with user := c.user.set ((n - 0x0B1) % 4) v (Nat.mod_lt _ (by decide)) }
    else s

/-- A write of a register: it changes what the writer's mode may change; read-only registers ignore it (R149). -/
def writeSys (n : Nat) (v : Word) : M Unit := do
  let s ← get
  if sysAbsent (coreOf s.cur) n then return ()
  else if 0x030 ≤ n ∧ n ≤ 0x03F then
    if n % 4 = 2 then seekStream ((n - 0x030) / 4) v
  else if n = 0x070 then mtCommand v
  else match s.me.writeReg n v with
    | some x => set (s.setMe x)
    | none => set (s.writeShared n v)

/-! ### The forms -/

/-- PRIVILEGE of a system register form (R149, R364): TVAL is the register number. -/
def needView (n : Nat) (view : Mode) : M Unit := do
  if (← getMe).mode.covers view then return ()
  trap cPrivilege (word n)

/-- MFS (R149). -/
def execMfs (f : SysRead) (s : State) : Out :=
  let n := f.sr.toNat
  privInstr ⟨f.h, [], some (.g, f.rd)⟩ (needView n (sysReadView n)) (do
    writeG f.rd (← readSys n)
    return none) s

/-- MTS (R149). -/
def execMts (f : SysWrite) (s : State) : Out :=
  let n := f.sr.toNat
  privInstr ⟨f.h, [(1, .g, f.a)], none⟩ (needView n (sysWriteView n)) (do
    let a ← readG 1 f.a
    writeSys n a
    return none) s

/-- A read and a write in one (R149). -/
def sysModify (fn : Word → Word → Word) (f : SysMod) (s : State) : Out :=
  let n := f.sr.toNat
  privInstr ⟨f.h, [(1, .g, f.a)], some (.g, f.rd)⟩ (do needView n (sysReadView n); needView n (sysWriteView n)) (do
    let a ← readG 1 f.a
    let old ← readSys n
    writeSys n (fn old a)
    writeG f.rd old
    return none) s
/-- MTSB (R149). -/
def execMtsb (f : SysMod) (s : State) : Out := sysModify (fun old a => old ||| a) f s
/-- MTSC (R149). -/
def execMtsc (f : SysMod) (s : State) : Out := sysModify (fun old a => old &&& ~~~a) f s

/-! ### The rows of one register -/

/-- SYSREG_WRITE (R149): what a write does. -/
def execSysregWrite (n : BitVec 12) (v : Word) (s : State) : Out := outcome (writeSys n.toNat v) s
/-- MSGIN_READ (R160): the pop. -/
def execMsginRead (s : State) : Out := outcome (do let _ ← popMsg) s
/-- DMEM_WRITE (R35). -/
def execDmemWrite (v : Word) (s : State) : Out := .next (s.setMe (s.me.writeDmem v))
/-- BWPHASE_WRITE (R226). -/
def execBwphaseWrite (v : Word) (s : State) : Out := .next (s.writeBwphase v)
/-- SPOS_WRITE (R192). -/
def execSposWrite (k : BitVec 2) (v : Word) (s : State) : Out := outcome (seekStream k.toNat v) s
/-- PWRCAP_WRITE (R384). -/
def execPwrcapWrite (v : Word) (s : State) : Out := .next (s.writePwrcap v)
/-- ERROR_RECORD_REMOVE (R388): the oldest record of the die of the issuing strand. -/
def execErrorRecordRemove (s : State) : Out :=
  .next (s.setDie (dieOf s.cur) { s.die (dieOf s.cur) with errs := (s.die (dieOf s.cur)).errs.drop 1 })

end Sys2Proof.Machine
end

