-- ==== Sys2Proof/Machine/System.lean ====
section
/-! DEFINITION. Traps by instruction and returns (R156, R157), `wfi`, `ipi`, maintenance (R161 to R163, R357), interrupts (R159), strand
management and halts (R164 to R167, R365), and what the issue logic does to a waiting strand (R24, R162). -/

namespace Sys2Proof.Machine

/-! ### ecall, ebreak, eret (R156, R157) -/

/-- A trap that the instruction is there to take: TVAL is its service code. -/
def service (cause : Nat) (f : Service) (s : State) : Out :=
  plainInstr ⟨f.h, [], none⟩ (trap cause (zext64 f.imm)) s
/-- ECALL (R157). -/
def execEcall (f : Service) (s : State) : Out := service cEcall f s
/-- EBREAK (R157). -/
def execEbreak (f : Service) (s : State) : Out := service cEbreak f s

/-- ERET (R156): PRIVILEGE in U; the transfer is not checked (R92). -/
def execEret (f : Plain) (s : State) : Out :=
  privInstr ⟨f.h, [], none⟩ (needSM 0) (do
    modMe Slot.leave
    return some (← getMe).pc) s

/-! ### Strands as seen from outside -/

/-- A wait is abandoned: `work` is left at the dispenser too (R22, R365). An answer that comes later finds nobody waiting for it. -/
def State.abandon (s : State) (sid : Nat) : State :=
  match (s.slot sid).phase with
  | .waiting .work => s.leaveWork sid
  | _ => s

/-! ### Interrupts (R158, R159) -/

/-- The strand stands at an instruction boundary: it has a context that is not halted, and either it waits, or its instruction has no answer
to complete with (R159; log 80). -/
def Slot.atBoundary (x : Slot) : Bool :=
  match x.phase with
  | .free => false
  | .suspended _ => false
  | .ready => x.sched.reply.isNone
  | _ => true

/-- The source that the strand takes at this boundary: none unless IE is set, in U or S. -/
def Slot.interrupt (x : Slot) (now : Nat) : Option Nat :=
  let live := x.atBoundary
  if live && x.ie && x.mode != .m then lowestSet 0 (x.raised now) else .none

/-- INTERRUPT_ENTRY (R159): the strand leaves its wait; the interrupted instruction executes again. -/
def State.takeInterrupt (s : State) (sid : Nat) : State :=
  match (s.slot sid).interrupt s.clock.time with
  | none => s
  | some k => (s.abandon sid).trapAt sid { cause := 0x80 + k, tval := 0 }

/-- INTERRUPT_ENTRY (R159). -/
def execInterruptEntry (sid : Nat) (s : State) : Out := .next (s.takeInterrupt sid)

/-- TIMER_EXPIRY (R158): TIME has reached TIMECMP, so TIMER is pending (IPEND shows it), and the core's clock runs. -/
def execTimerExpiry (sid : Nat) (s : State) : Out :=
  .next (if (s.slot sid).ctl.timecmp.toNat ≤ s.clock.time then s.unpause (coreOf sid) else s)

/-! ### wfi (R162) -/

/-- WFI (R162): it completes when an enabled source is pending, or after 4,096 cycles of the cluster clock. -/
def execWfi (f : Plain) (s : State) : Out :=
  plainInstr ⟨f.h, [], none⟩ (do
    let x ← getMe
    let now := (← get).clock.time
    if x.sched.waited then modMe fun y => { y with sched := { y.sched with waited := false } }
    else if x.raised now = 0 then block (.wfi (now + Config.wfiNanoseconds))) s

/-- A wait ends in favour of the instruction. -/
def Slot.resumeWaited (x : Slot) : Slot := { x with phase := .ready, sched := { x.sched with waited := true } }

/-- WFI_TIMEOUT (R162). -/
def State.wfiTimeout (s : State) (sid : Nat) : State :=
  match (s.slot sid).phase with
  | .blocked (.wfi t) => if t ≤ s.clock.time then (s.modSlot sid Slot.resumeWaited).unpause (coreOf sid) else s
  | _ => s
/-- WFI_TIMEOUT (R162). -/
def execWfiTimeout (sid : Nat) (s : State) : Out := .next (s.wfiTimeout sid)

/-- REG_COPY_EXHAUSTED (R24): after 65,536 cycles without a free register the writing instruction traps. -/
def State.poolTimeout (s : State) (sid : Nat) : State :=
  match (s.slot sid).phase with
  | .blocked (.pool _ spec pos since) =>
    if since + Config.poolPatience ≤ (s.core (coreOf sid)).issue.cycle then s.trapAt sid { cause := cRegCopy, tval := word (spec + 256 * pos) } else s
  | _ => s
/-- REG_COPY_EXHAUSTED (R24). -/
def execRegCopyExhausted (sid : Nat) (s : State) : Out := .next (s.poolTimeout sid)

/-! ### ipi (R161) -/

/-- The slot that a form names in g[RS1]; none for status 3 (R164). -/
def namedSlot (a : Word) : Option Nat :=
  let sid := natField a 0 16
  if natField a 16 48 = 0 ∧ sidExists sid then some sid else none

/-- The message of an `ipi` leaves for its target, and the strand is BLOCKED until it is answered; a halt does not abandon it (R365). -/
def State.sendIpi (s : State) (sid : Nat) (payload : Word) : State :=
  waitState (.finishing (.reply s.nextOp)) false
    ({ s with nextOp := s.nextOp + 1 }.sendFrom s.cur (dieOf sid) (routerOf sid) (.ipi sid s.cur s.nextOp payload))

/-- IPI (R161): status 3 where no slot is named; else the status that the target's answer brings. To itself a strand sends like to any other
(DESIGN CHOICE, log 81). -/
def execIpi (f : Bin) (s : State) : Out :=
  privInstr (binShape f) (needSM 0) (do
    let a ← readG 1 f.a
    let b ← readG 2 f.b
    let s ← get
    match s.me.sched.reply with
    | some code =>
      modMe fun x => { x with sched := { x.sched with reply := .none } }
      writeG f.rd code
    | none => match namedSlot a with
      | none => writeG f.rd 3
      | some sid => throw (.done (s.sendIpi sid b))
    return none) s

/-! ### Maintenance (R163, R357) -/

/-- FENCE_I (R163). -/
def execFenceI (f : Plain) (s : State) : Out :=
  plainInstr ⟨f.h, [], none⟩ (do
    release
    modCore fun c => { c with icache := [] }) s

/-- What a `tlbinv` removes: the entry, and the data-cache line, by ASID and address. -/
structure TlbScope where
  scope : Nat
  asid : Nat
  die : Nat
  addr : Nat
  /-- the sizes of the pages that hold the address -/
  sizes : List Nat
deriving DecidableEq, Repr, Inhabited

/-- The scope of a `tlbinv` (R163): the sizes of the page are those of its entries and of its mapping, at least 64 KiB. -/
def State.tlbScope (s : State) (a b : Word) : TlbScope :=
  let ea := a.toNat
  let asid := natField b 0 16
  let d := ownerDie ea
  let eff := effAsid asid ea
  let held := ((s.die d).tlb.filter fun t => t.asid == eff && t.va == pageOf t.size ea).map (·.size)
  let mapped := match s.walk d asid ea .read .m with
    | .found e _ _ => [pteSize e]
    | _ => []
  ⟨natField b 16 2, if natField b 16 2 = 0 then eff else asid, d, ea, 1 :: (held ++ mapped)⟩

def TlbScope.entry (x : TlbScope) (die : Nat) (t : Tlb) : Bool :=
  match x.scope with
  | 0 => die == x.die && t.asid == x.asid && t.va == pageOf t.size x.addr
  | 1 => t.asid == x.asid
  | 2 => !t.leaf.getLsbD 4
  | _ => true
/-- The buffered store at an address lies in what is invalidated. -/
def TlbScope.covers (x : TlbScope) (asid va : Nat) : Bool :=
  match x.scope with
  | 0 => asid == x.asid && x.sizes.any fun k => pageOf k va == pageOf k x.addr
  | 1 => asid == x.asid
  | _ => true

/-- The line is one of what is invalidated; its own page size counts too. -/
def TlbScope.line (x : TlbScope) (l : DcLine) : Bool := x.covers l.asid l.va || (x.scope == 0 && l.asid == x.asid && pageOf l.size l.va == pageOf l.size x.addr)

/-- The invalidation: TLB entries of the memory sides, and data-cache lines of every core, merged stores sent home first. -/
def State.invalidate (s : State) (x : TlbScope) : State :=
  let s1 := (s.cores.map (·.1)).foldl (fun t c => t.evictLines c fun l => x.line l) s
  { s1 with dies := s1.dies.map fun (d : Nat × Die) => (d.1, { d.2 with tlb := d.2.tlb.filter fun t => !x.entry d.1 t }) }

/-- A store translated by an entry that goes is still to be performed. -/
def State.translatedWaits (s : State) (x : TlbScope) : Bool :=
  s.cores.any fun (c : Nat × Core) => c.2.sb.any fun e =>
    e.sp == .g && e.pas.isSome && (x.covers e.asid e.addr || x.covers e.asid (e.addr + e.bytes.length - 1))

/-- TLBINV (R163, R357). -/
def execTlbinv (f : Src2) (s : State) : Out :=
  privInstr ⟨f.h, [(1, .g, f.a), (2, .g, f.b)], none⟩ (needSM 0) (do
    let a ← readG 1 f.a
    let b ← readG 2 f.b
    finishing (do
      let s ← get
      let x := s.tlbScope a b
      if s.translatedWaits x then block .translated
      set (s.invalidate x))
    return none) s

/-- PTSYNC (R163, R357). -/
def execPtsync (f : Un) (s : State) : Out :=
  privInstr (unShape f) (needSM 0) (do
    let a ← readG 1 f.a
    finishing release
    let s ← get
    let d := natField a 0 2
    let gen := (s.die d).ptgen + 1
    set (s.setDie d { s.die d with ptgen := gen })
    writeG f.rd gen
    return none) s

/-! ### Halts (R365) -/

/-- The DGE commands that a strand issued in its idempotent region are cancelled where they still run, and their handles are
EMPTY (R351). -/
def State.cancelRegion (s : State) (sid : Nat) : State :=
  let mine := (s.slot sid).idem.dge
  let running := ((s.core (coreOf sid)).dge.filter fun d => mine.contains d.op).map (·.op)
  (running.foldl State.cancelOp s).modSlot sid fun y => { y with handles := y.handles.map fun h => match h with
    | .complete n w => if mine.contains n then .empty else .complete n w
    | .pending n => if mine.contains n then .empty else .pending n
    | .empty => .empty }

/-- An idempotent region interrupted by pre-emption starts again at `idemb`, unchecked (R92, R351). -/
def State.rewindRegion (s : State) (sid : Nat) : State :=
  if (s.slot sid).idem.active then
    (s.cancelRegion sid).modSlot sid fun x => { x with
      pc := x.idem.pc
      loops := x.loops.withDepth x.idem.depth
      rep := ⟨0, .off, []⟩
      sched := { x.sched with checked := false, owed := .none, beyond := false } }
  else s

/-- The waits of instructions that have issued: their end lets the instruction complete, and takes no further issue (R21, log 85). -/
def Wait.issued : Wait → Bool
  | .wfi _ => true
  | .target .. => true
  | .sync => true
  | .work => true
  | .reply _ => true
  | .finishing _ => true
  | .again i => i
  | _ => false

/-- The state that a strand waits in, as a halt notes it (R21): none when its next instruction starts anew. -/
def Slot.waits (x : Slot) : Option (Bool × Bool) :=
  match x.phase with
  | .blocked w => some (false, w.issued)
  | .waiting w => some (true, w.issued)
  | _ => if x.sched.redo then x.sched.was else .none

/-- HALT_COMPLETE (R365): the slot becomes SUSPENDED at an instruction boundary; the debug halt is no pre-emption (R155, R351). -/
def State.haltSlot (s : State) (sid : Nat) (debug : Bool) : State :=
  let y := s.slot sid
  let s1 := if debug then s.abandon sid else (s.abandon sid).rewindRegion sid
  s1.modSlot sid fun x => { x with
    phase := .suspended debug
    windows := []
    rep := { x.rep with mode := .off, body := [] }
    sched := { x.sched with halt := false, waited := false, redo := false, yielded := none, phase := [], hint := [], early := []
                            was := if y.idem.active && !debug then .none else y.waits
                            ckptDue := (s1.core (coreOf sid)).eckbase.getLsbD 0 } }

/-- An instruction of the strand has performed and waits to complete: a halt comes after it (R365 step 3; log 80). -/
def Slot.completing (x : Slot) : Bool :=
  match x.phase with
  | .blocked (.finishing _) => true
  | .waiting (.finishing _) => true
  | _ => false

/-- A halt is requested, and the strand stands at a boundary. -/
def Slot.mayHalt (x : Slot) : Bool := x.sched.halt && x.atBoundary && !x.completing

/-- HALT_COMPLETE (R365). -/
def execHaltComplete (sid : Nat) (s : State) : Out := .next (if (s.slot sid).mayHalt then s.haltSlot sid false else s)

/-- The state that a strand leaves SUSPENDED into (R21): READY, or BLOCKED or WAITING at the instruction that it executes again. -/
def resumedPhase : Option (Bool × Bool) → Phase
  | .none => .ready
  | some (false, i) => .blocked (.again i)
  | some (true, i) => .waiting (.again i)

/-- A halted item goes on: its starter's pre-emption waits for it no longer (R296). -/
def State.itemResumed (s : State) (ctx : Nat) : State :=
  { s with cores := s.cores.map fun c => (c.1, { c.2 with starters := c.2.starters.map fun r =>
      (r.1, { r.2 with halted := r.2.halted.filter (· != ctx) }) }) }

/-- The checkpoint that a resumed strand gets back: not one that an image now names (R368). -/
def State.ckptKept (s : State) (sid : Nat) : Option Nat :=
  let x := s.slot sid
  match s.saved.find sid with
  | some v => if v.ctx = x.ctx ∧ v.ckpt = x.sched.ckptAt then none else x.sched.ckptAt
  | none => x.sched.ckptAt

/-- PREEMPT_RESUME (R165): a SUSPENDED strand goes on at its pending instruction (R365); a repetition reloads (R209). -/
def State.resumeSlot (s : State) (sid : Nat) : State :=
  if (s.slot sid).phase.isSuspended then
    ((s.itemResumed (s.slot sid).ctx).modSlot sid fun x => { x with
      phase := resumedPhase x.sched.was
      rep := { x.rep with mode := if x.rep.active then .reload else .off }
      sched := { x.sched with ckptDue := false, ckptAt := s.ckptKept sid, was := .none } }).unpause (coreOf sid)
  else s
/-- PREEMPT_RESUME (R165). -/
def execPreemptResume (sid : Nat) (s : State) : Out := .next (s.resumeSlot sid)

/-! ### The forms of R165 -/

/-- The slot of the package that g[RS1] names (R164): a die that takes no part in the package has none (R381; log 83). -/
def State.slotNamed (s : State) (a : Word) : Option Nat := (namedSlot a).filter fun sid => !(s.die (dieOf sid)).absent

/-- The status that the target alone decides: 3 no slot, 5 the executing strand, 2 FREE; else the slot. -/
def State.target (s : State) (a : Word) : Except Nat Nat :=
  match s.slotNamed a with
  | none => .error 3
  | some sid =>
    if sid = s.cur then .error 5
    else if (s.slot sid).phase = .free then .error 2
    else .ok sid

/-- PREEMPT (R165): the halt returns when the target is SUSPENDED, or with code 2 when it has ended (R370): the end of the wait says which. -/
def execPreemptHalt (f : Bin) (s : State) : Out :=
  privInstr (binShape f) (needSM 0) (do
    let a ← readG 1 f.a
    let b ← readG 2 f.b
    let s ← get
    match s.me.sched.reply, s.target a with
    | some code, _ =>
      modMe fun x => { x with sched := { x.sched with reply := .none } }
      writeG f.rd code
    | none, .error code => writeG f.rd (word code)
    | none, .ok sid =>
      let x := s.slot sid
      if b.getLsbD 0 then
        if x.phase.isSuspended then
          set (s.resumeSlot sid)
          writeG f.rd 0
        else writeG f.rd 1
      else if x.phase.isSuspended then writeG f.rd 1
      else throw (.done (waitState (.target sid x.ctx) false (s.askHalt sid)))
    return none) s

/-- A required-zero bit of a start block is set, or its PRIV is 2 (R166). -/
def startBlockBad (bs : List Byte) : Bool :=
  let status := dwordAt bs 1
  status &&& ~~~0x800000000000073B != 0 || natField status 0 2 == 2 || (bs.drop 88).any (fun b => b != 0)

/-- The start block checked (R166): the status, or nothing when a strand starts. -/
def State.startStatus (s : State) (a e : Word) (bs : List Byte) : Option Nat :=
  match s.slotNamed a with
  | none => some 3
  | some sid =>
    let core := coreOf sid
    let covered := match (s.core core).image with
      | some (lo, hi) => decide (lo ≤ e.toNat) && decide (e.toNat < hi)
      | none => false
    if startBlockBad bs then some 4
    else if !isCompute core && !covered then some 6
    else if (s.slot sid).phase ≠ .free then some 1
    else none

/-- A strand starts on a slot from a start block (R64, R166): the entry is a checked transfer. -/
def State.startStrand (s : State) (sid : Nat) (e : Word) (bs : List Byte) (asid : Word) : State :=
  let old := s.slot sid
  let status := dwordAt bs 1
  let x : Slot := { old.freed with
    phase := .ready
    pc := e
    ctl := { Ctl.none with
      status := fixStatus status
      dmem := dmemStored (dwordAt bs 0)
      asid := asid
      mbox := Vector.ofFn fun k => dwordAt bs (3 + k.val) }
    sTrap := { (default : TrapBank) with tvec := dwordAt bs 2 &&& ~~~63 }
    sched := { Slot.none.sched with checked := true, halt := status.getLsbD 63 }
    ctx := s.nextCtx }
  ({ s with nextCtx := s.nextCtx + 1 }.setSlot sid x).unpause (coreOf sid)

/-- STRANDNEW (R166). -/
def execStrandnew (f : Tri) (s : State) : Out :=
  privInstr (triShape f) (needSM 0) (do
    let a ← readG 1 f.a
    let e ← readG 2 f.b
    let b ← readG 3 f.c
    let bs ← loadGlobal b.toNat 128 64
    let x ← getMe
    if x.mode.code < natField (dwordAt bs 1) 0 2 then trap cPrivilege 0
    match (← get).startStatus a e bs with
    | some code => writeG f.rd (word code)
    | none =>
      modify fun s => s.startStrand (natField a 0 16) e bs s.me.ctl.asid
      writeG f.rd 0
    return none) s

/-- STRANDKILL (R165, R167): a strand that kills itself ends without writing RD. -/
def execStrandkill (f : Un) (s : State) : Out :=
  privInstr (unShape f) (needSM 0) (do
    let a ← readG 1 f.a
    let s ← get
    match s.slotNamed a with
    | none => writeG f.rd 3
    | some sid =>
      if sid = s.cur then throw (.done (s.killSlot sid))
      else if (s.slot sid).phase = .free then writeG f.rd 2
      else
        set (s.killSlot sid)
        writeG f.rd 0
    return none) s

end Sys2Proof.Machine
end

