-- ==== Sys2Proof/Machine/Context.lean ====
section
/-! DEFINITION. Engine checkpoints (R322, R366) and context images (R296, R367 to R369): `ctxsave` and `ctxload`. -/

namespace Sys2Proof.Machine

/-! ### Engine checkpoints -/

/-- The write of a checkpoint faults (R366): MACHINE_CHECK in slot 0 of the die's management core, an error record of kind 9; the
accumulators stay owned. -/
def State.ckptFault (s : State) (sid area : Nat) : State :=
  let s1 := s.logError (dieOf sid) 9 0 (unitSlot sid) (word area)
  let fw := mgmtSid (dieOf sid)
  if (s1.slot fw).phase = .free then s1
  else (s1.abandon fw).trapAt fw { cause := cMachine, tval := word area }

/-- ENGINE_CHECKPOINT (R322, R366): the strand's tile commands and accumulators go into the area of its slot, once the running
command has reached a boundary; a busy page is waited for (R363). A strand halted again before its checkpoint is restored keeps it. -/
def State.checkpoint (s : State) (sid : Nat) : State :=
  let core := coreOf sid
  let c := s.core core
  let x := s.slot sid
  let cleared (t : State) (at_ : Option Nat) : State := t.modSlot sid fun y => { y with sched := { y.sched with ckptDue := false, ckptAt := at_ } }
  if !(x.phase.isSuspended && x.sched.ckptDue) then s
  else if (c.tileq.take 1).any fun t => t.sid == sid && !t.removable then s
  else
    let cmds := c.tileq.filter fun t => t.sid == sid
    let accs := c.accs.filter fun a => a.2.owner == some sid
    if cmds.isEmpty && accs.isEmpty then cleared s x.sched.ckptAt
    else
      let area := c.ckptArea (sid % 8)
      match s.areaAddr area .write with
      | (.busy _, s1) => s1
      | (.fail _ _, s1) => cleared (s1.ckptFault sid area) x.sched.ckptAt
      | (.ok pa, s1) =>
        let s2 := accs.foldl (fun t a => t.areaWrite pa (4096 * (a.1 + 1)) a.2.bytes) (s1.areaWrite pa 0 [1])
        let k := s2.core core
        let k1 := ({ k with tileq := k.tileq.filter fun t => t.sid != sid } : Core).releaseAccs sid
        let unnamed (v : Nat × Saved) : Nat × Saved := if v.2.ckpt = some area then (v.1, { v.2 with ckpt := .none }) else v
        cleared ({ s2 with ckpts := s2.ckpts.insert area ⟨sid, cmds, accs⟩, saved := s2.saved.map unnamed }.setCore core k1) (some area)

/-- ENGINE_CHECKPOINT (R322). -/
def execEngineCheckpoint (sid : Nat) (s : State) : Out := .next (s.checkpoint sid)

/-- A saved command as it is accepted again: a multiplication goes on from its K position (R322). -/
def TileCmd.again (c : TileCmd) (sid : Nat) : TileCmd :=
  let c1 := { c with sid := sid, begun := if c.isMul then false else c.begun }
  { c1 with claims := c1.needs }

/-- Step 4 of the acceptance of a saved drain (R246, R307): its destination's words are empty. -/
def State.emptyAgain (s : State) (sid : Nat) (c : TileCmd) : State := if c.isDrain then s.emptyDest sid (clusterOf sid) c.drainDest else s

/-- The checkpoint of a strand restored before it issues (R322): every saved accumulator free, and room in the queue; else the strand
goes on waiting. The saved commands are accepted again. -/
def State.restore (s : State) (sid : Nat) : State :=
  match (s.slot sid).sched.ckptAt with
  | none => s
  | some area =>
    let gone (t : State) : State := t.modSlot sid fun y => { y with sched := { y.sched with ckptAt := none } }
    match s.ckpts.find area with
    | none => gone s
    | some k =>
      let core := coreOf sid
      let c := s.core core
      if k.accs.any (fun a => (c.acc a.1).owner.isSome) || decide (Config.engineQueue < c.tileq.length + k.cmds.length) then s
      else
        let back (s1 : State) (els : Nat × Acc → NMap (BitVec 32)) : State :=
          let c1 : Core := k.accs.foldl (fun (c : Core) (a : Nat × Acc) => c.setAcc a.1 ⟨some sid, els a⟩) (s1.core core)
          k.cmds.foldl (fun t m => t.emptyAgain sid m) (gone (({ s1 with ckpts := s1.ckpts.erase area } : State).setCore core
            ({ c1 with tileq := c1.tileq ++ k.cmds.map fun (t : TileCmd) => t.again sid } : Core)))
        match s.areaAddr area .read with
        | (.busy _, s1) => s1
        | (.fail _ _, s1) => back s1 fun a => a.2.els
        | (.ok p, s1) => (back s1 fun a => elsOfBytes (s1.mem.readN (p + 4096 * (a.1 + 1)) 4096)).areaWrite p 0 [0]

/-! ### The image (R367) -/

def Handle.code : Handle → Nat
  | .empty => 0
  | .pending _ => 1
  | .complete .. => 2

def wordsBytes (ws : List Word) : List Byte := ws.flatMap fun w => toBytes 8 w.toNat

/-- The eighteen registers at offset 2,856. -/
def Slot.imageRegs (x : Slot) : List Word :=
  [x.ctl.fflags, x.sTrap.epc, x.sTrap.cause, x.sTrap.tval, x.sTrap.tvec, x.sTrap.status, x.sTrap.scratch, x.ctl.ix, x.ctl.nx, x.ctl.dmem,
    x.ctl.bwphase, x.ctl.seed, x.ctl.asid, x.rep.state, x.ctl.ienable, x.ctl.timecmp, x.ctl.swptea, x.ctl.swpteb]

/-- Entry i of the crumb map: the template crumb number of private crumb i, for a template at TBASE (R296, R367). -/
def Item.crumbEntry (it : Item) (base i : Nat) : Nat :=
  match it.crumbs.find i with
  | some k => (k + 32768 - base / 64) % 32768
  | none => 0xFFFF

/-- The registers of its own that a context holds: all of its valid ones but those that an item shares with its starter (R296). -/
def Regs.ownMasks (r : Regs) : BitVec 32 × BitVec 32 × BitVec 8 := (r.gv &&& ~~~r.gs, r.vv &&& ~~~r.vs, r.pv &&& ~~~r.ps)

/-- The context image of a strand; `toks` are the tokens of its handles, `base` TBASE of its starter's template (R296, R367). -/
def Slot.image (x : Slot) (sid : Nat) (toks : List Word) (base : Nat) : List Byte :=
  let flag (b : Bool) (n : Nat) : Nat := if b then n else 0
  let flags := flag x.item.isSome 1 + flag x.record.isSome 2 + flag x.domain.sent.isSome 4 + flag x.idem.active 8
  let hstate := ((List.range 8).map fun h => (x.handle h).code * 4 ^ h).sum
  let own := x.regs.ownMasks
  let gval (n : Nat) : Word := if n ≠ 0 ∧ own.1.getLsbD n then x.regs.g[n % 32]'(Nat.mod_lt _ (by decide)) else 0
  let vval (n : Nat) : Vec := if own.2.1.getLsbD n then x.regs.v[n % 32]'(Nat.mod_lt _ (by decide)) else 0
  let pval (n : Nat) : Word := if n = 0 then BitVec.allOnes 64 else if own.2.2.getLsbD n then x.regs.p[n % 8]'(Nat.mod_lt _ (by decide)) else 0
  let hval (h : Nat) : Word := match x.handle h with
    | .empty => 0
    | .pending _ => toks[h]?.getD 0
    | .complete _ w => w
  let link := match x.item with
    | some it => it.home % 2048 + it.index % 8 * 2 ^ 11 + it.gen % 2 ^ 32 * 2 ^ 32
    | .none => 0
  toBytes 4 0x4E585443 ++ toBytes 2 0x0100 ++ toBytes 2 flags ++ toBytes 2 sid ++ toBytes 2 hstate ++ toBytes 1 (bitOn x.regs.pv 0).toNat ++
    toBytes 1 (x.idem.depth % 8) ++ toBytes 2 (match x.domain.sent with
      | some (e, _) => e
      | .none => 0) ++
    wordsBytes [x.pc, x.ctl.status] ++ toBytes 4 (bitOn x.regs.gv 0).toNat ++ toBytes 4 x.regs.vv.toNat ++
    wordsBytes [x.idem.pc, word link, (x.record.map (·.tag)).getD 0] ++ wordsBytes ((List.range 32).map gval) ++
    (List.range 32).flatMap (fun n => toBytes 64 (vval n).toNat) ++ wordsBytes ((List.range 8).map pval) ++ wordsBytes ((List.range 8).map hval) ++
    (x.streams.toList.flatMap fun t => t.image.take 48) ++ wordsBytes x.ctl.mbox.toList ++
    wordsBytes (x.loops.state :: (x.loops.start.toList ++ x.loops.fin.toList ++ x.loops.count.toList)) ++ wordsBytes x.imageRegs ++
    toBytes 8 (x.sched.ckptAt.getD 0) ++
    match x.item with
      | some it => (List.range 64).flatMap fun i => toBytes 2 (it.crumbEntry base i)
      | .none => []

/-- Bytes of an image. -/
def imageSize (item : Bool) : Nat := if item then 3136 else 3008

/-- The PENDING handles of a strand exported (R367): their tokens. -/
def State.exportAll (s : State) (sid : Nat) : List Word × State :=
  (List.range 8).foldl (fun (r : List Word × State) h =>
    match (r.2.slot sid).handle h with
    | .pending _ =>
      let (t, s1) := r.2.exportOp sid h
      (r.1 ++ [t], s1)
    | _ => (r.1 ++ [0], r.2)) ([], s)

/-- The physical addresses of `n` lines, each translated with W at the instruction (R367). -/
def xlatLines : Nat → Nat → M (List Nat)
  | _, 0 => return []
  | a, n + 1 => do
    let pa ← xlatOne .write a
    let rest ← xlatLines (a + 64) n
    return pa :: rest

/-- The template base of an item's starter. -/
def State.itemBase (s : State) (x : Slot) : Nat :=
  match x.item with
  | some it => ((s.starter it.home it.index).map fun r => tmplBase r.tmpl).getD 0
  | none => 0

/-- What the image of a strand has no place for (log 82). -/
def Slot.saved (x : Slot) : Saved := ⟨x.ctx, x.debts, x.record.map (·.id), x.domain, x.regs.ownMasks, x.sched.ckptAt, x.sched.was⟩

/-- The image of a SUSPENDED slot written and performed (R367). -/
def saveContext (sid : Nat) (ea : Word) : M Unit := do
  let s ← get
  let x := s.slot sid
  if x.sched.ckptDue then block (.checkpoint sid)
  let n := imageSize x.item.isSome
  gCheck ea.toNat n 64
  needDrained
  let pas ← xlatLines ea.toNat (n / 64)
  let asid := effAsid s.me.ctl.asid.toNat ea.toNat
  modify fun t => (List.range (n / 64)).foldl (fun t k => t.dropLineOf (coreOf s.cur) asid (ea.toNat + 64 * k)) t
  let (toks, s1) := (← get).exportAll sid
  let bytes := x.image sid toks (s.itemBase x)
  set { s1.storePhys (pas.flatMap fun pa => (List.range 64).map (pa + ·)) (bytes.map some) with saved := s1.saved.insert sid x.saved }

/-- The status of a form that acts on a SUSPENDED slot named in g[RS1] (R164, R165). -/
def onSuspended (a : Word) (act : Nat → M Nat) : M Nat := do
  let s ← get
  match s.target a with
  | .error code => return code
  | .ok sid => if (s.slot sid).phase.isSuspended then act sid else return 1

/-- CTXSAVE (R165, R367, R368): a halt does not abandon it (R365). -/
def execCtxsave (f : Bin) (s : State) : Out :=
  privInstr (binShape f) (needSM 0) (do
    let a ← readG 1 f.a
    let ea ← readG 2 f.b
    writeG f.rd (word (← finishing (onSuspended a fun sid => do
      saveContext sid ea
      return 0)))
    return none) s

/-! ### Loading an image (R369) -/

/-- Flags of an image. -/
def imageFlag (bs : List Byte) (k : Nat) : Bool := numAt bs 6 2 / 2 ^ k % 2 == 1
/-- State of handle h in an image. -/
def imageHandle (bs : List Byte) (h : Nat) : Nat := numAt bs 10 2 / 4 ^ h % 4
def imageTokens (bs : List Byte) : List Word :=
  (((List.range 8).filter fun h => imageHandle bs h == 1).map fun h => dwordAt bs (304 + h))
/-- The starter that an item image is linked to: home core, index, generation. -/
def imageLink (bs : List Byte) : Nat × Nat × Nat :=
  let w := dwordAt bs 6
  (natField w 0 11, natField w 11 3, natField w 32 32)
def imageStream (bs : List Byte) (k : Nat) (sfault : Word) : Except Nat Stream :=
  parseImage ((bs.drop (2496 + 48 * k)).take 48 ++ List.replicate 16 0) [0, 1, 2] { Stream.none with sfault := sfault }

/-- An item image loads on a core of PLACE whose copy is present, while its record is live (R296). -/
def State.itemFits (s : State) (sid : Nat) (bs : List Byte) : Bool :=
  let (home, k, gen) := imageLink bs
  match s.starter home k with
  | none => false
  | some r => r.gen % 2 ^ 32 == gen && home / 16 == coreOf sid / 16 && r.place.getLsbD (coreNo (coreOf sid)) &&
      (home == coreOf sid || r.copies.find (coreNo (coreOf sid)) == some 0)

/-- The image is malformed, or may not be loaded here (code 4 of R369). -/
def State.imageBad (s : State) (sid : Nat) (bs : List Byte) : Bool :=
  let toks := imageTokens bs
  numAt bs 0 4 != 0x4E585443 || numAt bs 4 2 != 0x0100 || decide (16 ≤ numAt bs 6 2) || decide (8 ≤ numAt bs 13 1) ||
    natField (dwordAt bs 3) 0 2 == 2 || ((List.range 8).any fun h => imageHandle bs h == 3) ||
    (toks.any fun t => (s.tokenOp t).isNone) || toks.eraseDups.length != toks.length ||
    ((List.range 4).any fun k => match imageStream bs k 0 with
      | .ok _ => false
      | .error _ => true) ||
    natField (dwordAt bs 373) 0 3 != 0 || natField (dwordAt bs 374) 0 3 != 0 || (imageFlag bs 0 && !s.itemFits sid bs)

/-- Valid registers of an image. -/
def imageRegs (bs : List Byte) : Regs :=
  let gv := bitOff (BitVec.ofNat 32 (numAt bs 32 4)) 0
  let vv := BitVec.ofNat 32 (numAt bs 36 4)
  let pv := bitOff (BitVec.ofNat 8 (numAt bs 12 1)) 0
  { g := Vector.ofFn fun n => if gv.getLsbD n.val then dwordAt bs (8 + n.val) else 0
    v := Vector.ofFn fun n => if vv.getLsbD n.val then BitVec.ofNat 512 (numAt bs (320 + 64 * n.val) 64) else 0
    p := Vector.ofFn fun n => if pv.getLsbD n.val then dwordAt bs (296 + n.val) else 0
    gv := gv, vv := vv, pv := pv, gs := 0, vs := 0, ps := 0 }

/-- The registers of an item that its starter's record holds: valid in the image and not the item's own (R283, R296). -/
def Regs.share (r rcd : Regs) (own : BitVec 32 × BitVec 32 × BitVec 8) : Regs :=
  let gs := r.gv &&& ~~~own.1 &&& rcd.gv
  let vs := r.vv &&& ~~~own.2.1 &&& rcd.vv
  let ps := r.pv &&& ~~~own.2.2 &&& rcd.pv
  { r with
    g := Vector.ofFn fun n => if gs.getLsbD n.val then rcd.g[n] else r.g[n]
    v := Vector.ofFn fun n => if vs.getLsbD n.val then rcd.v[n] else r.v[n]
    p := Vector.ofFn fun n => if ps.getLsbD n.val then rcd.p[n] else r.p[n]
    gs := gs, vs := vs, ps := ps }

/-- The registers that a loaded image gives its slot. Without a note of what the item had of its own, what its starter holds is the
starter's (log 82). -/
def State.imageFile (s : State) (bs : List Byte) : Regs :=
  let r := imageRegs bs
  if imageFlag bs 0 then
    let (home, k, _) := imageLink bs
    match s.starter home k with
    | some x => r.share x.ctx.regs (match s.saved.find (numAt bs 8 2) with
      | some v => v.own
      | none => (~~~x.ctx.regs.gv, ~~~x.ctx.regs.vv, ~~~x.ctx.regs.pv))
    | none => r
  else r

/-- The core's pools supply g, v and p registers for an image, those of the target's context counted as free. -/
def State.imageRoom (s : State) (sid g v p : Nat) : Bool :=
  let core := coreOf sid
  [(Cls.g, g), (.v, v), (.p, p)].all fun c => decide (s.poolUsed core c.1 + c.2 ≤ poolSize core c.1 + (s.slot sid).regs.owned c.1)

/-- The record that an image keeps (R369): the one that its strand held when it was saved, while some strand still holds it. -/
def State.imageRecord (s : State) (bs : List Byte) (v : Option Saved) : Option Record :=
  if imageFlag bs 1 then
    (v.bind (·.record)).bind fun id => (s.slots.find? fun x => x.2.record.map (·.id) == some id).bind (·.2.record)
  else none

/-- The contexts whose buffered and logged stores on other cores are the strand's own (R275). -/
def State.imageDebts (s : State) (old : Nat) (v : Option Saved) : List Nat :=
  match v with
  | some v => setInsert v.debts v.ctx
  | none =>
    let c := s.core (coreOf old)
    ((c.sb.filter fun e => e.sid == old).map (·.ctx) ++ (c.log.filter fun x => x.2.entry.sid == old).map (·.2.entry.ctx)).eraseDups

/-- What goes on for a saved context goes on for the context that its image is loaded as: queue reservations (R332), copy commands (R345),
commands on their way to task units (R334). A slot that still holds the saved context keeps neither its record nor its item. -/
def State.adopt (s : State) (old new : Nat) : State :=
  let ctx (n : Nat) : Nat := if n = old then new else n
  let slot (x : QSlot) : QSlot := if x = .reserved old then .reserved new else x
  { s with
    slots := s.slots.map fun x => if x.2.ctx = old then (x.1, { x.2 with record := .none, item := .none }) else x
    units := s.units.map fun u => (u.1, { u.2 with
      queues := u.2.queues.map fun q => (q.1, { q.2 with slots := q.2.slots.map slot })
      cmds := u.2.cmds.map fun c => { c with ctx := ctx c.ctx } })
    cores := s.cores.map fun c => (c.1, { c.2 with copyq := c.2.copyq.map fun k => { k with ctx := ctx k.ctx } }) }

/-- The item of an image, at the private area of its new slot, with its crumb map. -/
def State.imageItem (s : State) (sid : Nat) (bs : List Byte) : Option Item :=
  if imageFlag bs 0 then
    let (home, k, gen) := imageLink bs
    let t := ((s.starter home k).map (·.tmpl)).getD 0
    let crumbs := (List.range 64).filterMap fun i =>
      let n := numAt bs (3008 + 2 * i) 2
      if n = 0xFFFF then none else some (i, (n + tmplBase t / 64) % 32768)
    some ⟨home, k, gen, if tmplCrumbs t = 0 then 0 else privateArea t sid, crumbs⟩
  else none

/-- A killed item is live again when its image is loaded, unless another slot still holds it (DESIGN CHOICE, log 48): its count goes back. -/
def State.reviveItem (s : State) (it : Option Item) (ctx : Option Nat) : State :=
  match it with
  | none => s
  | some i =>
    if s.slots.any fun x => some x.2.ctx == ctx && x.2.item.isSome then s
    else match s.starter i.home i.index with
      | some r => if r.killed = 0 ∨ r.gen ≠ i.gen then s else s.setStarter i.home i.index { r with live := r.live + 1, retired := r.retired - 1, killed := r.killed - 1 }
      | none => s

/-- The part in its domain that a loaded strand has (R45, R345). -/
def imageDomain (bs : List Byte) (v : Option Saved) : Domain :=
  let d := (v.map (·.domain)).getD default
  let sent := if imageFlag bs 2 then some (numAt bs 14 2, (d.sent.map (·.2)).getD 0) else none
  { d with sent := sent, result := if sent = d.sent then d.result else .none }

/-- The slot as the image gives it (R367, R369); the slot keeps its messages, its ports and its M bank. -/
def loadedSlot (old : Slot) (bs : List Byte) (regs : Regs) (domain : Domain) (ctx : Nat) (debts : List Nat) (rcd : Option Record) (it : Option Item)
    (was : Option (Bool × Bool)) (sf : Nat → Word) : Slot :=
  let reg (k : Nat) : Word := dwordAt bs (357 + k)
  let dmem := let w := reg 9 &&& 0xFFFF17FFFFFFFFFF; if natField w 40 3 = 7 then setField w 40 3 0 else w
  let area := numAt bs 3000 8
  { old with
    phase := resumedPhase was
    pc := dwordAt bs 2
    regs := regs
    windows := []
    ctl := {
      status := fixStatus (dwordAt bs 3)
      fflags := reg 0 &&& 0x1F
      ix := reg 7
      nx := reg 8
      dmem := dmem
      bwphase := reg 10 &&& 0x0000FFFF00000107
      seed := seedStored (reg 11)
      ienable := reg 14 &&& 0x3F
      timecmp := reg 15
      asid := reg 12 &&& 0xFFFF
      swptea := reg 16 &&& ~~~7
      swpteb := reg 17 &&& ~~~7
      mbox := Vector.ofFn fun k => dwordAt bs (336 + k.val) }
    sTrap := ⟨reg 1, reg 2 &&& 0xFFF, reg 3, reg 4 &&& ~~~63, reg 5 &&& 0x73B, reg 6⟩
    loops := ⟨loopStored (dwordAt bs 344), Vector.ofFn fun k => dwordAt bs (345 + k.val) &&& ~~~0x38,
      Vector.ofFn fun k => dwordAt bs (349 + k.val) &&& ~~~0x38, Vector.ofFn fun k => dwordAt bs (353 + k.val)⟩
    rep := ⟨reg 13 &&& 0x800000003FFFFFFF, if (reg 13).getLsbD 63 then .reload else .off, []⟩
    streams := Vector.ofFn fun k => match imageStream bs k.val (sf k.val) with
      | .ok t => t
      | .error _ => Stream.none
    handles := Vector.replicate 8 .empty
    domain := domain
    record := rcd
    item := it
    idem := ⟨imageFlag bs 3, dwordAt bs 5, numAt bs 13 1 % 8, []⟩
    sched := { Slot.none.sched with ckptAt := if area = 0 then .none else some area }
    ctx := ctx
    debts := debts }

/-- The handles of an image bound (R250, R369): PENDING ones by their tokens, COMPLETE ones with their status. -/
def State.bindHandles (s : State) (sid : Nat) (bs : List Byte) : State :=
  (List.range 8).foldl (fun t h =>
    let w := dwordAt bs (304 + h)
    match imageHandle bs h with
    | 1 => match t.tokenOp w with
      | some (n, o) => t.importOp sid h n o
      | none => t
    | 2 => { t with nextOp := t.nextOp + 1 }.modSlot sid fun x => x.setHandle h (.complete t.nextOp w)
    | _ => t) s

/-- An image loaded into a slot (R369): the current context ends as a kill does. The stores of the context that caches hold merged are sent home,
and the core keeps no line that may be older than what the context has read or written (R254, R275; log 82). -/
def State.loadImage (s : State) (sid : Nat) (bs : List Byte) : State :=
  let msgs := (s.slot sid).msgs
  let s1 := (s.killSlot sid).modSlot sid fun x => { x with msgs := msgs }
  let old := numAt bs 8 2
  let v := s1.saved.find old
  let it := s1.imageItem sid bs
  let s2 := s1.reviveItem it (v.map (·.ctx))
  let rcd := s2.imageRecord bs v
  let s3 := match v with
    | some v => s2.adopt v.ctx s2.nextCtx
    | none => s2
  let debts := s3.imageDebts old v
  let s4 := ((s3.cores.map (·.1)).foldl (State.sendHome debts) s3).acquire (coreOf sid)
  let x := loadedSlot (s4.slot sid) bs (s4.imageFile bs) (imageDomain bs v) s4.nextCtx debts rcd it (v.bind (·.was)) fun k => Config.freeWord (s4.tick + k)
  (({ s4 with nextCtx := s4.nextCtx + 1, tick := s4.tick + 4 }.setSlot sid x).bindHandles sid bs).unpause (coreOf sid)

/-- The lines of an image read as loads. -/
def loadLines : Nat → Nat → M (List Byte)
  | _, 0 => return []
  | a, n + 1 => do
    let bs ← loadGlobal a 64 64
    let rest ← loadLines (a + 64) n
    return bs ++ rest

/-- The CYCLE until which a `ctxload` waits for the pools, once it has begun to (R369): 65,536 cycles of its core. -/
def State.supplyEnd (s : State) : Nat :=
  let fresh := s.myCore.issue.cycle + Config.poolPatience
  match s.me.sched.reply with
  | none => fresh
  | some t => if t = 0 then fresh else t.toNat

/-- The load of an image into a SUSPENDED slot (R369): its status. -/
def loadContext (sid : Nat) (ea : Word) : M Nat := do
  let head ← loadLines ea.toNat 47
  let bs ← (if imageFlag head 0 then do return head ++ (← loadLines (ea.toNat + 3008) 2) else return head)
  let t ← get
  let r := t.imageFile bs
  if t.imageBad sid bs then return 4
  else if !isCompute (coreOf sid) && (r.vv != 0 || numAt bs 3000 8 != 0) then return 6
  else if t.imageRoom sid (r.owned .g) (r.owned .v) (r.owned .p) then
    set (t.loadImage sid bs)
    return 0
  else if t.supplyEnd ≤ t.myCore.issue.cycle then return 6
  else block (.supply t.supplyEnd sid (r.owned .g) (r.owned .v) (r.owned .p))

/-- CTXLOAD (R165, R369): a halt does not abandon it (R365). -/
def execCtxload (f : Bin) (s : State) : Out :=
  privInstr (binShape f) (needSM 0) (do
    let a ← readG 1 f.a
    let ea ← readG 2 f.b
    writeG f.rd (word (← finishing (onSuspended a fun sid => loadContext sid ea)))
    return none) s

end Sys2Proof.Machine
end

