-- ==== Sys2Proof/Machine/Kht.lean ====
section
/-! DEFINITION. The Ethernet port and the Karique Host Transport (R371 to R376): datagrams, sessions, acknowledgements and
resends, and the messages LAUNCH, MEMWRITE and MEMREAD. -/

namespace Sys2Proof.Machine

/-! ### Datagrams (R372) -/

/-- A datagram read as a KHT message; none when MAGIC or CRC is bad, or the payload is not LEN bytes (R372, R373). -/
def khtParse (bs : List Byte) : Option Kht :=
  let payload := bs.drop 32
  if bs.length < 32 ∨ numAt bs 0 2 ≠ 0x4B48 ∨ 8192 < payload.length ∨ payload.length ≠ numAt bs 20 4 then none
  else if numAt bs 28 4 ≠ crc32 (bs.take 28 ++ toBytes 4 0 ++ payload) then none
  else some ⟨numAt bs 4 2, numAt bs 6 2, numAt bs 8 4, numAt bs 12 4, numAt bs 16 4, numAt bs 24 4, numAt bs 2 1 * 256 + numAt bs 3 1, payload⟩

/-! ### Sessions (R373, R374) -/

/-- SEQ a stands before SEQ b, modulo 2^32. -/
def seqBefore (a b : Nat) : Bool :=
  let d := (b % 2 ^ 32 + 2 ^ 32 - a % 2 ^ 32) % 2 ^ 32
  decide (0 < d) && decide (d < 2 ^ 31)

def State.putSession (s : State) (n : Nat) (x : Session) : State :=
  { s with host := { s.host with sessions := s.host.sessions.insert n x } }

/-- A message put among those received, in SEQ order. -/
def insertRx (m : Kht) : List Kht → List Kht
  | [] => [m]
  | y :: ys => if seqBefore m.seq y.seq then m :: y :: ys else y :: insertRx m ys

/-- The lowest SEQ not received. -/
def Session.advance (x : Session) : Nat → Session
  | 0 => x
  | n + 1 => if x.rx.any fun m => m.seq == x.rxNext then Session.advance { x with rxNext := (x.rxNext + 1) % 2 ^ 32 } n else x

/-- The host acknowledges every SEQ below `ack`; messages held back go out (R373). -/
def Session.acked (x : Session) (now ack : Nat) : Session × List Kht :=
  let left := x.unacked.filter fun u => !seqBefore u.m.seq ack
  let go := x.later.take (256 - left.length)
  (go.foldl (fun (y : Session) m => y.transmit now m) { x with unacked := left, later := x.later.drop (256 - left.length) }, go)

/-- A numbered message received: a duplicate is discarded and acknowledged again; beyond the window of 256 it is dropped. -/
def Session.receive (x : Session) (m : Kht) : Session :=
  if seqBefore m.seq x.rxNext || x.rx.any (fun y => y.seq == m.seq) then { x with ackDue := true }
  else if (m.seq + 2 ^ 32 - x.rxNext) % 2 ^ 32 < 256 then
    ({ x with rx := insertRx m x.rx, ackDue := true } : Session).advance 257
  else x

/-- The message that is performed next: in SEQ order, and after the LAUNCH before it has been answered (R375). -/
def Session.ready (x : Session) : Option Kht :=
  if !x.launch.isEmpty then none
  else match x.rx with
    | m :: _ => if seqBefore m.seq x.rxNext then some m else none
    | [] => none

/-- Why a message is not performed: STATUS 2 for another version, STATUS 3 for a TYPE that a host does not send in the version. An
ACK asks for nothing. -/
def Session.refusal (x : Session) (m : Kht) : Option Nat :=
  if m.ver ≠ x.ver then some 2
  else if m.ty = 0x03 ∨ m.ty = 0x10 ∨ m.ty = 0x20 ∨ m.ty = 0x21 ∨ m.ty = 0x30 then none
  else some 3

/-- The TYPE of the answer to a message: its reply, or ACK where it has none. -/
def replyType (ty : Nat) : Nat := if ty = 0x10 then 0x11 else if ty = 0x21 then 0x22 else if ty = 0x30 then 0x31 else 0x03

/-- The head message of a session is used up. -/
def State.popRx (s : State) (n : Nat) : State :=
  match s.host.sessions.find n with
  | some x => s.putSession n { x with rx := x.rx.drop 1 }
  | none => s
/-- The head message answered. -/
def State.answerRx (s : State) (n ty status : Nat) (payload : List Byte) : State := (s.popRx n).khtSend n (replyType ty) status payload

/-- Messages at the head that are refused, or that ask for nothing. -/
def State.settleRx (n : Nat) : Nat → State → State
  | 0, s => s
  | k + 1, s =>
    match s.host.sessions.find n with
    | none => s
    | some x => match x.ready with
      | none => s
      | some m => match x.refusal m with
        | some st => State.settleRx n k (s.answerRx n m.ty st [])
        | none => if m.ty = 0x03 then State.settleRx n k (s.popRx n) else s

/-- The message of a TYPE that a session performs now. -/
def State.readyMsg (s : State) (n ty : Nat) : Option Kht :=
  match s.host.sessions.find n with
  | none => none
  | some x => match x.ready with
    | some m => if m.ty = ty then some m else none
    | none => none
/-- A session with its refused messages answered. -/
def State.settled (s : State) (n : Nat) : State := State.settleRx n 257 s

/-- A session that has received nothing for 1 s ends (R373, R375): its messages not performed, and the records of its LAUNCH not yet
published, are discarded. -/
def State.endSession (s : State) (n : Nat) : State :=
  match s.host.sessions.find n with
  | none => s
  | some x =>
    if x.lastRx + 1000000000 ≤ s.clock.time then
      let mine (c : UnitCmd) : Bool := match c.ans with
        | .launch m _ => m == n
        | _ => false
      { s with
        host := { s.host with sessions := s.host.sessions.erase n }
        units := s.units.map fun u => (u.1, { u.2 with cmds := u.2.cmds.filter fun c => !mine c }) }
    else s
/-- KHT_SESSION_TIMEOUT (R373). -/
def execKhtSessionTimeout (n : Nat) (s : State) : Out := .next (s.endSession n)

/-- A datagram of a session arrives (R373); of one that has ended it is dropped. -/
def State.datagram (s0 : State) (m : Kht) : State :=
  let s := s0.endSession m.session
  match s.host.sessions.find m.session with
  | none => s
  | some x =>
    let (y, go) := Session.acked { x with lastRx := s.clock.time } s.clock.time m.ack
    let z := if m.flags % 2 = 1 then y else y.receive m
    ((s.emit go).putSession m.session z).settled m.session

/-- The Ethernet port works once the firmware of die 0 has trained it (R381; log 83). -/
def State.etherUp (s : State) : Bool := !(s.die 0).absent

/-- ETHERNET_FRAME (R371, R373): KHT is passed on; IEEE 1588 is the discipline of PTP_SYNC; every other frame is dropped. -/
def State.ethernet (s : State) (f : EthFrame) : State :=
  if s.etherUp = false ∨ 9216 < f.size ∨ f.kht = false then s
  else match khtParse f.payload with
    | none => s
    | some m => if m.ty = 0x01 then { s with host := { s.host with hellos := s.host.hellos ++ [m] } } else s.datagram m
def execEthernetFrame (f : EthFrame) (s : State) : Out := .next (s.ethernet f)

/-- The highest of versions 1.0, 1.1 and 1.2 in a host's range (R374). -/
def commonVersion (lo hi : Nat) : Option Nat := [0x102, 0x101, 0x100].find? fun v => decide (lo ≤ v) && decide (v ≤ hi)

/-- HELLO number k of those received is performed (R374): WELCOME opens a session, or carries the range of the device. With 64
sessions open, or a range that is not 4 bytes, no session opens and nothing is sent. -/
def State.welcome (s : State) (k : Nat) : State :=
  match s.host.hellos[k]? with
  | none => s
  | some m =>
    let s1 := { s with host := { s.host with hellos := s.host.hellos.eraseIdx k } }
    if m.payload.length ≠ 4 then s1
    else match commonVersion (numAt m.payload 0 1 * 256 + numAt m.payload 1 1) (numAt m.payload 2 1 * 256 + numAt m.payload 3 1) with
      | some v =>
        if 64 ≤ s.host.sessions.length then s1
        else
          let n := s.host.nextSession
          let x : Session := ⟨v, 0, 0, [], [], [], false, [], none, s.clock.time⟩
          { s1 with host := { s1.host with sessions := s1.host.sessions.insert n x, nextSession := n + 1 } }.emit [⟨0x02, 0, n, 0, 0, 0, v, []⟩]
      | none =>
        let (n, s2) := s1.freeNat
        s2.emit [⟨0x02, 0, 0, 0, 0, 1, n % 2 ^ 16, [1, 0, 1, 2]⟩]
/-- HELLO (R374). -/
def execHello (k : Nat) (s : State) : Out := .next (if s.etherUp then s.welcome k else s)

/-- ACK (R373): the acknowledgement that is owed goes out, with ACKONLY. -/
def State.sendAck (s : State) (n : Nat) : State :=
  match s.host.sessions.find n with
  | none => s
  | some x =>
    if x.ackDue then
      (s.putSession n { x with ackDue := false }).emit [⟨0x03, 1, n, 0, x.rxNext, 0, x.ver, []⟩]
    else s
def execAck (n : Nat) (s : State) : Out := .next ((s.settled n).sendAck n)

/-- The first message whose interval has expired, with its interval doubled up to 1.6 ms. -/
def resendFirst (now : Nat) : List Unacked → Option (Kht × List Unacked)
  | [] => none
  | u :: us =>
    if u.due ≤ now then some (u.m, ⟨u.m, now + Nat.min 1600000 (2 * u.gap), Nat.min 1600000 (2 * u.gap)⟩ :: us)
    else (resendFirst now us).map fun x => (x.1, u :: x.2)
/-- KHT_RESEND (R373). -/
def State.khtAgain (s : State) (n : Nat) : State :=
  match s.host.sessions.find n with
  | none => s
  | some x => match resendFirst s.clock.time x.unacked with
    | none => s
    | some (m, us) =>
      (s.putSession n { x with unacked := us }).emit [{ m with ack := x.rxNext }]
def execKhtResend (n : Nat) (s : State) : Out := .next (s.khtAgain n)

/-! ### LAUNCH (R375) -/

/-- Payload bytes 2 to 7, or 1 to 7, are zero. -/
def zeroBytes (bs : List Byte) (lo hi : Nat) : Bool := ((bs.take hi).drop lo).all fun b => b == 0

/-- The records of a LAUNCH; none when it is malformed (R374). -/
def launchRecords (ver : Nat) (bs : List Byte) : Option (List (List Byte)) :=
  let n := (bs.length - 8) / 64
  if bs.length ≠ 8 + 64 * n ∨ n = 0 ∨ 16 < n ∨ (ver = 0x100 ∧ 1 < n) ∨ zeroBytes bs 2 8 = false then none
  else some ((List.range n).map fun k => (bs.drop (8 + 64 * k)).take 64)

/-- LAUNCH (R375): each record is an `enq` from S mode with SRC 0xFFFF, at the unit of its queue. -/
def State.hostLaunch (s : State) (n : Nat) : State :=
  match s.readyMsg n 0x10 with
  | none => s
  | some m => match launchRecords m.ver m.payload with
    | none => s.answerRx n m.ty 4 []
    | some rs =>
      let s1 := s.popRx n
      match s1.host.sessions.find n with
      | none => s1
      | some x =>
        let q := numAt m.payload 0 2
        let u := if q < 1024 then q / 128 else 0
        let cmds : List UnitCmd := (List.range rs.length).map fun k => ⟨0xFFFF, 0, .s, .enq q (rs[k]?.getD []), .launch n k, false⟩
        (s1.putSession n { x with launch := rs.map fun _ => none }).setUnit u { s1.unit u with cmds := (s1.unit u).cmds ++ cmds }
def execLaunch (n : Nat) (s : State) : Out := .next ((s.settled n).hostLaunch n)

/-! ### MEMWRITE and MEMREAD (R376) -/

/-- Words written in ascending order, as an S-mode engine writes; a failure leaves the rest unwritten. -/
def State.hostWrites (asid : Nat) : List EngWrite → State → EngRes Unit
  | [], s => .ok () s
  | w :: ws, s => match s.engWrite none asid .s w with
    | .ok _ s1 => State.hostWrites asid ws s1
    | r => r

/-- MEMWRITE: answered only when it fails. It waits for a page that is being swapped (R363). -/
def State.hostWrite (s : State) (n : Nat) : State :=
  match s.readyMsg n 0x20 with
  | none => s
  | some m =>
    if m.payload.length < 16 ∨ zeroBytes m.payload 2 8 = false then s.answerRx n m.ty 4 []
    else match s.hostWrites (numAt m.payload 0 2) (dataWrites .g 0 (numAt m.payload 8 8) (m.payload.drop 16) 0) with
      | .ok _ s1 => s1.popRx n
      | .fail code _ s1 => s1.answerRx n m.ty code []
      | .wait _ => s
def execMemwrite (n : Nat) (s : State) : Out := .next ((s.settled n).hostWrite n)

/-- MEMREAD: MEMDATA carries the bytes, or the fault code. -/
def State.hostRead (s : State) (n : Nat) : State :=
  match s.readyMsg n 0x21 with
  | none => s
  | some m =>
    let len := ofBytes (m.payload.drop 16)
    if m.payload.length ≤ 16 ∨ 8176 < len ∨ zeroBytes m.payload 2 8 = false then s.answerRx n m.ty 4 []
    else match s.engReads none (numAt m.payload 0 2) .s .g 0 (wordPieces (numAt m.payload 8 8) len) with
      | .ok bs s1 => s1.answerRx n m.ty 0 bs
      | .fail code _ s1 => s1.answerRx n m.ty code []
      | .wait _ => s
def execMemread (n : Nat) (s : State) : Out := .next ((s.settled n).hostRead n)

end Sys2Proof.Machine
end

