-- ==== Sys2Proof/Machine/Boot.lean ====
section
/-! DEFINITION. Loading and starting (R121 to R125, R377, R380 to R382): Delene images, their negotiation, the boot tree, the start
of the covered cores, power-on reset; and the Onayth Link ports (R379). -/

namespace Sys2Proof.Machine

/-! ### Delene images (R121 to R124) -/

abbrev Image := List Byte

/-- Bytes of a file. -/
def Image.part (i : Image) (off n : Nat) : List Byte := (i.drop off).take n
def Image.num (i : Image) (off n : Nat) : Nat := ofBytes (i.part off n)
def Image.size (i : Image) : Nat := i.num 56 8
def Image.nrole (i : Image) : Nat := i.num 24 4
/-- File offset of entry r of the role table, and its fields by offset and size. -/
def Image.role (i : Image) (r off n : Nat) : Nat := i.num (i.num 32 8 + 64 * r + off) n
/-- `.text`, `.data` and `.scratch` of a role: load address, file offset, size. -/
def Image.text (i : Image) (r : Nat) : Nat × Nat × Nat := (i.role r 16 8, i.role r 24 4, i.role r 28 4)
def Image.data (i : Image) (r : Nat) : Nat × Nat × Nat := (i.role r 32 8, i.role r 40 4, i.role r 44 4)
def Image.scratch (i : Image) (r : Nat) : Nat × Nat × Nat := (i.role r 48 8, i.role r 56 4, i.role r 60 4)
/-- Entry k of the entry table of a role. -/
def Image.entry (i : Image) (r k : Nat) : Nat := i.num (i.role r 8 8 + 8 * k) 8
/-- The start block that opens the role's `.data`. -/
def Image.startBlock (i : Image) (r : Nat) : List Byte := i.part (i.data r).2.1 128
/-- The entries of the placement table, and of the boot tree. -/
def Image.listAt (i : Image) (off : Nat) : List Word :=
  (List.range (i.num off 4)).map fun k => word (i.num (off + 4 + 8 * k) 8)
def Image.places (i : Image) : List Word := i.listAt (i.num 40 8)
def Image.tree (i : Image) : List Word := i.listAt (i.num 48 8)
/-- A table of a count and 8-byte entries lies within the file. -/
def Image.listFits (i : Image) (off : Nat) : Bool := decide (off + 4 + 8 * i.num off 4 ≤ i.size)

/-- A section is absent with its fields zero, or lies within the file (R122). -/
def Image.sectionOk (i : Image) (x : Nat × Nat × Nat) : Bool :=
  if x.2.2 = 0 then x.1 == 0 && x.2.1 == 0 else decide (x.2.1 + x.2.2 ≤ i.size)

/-- A number is an instruction address: a slot of a line (R90). -/
def isInstrAddr (a : Nat) : Bool := decide (a % 64 < 5)

/-- A role table entry holds R122. -/
def Image.roleOk (i : Image) (r : Nat) : Bool :=
  let (ta, _, tn) := i.text r
  let n := i.role r 4 4
  let ent := i.role r 8 8
  decide (i.role r 0 2 < 3) && i.role r 2 2 == 0 && n != 0 && ent % 8 == 0 && decide (ent + 8 * n ≤ i.size) &&
  ta % 64 == 0 && tn % 64 == 0 && i.sectionOk (i.text r) && i.sectionOk (i.data r) && i.sectionOk (i.scratch r) &&
  decide ((i.scratch r).1 < 2 ^ 21) && decide (128 ≤ (i.data r).2.2) && (i.data r).1 % 64 == 0 &&
  ((List.range n).all fun k => isInstrAddr (i.entry r k) && decide (ta ≤ i.entry r k) && decide (i.entry r k < ta + tn)) &&
  !startBlockBad (i.startBlock r)

/-- The role table holds R122: one to three roles of different codes. -/
def Image.rolesOk (i : Image) : Bool :=
  let rs := List.range i.nrole
  decide (1 ≤ i.nrole) && decide (i.nrole ≤ 3) && decide (i.num 32 8 + 64 * i.nrole ≤ i.size) &&
  rs.all i.roleOk && (rs.all fun a => rs.all fun b => a == b || i.role a 0 2 != i.role b 0 2)

/-- The cores whose CORE field matches a ROLE code (R123). -/
def roleFits (role core : Nat) : Bool :=
  if role = 0 then isCompute core else if role = 1 then isRefill core else if role = 2 then isManagement core else false

/-- The placement table holds R123. -/
def Image.placesOk (i : Image) : Bool :=
  i.listFits (i.num 40 8) && i.places.all fun w => w &&& 0xFFFFF800F800FF00 == 0 && decide (natField w 0 8 < i.nrole)

/-- The role that the placement table gives a core. -/
def Image.roleOf (i : Image) (core : Nat) : Option Nat :=
  if coreExists core then
    (i.places.find? fun w => decide (natField w 16 11 ≤ core) && decide (core ≤ natField w 32 11) &&
      roleFits (i.role (natField w 0 8) 0 2) core).map fun w => natField w 0 8
  else none
/-- The covered cores, with their roles. -/
def Image.covered (i : Image) : List (Nat × Nat) := (List.range 2048).filterMap fun c => (i.roleOf c).map fun r => (c, r)

/-- An entry of the boot tree: FROM, TO, role. -/
def edgeOf (w : Word) : Nat × Nat × Nat := (natField w 0 11, natField w 16 11, natField w 32 8)
/-- No FROM forwards an image that it does not hold under an earlier entry or as a management core (R124). -/
def treeGrows : List (Nat × Nat) → List (Nat × Nat × Nat) → Bool
  | _, [] => true
  | held, (a, b, r) :: es => (isManagement a || held.contains (a, r)) && treeGrows ((b, r) :: held) es
/-- The tree has no cycle (R124): entries whose FROM is no TO fall away until none is left. -/
def treeAcyclic : Nat → List (Nat × Nat × Nat) → Bool
  | 0, es => es.isEmpty
  | n + 1, es => es.isEmpty || treeAcyclic n (es.filter fun e => es.any fun x => x.2.1 == e.1)
/-- The boot tree holds R124. An entry whose TO no placement entry covers is no breach of it: that core forwards a role image that it does not
itself start (DESIGN CHOICE, log 93). -/
def Image.treeOk (i : Image) : Bool :=
  let es := i.tree.map edgeOf
  i.listFits (i.num 48 8) && (i.tree.all fun w => w &&& 0xFFFFFF00F800F800 == 0 && decide (natField w 32 8 < i.nrole)) &&
  treeGrows [] es && treeAcyclic es.length es && i.covered.all fun c => isManagement c.1 || (es.countP fun e => e.2.1 == c.1) == 1

/-- The negotiation of R125: the feature set, or one refusal code. Where several conditions fail, it is the lowest of their codes (DESIGN
CHOICE, log 92). -/
def negotiate (i : Image) : Except Nat Nat :=
  if i.num 0 4 ≠ 0x004E4C44 ∨ i.length ≠ i.size ∨ i.size < 64 ∨ crc32 (i.drop 64) ≠ i.num 28 4 then .error 1
  else if i.num 5 1 ≠ 1 ∨ i.num 4 1 ≠ 0 then .error 2
  else if 0x0100 < i.num 6 2 then .error 3
  else if 256 ≤ i.num 8 8 then .error 4
  else if i.rolesOk = false then .error 5
  else if i.placesOk = false then .error 6
  else if i.treeOk = false then .error 7
  else .ok (i.num 8 8 ||| i.num 16 8 % 256)

/-! ### LOAD (R377) -/

def State.boot (s : State) (id : Nat) : Option Boot := s.host.boots.find? fun b => b.id == id
def State.putBoots (s : State) (bs : List Boot) : State := { s with host := { s.host with boots := bs } }
def State.setBoot (s : State) (b : Boot) : State := s.putBoots (s.host.boots.map fun x => if x.id = b.id then b else x)
def State.dropBoot (s : State) (id : Nat) : State := s.putBoots (s.host.boots.filter fun x => x.id != id)

/-- The ASID under which the loader writes and starts: that of the firmware strand (R166, R382). -/
def State.firmwareAsid (s : State) (d : Nat) : Word := (s.slot (mgmtSid d)).ctl.asid

/-- A section written into G. -/
def State.writeSection (s : State) (asid : Nat) (i : Image) (x : Nat × Nat × Nat) : EngRes Unit :=
  s.hostWrites asid (dataWrites .g 0 x.1 (i.part x.2.1 x.2.2) 0)
/-- `.text` and `.data` of every role written into G. -/
def State.writeSections (asid : Nat) (i : Image) : List (Nat × Nat × Nat) → State → EngRes Unit
  | [], s => .ok () s
  | x :: xs, s => match s.writeSection asid i x with
    | .ok _ s1 => State.writeSections asid i xs s1
    | r => r

/-- The `.text` range that a core holds (R166). -/
def State.holdImage (s : State) (i : Image) (core r : Nat) : State :=
  if i.roleOf core = some r then s.setCore core { s.core core with image := some ((i.text r).1, (i.text r).1 + (i.text r).2.2) } else s

/-- Boot forwarding has ended: LOADREPLY with the negotiated set, or refusal code 7 when a core received no image (R382). The cores that did
receive theirs start all the same (DESIGN CHOICE, log 40). -/
def State.bootDone (s : State) (id : Nat) : State :=
  match s.boot id with
  | none => s
  | some b =>
    if !b.edges.isEmpty || !b.sent.isEmpty then s
    else
      let left := b.starts.filter b.holds.contains
      let s1 := if left.isEmpty then s.dropBoot id else s.setBoot { b with starts := left }
      if b.failed || left != b.starts then s1.khtSend b.session 0x31 7 []
      else match negotiate b.image with
        | .ok f => s1.khtSend b.session 0x31 0 (toBytes 8 f)
        | .error c => s1.khtSend b.session 0x31 c []

/-- The messages of at most 256 B that carry a role image (R17): its table entries and its sections. -/
def Image.messages (i : Image) (r : Nat) : Nat :=
  (64 + 8 * i.role r 4 4 + (i.text r).2.2 + (i.data r).2.2 + (i.scratch r).2.2 + 255) / 256

/-- A role image leaves core `a` for core `c` over the control mesh (R124). -/
def State.sendImage (s : State) (id : Nat) (i : Image) (e : Nat × Nat × Nat) : State :=
  let n := i.messages e.2.2
  (List.range n).foldl (fun t k => t.sendMesh e.1 (e.1 / 512) (routerOf (8 * e.1)) (e.2.1 / 512) (routerOf (8 * e.2.1))
    (.image id e.1 e.2.1 e.2.2 (decide (k + 1 = n)))) s

/-- The core exists on a die that takes part in the package (R381). -/
def State.coreUp (s : State) (core : Nat) : Bool := coreExists core && !(s.die (core / 512)).absent

/-- Entries of a boot tree are taken: FROM forwards what it holds; one that FROM can no longer come to hold, or whose TO takes no part,
fails. -/
def State.spread (id : Nat) : Nat → State → State
  | 0, s => s
  | n + 1, s =>
    match s.boot id with
    | none => s
    | some b =>
      let held (e : Nat × Nat × Nat) : Bool := b.holds.contains (e.1, e.2.2)
      let coming (e : Nat × Nat × Nat) : Bool := (b.edges ++ b.sent).any fun x => x != e && x.2.1 == e.1 && x.2.2 == e.2.2
      match b.edges.find? fun e => held e || !coming e with
      | none => s
      | some e =>
        let left := b.edges.erase e
        State.spread id n (if held e && s.coreUp e.2.1 then (s.setBoot { b with edges := left, sent := b.sent ++ [e] }).sendImage id b.image e
          else s.setBoot { b with edges := left, failed := true })
def State.spreadBoot (s : State) (id : Nat) : State :=
  match s.boot id with
  | some b => (State.spread id b.edges.length s).bootDone id
  | none => s

/-- An accepted image: its sections in G, the management cores of the mask holding it, the boot tree taken from there. An image that is
accepted while an earlier one is still on its way is loaded beside it (DEDUCED, log 40). -/
def State.loadAccepted (s : State) (n mask : Nat) (i : Image) : Option State :=
  let dies := (List.range 4).filter fun d => mask.testBit d && !(s.die d).absent
  let asid := (s.firmwareAsid (dies.headD 0)).toNat
  let rs := List.range i.nrole
  let id := s.host.nextBoot
  let add (t : State) (b : Boot) : State := { t with host := { t.host with boots := t.host.boots ++ [b], nextBoot := id + 1 } }
  match s.writeSections asid i (rs.flatMap fun r => [i.text r, i.data r]) with
  | .wait _ => none
  | .fail _ _ s1 => some ((add s1 ⟨id, i, n, [], [], [], [], true, false⟩).bootDone id)
  | .ok _ s1 =>
    let holds := (dies.map fun d => 512 * d + 15).flatMap fun c => rs.map fun r => (c, r)
    let s2 := add s1 ⟨id, i, n, i.tree.map edgeOf, [], holds, i.covered, false, false⟩
    some ((holds.foldl (fun t x => t.holdImage i x.1 x.2) s2).spreadBoot id)

/-- LOAD (R377): the next bytes of the image of the session; the last one ends in the negotiation. -/
def State.hostLoad (s : State) (n : Nat) : State :=
  match s.readyMsg n 0x30, s.host.sessions.find n with
  | some m, some x =>
    let off := numAt m.payload 8 8
    let (mask, had) := if off = 0 then (numAt m.payload 0 1, []) else x.image.getD (0, [])
    if m.payload.length < 16 ∨ zeroBytes m.payload 1 8 = false ∨ off ≠ had.length then s.answerRx n m.ty 4 []
    else
      let i : Image := had ++ m.payload.drop 16
      if i.length < 64 ∨ i.length < i.size then (s.putSession n { x with image := some (mask, i) }).popRx n
      else
        let out := (s.putSession n { x with image := none }).popRx n
        match negotiate i with
        | .error c => out.khtSend n 0x31 c []
        | .ok _ => (out.loadAccepted n mask i).getD s
  | _, _ => s
/-- LOAD (R377). -/
def execLoad (n : Nat) (s : State) : Out := .next ((s.settled n).hostLoad n)

/-! ### Boot forwarding and the start of the cores (R124, R382) -/

/-- The forwarding of a boot-tree entry has ended: TO holds the image, or it has failed. -/
def State.forwarded (s : State) (id : Nat) (e : Nat × Nat × Nat) (ok : Bool) : State :=
  match s.boot id with
  | none => s
  | some b =>
    let b1 := { b with sent := b.sent.erase e }
    (if ok then (s.setBoot { b1 with holds := (e.2.1, e.2.2) :: b.holds }).holdImage b.image e.2.1 e.2.2
      else s.setBoot { b1 with failed := true }).spreadBoot id

/-- The message carries a part of the role image of a boot-tree entry. -/
def MeshBody.ofEdge (id : Nat) (e : Nat × Nat × Nat) : MeshBody → Bool
  | .image k a c r _ => k == id && (a, c, r) == e
  | _ => false

/-- ROLE_IMAGE_FORWARD (R124): a message of a role image has come to TO; the last one completes it. `ok` tells whether it arrived
well: where it did not, the forwarding of the entry fails (R382). -/
def State.forwardImage (s : State) (i : Nat) (ok : Bool) : State :=
  match s.meshTake i with
  | some (m, s1) => match m.body with
    | .image id a c r last =>
      if ok then (if last then s1.forwarded id (a, c, r) true else s1)
      else { s1 with mesh := s1.mesh.filter fun x => !x.body.ofEdge id (a, c, r) }.forwarded id (a, c, r) false
    | _ => s
  | none => s
/-- ROLE_IMAGE_FORWARD (R124). -/
def execRoleImageForward (i : Nat) (ok : Bool) (s : State) : Out := .next (s.forwardImage i ok)

/-- The groups of [a, b) that are not yet allocated, as runs: first group and number of groups. -/
def freeRuns (c : Cluster) : List Nat → List (Nat × Nat)
  | [] => []
  | g :: gs =>
    if (c.groups.find g).isSome || c.failedGroup g then freeRuns c gs
    else match freeRuns c gs with
      | (h, n) :: rest => if h = g + 1 then (g, n + 1) :: rest else (g, 1) :: (h, n) :: rest
      | [] => [(g, 1)]

/-- The `.scratch` contents of a role written into a cluster (R123): the covering groups are allocated with stripe 8; those already
allocated stay as they are. Bytes of a group that cannot be allocated are not written. -/
def Cluster.loadScratch (c : Cluster) (now a : Nat) (bs : List Byte) : Cluster :=
  let c1 := (freeRuns c (groupsTouched a bs.length)).foldl (fun c x => c.allocate now (0x2000 * x.1) (0x2000 * x.2) 0) c
  (wordPieces a (Nat.min bs.length (0x200000 - a))).foldl (fun c p =>
    if c.presentAll p.1 p.2 then c.store p.1 (((bs.drop (p.1 - a)).take p.2).map some) else c) c1

/-- The `.scratch` contents of every role written into the covered clusters, in the order of role index (R123). -/
def State.loadScratches (s : State) (b : Boot) : State :=
  let i : Image := b.image
  (List.range i.nrole).foldl (fun s r =>
    let (a, off, n) := i.scratch r
    (List.range 128).foldl (fun (s : State) cl =>
      if n != 0 && i.role r 0 2 != 2 && (List.range 9).any fun k => i.roleOf (16 * cl + k) = some r && b.holds.contains (16 * cl + k, r)
      then s.setCluster cl ((s.cluster cl).loadScratch s.clock.time a (i.part off n)) else s) s) s

/-- ROLE_START (R382): once the images are forwarded, the `.scratch` contents of every covered cluster are written, and one strand starts on the
core at entry 0 from the start block of its role, if `strandnew` allows it. -/
def State.roleStart (s : State) (core : Nat) : State :=
  match s.host.boots.find? fun b => b.edges.isEmpty && b.sent.isEmpty && b.starts.any fun x => x.1 == core with
  | none => s
  | some b => match b.starts.find? fun x => x.1 == core with
    | none => s
    | some (_, r) =>
      let s1 := if b.scratched then s else s.loadScratches b
      let left := b.starts.erase (core, r)
      let s2 := if left.isEmpty then s1.dropBoot b.id else s1.setBoot { b with starts := left, scratched := true }
      let sid := 8 * core + (if isManagement core then 1 else 0)
      let bs := Image.startBlock b.image r
      match s2.startStatus (word sid) (word (Image.entry b.image r 0)) bs with
      | some _ => s2
      | none => s2.startStrand sid (word (Image.entry b.image r 0)) bs (s.firmwareAsid (core / 512))
/-- ROLE_START (R382). -/
def execRoleStart (core : Nat) (s : State) : Out := .next (s.roleStart core)

/-! ### Power-on reset (R221, R381) -/

/-- The firmware copy of a die fails its CRC-32: a free choice. Such a die takes no part in the package (log 83). -/
def State.firmwareFails (s : State) (d : Nat) : State :=
  let (bad, s1) := s.freeBit
  if bad then (s1.modSlot (mgmtSid d) fun x => { x with phase := .suspended true }).setDie d { s1.die d with absent := true } else s1
/-- The banks of a cluster that fail the self-test (R221). -/
def failedBanks (tick cl : Nat) : List Nat := (List.range 2048).filter (Config.bankFails tick cl)

/-- The state right after power-on reset, with the free choices of the firmware: among them the device number that it assigns (R380, R381). -/
def State.powerOn (s : State) : State :=
  let s0 : State := { State.reset with tick := s.tick + 1, host := { State.reset.host with devnum := Config.freeNat s.tick % 2 ^ 16 } }
  (List.range 128).foldl (fun (t : State) cl => t.setCluster cl { t.cluster cl with failed := failedBanks s.tick cl })
    ((List.range 4).foldl State.firmwareFails s0)
/-- POWER_ON_RESET (R381). -/
def execPowerOnReset (s : State) : Out := .next s.powerOn

/-! ### Onayth Link (R379, R380) -/

def State.setPort (s : State) (p : Nat) (x : Option OlPort) : State :=
  let d := s.die (p / 16 % 4)
  s.setDie (p / 16 % 4) { d with ports := match x with
    | some y => d.ports.insert (p % 16) y
    | none => d.ports.erase (p % 16) }
def State.port (s : State) (p : Nat) : Option OlPort := (s.die (p / 16 % 4)).ports.find (p % 16)

/-- The highest version of the Onayth Link that both ends speak; the other end's range is [lo, hi] (R379). -/
def linkVersion (lo hi : Nat) : Option Nat :=
  (Config.linkVersions.filter fun v => decide (lo ≤ v) && decide (v ≤ hi)).foldl (fun m v => some (Nat.max (m.getD 0) v)) none

/-- OL_LINK_TRAINING: the port comes up with 1, 2 or 4 lanes and the highest common version, or stays down with an error record. `reach` are the
devices that the link reaches. The firmware of a die that takes no part trains no port (R381; log 83). -/
def State.trainPort (s : State) (p lanes lo hi : Nat) (reach : List Nat) : State :=
  if (s.die (p / 16 % 4)).absent then s
  else match decide (lanes = 1) || decide (lanes = 2) || decide (lanes = 4), linkVersion lo hi with
  | true, some v => s.setPort p (some ⟨lanes, v, reach, [], []⟩)
  | _, _ => (s.setPort p none).logError (p / 16 % 4) 8 0 (unitPort (p % 64)) 0
def execOlLinkTraining (p : Nat) (l : LinkUp) (s : State) : Out := .next (s.trainPort p l.lanes l.lo l.hi l.reach)

/-- OL_FLIT_RECEIVE: flit number `n` of a virtual channel arrives. A good one that is the next of its channel is delivered; one that fails its CRC is
sent again from the replay buffer, so that the link delivers flits once and in order. -/
def State.flit (s : State) (p vc n : Nat) (data : List Byte) (crcOk : Bool) : State :=
  match s.port p with
  | some x =>
    if crcOk ∧ n = (x.next.find vc).getD 0 ∧ data.length = 256 then
      s.setPort p (some { x with next := x.next.insert vc (n + 1), rx := x.rx.insert vc ((x.rx.find vc).getD [] ++ [data]) })
    else s
  | none => s
def execOlFlitReceive (p : Nat) (f : Flit) (s : State) : Out := .next (s.flit p f.vc f.num f.data f.crcOk)

/-- The running copy of a core names another package. -/
def CopyCmd.overLink (c : CopyCmd) : Bool := match c.kind with
  | .cpy dsp ssp .. => (dsp == 3 || ssp == 3) && (!c.got.isEmpty || c.begun)
  | _ => false
/-- The running F-space copy of a core ends when its link was the one that failed, or none is left (R380). -/
def State.failFar (s : State) (core : Nat) : State :=
  match (s.core core).copyq with
  | [] => s
  | c :: _ =>
    if c.overLink && c.fail.isNone then
      let (b, s1) := s.freeBit
      if b || !s1.linkTo c.kind.device then s1.putCopy core { c with begun := true, todo := [], fail := some (statusWord cEngine 1 c.written 0 false) } else s1
    else s
/-- OL_LINK_DOWN (R380): a link that was up fails. -/
def State.linkDown (s : State) (p : Nat) : State :=
  match s.port p with
  | none => s
  | some _ => (s.cores.foldl (fun t x => t.failFar x.1) (s.setPort p none)).logError (p / 16 % 4) 8 0 (unitPort (p % 64)) 0
def execOlLinkDown (p : Nat) (s : State) : Out := .next (s.linkDown p)

end Sys2Proof.Machine
end

