-- ==== Sys2Proof/Machine/Power.lean ====
section
/-! DEFINITION. Clocks, power and time: core clocks (R383, R386), the budget and the regions (R384, R385), bank retention (R220,
R222), line fills ahead (R87), the counters of the issue selector (R28, R29), TIME and its lock (R267, R378). -/

namespace Sys2Proof.Machine

def State.modIssue (s : State) (core : Nat) (f : Issue → Issue) : State := s.setCore core { s.core core with issue := f (s.core core).issue }

/-- The slots of a core, by number. -/
def slotsOf (core : Nat) : List Nat := (List.range (slotCount core)).map (8 * core + ·)
def State.anyReady (s : State) (core : Nat) : Bool := (slotsOf core).any fun sid => (s.slot sid).phase == .ready

/-! ### Core clocks (R383, R386) -/

/-- CLOCK_PAUSE: no slot of the core is READY, and neither engine is busy. -/
def State.pauseClock (s : State) (core : Nat) : State :=
  if s.anyReady core || !(s.core core).copyq.isEmpty || !(s.core core).tileq.isEmpty then s
  else s.modIssue core fun x => { x with paused := true }
def execClockPause (core : Nat) (s : State) : Out := .next (s.pauseClock core)

/-- CLOCK_RESTART. -/
def execClockRestart (core : Nat) (s : State) : Out := .next (s.unpause core)

/-- SUPPLY_DROOP: the clock is stretched by up to 25 %; 0 is the end of the droop. -/
def execSupplyDroop (core percent : Nat) (s : State) : Out :=
  .next (s.modIssue core fun x => { x with droop := decide (0 < percent) })

/-- The cores of a die. -/
def coresOf (d : Nat) : List Nat := ((List.range 512).map (512 * d + ·)).filter coreExists

/-- CURRENT_RAMP_HOLD (R386): the die holds core clocks paused; which ones is free. -/
def State.rampHold (s : State) (d : Nat) : State :=
  (coresOf d).foldl (fun t c =>
    let (b, t1) := t.freeBit
    if b then t1.modIssue c fun x => { x with paused := true } else t1) s
def execCurrentRampHold (d : Nat) (s : State) : Out := .next (s.rampHold d)

/-- BALLAST_START, BALLAST_END (R386): the vector unit of a core runs ballast, which touches no architectural state. -/
def State.setBallast (s : State) (core : Nat) (b : Bool) : State :=
  if isCompute core then s.modIssue core fun x => { x with ballast := b } else s
def execBallastStart (core : Nat) (s : State) : Out := .next (s.setBallast core true)
def execBallastEnd (core : Nat) (s : State) : Out := .next (s.setBallast core false)

/-! ### The budget and the regions (R384, R385) -/

def State.modPower (s : State) (d : Nat) (f : Power → Power) : State := s.setDie d { s.die d with power := f (s.die d).power }
/-- What the dies hold in all. -/
def State.heldSum (s : State) : Nat := ((List.range 4).map fun d => (s.die d).power.held).sum

/-- The holdings when PKG has fallen below their sum: each die gives up in proportion; how a fraction of a unit falls is free. -/
def State.shrinkHeld (s : State) (pkg total : Nat) : State :=
  let floorOf (d : Nat) : Nat := (s.die d).power.held * pkg / total
  let spare := pkg - ((List.range 4).map floorOf).sum
  ((List.range 4).foldl (fun (x : State × Nat) d =>
    let (b, t) := x.1.freeBit
    let more := if b ∧ 0 < x.2 ∧ floorOf d < (s.die d).power.held then 1 else 0
    (t.modPower d fun p => { p with held := floorOf d + more }, x.2 - more)) (s, spare)).1
/-- The regions over budget: those whose estimated draw exceeds a sixteenth of what the die holds, while the die's draw exceeds it (R385). -/
def Power.over (p : Power) : BitVec 16 :=
  if p.held < p.draw then (List.range 16).foldl (fun v r => if p.held < 16 * (p.regions.find r).getD 0 then bitOn v r else v) 0 else 0
/-- The power state judged anew whenever a draw or a holding has changed: the regions over budget, and since when the die is. -/
def Power.judge (p : Power) (now : Nat) : Power :=
  { p with
    overBudget := p.over
    overSince := if p.held < p.draw then some (p.overSince.getD now) else none }
def State.judgePower (s : State) : State := (List.range 4).foldl (fun t d => t.modPower d fun p => p.judge t.clock.time) s

/-- A written PKG takes effect: the free units make up the sum. -/
def State.applyPkg (s : State) : State :=
  let total := s.heldSum
  let s1 := if s.budget.pkg < total then s.shrinkHeld s.budget.pkg total else s
  { s1 with budget := { s1.budget with free := s1.budget.pkg - s1.heldSum } }

/-- A die keeps its estimated draw and 5 %, as far as its holding and the free units reach; the rest is free for the others (R384). How a fraction
of a unit falls is free. -/
def State.takeShare (s : State) (d draw : Nat) (regions : List Nat) : State :=
  let (up, s1) := s.freeBit
  let need := draw * 105 / 100 + (if draw * 105 % 100 ≠ 0 ∧ up then 1 else 0)
  let have_ := (s1.die d).power.held + s1.budget.free
  let held := Nat.min need have_
  { s1.modPower d fun p => { p with
      draw := draw
      held := held
      regions := (List.range 16).foldl (fun m r => m.insert r (regions[r]?.getD 0)) [] } with
    budget := { s1.budget with free := have_ - held } }

def MeshBody.isToken : MeshBody → Bool
  | .token => true
  | _ => false
/-- The die that the token goes to next: the next in ring order that takes part in the package (R381, R384). -/
def State.tokenNext (s : State) (d : Nat) : Nat :=
  ([1, 2, 3].map fun k => (d + k) % 4).find? (fun e => !(s.die e).absent) |>.getD (d % 4)

/-- The token passes a die (R384): the management core of the die takes it from the mesh and sends it on. At a die that takes no part it only goes
on. -/
def State.tokenPass (s : State) (d draw : Nat) (regions : List Nat) : State :=
  match (s.meshFind fun m => m.body.isToken && m.die == d && decide (d < 4)).bind s.meshTake with
  | none => s
  | some (_, s1) =>
    let s2 := if (s1.die d).absent then s1 else ((s1.applyPkg).takeShare d draw regions).judgePower
    s2.sendMesh (routerUnit d 40) d 40 (s2.tokenNext d) 40 .token
def execPowerTokenPass (d : Nat) (x : Draws) (s : State) : Out := .next (s.tokenPass d x.total x.regions)

/-- REGION_HOT (R385): HOT from THOT on, until the temperature has fallen to THOT − HYST. -/
def Power.heat (p : Power) (region temp : Nat) : Power :=
  if p.thot ≤ temp then { p with hot := bitOn p.hot region }
  else if temp + p.hyst ≤ p.thot then { p with hot := bitOff p.hot region }
  else p
def execRegionHot (d region temp : Nat) (s : State) : Out := .next (s.modPower d fun p => p.heat region temp)

/-- A die that has drawn more than it holds for 2 µs (R385). -/
def Power.overLong (p : Power) (now : Nat) : Bool :=
  match p.overSince with
  | some t => decide (p.held < p.draw) && decide (t + 2000 ≤ now)
  | none => false
/-- OVER_BUDGET_STRETCH (R385): a die that has drawn more than it holds for 2 µs stretches the clocks of its over-budget regions, and no
others. -/
def State.stretch (s : State) (d : Nat) : State :=
  let p := (s.die d).power
  let on (c : Nat) : Bool := p.overLong s.clock.time && (regionOf c).any p.overBudget.getLsbD
  (coresOf d).foldl (fun t c => if (t.core c).issue.stretched = on c then t else t.modIssue c fun x => { x with stretched := on c }) s
def execOverBudgetStretch (d : Nat) (s : State) : Out := .next (s.stretch d)

/-! ### Retention (R220, R222) -/

/-- A bank of an allocated group stays out of RET: a strand holds a group whose words it holds, or an engine claims a word of it (R220, R226). -/
def State.bankInUse (s : State) (cl bank : Nat) : Bool :=
  let c := s.cluster cl
  match c.groups.find (bank / 8) with
  | none => false
  | some r =>
    (stripeSet r (bank / 8)).any (s.groupHeld cl) ||
    s.cores.any fun x => x.1 / 16 == cl && x.2.tileq.any fun t => t.claims.any fun g =>
      (List.range 8).any fun k => c.bankOf (64 * g + 8 * k) == some bank

/-- The bank may enter RET: its group is allocated, untouched for TIDLE cycles of 2.25 GHz, held by no strand, claimed by no engine. -/
def State.mayRetain (s : State) (cl bank : Nat) (b : Bank) : Bool :=
  let c := s.cluster cl
  c.tidle != 0 && decide (4 * c.tidle ≤ 9 * (s.clock.time - b.touch)) && (c.groups.find (bank / 8)).isSome && !s.bankInUse cl bank

/-- BANK_RET_ENTRY: re-encoding begins, or has ended; a hold or a claim that began meanwhile brings the bank back to ON. -/
def State.retain (s : State) (cl bank : Nat) : State :=
  let c := s.cluster cl
  match c.banks.find bank with
  | some b =>
    if b.st = .on then
      if s.mayRetain cl bank b then s.setCluster cl { c with banks := c.banks.insert bank { b with st := .entering } } else s
    else if b.st = .entering then
      s.setCluster cl { c with banks := c.banks.insert bank { b with st := if s.bankInUse cl bank then .proofing else .ret } }
    else s
  | none => s
def execBankRetEntry (cl bank : Nat) (s : State) : Out := .next (s.retain cl bank)

/-- The row of a word in its bank (R218). -/
def Cluster.rowOf (c : Cluster) (w : Nat) : Nat :=
  match c.groups.find (8 * w / 0x2000) with
  | none => 0
  | some r =>
    let stripe := 8 * 2 ^ r.stripe
    (8 * w - r.first * 0x2000) % (stripe * 1024) / 8 / stripe

/-- Proofing reads a 256-bit group of four words: up to two errors are corrected, more poison the words that have them (R222). -/
def State.proofGroup (s : State) (cl : Nat) (ws : List (Nat × Nat)) : State :=
  let n := (ws.map (·.2)).sum
  let c := s.cluster cl
  let clean := { c with latent := ws.foldl (fun m x => m.erase x.1) c.latent }
  match ws with
  | [] => s
  | (w, _) :: _ =>
    if n ≤ 2 then (s.setCluster cl clean).logError (cl / 32) 2 n (unitCluster cl) (word (8 * w))
    else ws.foldl (fun t x => t.logError (cl / 32) 3 0 (unitCluster cl) (word (8 * x.1)))
      (s.setCluster cl { clean with poison := ws.foldl (fun p x => setInsert p x.1) clean.poison })

/-- PROOFING_COMPLETE: the bank is ON again. -/
def State.proofed (s : State) (cl bank : Nat) : State :=
  let c := s.cluster cl
  match c.banks.find bank with
  | some b =>
    if b.st = .proofing then
      let bad := c.latent.filter fun x => c.bankOf (8 * x.1) == some bank && !c.poison.contains x.1
      let rows := (bad.map fun x => c.rowOf x.1 / 4).eraseDups
      rows.foldl (fun t r => t.proofGroup cl (bad.filter fun x => c.rowOf x.1 / 4 == r))
        (s.setCluster cl { c with banks := c.banks.insert bank ⟨.on, s.clock.time⟩ })
    else s
  | none => s
def execProofingComplete (cl bank : Nat) (s : State) : Out := .next (s.proofed cl bank)

/-! ### Line fills (R87) -/

/-- A line fetched for a strand. A strand that is about to issue from the line takes the trap of a failed fill; a line fetched ahead
raises nothing. -/
def State.fillAhead (s : State) (sid : Nat) (line : Word) : State :=
  match s.fetch sid (lineOf line) with
  | (.line _, s1) => s1
  | (.trap t, s1) =>
    let x := s.slot sid
    if x.phase = .ready ∧ lineOf x.pc = lineOf line ∧ x.sched.vecFetch = false ∧ x.rep.mode = .off ∧ t.cause = cFetchParity then s1.trapAt sid t
    else s
  | (.wait _, _) => s
def execIcacheFill (sid : Nat) (line : Word) (s : State) : Out := .next (if sidExists sid then s.fillAhead sid line else s)

/-! ### The counters of the selector (R28, R29) -/

/-- AGE_PROMOTION: the age counter of a READY strand reaches 1,024. -/
def State.promote (s : State) (sid : Nat) : State :=
  if (s.slot sid).sched.age + 1 = Config.agePromotion then
    s.modSlot sid fun x => { x with sched := { x.sched with age := Config.agePromotion } }
  else s
def execAgePromotion (sid : Nat) (s : State) : Out := .next (s.promote sid)

/-- P3_PERIOD_START: USED returns to 0. -/
def execP3PeriodStart (core : Nat) (s : State) : Out := .next (s.modIssue core fun x => { x with used := 0 })

/-- P3_BUDGET_EXHAUSTED: the count reaches LIMIT. -/
def State.exhaust (s : State) (core : Nat) : State :=
  if (s.core core).issue.used + 1 = (s.core core).issue.limit then s.modIssue core fun x => { x with used := x.limit } else s
def execP3BudgetExhausted (core : Nat) (s : State) : Out := .next (s.exhaust core)

/-! ### TIME (R267, R378) -/

/-- TIMESTAT_K_APPLY: the written exponent takes effect. -/
def State.applyK (s : State) : State :=
  { s with clock := { s.clock with k := s.clock.pendingK.getD s.clock.k, pendingK := none } }
def execTimestatKApply (s : State) : Out := .next s.applyK

/-- LOCK falls and LOST is set. -/
def Clock.lose (c : Clock) : Clock := { c with lock := false, lost := c.lost || c.lock }
/-- No sync has arrived for 10 ms, or the offset exceeds 200 ns. -/
def Clock.unsound (c : Clock) : Bool := decide (200 < c.offset.natAbs) || decide (c.lastSync + 10000000 ≤ c.time)

/-- Time distribution over the control mesh (R14, R16): from router 47 of die 0 to those of the other dies. -/
def State.sendTime (s : State) : State :=
  [1, 2, 3].foldl (fun t d => t.sendMesh (routerUnit 0 47) 0 47 d 47 .time) s

/-- PTP_SYNC: a sync with an estimated offset in ns; within 100 ns it gives LOCK, beyond 200 ns it takes it. TIME itself is slewed: it
never steps. The package has one TIME: the messages that distribute it carry nothing else (log 84). -/
def State.ptp (s : State) (offset : Int) : State :=
  let c : Clock := { s.clock with offset := offset, lastSync := s.clock.time }
  { s.sendTime with clock := if offset.natAbs ≤ 100 then { c with lock := true } else if 200 < offset.natAbs then c.lose else c }
def execPtpSync (offset : Int) (s : State) : Out := .next (s.ptp offset)

/-- TIME_LOCK_LOST. -/
def State.loseLock (s : State) : State := if s.clock.unsound then { s with clock := s.clock.lose } else s
def execTimeLockLost (s : State) : Out := .next s.loseLock

end Sys2Proof.Machine
end

