-- ==== Sys2Proof/Machine/Issue.lean ====
section
/-! DEFINITION. The issue logic of a core and the turns of the agents: when a wait ends (R20 to R22), the boundary of a strand
(R159, R365), the issue selector (R25 to R29, R293), fetch, line checks and decoding at issue (R85 to R92, R111, R155), pairs
(R27), the passing of TIME, and the turns that no row of the opcode table names. -/

namespace Sys2Proof.Machine

/-! ### The end of a wait (R20) -/

/-- The entry overlaps an access of the strand. -/
def SbEntry.inWay (e : SbEntry) (sp : Space) (cl a n : Nat) : Bool :=
  e.sp == sp && (sp == .g || e.cl == cl) &&
    (match e.kind with
     | .empty rs => rs.any fun r => decide (r.1 < a + n) && decide (a < r.1 + r.2)
     | _ => decide (e.addr < a + n) && decide (a < e.addr + Nat.max 1 e.nbytes))

/-- The condition that a strand waits for holds: it may execute its instruction again. -/
def State.waitOver (s : State) (sid : Nat) (w : Wait) : Bool :=
  let core := coreOf sid
  let c := s.core core
  let cl := clusterOf sid
  let x := s.slot sid
  match w with
  | .pool k _ _ _ => s.poolFree core k
  | .handle h => !(x.handle h).isPending
  | .copyQueue => decide (c.copyq.length < Config.engineQueue)
  | .tileQueue => decide (c.tileq.length < Config.engineQueue)
  | .dgeQueue => decide (c.dge.length < 4)
  | .storeRoom => decide (c.sb.length < Config.storeBufferEntries)
  | .stores => (s.ownEntries sid).isEmpty
  | .sideLog => (s.ownLog sid).isEmpty
  | .logRoom n => decide (n ≤ c.logRoom.length)
  | .merged => (s.ownLog sid).isEmpty
  | .drained => (s.ownEntries sid).isEmpty && (s.ownLog sid).isEmpty
  | .overlap sp k a n =>
    !((s.ownEntries sid).any fun e => e.inWay sp k a n) && !((s.ownLog sid).any fun e => e.2.entry.inWay sp k a n)
  | .order ctx seq => !c.sb.any fun e => e.ctx == ctx && decide (e.seq < seq)
  | .full word _ => (s.cluster cl).isFull word || ((s.cluster cl).firstAbsent (8 * word) 8).isSome
  | .proof k banks => banks.all fun b =>
      match (s.cluster k).bankState b with
      | some .proofing => false
      | some .entering => false
      | _ => true
  | .errors .. => true
  | .wfi deadline => x.raised s.clock.time != 0 || decide (deadline ≤ s.clock.time)
  | .swapBusy pa => !(s.read8 pa).getLsbD 10
  | .target t ctx => (s.slot t).phase.isSuspended || (s.slot t).phase == .free || (s.slot t).ctx != ctx
  | .claims a n => !s.claimedRange cl a n
  | .bankStores a n => !s.buffered cl a n
  | .acc => true
  | .window t => decide (t ≤ s.clock.time) || (s.ownEntries sid).isEmpty || !s.clock.lock
  | .sync => x.domain.result.isSome || (s.heard sid).isSome
  | .work => false
  | .deq q => (s.queue q).visible.isSome || !(s.queue q).enabled
  | .xrecv => !(s.cluster cl).inbox.packets.isEmpty
  | .checkpoint t => !(s.slot t).sched.ckptDue
  | .handles => !x.anyPending
  | .reply _ => x.sched.reply.isSome
  | .unit u => !s.onWay sid u
  | .supply t k g v p => decide (t ≤ c.issue.cycle) || s.imageRoom k g v p
  | .translated => true
  | .again _ => true
  | .finishing v => s.waitOver sid v

/-- What the end of a wait leaves for the instruction to find: the end of its target (R165, R370), when its wait for the pools ends (R369), that
it has begun (R365). -/
def State.answerOf (s : State) (sid : Nat) : Wait → Option Word
  | .target t ctx => some (if (s.slot t).phase.isSuspended && (s.slot t).ctx == ctx then 0 else 2)
  | .finishing (.supply t _ _ _ _) => some (word t)
  | .finishing _ => some ((s.slot sid).sched.reply.getD 0)
  | _ => (s.slot sid).sched.reply

/-- A strand whose wait has ended becomes READY, and the clock of its core runs (R21, R383). -/
def State.wake (s : State) (sid : Nat) : State :=
  let go (w : Wait) (sched : Sched) : State :=
    if s.waitOver sid w then (s.modSlot sid fun x => { x with phase := .ready, sched := sched }).unpause (coreOf sid) else s
  let ended (w : Wait) (waiting : Bool) : State :=
    let q := (s.slot sid).sched
    match w with
    | .again i => go w { q with redo := i, was := some (waiting, i) }
    | _ => go w { q with waited := w.issued, reply := s.answerOf sid w }
  match (s.slot sid).phase with
  | .blocked w => ended w false
  | .waiting w => ended w true
  | _ => s

/-- The engine checkpoint of a strand that goes on is restored; until it is, the strand is BLOCKED (R322). -/
def State.tryRestore (s : State) (sid : Nat) : State :=
  if (s.slot sid).phase = .ready ∧ (s.slot sid).sched.ckptAt.isSome then
    let s1 := s.restore sid
    if (s1.slot sid).sched.ckptAt.isSome then s1.modSlot sid fun x => { x with phase := .blocked .acc } else s1
  else s

/-- A strand at an instruction boundary: its wait may end, a requested halt and an interrupt are taken (R159, R365). -/
def State.boundary (s : State) (sid : Nat) : State :=
  let s1 := s.wake sid
  let s2 := if (s1.slot sid).mayHalt then s1.haltSlot sid false else s1
  (s2.takeInterrupt sid).tryRestore sid

/-! ### The issue selector (R25 to R29, R293) -/

/-- The effective priority of a slot. -/
def State.eprio (s : State) (sid : Nat) : Nat := (s.core (coreOf sid)).eprio (s.slot sid)

def State.isReady (s : State) (sid : Nat) : Bool := (s.slot sid).phase == .ready

/-- A strand that has executed `yield` is passed over. -/
def State.passedOver (s : State) (sid : Nat) : Bool :=
  match (s.slot sid).sched.yielded with
  | none => false
  | some (n, issued) => decide (n < 16) && (slotsOf (coreOf sid)).any fun t =>
      t != sid && s.isReady t && decide (s.eprio sid ≤ s.eprio t) && !issued.contains t

/-- The strand that issues, with its effective priority: the first candidate of the highest after the position of that priority. -/
def State.choose (s : State) (core : Nat) : Option (Nat × Nat) :=
  let may := (slotsOf core).filter fun sid => s.isReady sid && !s.passedOver sid
  match may with
  | [] => none
  | _ =>
    let top := may.foldl (fun m sid => Nat.max m (s.eprio sid)) 0
    let last := (s.core core).issue.pos[top % 4]'(Nat.mod_lt _ (by decide))
    (((List.range 8).map fun k => 8 * core + (last + 1 + k) % 8).find? fun sid => may.contains sid && s.eprio sid == top).map fun sid => (sid, top)

/-- A priority-3 issue counts against LIMIT (R29). -/
def State.countP3 (s : State) (core : Nat) (chosen : Nat × Nat) : State :=
  if chosen.2 = 3 ∧ (slotsOf core).any (fun sid => s.isReady sid && decide ((s.slot sid).promoted < 3)) then
    let i := (s.core core).issue
    if i.used + 1 = i.limit then s.exhaust core else s.modIssue core fun x => { x with used := x.used + 1 }
  else s

/-- A `yield` in force counts the cycle, and the strand that issues in it (R293). -/
def Sched.yieldTick (q : Sched) (chosen : Option Nat) : Sched :=
  { q with yielded := q.yielded.map fun y => (y.1 + 1, match chosen with
    | some c => setInsert y.2 c
    | none => y.2) }

/-- The age and `yield` of a slot after a cycle in which `chosen` issued (R28, R293). -/
def State.ageSlot (s : State) (chosen : Option Nat) (sid : Nat) : State :=
  if chosen = some sid then s.modSlot sid fun x => { x with sched := { x.sched with age := 0, yielded := none } }
  else
    let s1 := if !s.isReady sid then s
      else if (s.slot sid).sched.age + 1 < Config.agePromotion then
        s.modSlot sid fun x => { x with sched := { x.sched with age := x.sched.age + 1 } }
      else s.promote sid
    if (s1.slot sid).sched.yielded.isSome then s1.modSlot sid fun x => { x with sched := x.sched.yieldTick chosen } else s1

/-- The ages and `yield`s of a core after the choice of a cycle. -/
def State.ageAll (s : State) (core : Nat) (chosen : Option Nat) : State := (slotsOf core).foldl (fun t sid => t.ageSlot chosen sid) s

/-- The counters of a core after the choice of a cycle. -/
def State.account (s : State) (core : Nat) (chosen : Nat × Nat) : State :=
  let s1 := s.countP3 core chosen
  let s2 := s1.modIssue core fun x => { x with pos := x.pos.set (chosen.2 % 4) (chosen.1 % 8) (Nat.mod_lt _ (by decide)) }
  s2.ageAll core (some chosen.1)

/-- A cycle of the clock begins: CYCLE counts it, and a period of P3BUDGET may begin (R29, R152). -/
def State.beginCycle (s : State) (core : Nat) : State :=
  let s1 := if (s.core core).issue.cycle % Config.p3Period = 0 then s.modIssue core fun x => { x with used := 0 } else s
  s1.modIssue core fun x => { x with cycle := x.cycle + 1 }

/-! ### From the pc to an instruction (R85 to R92, R111, R155, R209) -/

/-- What a strand that was chosen comes to: the instruction it executes, or a state in which it executes none. -/
inductive Prepared where
  | idle (s : State)
  | issue (i : Instr) (s : State)
deriving DecidableEq, Repr

/-- The fetch of the issuing strand fails: its trap; at TVEC in S, MACHINE_CHECK in M; at MTVEC, the debug halt (R155). A fetch at TVEC that
an `eret` from M tries again is an ordinary one: where it fails, its trap in S comes before MACHINE_CHECK (DESIGN CHOICE, log 96). -/
def State.fetchTrap (s : State) (t : Trap) : State :=
  let x := s.me
  if x.sched.vecFetch then
    if x.mode = .m then (s.haltSlot s.cur true).logError (dieOf s.cur) 10 0 (unitSlot s.cur) x.pc
    else takeTrap { cause := cMachine, tval := x.pc, xinfo := t.xinfo } s
  else takeTrap t s

/-- The instruction in a slot of the issuing strand, or its encoding trap. -/
def State.issueBits (s : State) (w lit : SlotBits) : Prepared :=
  match decodeOn (coreOf s.cur) w lit with
  | .ok i => .issue i s
  | .error t => .idle (takeTrap t s)

/-- The literal that follows slot k of a line. -/
def literalAt (line : BitVec 512) (k : Nat) : SlotBits := if k < 4 then lineSlot line (k + 1) else 0

/-- The instruction at the pc, from its line: the check of an entry point, the line checks, and the slot; a pc at no occupied slot goes
on to the next one. After the last line of the address space there is none (R93). -/
def State.issueLine (s : State) (line : BitVec 512) : Prepared :=
  let x := s.me
  let s1 : State := { s.setMe { x with sched := { x.sched with vecFetch := false, checked := false } } with line := line }
  if x.sched.checked && !lineTmask line (slotOf x.pc) then .idle (takeTrap { cause := cIllegalTarget, tval := x.pc } s1)
  else match lineFault line with
  | some sub => .idle (takeTrap { cause := cReservedField, tval := lineOf x.pc ||| word sub } s1)
  | none => match firstSlot line (slotOf x.pc) with
    | none =>
      let next := lineOf x.pc + 64
      .idle (s1.setMe { s1.me with pc := next, sched := { s1.me.sched with beyond := next == 0 } })
    | some k =>
      let pc := lineOf x.pc ||| word k
      (if pc = x.pc then s1 else s1.setMe { s1.me with pc := pc }).issueBits (lineSlot line k) (literalAt line k)

/-- The instruction that the strand `cur` issues next. One that has fallen off the last line of the address space takes NONCANON (R93). A repetition that resumes checks the pc first (R156, R209). -/
def State.nextIssue (s : State) : Prepared :=
  let fetched (s : State) : Prepared :=
    match s.me.rep.mode with
    | .running => match s.me.rep.current with
      | some (w, lit) => s.issueBits w lit
      | none => .idle (s.setMe { s.me with rep := ⟨bitOff s.me.rep.state 63, .off, []⟩ })
    | _ => match s.fetch s.cur s.me.pc with
      | (.line b, s1) => s1.issueLine b
      | (.trap t, s1) => .idle (s1.fetchTrap t)
      | (.wait w, s1) => .idle (waitState w false s1)
  if s.me.sched.beyond then .idle (s.fetchTrap { cause := cNoncanon, tval := 0 })
  else match s.me.rep.mode with
  | .reload => match s.me.pcTrap s.me.pc, repResume s with
    | some t, _ => .idle (s.fetchTrap t)
    | none, .ok (_, s1) => fetched s1
    | none, .error (.trap t) => .idle (takeTrap t s)
    | none, .error (.wait w b) => .idle (waitState w b s)
    | none, .error (.done s1) => .idle s1
  | _ => fetched s

/-! ### Broken promises (R106) -/

/-- A register set to the value that another file holds in it. -/
def Regs.copyFrom (r from_ : Regs) (c : Cls) (num : Nat) : Regs :=
  let n := BitVec.ofNat 5 num
  match c with
  | .g => r.putG n (from_.getG n)
  | .v => r.putV n (from_.getV n)
  | .p => r.putP n (from_.getP n)
  | .x => r

/-- A register set to a value. -/
def Regs.force (r : Regs) (c : Cls) (num val : Nat) : Regs :=
  match c with
  | .g => r.putG (BitVec.ofNat 5 num) (word val)
  | .v => r.putV (BitVec.ofNat 5 num) (BitVec.ofNat 512 val)
  | .p => r.putP (BitVec.ofNat 5 num) (word val)
  | .x => r

/-- A source of the window was written by the last instruction, and not before. -/
def Window.newlyHit (w : Window) (old : List Window) : Bool :=
  !w.seen && (w.srcs.any fun x => x.hit) &&
    !(old.any fun v => v.cls == w.cls && v.num == w.num && v.ins == w.ins && (v.srcs.map (·.hit)) == w.srcs.map (·.hit))

/-- The next element of a bound load stream read before its pop (R199). -/
def readAhead (k : Nat) : M Unit := do
  let t := (← getMe).stream k
  let q := match t.ahead.getLast? with
    | some e => Nat.max (e.1 + 1) t.pos.toNat
    | none => t.pos.toNat
  if t.bound && !t.isStore && t.kind != 0 then
    match ← elemAddr t q with
    | none => return ()
    | some ea =>
      let bs ← elemBytes t ea
      modMe fun x => x.setStream k { x.stream k with ahead := NMap.insert (x.stream k).ahead q bs }

/-- The streams that an instruction popped on its way from `s` to `t`, as they were, with what it popped in `ahead`. -/
def State.popped (s t : State) : List (Nat × Stream) :=
  ((List.range 4).filter fun k => (s.me.stream k).pos != (t.me.stream k).pos && !(s.me.stream k).isStore).map fun k =>
    let n := ((t.me.stream k).pos - (s.me.stream k).pos).toNat % 8
    let read (u : State) (_ : Nat) : State := match readAhead k u with
      | .ok (_, u1) => u1
      | .error _ => u
    (k, ((List.range n).foldl read s).me.stream k)

/-- What a source register of the window's instruction held: of a bound stream, the element that it popped. -/
def Window.gVal (w : Window) (r : Reg) : Nat :=
  if r.n = 0 then 0
  else match w.popped.find? fun x => 24 + x.1 == r.n.toNat with
    | some (_, t) => (t.extend ((NMap.find t.ahead t.pos.toNat).getD [])).toNat
    | none => ((w.srcs.find? fun x => x.names .g r.n).map (·.val)).getD 0

/-- Memory as the window's instruction found it: what an atomic replaced, or the bit that `ldlt` took, put back (R106). -/
def State.asFound (t : State) (w : Window) : State :=
  let old := toBytes 8 (t.me.regs.peek w.cls (BitVec.ofNat 5 w.num)).1
  let place (ea : Int) : Nat := crumbRead t ea.toNat
  let cl := clusterOf t.cur
  match w.ins with
  | some (.amol f) =>
    let n := amoBytes f
    t.setCluster cl ((t.cluster cl).store (place (w.gVal f.base + f.disp.toInt)) ((old.take n).map some))
  | some (.amog f) =>
    let n := amoBytes f
    match xlatRange .rmw ((w.gVal f.base : Int) + f.disp.toInt).toNat n t with
    | .ok (pas, _) => t.storePhys pas ((old.take n).map some)
    | .error _ => t
  | some (.ldlt f) =>
    let ea := effAddr (word (w.gVal f.ad.base)) (word (w.gVal f.ad.index)) f.ad.scale f.ad.disp
    t.setCluster cl ((t.cluster cl).setFull (place ea / 8))
  | _ => t

/-- The result of the window's instruction when each source that was written gives its prior or its new value, which is free, and the other
sources give what they held (R106, log 12), over the memory and the stream elements that it found: the destination alone takes it. -/
def State.reread (run : Instr → State → Out) (t : State) (w : Window) : State :=
  match w.ins with
  | none => t
  | some i =>
    let new (k : Nat) (x : WindowSrc) : Bool := x.hit && Config.freeBit (t.tick + k)
    let srcs := (List.range w.srcs.length).zip w.srcs
    let t1 : State := { t with tick := t.tick + w.srcs.length }
    if srcs.any fun x => new x.1 x.2 then
      let regs := srcs.foldl (fun r x => if new x.1 x.2 then r else Regs.force r x.2.cls x.2.num x.2.val) t.me.regs
      let t2 := t1.asFound w
      let x := w.popped.foldl (fun (x : Slot) p => x.setStream p.1 p.2) t2.me
      match run i (t2.setMe { x with regs := regs, windows := [], rep := { x.rep with mode := .off } }) with
      | .next u => if u.me.phase = .ready ∧ u.me.sched.vecFetch = false then
          t1.setMe { t1.me with regs := t1.me.regs.copyFrom u.me.regs w.cls w.num } else t1
      | _ => t1
    else t1

/-- The strand waits for its next instruction to be able to issue (R20, R21). -/
def State.holding (s : State) (sid : Nat) : Bool :=
  match (s.slot sid).phase with
  | .blocked w => !w.issued
  | .waiting w => !w.issued
  | _ => false

/-- An instruction that has issued from the state `s`: the windows it opened are its own, and broken promises are made good. Words that it has
read early are forgotten with it (R253). -/
def State.issued (run : Instr → State → Out) (i : Instr) (s t : State) : State :=
  let t1 := t.setMe { t.me with
    windows := t.me.windows.map fun w => if w.ins.isNone then { w with ins := some i, popped := s.popped t } else w
    sched := if t.holding t.cur then t.me.sched else { t.me.sched with early := [] } }
  (t1.me.windows.filter fun w => w.newlyHit s.me.windows).foldl (State.reread run) t1

/-! ### A cycle up to its issue (R20, R21, R25) -/

/-- What a strand comes to when its next instruction executes, over the meanings of the instructions. -/
def Prepared.run (p : Prepared) (run : Instr → State → Out) : Out :=
  match p with
  | .idle s => .next s
  | .issue i s => match run i s with
    | .next t => .next (State.issued run i s t)
    | r => r

/-- What a strand does outside its issues keeps the model's own fields. -/
def State.aside (t s : State) : State := { t with cur := s.cur, line := s.line }

/-- A READY strand whose instruction had issued completes it, or executes it again after a halt, without an issue (R21, R162, R241; log 85). -/
def State.complete (run : Instr → State → Out) (s : State) (sid : Nat) : State :=
  let q := (s.slot sid).sched
  if s.isReady sid && (q.waited || q.redo) then
    match (State.nextIssue { s with cur := sid }).run run with
    | .next t => (t.aside s).modSlot sid fun x => { x with sched := { x.sched with waited := false, redo := false, was := .none } }
    | _ => s
  else s

/-- The strand has gone on from an unoccupied slot to the next line, and has issued nothing (log 21). -/
def State.slipped (t s : State) (sid : Nat) : Bool :=
  t.isReady sid && !(t.slot sid).sched.vecFetch && (t.slot sid).pc != (s.slot sid).pc

/-- A READY strand whose next instruction cannot issue is BLOCKED or WAITING (R20, R21, R25). -/
def State.hold (run : Instr → State → Out) (sid : Nat) : Nat → State → State
  | 0, s => s
  | n + 1, s =>
    if s.isReady sid then
      match State.nextIssue { s with cur := sid } with
      | .idle t =>
        if t.holding sid then t.aside s
        else if t.slipped s sid then State.hold run sid n (t.aside s)
        else s
      | .issue i u => match run i u with
        | .next t => if t.holding sid then t.aside s else s
        | _ => s
    else s

/-- A strand before the choice of a cycle: what has issued completes; a strand whose next instruction cannot issue waits, and issues nothing
(R20, R21, R25; log 85). -/
def State.settle (run : Instr → State → Out) (s : State) (sid : Nat) : State := State.hold run sid 2 (s.complete run sid)

/-- A core at the start of a cycle (R25): the boundaries of its strands, its clock, and which of them are READY. -/
def State.atCycle (s : State) (run : Instr → State → Out) (core : Nat) : State :=
  let s1 := (slotsOf core).foldl State.boundary s
  if (s1.core core).issue.paused then s1 else (slotsOf core).foldl (State.settle run) (s1.beginCycle core)

/-- The strand that issues in a cycle of a core, with its effective priority; a paused clock issues nothing (R25). -/
def State.chosen (s : State) (core : Nat) : Option (Nat × Nat) := if (s.core core).issue.paused then none else s.choose core

/-- The cycle of a core up to the instruction that the chosen strand issues. -/
def State.prepare (s : State) (core : Nat) (ch : Nat × Nat) : Prepared := State.nextIssue { s.account core ch with cur := ch.1 }

/-! ### Pairs (R27, R116) -/

def scalarSide (w : SlotBits) : Bool :=
  let op := natField w 88 8
  !isLitForm w && ((decide (0x01 ≤ op) && decide (op ≤ 0x56)) || (decide (0xC0 ≤ op) && decide (op ≤ 0xC3)) || op == 0xD0 || op == 0xD1)
def vectorSide (w : SlotBits) : Bool :=
  let op := natField w 88 8
  !isLitForm w && ((decide (0x80 ≤ op) && decide (op ≤ 0xBF)) || (decide (0xC4 ≤ op) && decide (op ≤ 0xC7)) || op == 0xD2 || op == 0xD3 ||
    (decide (0xE0 ≤ op) && decide (op ≤ 0xE3)) || (decide (0xE8 ≤ op) && decide (op ≤ 0xEE)))

/-- The second instruction of a pair that issues with the first, which was at the pc of `s`, in a line and not in a repetition, and has retired
into `t`; the instruction at LEND is never the first (R147). Whether both can issue in one cycle is free. -/
def State.pairOf (s t : State) : Prepared :=
  let pc := s.me.pc
  let k := slotOf pc
  let x := t.me
  if s.me.rep.mode = .off ∧ s.me.loops.endsAt pc = false ∧ x.phase = .ready ∧ x.rep.mode = .off ∧ x.sched.vecFetch = false ∧
      x.pc = lineOf pc ||| word (k + 1) ∧ linePair s.line k ∧ scalarSide (lineSlot s.line k) ∧ vectorSide (lineSlot s.line (k + 1)) then
    let (b, t1) := t.freeBit
    if b then t1.issueBits (lineSlot s.line (k + 1)) (literalAt s.line (k + 1)) else .idle t1
  else .idle t

/-- The second instruction of a pair issues with the first if it can; a trap of it leaves the first retired (R27). -/
def State.second (run : Instr → State → Out) (s t : State) : State :=
  match s.pairOf t with
  | .idle t1 => t1
  | p => match p.run run with
    | .next u => if u.holding u.cur then t else u
    | _ => t

/-- A cycle of a core in which no strand issues: READY strands age, and a `yield` in force counts it (R28, R293). -/
def State.restCycle (s : State) (core : Nat) : State := if (s.core core).issue.paused then s else s.ageAll core none

/-- The issue of a cycle, over the meanings of the instructions: of one instruction or of a pair. A chosen strand that turns out to wait issues
nothing and is none of the READY ones, and the next is chosen (R25). -/
def State.issueOne (run : Instr → State → Out) (core : Nat) : Nat → State → Out
  | 0, s => .next (s.restCycle core)
  | n + 1, s => match s.chosen core with
    | none => .next (s.restCycle core)
    | some ch => match s.prepare core ch with
      | .idle t =>
        if t.holding ch.1 || t.slipped s ch.1 then State.issueOne run core n (State.settle run s ch.1) else .next t
      | .issue i s2 => match run i s2 with
        | .next t =>
          let u := State.issued run i s2 t
          if u.holding ch.1 then State.issueOne run core n (State.settle run s ch.1) else .next (State.second run s2 u)
        | r => r

/-- A cycle of a core: at most one issue. -/
def State.cycle (s : State) (run : Instr → State → Out) (core : Nat) : Out := State.issueOne run core 8 (s.atCycle run core)

/-! ### TIME -/

/-- TIME until a session has been silent for 1 s (R373). -/
def State.untilSilent (s : State) (ns : Nat) : Nat :=
  s.host.sessions.foldl (fun m x => if s.clock.time < x.2.lastRx + 1000000000 then Nat.min m (x.2.lastRx + 1000000000 - s.clock.time) else m) ns

/-- A window ends once every store of it that can perform has (R262, R264): TIME stops 1 ns before its end while one has not. -/
def State.endWindow (s : State) (now : Nat) : State :=
  let s1 : State := { s with clock := { s.clock with time := now - 1 } }
  let s2 := (s1.cores.map (·.1)).foldl (fun t c => State.drainAll c (8 * Config.storeBufferEntries) t) s1
  if (s2.cores.map (·.1)).any s2.unperformed then s2 else { s2 with clock := { s2.clock with time := now } }

/-- TIME goes on by at most `ns`, and stops at the next window start, at the next multiple of 2^12 while an exponent is pending, where
10 ms without a sync end the lock, and where a session ends. -/
def State.passTime (s : State) (ns : Nat) : State :=
  let c := s.clock
  let w := 2 ^ c.k
  let toWindow := w - c.time % w
  let toK := if c.pendingK.isSome then 4096 - c.time % 4096 else ns
  let toLoss := if c.lock ∧ c.time < c.lastSync + 10000000 then c.lastSync + 10000000 - c.time else ns
  let d := Nat.min (Nat.min (Nat.min ns toWindow) (Nat.min toK toLoss)) (s.untilSilent ns)
  if d = 0 then s
  else
    let s0 := if (c.time + d) % w = 0 then s.endWindow (c.time + d) else { s with clock := { c with time := c.time + d } }
    let s1 := (s0.host.sessions.map (·.1)).foldl State.endSession s0
    let s2 := if s1.clock.time % 4096 = 0 ∧ c.pendingK.isSome then s1.applyK else s1
    let s3 := if s2.clock.lock then s2.loseLock else s2
    if s3.clock.time % w = 0 then (s3.cores.map (·.1)).foldl State.windowBoundary s3 else s3

/-! ### Turns -/

/-- A stream of a strand reads ahead; where it would fault or wait, nothing happens (R199). -/
def State.aheadTurn (s : State) (sid k : Nat) : State :=
  match readAhead k { s with cur := sid } with
  | .ok (_, s1) => { s1 with cur := s.cur }
  | .error _ => s

/-- An aligned word that the next load of the strand reads before its other words: as that load would read it, and no part of a store of the
strand that is still on its way (R253 to R256). -/
def earlyWord (sp : Space) (a : Nat) : M Unit := do
  let s ← get
  let w := a / 8 * 8
  let word ← (match sp with
    | .g => do
      let asid := effAsid s.me.ctl.asid.toNat w
      if (s.ownEntries s.cur).any fun e => e.overlaps .g 0 asid w 8 then block .stores
      gCheck w 8 8
      return (⟨.g, asid, w / 8, ← loadGlobalAt w 8 false⟩ : EarlyWord)
    | _ => do
      let (cl, p) ← localPlace .l w 8 8 false
      if (← forwarded .l cl 0 [(p, 8)]).isSome then block .stores
      return ⟨.l, cl, p / 8, ← readLocal .l cl p 8⟩)
  modMe fun x => { x with sched := { x.sched with early := x.sched.early ++ [word] } }

/-- A READY strand reads a word early; where it would fault or wait, nothing happens (R253). -/
def State.wordTurn (s : State) (sid : Nat) (sp : Space) (a : Nat) : State :=
  if s.isReady sid && !(s.slot sid).sched.waited then
    match earlyWord sp a { s with cur := sid } with
    | .ok (_, s1) => { s1 with cur := s.cur }
    | .error _ => s
  else s

/-- An error in an HBM word (R387): corrected, or the word is poisoned. -/
def State.hbmError (s : State) (pa : Nat) (corrected : Bool) : State :=
  let s1 := if corrected then s else { s with hbmPoison := setInsert s.hbmPoison (pa / 8) }
  s1.logError (frameDie pa) (if corrected then 6 else 7) (if corrected then 1 else 0) (unitStack (2 * frameDie pa + frameSide pa)) (word pa)

/-- A line of the data cache leaves; its merged bytes go home (R258). -/
def State.evictLine (s : State) (core k : Nat) : State :=
  match (s.core core).dcache[k]? with
  | some x => s.evictLines core x.same
  | none => s

/-- A turn of an agent that no row of the opcode table names, or a cycle of a core, over the meanings of the rows. -/
def State.takeTurn (s : State) (run : Instr → State → Out) : Turn → Out
  | .cycle core => if coreExists core then s.cycle run core else .next s
  | .event i => if i.autonomous then run i s else .next s
  | .readAhead sid k => .next (s.aheadTurn sid k)
  | .readWord sid sp a => .next (s.wordTurn sid sp a)
  | .evictLine core k => .next (s.evictLine core k)
  | .evictCode core k => .next (s.setCore core { s.core core with icache := (s.core core).icache.eraseIdx k })
  | .evictTlb die k => .next (s.setDie (die % 4) { s.die (die % 4) with tlb := (s.die (die % 4)).tlb.eraseIdx k })
  | .tileStep core => .next (s.tileStep core)
  | .swapStep die k => .next (s.swapBegin (die % 4) k)
  | .upset cl w =>
    let c := s.cluster (cl % 128)
    .next (if c.present (8 * w) then s.setCluster (cl % 128) { c with latent := c.latent.insert w ((c.latent.find w).getD 0 + 1) } else s)
  | .glitch core => .next (s.setCore core { s.core core with glitch := true })
  | .hbmUpset pa corrected => .next (s.hbmError pa corrected)
  | .tickTime ns => .next (s.passTime ns)
  | .fabric die router ddie drouter b => .next (s.fabricIn die router ddie drouter b)

/-- The turn that comes next, and the state without it: the head of the agenda, else a free choice (log 1). -/
def State.nextTurn (s : State) : Turn × State :=
  match s.agenda with
  | t :: rest => (t, { s with agenda := rest })
  | [] => (freeTurn s.tick, { s with tick := s.tick + 1 })

/-! ### An instruction placed for the next step -/

/-- The line that holds a slot, and its literal if it has one, from slot 0 on: VCOUNT, TMASK for slot 0, PARITY (R86). -/
def lineWith (w : Nat) : BitVec 512 :=
  let lit := isLitForm (BitVec.ofNat 96 w)
  let slots : BitVec 512 := BitVec.ofNat 512 (w % 2 ^ (if lit then 192 else 96))
  let body := setField (setField slots 489 3 (if lit then 2 else 1)) 480 1 1
  setField body 496 16 (lineParity body).toNat

/-- Slot 0 of core 0 is READY at slot 0 of its line, no interrupt or halt is taken, no other strand of the core issues, the line is in the
instruction cache, and the next turn is a cycle of the core. -/
def State.placeWord (s : State) (w : Nat) : State :=
  let x := s.slot 0
  let pc := lineOf x.pc
  let x1 : Slot := { x with
    phase := .ready
    pc := pc
    ctl := { x.ctl with status := setField x.ctl.status 3 1 0 }
    rep := { x.rep with mode := .off }
    sched := Slot.none.sched }
  let others := [1, 2, 3, 4, 5, 6, 7].foldl (fun (t : State) k =>
    if (t.slot k).phase = .free then t else t.modSlot k fun y => { y with phase := .suspended false }) s
  let c := s.core 0
  let s1 := (others.setSlot 0 x1).setCore 0 ({ c with issue := { c.issue with paused := false } } : Core)
  let asid := effAsid x.ctl.asid.toNat pc.toNat
  { s1.setCore 0 ((s1.core 0).icPut ⟨asid, pc.toNat, true, lineWith w⟩) with cur := 0, agenda := [.cycle 0] }

end Sys2Proof.Machine
end

