-- ==== Sys2Proof/Machine/Dispatch.lean ====
section
/-! DEFINITION. The dispatch: one arm per constructor of `Instr`, each a direct call of its meaning. -/

namespace Sys2Proof.Machine

def exec (i : Instr) (s : State) : Host.Outcome State Fault Refusal :=
  match i with
  | .nop => Sys2Proof.Machine.execNop s
  | .add f => Sys2Proof.Machine.execAdd f s
  | .sub f => Sys2Proof.Machine.execSub f s
  | .mul f => Sys2Proof.Machine.execMul f s
  | .mulh f => Sys2Proof.Machine.execMulh f s
  | .mulhn f => Sys2Proof.Machine.execMulhn f s
  | .div f => Sys2Proof.Machine.execDiv f s
  | .divn f => Sys2Proof.Machine.execDivn f s
  | .rem f => Sys2Proof.Machine.execRem f s
  | .remn f => Sys2Proof.Machine.execRemn f s
  | .and f => Sys2Proof.Machine.execAnd f s
  | .or f => Sys2Proof.Machine.execOr f s
  | .xor f => Sys2Proof.Machine.execXor f s
  | .andn f => Sys2Proof.Machine.execAndn f s
  | .orn f => Sys2Proof.Machine.execOrn f s
  | .shl f => Sys2Proof.Machine.execShl f s
  | .shr f => Sys2Proof.Machine.execShr f s
  | .sra f => Sys2Proof.Machine.execSra f s
  | .rol f => Sys2Proof.Machine.execRol f s
  | .ror f => Sys2Proof.Machine.execRor f s
  | .clz f => Sys2Proof.Machine.execClz f s
  | .ctz f => Sys2Proof.Machine.execCtz f s
  | .popc f => Sys2Proof.Machine.execPopc f s
  | .bext f => Sys2Proof.Machine.execBext f s
  | .bins f => Sys2Proof.Machine.execBins f s
  | .bswap f => Sys2Proof.Machine.execBswap f s
  | .abs f => Sys2Proof.Machine.execAbs f s
  | .min f => Sys2Proof.Machine.execMin f s
  | .max f => Sys2Proof.Machine.execMax f s
  | .minn f => Sys2Proof.Machine.execMinn f s
  | .maxn f => Sys2Proof.Machine.execMaxn f s
  | .seq f => Sys2Proof.Machine.execSeq f s
  | .sne f => Sys2Proof.Machine.execSne f s
  | .slt f => Sys2Proof.Machine.execSlt f s
  | .sltn f => Sys2Proof.Machine.execSltn f s
  | .sle f => Sys2Proof.Machine.execSle f s
  | .slen f => Sys2Proof.Machine.execSlen f s
  | .sel f => Sys2Proof.Machine.execSel f s
  | .li f => Sys2Proof.Machine.execLi f s
  | .lea f => Sys2Proof.Machine.execLea f s
  | .mov f => Sys2Proof.Machine.execMov f s
  | .fadd f => Sys2Proof.Machine.execFadd f s
  | .fsub f => Sys2Proof.Machine.execFsub f s
  | .fmul f => Sys2Proof.Machine.execFmul f s
  | .ffma f => Sys2Proof.Machine.execFfma f s
  | .fdiv f => Sys2Proof.Machine.execFdiv f s
  | .fsqrt f => Sys2Proof.Machine.execFsqrt f s
  | .frsqe f => Sys2Proof.Machine.execFrsqe f s
  | .frcpe f => Sys2Proof.Machine.execFrcpe f s
  | .fmin f => Sys2Proof.Machine.execFmin f s
  | .fmax f => Sys2Proof.Machine.execFmax f s
  | .fcmp f => Sys2Proof.Machine.execFcmp f s
  | .fcvt f => Sys2Proof.Machine.execFcvt f s
  | .fclass f => Sys2Proof.Machine.execFclass f s
  | .fabs f => Sys2Proof.Machine.execFabs f s
  | .fneg f => Sys2Proof.Machine.execFneg f s
  | .pcmp f => Sys2Proof.Machine.execPcmp f s
  | .pand f => Sys2Proof.Machine.execPand f s
  | .por f => Sys2Proof.Machine.execPor f s
  | .pxor f => Sys2Proof.Machine.execPxor f s
  | .pnot f => Sys2Proof.Machine.execPnot f s
  | .pset f => Sys2Proof.Machine.execPset f s
  | .pget f => Sys2Proof.Machine.execPget f s
  | .br f => Sys2Proof.Machine.execBr f s
  | .brp f => Sys2Proof.Machine.execBrp f s
  | .brz f => Sys2Proof.Machine.execBrz f s
  | .brnz f => Sys2Proof.Machine.execBrnz f s
  | .beq f => Sys2Proof.Machine.execBeq f s
  | .bne f => Sys2Proof.Machine.execBne f s
  | .blt f => Sys2Proof.Machine.execBlt f s
  | .call f => Sys2Proof.Machine.execCall f s
  | .callr f => Sys2Proof.Machine.execCallr f s
  | .jmpr f => Sys2Proof.Machine.execJmpr f s
  | .ret f => Sys2Proof.Machine.execRet f s
  | .loop f => Sys2Proof.Machine.execLoop f s
  | .loopi f => Sys2Proof.Machine.execLoopi f s
  | .mfs f => Sys2Proof.Machine.execMfs f s
  | .mts f => Sys2Proof.Machine.execMts f s
  | .mtsb f => Sys2Proof.Machine.execMtsb f s
  | .mtsc f => Sys2Proof.Machine.execMtsc f s
  | .ecall f => Sys2Proof.Machine.execEcall f s
  | .ebreak f => Sys2Proof.Machine.execEbreak f s
  | .eret f => Sys2Proof.Machine.execEret f s
  | .wfi f => Sys2Proof.Machine.execWfi f s
  | .ipi f => Sys2Proof.Machine.execIpi f s
  | .fenceI f => Sys2Proof.Machine.execFenceI f s
  | .tlbinv f => Sys2Proof.Machine.execTlbinv f s
  | .ptsync f => Sys2Proof.Machine.execPtsync f s
  | .logreplay f => Sys2Proof.Machine.execLogreplay f s
  | .ctxsave f => Sys2Proof.Machine.execCtxsave f s
  | .ctxload f => Sys2Proof.Machine.execCtxload f s
  | .preemptHalt f => Sys2Proof.Machine.execPreemptHalt f s
  | .strandnew f => Sys2Proof.Machine.execStrandnew f s
  | .strandkill f => Sys2Proof.Machine.execStrandkill f s
  | .freeze f => Sys2Proof.Machine.execFreeze f s
  | .retire f => Sys2Proof.Machine.execRetire f s
  | .yield f => Sys2Proof.Machine.execYield f s
  | .itemq f => Sys2Proof.Machine.execItemq f s
  | .scfg f => Sys2Proof.Machine.execScfg f s
  | .scfgi f => Sys2Proof.Machine.execScfgi f s
  | .sbind f => Sys2Proof.Machine.execSbind f s
  | .sunbind f => Sys2Proof.Machine.execSunbind f s
  | .ssave f => Sys2Proof.Machine.execSsave f s
  | .srest f => Sys2Proof.Machine.execSrest f s
  | .sseek f => Sys2Proof.Machine.execSseek f s
  | .sstat f => Sys2Proof.Machine.execSstat f s
  | .rep f => Sys2Proof.Machine.execRep f s
  | .vadd f => Sys2Proof.Machine.execVadd f s
  | .vsub f => Sys2Proof.Machine.execVsub f s
  | .vmul f => Sys2Proof.Machine.execVmul f s
  | .vfma f => Sys2Proof.Machine.execVfma f s
  | .vfms f => Sys2Proof.Machine.execVfms f s
  | .vneg f => Sys2Proof.Machine.execVneg f s
  | .vabs f => Sys2Proof.Machine.execVabs f s
  | .vmin f => Sys2Proof.Machine.execVmin f s
  | .vmax f => Sys2Proof.Machine.execVmax f s
  | .vrcpe f => Sys2Proof.Machine.execVrcpe f s
  | .vrsqe f => Sys2Proof.Machine.execVrsqe f s
  | .vti f => Sys2Proof.Machine.execVti f s
  | .vtload f => Sys2Proof.Machine.execVtload f s
  | .vcvt f => Sys2Proof.Machine.execVcvt f s
  | .vcmp f => Sys2Proof.Machine.execVcmp f s
  | .vsel f => Sys2Proof.Machine.execVsel f s
  | .vand f => Sys2Proof.Machine.execVand f s
  | .vor f => Sys2Proof.Machine.execVor f s
  | .vxor f => Sys2Proof.Machine.execVxor f s
  | .vandn f => Sys2Proof.Machine.execVandn f s
  | .vshl f => Sys2Proof.Machine.execVshl f s
  | .vshr f => Sys2Proof.Machine.execVshr f s
  | .vsra f => Sys2Proof.Machine.execVsra f s
  | .vdot4 f => Sys2Proof.Machine.execVdot4 f s
  | .vredAdd f => Sys2Proof.Machine.execVredAdd f s
  | .vredMax f => Sys2Proof.Machine.execVredMax f s
  | .vredoAdd f => Sys2Proof.Machine.execVredoAdd f s
  | .vbcast f => Sys2Proof.Machine.execVbcast f s
  | .vext f => Sys2Proof.Machine.execVext f s
  | .vins f => Sys2Proof.Machine.execVins f s
  | .vperm f => Sys2Proof.Machine.execVperm f s
  | .vshuf f => Sys2Proof.Machine.execVshuf f s
  | .vcompress f => Sys2Proof.Machine.execVcompress f s
  | .vexpand f => Sys2Proof.Machine.execVexpand f s
  | .viota f => Sys2Proof.Machine.execViota f s
  | .vpopc f => Sys2Proof.Machine.execVpopc f s
  | .vmov f => Sys2Proof.Machine.execVmov f s
  | .ldl f => Sys2Proof.Machine.execLdl f s
  | .stl f => Sys2Proof.Machine.execStl f s
  | .ldc f => Sys2Proof.Machine.execLdc f s
  | .stc f => Sys2Proof.Machine.execStc f s
  | .ldg f => Sys2Proof.Machine.execLdg f s
  | .stg f => Sys2Proof.Machine.execStg f s
  | .ldaq f => Sys2Proof.Machine.execLdaq f s
  | .strl f => Sys2Proof.Machine.execStrl f s
  | .vldl f => Sys2Proof.Machine.execVldl f s
  | .vstl f => Sys2Proof.Machine.execVstl f s
  | .vgathl f => Sys2Proof.Machine.execVgathl f s
  | .vscatl f => Sys2Proof.Machine.execVscatl f s
  | .vldg f => Sys2Proof.Machine.execVldg f s
  | .vstg f => Sys2Proof.Machine.execVstg f s
  | .ldlf f => Sys2Proof.Machine.execLdlf f s
  | .ldlt f => Sys2Proof.Machine.execLdlt f s
  | .stlf f => Sys2Proof.Machine.execStlf f s
  | .empty f => Sys2Proof.Machine.execEmpty f s
  | .balloc f => Sys2Proof.Machine.execBalloc f s
  | .bfree f => Sys2Proof.Machine.execBfree f s
  | .bwake f => Sys2Proof.Machine.execBwake f s
  | .prefg f => Sys2Proof.Machine.execPrefg f s
  | .amol f => Sys2Proof.Machine.execAmol f s
  | .amog f => Sys2Proof.Machine.execAmog f s
  | .faddx f => Sys2Proof.Machine.execFaddx f s
  | .rdx f => Sys2Proof.Machine.execRdx f s
  | .clrx f => Sys2Proof.Machine.execClrx f s
  | .fenceC f => Sys2Proof.Machine.execFenceC f s
  | .fenceK f => Sys2Proof.Machine.execFenceK f s
  | .fenceD f => Sys2Proof.Machine.execFenceD f s
  | .fenceP f => Sys2Proof.Machine.execFenceP f s
  | .fenceY f => Sys2Proof.Machine.execFenceY f s
  | .fenceW f => Sys2Proof.Machine.execFenceW f s
  | .sync f => Sys2Proof.Machine.execSync f s
  | .syncX f => Sys2Proof.Machine.execSyncX f s
  | .voteAnd f => Sys2Proof.Machine.execVoteAnd f s
  | .voteOr f => Sys2Proof.Machine.execVoteOr f s
  | .voteAdd f => Sys2Proof.Machine.execVoteAdd f s
  | .voteMax f => Sys2Proof.Machine.execVoteMax f s
  | .cpy f => Sys2Proof.Machine.execCpy f s
  | .cpym f => Sys2Proof.Machine.execCpym f s
  | .cpyc f => Sys2Proof.Machine.execCpyc f s
  | .cpyf f => Sys2Proof.Machine.execCpyf f s
  | .fwait f => Sys2Proof.Machine.execFwait f s
  | .ftest f => Sys2Proof.Machine.execFtest f s
  | .fcancel f => Sys2Proof.Machine.execFcancel f s
  | .fexp f => Sys2Proof.Machine.execFexp f s
  | .fimp f => Sys2Proof.Machine.execFimp f s
  | .tslot f => Sys2Proof.Machine.execTslot f s
  | .tzero f => Sys2Proof.Machine.execTzero f s
  | .tldacc f => Sys2Proof.Machine.execTldacc f s
  | .tmma f => Sys2Proof.Machine.execTmma f s
  | .tmmas f => Sys2Proof.Machine.execTmmas f s
  | .tdrain f => Sys2Proof.Machine.execTdrain f s
  | .tdraint f => Sys2Proof.Machine.execTdraint f s
  | .tqry f => Sys2Proof.Machine.execTqry f s
  | .enq f => Sys2Proof.Machine.execEnq f s
  | .enqres f => Sys2Proof.Machine.execEnqres f s
  | .enqpub f => Sys2Proof.Machine.execEnqpub f s
  | .deq f => Sys2Proof.Machine.execDeq f s
  | .dcnew f => Sys2Proof.Machine.execDcnew f s
  | .dcdec f => Sys2Proof.Machine.execDcdec f s
  | .dcadd f => Sys2Proof.Machine.execDcadd f s
  | .taskdep f => Sys2Proof.Machine.execTaskdep f s
  | .taskdepReg f => Sys2Proof.Machine.execTaskdepReg f s
  | .taskdepUnreg f => Sys2Proof.Machine.execTaskdepUnreg f s
  | .work f => Sys2Proof.Machine.execWork f s
  | .done f => Sys2Proof.Machine.execDone f s
  | .xinbox f => Sys2Proof.Machine.execXinbox f s
  | .xsend f => Sys2Proof.Machine.execXsend f s
  | .xrecv f => Sys2Proof.Machine.execXrecv f s
  | .gather f => Sys2Proof.Machine.execGather f s
  | .scatadd f => Sys2Proof.Machine.execScatadd f s
  | .idemb f => Sys2Proof.Machine.execIdemb f s
  | .ideme f => Sys2Proof.Machine.execIdeme f s
  | .sysregWrite n v => Sys2Proof.Machine.execSysregWrite n v s
  | .msginRead => Sys2Proof.Machine.execMsginRead s
  | .dmemWrite v => Sys2Proof.Machine.execDmemWrite v s
  | .bwphaseWrite v => Sys2Proof.Machine.execBwphaseWrite v s
  | .sposWrite k v => Sys2Proof.Machine.execSposWrite k v s
  | .mtcmdRead k => Sys2Proof.Machine.execMtcmdRead k s
  | .mtcmdWrite k => Sys2Proof.Machine.execMtcmdWrite k s
  | .mtcmdClear k => Sys2Proof.Machine.execMtcmdClear k s
  | .wfiTimeout slot => Sys2Proof.Machine.execWfiTimeout slot s
  | .interruptEntry slot => Sys2Proof.Machine.execInterruptEntry slot s
  | .timerExpiry slot => Sys2Proof.Machine.execTimerExpiry slot s
  | .messageArrival slot => Sys2Proof.Machine.execMessageArrival slot s
  | .preemptResume slot => Sys2Proof.Machine.execPreemptResume slot s
  | .haltComplete slot => Sys2Proof.Machine.execHaltComplete slot s
  | .engineCheckpoint slot => Sys2Proof.Machine.execEngineCheckpoint slot s
  | .itemStamp core r => Sys2Proof.Machine.execItemStamp core r s
  | .starterShip core r dst => Sys2Proof.Machine.execStarterShip core r dst s
  | .starterShipComplete core r dst => Sys2Proof.Machine.execStarterShipComplete core r dst s
  | .regCopyExhausted slot => Sys2Proof.Machine.execRegCopyExhausted slot s
  | .starterResume core r => Sys2Proof.Machine.execStarterResume core r s
  | .bankRetEntry cl bank => Sys2Proof.Machine.execBankRetEntry cl bank s
  | .proofingComplete cl bank => Sys2Proof.Machine.execProofingComplete cl bank s
  | .treeContribution k => Sys2Proof.Machine.execTreeContribution k s
  | .syncResultDelivery k => Sys2Proof.Machine.execSyncResultDelivery k s
  | .doneArrival k => Sys2Proof.Machine.execDoneArrival k s
  | .meshMessageForward k => Sys2Proof.Machine.execMeshMessageForward k s
  | .copyCommandComplete core => Sys2Proof.Machine.execCopyCommandComplete core s
  | .engineWordWrite core e k => Sys2Proof.Machine.execEngineWordWrite core e k s
  | .tileCommandComplete core => Sys2Proof.Machine.execTileCommandComplete core s
  | .queueSlotFreed q => Sys2Proof.Machine.execQueueSlotFreed q s
  | .dispenserTake d => Sys2Proof.Machine.execDispenserTake d s
  | .recordDelivery d => Sys2Proof.Machine.execRecordDelivery d s
  | .withholdTimeout d => Sys2Proof.Machine.execWithholdTimeout d s
  | .watchdogPreempt slot => Sys2Proof.Machine.execWatchdogPreempt slot s
  | .watchdogKill slot => Sys2Proof.Machine.execWatchdogKill slot s
  | .watchdogFence slot => Sys2Proof.Machine.execWatchdogFence slot s
  | .queueRead v => Sys2Proof.Machine.execQueueRead v s
  | .queueWrite v => Sys2Proof.Machine.execQueueWrite v s
  | .coreReadmit v => Sys2Proof.Machine.execCoreReadmit v s
  | .queueEmpty v => Sys2Proof.Machine.execQueueEmpty v s
  | .packetArrival core => Sys2Proof.Machine.execPacketArrival core s
  | .dgeCommandComplete core k => Sys2Proof.Machine.execDgeCommandComplete core k s
  | .icacheFill slot line => Sys2Proof.Machine.execIcacheFill slot line s
  | .storeBufferDrain core => Sys2Proof.Machine.execStoreBufferDrain core s
  | .translationProbe core => Sys2Proof.Machine.execTranslationProbe core s
  | .logDiscard sid => Sys2Proof.Machine.execLogDiscard sid s
  | .logRearm sid => Sys2Proof.Machine.execLogRearm sid s
  | .swapGo => Sys2Proof.Machine.execSwapGo s
  | .swapExchangeComplete die k farOk => Sys2Proof.Machine.execSwapExchangeComplete die k farOk s
  | .windowBoundary core => Sys2Proof.Machine.execWindowBoundary core s
  | .agePromotion slot => Sys2Proof.Machine.execAgePromotion slot s
  | .p3PeriodStart core => Sys2Proof.Machine.execP3PeriodStart core s
  | .p3BudgetExhausted core => Sys2Proof.Machine.execP3BudgetExhausted core s
  | .timestatKApply => Sys2Proof.Machine.execTimestatKApply s
  | .ptpSync offset => Sys2Proof.Machine.execPtpSync offset s
  | .timeLockLost => Sys2Proof.Machine.execTimeLockLost s
  | .ethernetFrame fr => Sys2Proof.Machine.execEthernetFrame fr s
  | .hello k => Sys2Proof.Machine.execHello k s
  | .ack session => Sys2Proof.Machine.execAck session s
  | .launch session => Sys2Proof.Machine.execLaunch session s
  | .memwrite session => Sys2Proof.Machine.execMemwrite session s
  | .memread session => Sys2Proof.Machine.execMemread session s
  | .load session => Sys2Proof.Machine.execLoad session s
  | .khtResend session => Sys2Proof.Machine.execKhtResend session s
  | .khtSessionTimeout session => Sys2Proof.Machine.execKhtSessionTimeout session s
  | .roleImageForward k ok => Sys2Proof.Machine.execRoleImageForward k ok s
  | .roleStart core => Sys2Proof.Machine.execRoleStart core s
  | .powerOnReset => Sys2Proof.Machine.execPowerOnReset s
  | .olLinkTraining port link => Sys2Proof.Machine.execOlLinkTraining port link s
  | .olFlitReceive port flit => Sys2Proof.Machine.execOlFlitReceive port flit s
  | .clockPause core => Sys2Proof.Machine.execClockPause core s
  | .clockRestart core => Sys2Proof.Machine.execClockRestart core s
  | .supplyDroop core percent => Sys2Proof.Machine.execSupplyDroop core percent s
  | .powerTokenPass die draws => Sys2Proof.Machine.execPowerTokenPass die draws s
  | .pwrcapWrite v => Sys2Proof.Machine.execPwrcapWrite v s
  | .regionHot die region temp => Sys2Proof.Machine.execRegionHot die region temp s
  | .overBudgetStretch die => Sys2Proof.Machine.execOverBudgetStretch die s
  | .currentRampHold die => Sys2Proof.Machine.execCurrentRampHold die s
  | .ballastStart core => Sys2Proof.Machine.execBallastStart core s
  | .ballastEnd core => Sys2Proof.Machine.execBallastEnd core s
  | .errorRecordRemove => Sys2Proof.Machine.execErrorRecordRemove s
  | .taskUnitCommandComplete u => Sys2Proof.Machine.execTaskUnitCommandComplete u s
  | .olLinkDown port => Sys2Proof.Machine.execOlLinkDown port s
  | .granuleClaimEnd cl granule => Sys2Proof.Machine.execGranuleClaimEnd cl granule s

end Sys2Proof.Machine
end

