-- ==== Sys2Proof/Machine/Step.lean ====
section
/-! DEFINITION. The step: one turn of one agent (log 1), and the placing of an instruction where the next step fetches. -/

namespace Sys2Proof.Machine

/-- One turn: the head of the agenda, or the free choice of the next agent; a cycle of a core issues through `exec`. -/
def step (s : State) : Host.Outcome State Fault Refusal :=
  s.nextTurn.2.takeTurn exec s.nextTurn.1

/-- The instruction whose slot bits are the low 96 bits of `w` (the next 96 its literal, if it has one) stands in slot 0 of the line
where slot 0 of core 0 fetches next, and that strand is the one that issues in the next step. -/
def State.withFetchWord (s : State) (_nbits w : Nat) : State := s.placeWord w

end Sys2Proof.Machine
end

