-- ==== Sys2Proof/Laws/Decode.lean ====
section
/-! SUPPORT. Laws of the encodings: the fields of a built slot, the specifiers, and the offences of admissible operands. -/

namespace Sys2Proof

/-! ### Fields of an appended word -/

theorem field_append_low {w v lo n : Nat} (x : BitVec w) (y : BitVec v) (h : lo + n ≤ v) : field (x ++ y) lo n = field y lo n := by
  unfold field
  ext i hi
  have : lo + i < v := by omega
  simp [BitVec.getElem_extractLsb', BitVec.getLsbD_append, this]
theorem field_append_high {w v lo n : Nat} (x : BitVec w) (y : BitVec v) (h : v ≤ lo) :
    field (x ++ y) lo n = field x (lo - v) n := by
  unfold field
  ext i hi
  have h1 : ¬ lo + i < v := by omega
  have h2 : lo + i - v = lo - v + i := by omega
  simp [BitVec.getElem_extractLsb', BitVec.getLsbD_append, h1, h2]
@[simp] theorem field_self {w : Nat} (x : BitVec w) : field x 0 w = x := by
  unfold field
  ext i hi
  simp

theorem FmtA.of_bits (f : FmtA) : FmtA.of f.bits = f := by
  cases f
  simp (disch := decide) only [FmtA.of, FmtA.bits, field_append_low, field_append_high, Nat.sub_self, Nat.reduceSub, field_self]
theorem FmtW.of_bits (f : FmtW) : FmtW.of f.bits = f := by
  cases f
  simp (disch := decide) only [FmtW.of, FmtW.bits, field_append_low, field_append_high, Nat.sub_self, Nat.reduceSub, field_self]
theorem FmtB.of_bits (f : FmtB) : FmtB.of f.bits = f := by
  cases f
  simp (disch := decide) only [FmtB.of, FmtB.bits, field_append_low, field_append_high, Nat.sub_self, Nat.reduceSub, field_self]
theorem FmtL.of_bits (f : FmtL) : FmtL.of f.bits = f := by
  cases f
  simp (disch := decide) only [FmtL.of, FmtL.bits, field_append_low, field_append_high, Nat.sub_self, Nat.reduceSub, field_self]
theorem FmtM.of_bits (f : FmtM) : FmtM.of f.bits = f := by
  cases f
  simp (disch := decide) only [FmtM.of, FmtM.bits, field_append_low, field_append_high, Nat.sub_self, Nat.reduceSub, field_self]
theorem FmtE.of_bits (f : FmtE) : FmtE.of f.bits = f := by
  cases f
  simp (disch := decide) only [FmtE.of, FmtE.bits, field_append_low, field_append_high, Nat.sub_self, Nat.reduceSub, field_self]

/-! ### The head of a built slot -/

/-- LA and GD of a slot (R94). -/
def headerOf (w : SlotBits) : Hdr := ⟨field w 84 4, field w 80 4⟩

theorem FmtA.bits_op (f : FmtA) : field f.bits 88 8 = f.op := congrArg FmtA.op f.of_bits
theorem FmtW.bits_op (f : FmtW) : field f.bits 88 8 = f.op := congrArg FmtW.op f.of_bits
theorem FmtB.bits_op (f : FmtB) : field f.bits 88 8 = f.op := congrArg FmtB.op f.of_bits
theorem FmtL.bits_op (f : FmtL) : field f.bits 88 8 = f.op := congrArg FmtL.op f.of_bits
theorem FmtM.bits_op (f : FmtM) : field f.bits 88 8 = f.op := congrArg FmtM.op f.of_bits
theorem FmtE.bits_op (f : FmtE) : field f.bits 88 8 = f.op := congrArg FmtE.op f.of_bits
theorem FmtA.bits_header (f : FmtA) : headerOf f.bits = f.hdr := congrArg FmtA.hdr f.of_bits
theorem FmtW.bits_header (f : FmtW) : headerOf f.bits = f.hdr := congrArg FmtW.hdr f.of_bits
theorem FmtB.bits_header (f : FmtB) : headerOf f.bits = f.hdr := congrArg FmtB.hdr f.of_bits
theorem FmtL.bits_header (f : FmtL) : headerOf f.bits = f.hdr := congrArg FmtL.hdr f.of_bits
theorem FmtM.bits_header (f : FmtM) : headerOf f.bits = f.hdr := congrArg FmtM.hdr f.of_bits
theorem FmtE.bits_header (f : FmtE) : headerOf f.bits = f.hdr := congrArg FmtE.hdr f.of_bits
theorem headerOf_encA (op : BitVec 8) (h : Hdr) (fn : BitVec 12) (rd r1 r2 r3 : BitVec 8) (imm : BitVec 32) :
    headerOf (encA op h fn rd r1 r2 r3 imm) = h := FmtA.bits_header _
theorem headerOf_encB (op : BitVec 8) (h : Hdr) (fn : BitVec 4) (r1 r2 : BitVec 8) (aux : BitVec 20) (t : Target) :
    headerOf (encB op h fn r1 r2 aux t) = h := FmtB.bits_header _
theorem headerOf_encM (op : BitVec 8) (h : Hdr) (fn : BitVec 8) (rd : BitVec 8) (ci : Cls) (ad : Addr) (size : BitVec 3) :
    headerOf (encM op h fn rd ci ad size) = h := FmtM.bits_header _
theorem headerOf_encE (op : BitVec 8) (h : Hdr) (fn : BitVec 8) (hd : BitVec 3) (a b c d : BitVec 8) (imm : BitVec 32) :
    headerOf (encE op h fn hd a b c d imm) = h := FmtE.bits_header _
/-- Every form of a two-operand instruction carries the header. -/
theorem headerOf_encTwo (op : BitVec 8) (h : Hdr) (rd : BitVec 5) (a : Reg) (b : Opnd) (r3 : BitVec 8) :
    ((encTwo op h rd a b r3).map headerOf).head? = some h := by
  cases b <;> exact congrArg some (headerOf_encA ..)
theorem headerOf_eVOp (op : BitVec 8) (h : Hdr) (fmt : BitVec 4) (rd : BitVec 5) (a : Reg) (b : VOpnd) (r3 : BitVec 8) :
    ((eVOp op h fmt rd a b r3).map headerOf).head? = some h := by
  cases b <;> exact congrArg some (headerOf_encA ..)

/-! ### Where an opcode is decoded (R113) -/

theorem decode_int {w lit : SlotBits} {op : BitVec 8} (h : field w 88 8 = op) (h0 : op ≠ 0) (h1 : op.toNat < 0x40) :
    decode w lit = decodeInt w lit := by
  unfold decode
  dsimp only
  rw [h, if_neg h0, if_pos h1]
theorem decode_float {w lit : SlotBits} {op : BitVec 8} (h : field w 88 8 = op) (h0 : 0x40 ≤ op.toNat) (h1 : op.toNat < 0x60) :
    decode w lit = decodeFloat w := by
  have hn : op ≠ 0 := by rintro rfl; simp at h0
  unfold decode
  dsimp only
  rw [h, if_neg hn, if_neg (by omega), if_pos h1]
theorem decode_system {w lit : SlotBits} {op : BitVec 8} (h : field w 88 8 = op) (h0 : 0x60 ≤ op.toNat) (h1 : op.toNat < 0x80) :
    decode w lit = decodeSystem w := by
  have hn : op ≠ 0 := by rintro rfl; simp at h0
  unfold decode
  dsimp only
  rw [h, if_neg hn, if_neg (by omega), if_neg (by omega), if_pos h1]
theorem decode_vector {w lit : SlotBits} {op : BitVec 8} (h : field w 88 8 = op) (h0 : 0x80 ≤ op.toNat) (h1 : op.toNat < 0xC0) :
    decode w lit = decodeVector w lit := by
  have hn : op ≠ 0 := by rintro rfl; simp at h0
  unfold decode
  dsimp only
  rw [h, if_neg hn, if_neg (by omega), if_neg (by omega), if_neg (by omega), if_pos h1]
theorem decode_memory {w lit : SlotBits} {op : BitVec 8} (h : field w 88 8 = op) (h0 : 0xC0 ≤ op.toNat) (h1 : op.toNat < 0xE0) :
    decode w lit = decodeMemory w := by
  have hn : op ≠ 0 := by rintro rfl; simp at h0
  unfold decode
  dsimp only
  rw [h, if_neg hn, if_neg (by omega), if_neg (by omega), if_neg (by omega), if_neg (by omega), if_pos h1]
theorem decode_engine {w lit : SlotBits} {op : BitVec 8} (h : field w 88 8 = op) (h0 : 0xE0 ≤ op.toNat) :
    decode w lit = decodeEngine w := by
  have hn : op ≠ 0 := by rintro rfl; simp at h0
  unfold decode
  dsimp only
  rw [h, if_neg hn, if_neg (by omega), if_neg (by omega), if_neg (by omega), if_neg (by omega), if_neg (by omega)]

/-! ### The literal slot and the fields of extended immediates -/

@[simp] theorem litSlot_value (v : Word) : field (litSlot v) 0 64 = v := by
  unfold litSlot
  rw [field_append_low _ _ (by decide), field_self]
@[simp] theorem litSlot_above (v : Word) : field (litSlot v) 64 32 = (0 : BitVec 32) := by
  unfold litSlot
  rw [field_append_high _ _ (by decide)]
  exact field_self _
theorem field_setWidth_low {n w lo k : Nat} (x : BitVec n) (h : lo + k ≤ w) : field (x.setWidth w) lo k = field x lo k := by
  unfold field
  ext i hi
  have : lo + i < w := by omega
  simp [BitVec.getElem_extractLsb', this]
theorem field_above {n lo k : Nat} (x : BitVec n) (h : n ≤ lo) : field x lo k = 0 := by
  unfold field
  ext i hi
  simp [BitVec.getElem_extractLsb', BitVec.getLsbD_of_ge x (lo + i) (by omega)]

/-! ### Specifiers -/

@[simp] theorem specNum_specOf (c : Cls) (r : Reg) : specNum (specOf c r) = r.n := by
  obtain ⟨n, m⟩ := r
  cases c <;> cases m <;> revert n <;> decide
@[simp] theorem specMark_specOf (c : Cls) (r : Reg) : specMark (specOf c r) = r.mark := by
  obtain ⟨n, m⟩ := r
  cases c <;> cases m <;> revert n <;> decide
@[simp] theorem specCls_specOf (c : Cls) (r : Reg) : specCls (specOf c r) = c.code := by
  obtain ⟨n, m⟩ := r
  cases c <;> cases m <;> revert n <;> decide
@[simp] theorem regOf_specOf (c : Cls) (r : Reg) : regOf (specOf c r) = r := by
  obtain ⟨n, m⟩ := r
  simp [regOf]
@[simp] theorem specNum_dstOf (c : Cls) (n : BitVec 5) : specNum (dstOf c n) = n := by
  cases c <;> revert n <;> decide
@[simp] theorem specMark_dstOf (c : Cls) (n : BitVec 5) : specMark (dstOf c n) = false := by
  cases c <;> revert n <;> decide
@[simp] theorem specCls_dstOf (c : Cls) (n : BitVec 5) : specCls (dstOf c n) = c.code := by
  cases c <;> revert n <;> decide
@[simp] theorem handle_number (h : BitVec 3) : field (handleSpec h) 1 3 = h := by revert h; decide
@[simp] theorem acc_number (k : BitVec 3) : field (accSpec k) 1 3 = k := by revert k; decide
@[simp] theorem stream_number (k : BitVec 2) : streamNum (streamSpec k) = k := by revert k; decide

/-! ### Offences -/

/-- No field offends. -/
def clean (os : List Offence) : Bool := os.all Option.isNone

@[simp] theorem clean_nil : clean [] = true := rfl
@[simp] theorem clean_cons (o : Offence) (os : List Offence) : clean (o :: os) = (o.isNone && clean os) := rfl
@[simp] theorem clean_append (os ps : List Offence) : clean (os ++ ps) = (clean os && clean ps) := by simp [clean]

theorem lowestOffence_clean {os : List Offence} (h : clean os = true) : lowestOffence os = none := by
  induction os with
  | nil => rfl
  | cons o os ih =>
    simp only [clean_cons, Bool.and_eq_true, Option.isNone_iff_eq_none] at h
    obtain ⟨rfl, h⟩ := h
    exact ih h
theorem finish2_clean {own lit : List Offence} (i : Instr) (h : clean own = true) (hl : clean lit = true) :
    finish2 own lit i = .ok i := by
  rw [finish2, lowestOffence_clean h]
  simp only [lowestOffence_clean hl]
theorem finish_clean {own : List Offence} (i : Instr) (h : clean own = true) : finish own i = .ok i :=
  finish2_clean i h rfl

@[simp] theorem badAt_isNone (lo : Nat) (b : Bool) : (badAt lo b).isNone = !b := by cases b <;> rfl
@[simp] theorem lowestSet_zero {w : Nat} (lo : Nat) : lowestSet lo (0 : BitVec w) = none := by simp [lowestSet]
@[simp] theorem laOff_true (v : BitVec 4) : laOff true v = none := rfl
theorem laOff_isNone (la : Bool) (v : BitVec 4) (h : (la || v == 0) = true) : (laOff la v).isNone = true := by
  cases la
  · simp only [Bool.false_or, beq_iff_eq] at h
    simp [laOff, h, lowestSet]
  · rfl

theorem clean_srcOff_g (lo : Nat) (r : Reg) : clean (srcOff .g lo (specOf .g r)) = r.okG := by
  obtain ⟨n, m⟩ := r
  simp only [srcOff, clean_cons, badAt_isNone, clean_nil]
  cases m <;> revert n <;> decide
theorem clean_srcOff_v (lo : Nat) (r : Reg) : clean (srcOff .v lo (specOf .v r)) = true := by
  obtain ⟨n, m⟩ := r
  simp only [srcOff, clean_cons, badAt_isNone, clean_nil]
  cases m <;> revert n <;> decide
theorem clean_srcOff_p (lo : Nat) (r : Reg) : clean (srcOff .p lo (specOf .p r)) = r.okP := by
  obtain ⟨n, m⟩ := r
  simp only [srcOff, clean_cons, badAt_isNone, clean_nil]
  cases m <;> revert n <;> decide
theorem clean_dstOff_g (lo : Nat) (n : BitVec 5) : clean (dstOff .g lo (dstOf .g n)) = true := by
  simp only [dstOff, clean_cons, badAt_isNone, clean_nil]
  revert n; decide
theorem clean_dstOff_v (lo : Nat) (n : BitVec 5) : clean (dstOff .v lo (dstOf .v n)) = true := by
  simp only [dstOff, clean_cons, badAt_isNone, clean_nil]
  revert n; decide
theorem clean_dstOff_p (lo : Nat) (n : BitVec 5) : clean (dstOff .p lo (dstOf .p n)) = dstP n := by
  simp only [dstOff, clean_cons, badAt_isNone, clean_nil]
  revert n; decide
theorem clean_plain (lo : Nat) (n : BitVec 5) : clean (plainOff lo (specOf .g ⟨n, false⟩)) = true := clean_dstOff_g lo n
theorem clean_handleSrc (lo : Nat) (h : BitVec 3) : clean (handleSrc lo (handleSpec h)) = true := by
  simp only [handleSrc, specialSrc, clean_cons, badAt_isNone, clean_nil]
  revert h; decide
theorem clean_handleDst (lo : Nat) (h : BitVec 3) : clean (handleDst lo (handleSpec h)) = true := by
  simp only [handleDst, specialDst, clean_cons, badAt_isNone, clean_nil]
  revert h; decide
theorem clean_accOff (lo : Nat) (k : BitVec 3) : clean (accOff lo (accSpec k)) = true := by
  simp only [accOff, specialSrc, clean_cons, badAt_isNone, clean_nil]
  revert k; decide
theorem clean_streamOff (lo : Nat) (k : BitVec 2) : clean (streamOff lo (streamSpec k)) = true := by
  simp only [streamOff, specialDst, clean_cons, badAt_isNone, clean_nil]
  revert k; decide

end Sys2Proof
end

