-- ==== Sys2Proof/Laws/PerInstr.lean ====
section
/-! SUPPORT. The family Encoding: LA and GD of every instruction stand in its first slot as encoded (R94); an event row has no
slot. -/

namespace Sys2Proof

/-- The first slot of an instruction that has LA and GD carries them; every other row but `nop` has no slot. -/
def Laws.Encoding.Statement (i : Instr) : Prop :=
  match i.hdr? with
  | some h => ((encode i).map headerOf).head? = some h
  | none => i = .nop ∨ encode i = []

theorem Laws.Encoding.nop : Laws.Encoding.Statement .nop := .inl rfl
theorem Laws.Encoding.add (f : IntBin) : Laws.Encoding.Statement (.add f) := headerOf_encTwo ..
theorem Laws.Encoding.sub (f : IntBin) : Laws.Encoding.Statement (.sub f) := headerOf_encTwo ..
theorem Laws.Encoding.mul (f : IntBin) : Laws.Encoding.Statement (.mul f) := headerOf_encTwo ..
theorem Laws.Encoding.mulh (f : IntBin) : Laws.Encoding.Statement (.mulh f) := headerOf_encTwo ..
theorem Laws.Encoding.mulhn (f : IntBin) : Laws.Encoding.Statement (.mulhn f) := headerOf_encTwo ..
theorem Laws.Encoding.div (f : IntBin) : Laws.Encoding.Statement (.div f) := headerOf_encTwo ..
theorem Laws.Encoding.divn (f : IntBin) : Laws.Encoding.Statement (.divn f) := headerOf_encTwo ..
theorem Laws.Encoding.rem (f : IntBin) : Laws.Encoding.Statement (.rem f) := headerOf_encTwo ..
theorem Laws.Encoding.remn (f : IntBin) : Laws.Encoding.Statement (.remn f) := headerOf_encTwo ..
theorem Laws.Encoding.and (f : IntBin) : Laws.Encoding.Statement (.and f) := headerOf_encTwo ..
theorem Laws.Encoding.or (f : IntBin) : Laws.Encoding.Statement (.or f) := headerOf_encTwo ..
theorem Laws.Encoding.xor (f : IntBin) : Laws.Encoding.Statement (.xor f) := headerOf_encTwo ..
theorem Laws.Encoding.andn (f : IntBin) : Laws.Encoding.Statement (.andn f) := headerOf_encTwo ..
theorem Laws.Encoding.orn (f : IntBin) : Laws.Encoding.Statement (.orn f) := headerOf_encTwo ..
theorem Laws.Encoding.shl (f : IntBin) : Laws.Encoding.Statement (.shl f) := headerOf_encTwo ..
theorem Laws.Encoding.shr (f : IntBin) : Laws.Encoding.Statement (.shr f) := headerOf_encTwo ..
theorem Laws.Encoding.sra (f : IntBin) : Laws.Encoding.Statement (.sra f) := headerOf_encTwo ..
theorem Laws.Encoding.rol (f : IntBin) : Laws.Encoding.Statement (.rol f) := headerOf_encTwo ..
theorem Laws.Encoding.ror (f : IntBin) : Laws.Encoding.Statement (.ror f) := headerOf_encTwo ..
theorem Laws.Encoding.clz (f : Un) : Laws.Encoding.Statement (.clz f) := congrArg some (headerOf_encA ..)
theorem Laws.Encoding.ctz (f : Un) : Laws.Encoding.Statement (.ctz f) := congrArg some (headerOf_encA ..)
theorem Laws.Encoding.popc (f : Un) : Laws.Encoding.Statement (.popc f) := congrArg some (headerOf_encA ..)
theorem Laws.Encoding.bext (f : IntBin) : Laws.Encoding.Statement (.bext f) := headerOf_encTwo ..
theorem Laws.Encoding.bins (f : IntTri) : Laws.Encoding.Statement (.bins f) := headerOf_encTwo ..
theorem Laws.Encoding.bswap (f : Un) : Laws.Encoding.Statement (.bswap f) := congrArg some (headerOf_encA ..)
theorem Laws.Encoding.abs (f : Un) : Laws.Encoding.Statement (.abs f) := congrArg some (headerOf_encA ..)
theorem Laws.Encoding.min (f : IntBin) : Laws.Encoding.Statement (.min f) := headerOf_encTwo ..
theorem Laws.Encoding.max (f : IntBin) : Laws.Encoding.Statement (.max f) := headerOf_encTwo ..
theorem Laws.Encoding.minn (f : IntBin) : Laws.Encoding.Statement (.minn f) := headerOf_encTwo ..
theorem Laws.Encoding.maxn (f : IntBin) : Laws.Encoding.Statement (.maxn f) := headerOf_encTwo ..
theorem Laws.Encoding.seq (f : IntBin) : Laws.Encoding.Statement (.seq f) := headerOf_encTwo ..
theorem Laws.Encoding.sne (f : IntBin) : Laws.Encoding.Statement (.sne f) := headerOf_encTwo ..
theorem Laws.Encoding.slt (f : IntBin) : Laws.Encoding.Statement (.slt f) := headerOf_encTwo ..
theorem Laws.Encoding.sltn (f : IntBin) : Laws.Encoding.Statement (.sltn f) := headerOf_encTwo ..
theorem Laws.Encoding.sle (f : IntBin) : Laws.Encoding.Statement (.sle f) := headerOf_encTwo ..
theorem Laws.Encoding.slen (f : IntBin) : Laws.Encoding.Statement (.slen f) := headerOf_encTwo ..
theorem Laws.Encoding.sel (f : IntTri) : Laws.Encoding.Statement (.sel f) := headerOf_encTwo ..
theorem Laws.Encoding.li (f : LoadImm) : Laws.Encoding.Statement (.li f) := congrArg some (FmtW.bits_header _)
theorem Laws.Encoding.lea (f : LeaOp) : Laws.Encoding.Statement (.lea f) := congrArg some (headerOf_encM ..)
theorem Laws.Encoding.mov (f : Un) : Laws.Encoding.Statement (.mov f) := congrArg some (headerOf_encA ..)
theorem Laws.Encoding.fadd (f : Bin) : Laws.Encoding.Statement (.fadd f) := congrArg some (headerOf_encA ..)
theorem Laws.Encoding.fsub (f : Bin) : Laws.Encoding.Statement (.fsub f) := congrArg some (headerOf_encA ..)
theorem Laws.Encoding.fmul (f : Bin) : Laws.Encoding.Statement (.fmul f) := congrArg some (headerOf_encA ..)
theorem Laws.Encoding.ffma (f : Tri) : Laws.Encoding.Statement (.ffma f) := congrArg some (headerOf_encA ..)
theorem Laws.Encoding.fdiv (f : Bin) : Laws.Encoding.Statement (.fdiv f) := congrArg some (headerOf_encA ..)
theorem Laws.Encoding.fsqrt (f : Un) : Laws.Encoding.Statement (.fsqrt f) := congrArg some (headerOf_encA ..)
theorem Laws.Encoding.frsqe (f : Un) : Laws.Encoding.Statement (.frsqe f) := congrArg some (headerOf_encA ..)
theorem Laws.Encoding.frcpe (f : Un) : Laws.Encoding.Statement (.frcpe f) := congrArg some (headerOf_encA ..)
theorem Laws.Encoding.fmin (f : Bin) : Laws.Encoding.Statement (.fmin f) := congrArg some (headerOf_encA ..)
theorem Laws.Encoding.fmax (f : Bin) : Laws.Encoding.Statement (.fmax f) := congrArg some (headerOf_encA ..)
theorem Laws.Encoding.fcmp (f : CmpF) : Laws.Encoding.Statement (.fcmp f) := congrArg some (headerOf_encA ..)
theorem Laws.Encoding.fcvt (f : CvtF) : Laws.Encoding.Statement (.fcvt f) := congrArg some (headerOf_encA ..)
theorem Laws.Encoding.fclass (f : Un) : Laws.Encoding.Statement (.fclass f) := congrArg some (headerOf_encA ..)
theorem Laws.Encoding.fabs (f : Un) : Laws.Encoding.Statement (.fabs f) := congrArg some (headerOf_encA ..)
theorem Laws.Encoding.fneg (f : Un) : Laws.Encoding.Statement (.fneg f) := congrArg some (headerOf_encA ..)
theorem Laws.Encoding.pcmp (f : CmpI) : Laws.Encoding.Statement (.pcmp f) := by
  obtain ⟨h, cc, rd, a, x⟩ := f
  cases x <;> exact congrArg some (headerOf_encA ..)
theorem Laws.Encoding.pand (f : Bin) : Laws.Encoding.Statement (.pand f) := congrArg some (headerOf_encA ..)
theorem Laws.Encoding.por (f : Bin) : Laws.Encoding.Statement (.por f) := congrArg some (headerOf_encA ..)
theorem Laws.Encoding.pxor (f : Bin) : Laws.Encoding.Statement (.pxor f) := congrArg some (headerOf_encA ..)
theorem Laws.Encoding.pnot (f : Un) : Laws.Encoding.Statement (.pnot f) := congrArg some (headerOf_encA ..)
theorem Laws.Encoding.pset (f : Un) : Laws.Encoding.Statement (.pset f) := congrArg some (headerOf_encA ..)
theorem Laws.Encoding.pget (f : Un) : Laws.Encoding.Statement (.pget f) := congrArg some (headerOf_encA ..)
theorem Laws.Encoding.br (f : Jump) : Laws.Encoding.Statement (.br f) := congrArg some (headerOf_encB ..)
theorem Laws.Encoding.brp (f : Branch1) : Laws.Encoding.Statement (.brp f) := congrArg some (headerOf_encB ..)
theorem Laws.Encoding.brz (f : Branch1) : Laws.Encoding.Statement (.brz f) := congrArg some (headerOf_encB ..)
theorem Laws.Encoding.brnz (f : Branch1) : Laws.Encoding.Statement (.brnz f) := congrArg some (headerOf_encB ..)
theorem Laws.Encoding.beq (f : Branch2) : Laws.Encoding.Statement (.beq f) := congrArg some (headerOf_encB ..)
theorem Laws.Encoding.bne (f : Branch2) : Laws.Encoding.Statement (.bne f) := congrArg some (headerOf_encB ..)
theorem Laws.Encoding.blt (f : Branch2) : Laws.Encoding.Statement (.blt f) := congrArg some (headerOf_encB ..)
theorem Laws.Encoding.call (f : Jump) : Laws.Encoding.Statement (.call f) := congrArg some (headerOf_encB ..)
theorem Laws.Encoding.callr (f : Un) : Laws.Encoding.Statement (.callr f) := congrArg some (headerOf_encA ..)
theorem Laws.Encoding.jmpr (f : JumpReg) : Laws.Encoding.Statement (.jmpr f) := congrArg some (headerOf_encA ..)
theorem Laws.Encoding.ret (f : JumpReg) : Laws.Encoding.Statement (.ret f) := congrArg some (headerOf_encA ..)
theorem Laws.Encoding.loop (f : Branch1) : Laws.Encoding.Statement (.loop f) := congrArg some (headerOf_encB ..)
theorem Laws.Encoding.loopi (f : LoopImm) : Laws.Encoding.Statement (.loopi f) := congrArg some (FmtL.bits_header _)
theorem Laws.Encoding.mfs (f : SysRead) : Laws.Encoding.Statement (.mfs f) := congrArg some (headerOf_encA ..)
theorem Laws.Encoding.mts (f : SysWrite) : Laws.Encoding.Statement (.mts f) := congrArg some (headerOf_encA ..)
theorem Laws.Encoding.mtsb (f : SysMod) : Laws.Encoding.Statement (.mtsb f) := congrArg some (headerOf_encA ..)
theorem Laws.Encoding.mtsc (f : SysMod) : Laws.Encoding.Statement (.mtsc f) := congrArg some (headerOf_encA ..)
theorem Laws.Encoding.ecall (f : Service) : Laws.Encoding.Statement (.ecall f) := congrArg some (headerOf_encA ..)
theorem Laws.Encoding.ebreak (f : Service) : Laws.Encoding.Statement (.ebreak f) := congrArg some (headerOf_encA ..)
theorem Laws.Encoding.eret (f : Plain) : Laws.Encoding.Statement (.eret f) := congrArg some (headerOf_encA ..)
theorem Laws.Encoding.wfi (f : Plain) : Laws.Encoding.Statement (.wfi f) := congrArg some (headerOf_encA ..)
theorem Laws.Encoding.ipi (f : Bin) : Laws.Encoding.Statement (.ipi f) := congrArg some (headerOf_encA ..)
theorem Laws.Encoding.fenceI (f : Plain) : Laws.Encoding.Statement (.fenceI f) := congrArg some (headerOf_encA ..)
theorem Laws.Encoding.tlbinv (f : Src2) : Laws.Encoding.Statement (.tlbinv f) := congrArg some (headerOf_encA ..)
theorem Laws.Encoding.ptsync (f : Un) : Laws.Encoding.Statement (.ptsync f) := congrArg some (headerOf_encA ..)
theorem Laws.Encoding.logreplay (f : Un) : Laws.Encoding.Statement (.logreplay f) := congrArg some (headerOf_encA ..)
theorem Laws.Encoding.ctxsave (f : Bin) : Laws.Encoding.Statement (.ctxsave f) := congrArg some (headerOf_encA ..)
theorem Laws.Encoding.ctxload (f : Bin) : Laws.Encoding.Statement (.ctxload f) := congrArg some (headerOf_encA ..)
theorem Laws.Encoding.preemptHalt (f : Bin) : Laws.Encoding.Statement (.preemptHalt f) := congrArg some (headerOf_encA ..)
theorem Laws.Encoding.strandnew (f : Tri) : Laws.Encoding.Statement (.strandnew f) := congrArg some (headerOf_encA ..)
theorem Laws.Encoding.strandkill (f : Un) : Laws.Encoding.Statement (.strandkill f) := congrArg some (headerOf_encA ..)
theorem Laws.Encoding.freeze (f : FreezeOp) : Laws.Encoding.Statement (.freeze f) := congrArg some (headerOf_encB ..)
theorem Laws.Encoding.retire (f : Plain) : Laws.Encoding.Statement (.retire f) := congrArg some (headerOf_encA ..)
theorem Laws.Encoding.yield (f : Plain) : Laws.Encoding.Statement (.yield f) := congrArg some (headerOf_encA ..)
theorem Laws.Encoding.itemq (f : Query) : Laws.Encoding.Statement (.itemq f) := congrArg some (headerOf_encA ..)
theorem Laws.Encoding.scfg (f : StreamReg) : Laws.Encoding.Statement (.scfg f) := congrArg some (headerOf_encA ..)
theorem Laws.Encoding.scfgi (f : StreamReg) : Laws.Encoding.Statement (.scfgi f) := congrArg some (headerOf_encA ..)
theorem Laws.Encoding.sbind (f : StreamBind) : Laws.Encoding.Statement (.sbind f) := congrArg some (headerOf_encA ..)
theorem Laws.Encoding.sunbind (f : StreamOnly) : Laws.Encoding.Statement (.sunbind f) := congrArg some (headerOf_encA ..)
theorem Laws.Encoding.ssave (f : StreamReg) : Laws.Encoding.Statement (.ssave f) := congrArg some (headerOf_encA ..)
theorem Laws.Encoding.srest (f : StreamReg) : Laws.Encoding.Statement (.srest f) := congrArg some (headerOf_encA ..)
theorem Laws.Encoding.sseek (f : StreamReg) : Laws.Encoding.Statement (.sseek f) := congrArg some (headerOf_encA ..)
theorem Laws.Encoding.sstat (f : StreamStat) : Laws.Encoding.Statement (.sstat f) := congrArg some (headerOf_encA ..)
theorem Laws.Encoding.rep (f : RepOp) : Laws.Encoding.Statement (.rep f) := congrArg some (headerOf_encA ..)
theorem Laws.Encoding.vadd (f : VBin) : Laws.Encoding.Statement (.vadd f) := headerOf_eVOp ..
theorem Laws.Encoding.vsub (f : VBin) : Laws.Encoding.Statement (.vsub f) := headerOf_eVOp ..
theorem Laws.Encoding.vmul (f : VBin) : Laws.Encoding.Statement (.vmul f) := headerOf_eVOp ..
theorem Laws.Encoding.vfma (f : VTri) : Laws.Encoding.Statement (.vfma f) := headerOf_eVOp ..
theorem Laws.Encoding.vfms (f : VTri) : Laws.Encoding.Statement (.vfms f) := headerOf_eVOp ..
theorem Laws.Encoding.vneg (f : VUn) : Laws.Encoding.Statement (.vneg f) := congrArg some (headerOf_encA ..)
theorem Laws.Encoding.vabs (f : VUn) : Laws.Encoding.Statement (.vabs f) := congrArg some (headerOf_encA ..)
theorem Laws.Encoding.vmin (f : VBin) : Laws.Encoding.Statement (.vmin f) := headerOf_eVOp ..
theorem Laws.Encoding.vmax (f : VBin) : Laws.Encoding.Statement (.vmax f) := headerOf_eVOp ..
theorem Laws.Encoding.vrcpe (f : VUn) : Laws.Encoding.Statement (.vrcpe f) := congrArg some (headerOf_encA ..)
theorem Laws.Encoding.vrsqe (f : VUn) : Laws.Encoding.Statement (.vrsqe f) := congrArg some (headerOf_encA ..)
theorem Laws.Encoding.vti (f : VTable) : Laws.Encoding.Statement (.vti f) := congrArg some (headerOf_encA ..)
theorem Laws.Encoding.vtload (f : VTLoad) : Laws.Encoding.Statement (.vtload f) := congrArg some (headerOf_encA ..)
theorem Laws.Encoding.vcvt (f : VCvt) : Laws.Encoding.Statement (.vcvt f) := congrArg some (headerOf_encA ..)
theorem Laws.Encoding.vcmp (f : VCmp) : Laws.Encoding.Statement (.vcmp f) := congrArg some (headerOf_encA ..)
theorem Laws.Encoding.vsel (f : VSel) : Laws.Encoding.Statement (.vsel f) := congrArg some (headerOf_encA ..)
theorem Laws.Encoding.vand (f : VBin) : Laws.Encoding.Statement (.vand f) := headerOf_eVOp ..
theorem Laws.Encoding.vor (f : VBin) : Laws.Encoding.Statement (.vor f) := headerOf_eVOp ..
theorem Laws.Encoding.vxor (f : VBin) : Laws.Encoding.Statement (.vxor f) := headerOf_eVOp ..
theorem Laws.Encoding.vandn (f : VBin) : Laws.Encoding.Statement (.vandn f) := headerOf_eVOp ..
theorem Laws.Encoding.vshl (f : VBin) : Laws.Encoding.Statement (.vshl f) := headerOf_eVOp ..
theorem Laws.Encoding.vshr (f : VBin) : Laws.Encoding.Statement (.vshr f) := headerOf_eVOp ..
theorem Laws.Encoding.vsra (f : VBin) : Laws.Encoding.Statement (.vsra f) := headerOf_eVOp ..
theorem Laws.Encoding.vdot4 (f : V3) : Laws.Encoding.Statement (.vdot4 f) := congrArg some (headerOf_encA ..)
theorem Laws.Encoding.vredAdd (f : VRed) : Laws.Encoding.Statement (.vredAdd f) := congrArg some (headerOf_encA ..)
theorem Laws.Encoding.vredMax (f : VRed) : Laws.Encoding.Statement (.vredMax f) := congrArg some (headerOf_encA ..)
theorem Laws.Encoding.vredoAdd (f : VRed) : Laws.Encoding.Statement (.vredoAdd f) := congrArg some (headerOf_encA ..)
theorem Laws.Encoding.vbcast (f : VBcast) : Laws.Encoding.Statement (.vbcast f) := by
  obtain ⟨h, fmt, rd, x⟩ := f
  cases x <;> exact congrArg some (headerOf_encA ..)
theorem Laws.Encoding.vext (f : VExt) : Laws.Encoding.Statement (.vext f) := by
  obtain ⟨h, fmt, rd, a, x⟩ := f
  cases x <;> exact congrArg some (headerOf_encA ..)
theorem Laws.Encoding.vins (f : VIns) : Laws.Encoding.Statement (.vins f) := by
  obtain ⟨h, fmt, rd, a, s, x⟩ := f
  cases x <;> exact congrArg some (headerOf_encA ..)
theorem Laws.Encoding.vperm (f : V2) : Laws.Encoding.Statement (.vperm f) := congrArg some (headerOf_encA ..)
theorem Laws.Encoding.vshuf (f : V3) : Laws.Encoding.Statement (.vshuf f) := congrArg some (headerOf_encA ..)
theorem Laws.Encoding.vcompress (f : VUn) : Laws.Encoding.Statement (.vcompress f) := congrArg some (headerOf_encA ..)
theorem Laws.Encoding.vexpand (f : VUn) : Laws.Encoding.Statement (.vexpand f) := congrArg some (headerOf_encA ..)
theorem Laws.Encoding.viota (f : VNull) : Laws.Encoding.Statement (.viota f) := congrArg some (headerOf_encA ..)
theorem Laws.Encoding.vpopc (f : VNull) : Laws.Encoding.Statement (.vpopc f) := congrArg some (headerOf_encA ..)
theorem Laws.Encoding.vmov (f : VUn) : Laws.Encoding.Statement (.vmov f) := congrArg some (headerOf_encA ..)
theorem Laws.Encoding.ldl (f : Load) : Laws.Encoding.Statement (.ldl f) := congrArg some (headerOf_encM ..)
theorem Laws.Encoding.stl (f : Store) : Laws.Encoding.Statement (.stl f) := congrArg some (headerOf_encM ..)
theorem Laws.Encoding.ldc (f : Load) : Laws.Encoding.Statement (.ldc f) := congrArg some (headerOf_encM ..)
theorem Laws.Encoding.stc (f : Store) : Laws.Encoding.Statement (.stc f) := congrArg some (headerOf_encM ..)
theorem Laws.Encoding.ldg (f : Load) : Laws.Encoding.Statement (.ldg f) := congrArg some (headerOf_encM ..)
theorem Laws.Encoding.stg (f : Store) : Laws.Encoding.Statement (.stg f) := congrArg some (headerOf_encM ..)
theorem Laws.Encoding.ldaq (f : Load) : Laws.Encoding.Statement (.ldaq f) := congrArg some (headerOf_encM ..)
theorem Laws.Encoding.strl (f : Store) : Laws.Encoding.Statement (.strl f) := congrArg some (headerOf_encM ..)
theorem Laws.Encoding.vldl (f : VMem) : Laws.Encoding.Statement (.vldl f) := congrArg some (headerOf_encM ..)
theorem Laws.Encoding.vstl (f : VMem) : Laws.Encoding.Statement (.vstl f) := congrArg some (headerOf_encM ..)
theorem Laws.Encoding.vgathl (f : VMem) : Laws.Encoding.Statement (.vgathl f) := congrArg some (headerOf_encM ..)
theorem Laws.Encoding.vscatl (f : VMem) : Laws.Encoding.Statement (.vscatl f) := congrArg some (headerOf_encM ..)
theorem Laws.Encoding.vldg (f : VMem) : Laws.Encoding.Statement (.vldg f) := congrArg some (headerOf_encM ..)
theorem Laws.Encoding.vstg (f : VMem) : Laws.Encoding.Statement (.vstg f) := congrArg some (headerOf_encM ..)
theorem Laws.Encoding.ldlf (f : Load) : Laws.Encoding.Statement (.ldlf f) := congrArg some (headerOf_encM ..)
theorem Laws.Encoding.ldlt (f : Load) : Laws.Encoding.Statement (.ldlt f) := congrArg some (headerOf_encM ..)
theorem Laws.Encoding.stlf (f : Store) : Laws.Encoding.Statement (.stlf f) := congrArg some (headerOf_encM ..)
theorem Laws.Encoding.empty (f : Src2) : Laws.Encoding.Statement (.empty f) := congrArg some (headerOf_encA ..)
theorem Laws.Encoding.balloc (f : Balloc) : Laws.Encoding.Statement (.balloc f) := congrArg some (headerOf_encA ..)
theorem Laws.Encoding.bfree (f : Bin) : Laws.Encoding.Statement (.bfree f) := congrArg some (headerOf_encA ..)
theorem Laws.Encoding.bwake (f : Src2) : Laws.Encoding.Statement (.bwake f) := congrArg some (headerOf_encA ..)
theorem Laws.Encoding.prefg (f : Pref) : Laws.Encoding.Statement (.prefg f) := congrArg some (headerOf_encM ..)
theorem Laws.Encoding.amol (f : Amo) : Laws.Encoding.Statement (.amol f) := congrArg some (headerOf_encM ..)
theorem Laws.Encoding.amog (f : Amo) : Laws.Encoding.Statement (.amog f) := congrArg some (headerOf_encM ..)
theorem Laws.Encoding.faddx (f : CellAdd) : Laws.Encoding.Statement (.faddx f) := congrArg some (headerOf_encM ..)
theorem Laws.Encoding.rdx (f : CellRead) : Laws.Encoding.Statement (.rdx f) := congrArg some (headerOf_encM ..)
theorem Laws.Encoding.clrx (f : CellClear) : Laws.Encoding.Statement (.clrx f) := congrArg some (headerOf_encM ..)
theorem Laws.Encoding.fenceC (f : Plain) : Laws.Encoding.Statement (.fenceC f) := congrArg some (headerOf_encA ..)
theorem Laws.Encoding.fenceK (f : Plain) : Laws.Encoding.Statement (.fenceK f) := congrArg some (headerOf_encA ..)
theorem Laws.Encoding.fenceD (f : Plain) : Laws.Encoding.Statement (.fenceD f) := congrArg some (headerOf_encA ..)
theorem Laws.Encoding.fenceP (f : Plain) : Laws.Encoding.Statement (.fenceP f) := congrArg some (headerOf_encA ..)
theorem Laws.Encoding.fenceY (f : Plain) : Laws.Encoding.Statement (.fenceY f) := congrArg some (headerOf_encA ..)
theorem Laws.Encoding.fenceW (f : Plain) : Laws.Encoding.Statement (.fenceW f) := congrArg some (headerOf_encA ..)
theorem Laws.Encoding.sync (f : Plain) : Laws.Encoding.Statement (.sync f) := congrArg some (headerOf_encA ..)
theorem Laws.Encoding.syncX (f : Un) : Laws.Encoding.Statement (.syncX f) := congrArg some (headerOf_encA ..)
theorem Laws.Encoding.voteAnd (f : Un) : Laws.Encoding.Statement (.voteAnd f) := congrArg some (headerOf_encA ..)
theorem Laws.Encoding.voteOr (f : Un) : Laws.Encoding.Statement (.voteOr f) := congrArg some (headerOf_encA ..)
theorem Laws.Encoding.voteAdd (f : Un) : Laws.Encoding.Statement (.voteAdd f) := congrArg some (headerOf_encA ..)
theorem Laws.Encoding.voteMax (f : Un) : Laws.Encoding.Statement (.voteMax f) := congrArg some (headerOf_encA ..)
theorem Laws.Encoding.cpy (f : CopyOp) : Laws.Encoding.Statement (.cpy f) := congrArg some (headerOf_encE ..)
theorem Laws.Encoding.cpym (f : CopyMulti) : Laws.Encoding.Statement (.cpym f) := congrArg some (headerOf_encE ..)
theorem Laws.Encoding.cpyc (f : CopyConv) : Laws.Encoding.Statement (.cpyc f) := congrArg some (headerOf_encE ..)
theorem Laws.Encoding.cpyf (f : CopyFill) : Laws.Encoding.Statement (.cpyf f) := congrArg some (headerOf_encE ..)
theorem Laws.Encoding.fwait (f : HandleRead) : Laws.Encoding.Statement (.fwait f) := congrArg some (headerOf_encA ..)
theorem Laws.Encoding.ftest (f : HandleRead) : Laws.Encoding.Statement (.ftest f) := congrArg some (headerOf_encA ..)
theorem Laws.Encoding.fcancel (f : HandleOnly) : Laws.Encoding.Statement (.fcancel f) := congrArg some (headerOf_encA ..)
theorem Laws.Encoding.fexp (f : HandleRead) : Laws.Encoding.Statement (.fexp f) := congrArg some (headerOf_encA ..)
theorem Laws.Encoding.fimp (f : HandleImport) : Laws.Encoding.Statement (.fimp f) := congrArg some (headerOf_encA ..)
theorem Laws.Encoding.tslot (f : TslotOp) : Laws.Encoding.Statement (.tslot f) := congrArg some (headerOf_encE ..)
theorem Laws.Encoding.tzero (f : AccOnly) : Laws.Encoding.Statement (.tzero f) := congrArg some (headerOf_encE ..)
theorem Laws.Encoding.tldacc (f : AccLoad) : Laws.Encoding.Statement (.tldacc f) := congrArg some (headerOf_encE ..)
theorem Laws.Encoding.tmma (f : AccMul) : Laws.Encoding.Statement (.tmma f) := congrArg some (headerOf_encE ..)
theorem Laws.Encoding.tmmas (f : AccMul) : Laws.Encoding.Statement (.tmmas f) := congrArg some (headerOf_encE ..)
theorem Laws.Encoding.tdrain (f : AccDrain) : Laws.Encoding.Statement (.tdrain f) := congrArg some (headerOf_encE ..)
theorem Laws.Encoding.tdraint (f : AccDrain) : Laws.Encoding.Statement (.tdraint f) := congrArg some (headerOf_encE ..)
theorem Laws.Encoding.tqry (f : Query) : Laws.Encoding.Statement (.tqry f) := congrArg some (headerOf_encA ..)
theorem Laws.Encoding.enq (f : Eng2) : Laws.Encoding.Statement (.enq f) := congrArg some (headerOf_encE ..)
theorem Laws.Encoding.enqres (f : Eng1) : Laws.Encoding.Statement (.enqres f) := congrArg some (headerOf_encE ..)
theorem Laws.Encoding.enqpub (f : Eng3) : Laws.Encoding.Statement (.enqpub f) := congrArg some (headerOf_encE ..)
theorem Laws.Encoding.deq (f : DeqOp) : Laws.Encoding.Statement (.deq f) := congrArg some (headerOf_encE ..)
theorem Laws.Encoding.dcnew (f : Eng4) : Laws.Encoding.Statement (.dcnew f) := congrArg some (headerOf_encE ..)
theorem Laws.Encoding.dcdec (f : Eng1) : Laws.Encoding.Statement (.dcdec f) := congrArg some (headerOf_encE ..)
theorem Laws.Encoding.dcadd (f : Eng2) : Laws.Encoding.Statement (.dcadd f) := congrArg some (headerOf_encE ..)
theorem Laws.Encoding.taskdep (f : Eng3) : Laws.Encoding.Statement (.taskdep f) := congrArg some (headerOf_encE ..)
theorem Laws.Encoding.taskdepReg (f : Eng1) : Laws.Encoding.Statement (.taskdepReg f) := congrArg some (headerOf_encE ..)
theorem Laws.Encoding.taskdepUnreg (f : Eng1) : Laws.Encoding.Statement (.taskdepUnreg f) := congrArg some (headerOf_encE ..)
theorem Laws.Encoding.work (f : Plain) : Laws.Encoding.Statement (.work f) := congrArg some (headerOf_encA ..)
theorem Laws.Encoding.done (f : Plain) : Laws.Encoding.Statement (.done f) := congrArg some (headerOf_encA ..)
theorem Laws.Encoding.xinbox (f : Eng2) : Laws.Encoding.Statement (.xinbox f) := congrArg some (headerOf_encE ..)
theorem Laws.Encoding.xsend (f : XsendOp) : Laws.Encoding.Statement (.xsend f) := congrArg some (headerOf_encE ..)
theorem Laws.Encoding.xrecv (f : XrecvOp) : Laws.Encoding.Statement (.xrecv f) := congrArg some (headerOf_encE ..)
theorem Laws.Encoding.gather (f : Eng4) : Laws.Encoding.Statement (.gather f) := congrArg some (headerOf_encE ..)
theorem Laws.Encoding.scatadd (f : Eng4) : Laws.Encoding.Statement (.scatadd f) := congrArg some (headerOf_encE ..)
theorem Laws.Encoding.idemb (f : Plain) : Laws.Encoding.Statement (.idemb f) := congrArg some (headerOf_encA ..)
theorem Laws.Encoding.ideme (f : Plain) : Laws.Encoding.Statement (.ideme f) := congrArg some (headerOf_encA ..)
theorem Laws.Encoding.sysregWrite (n : BitVec 12) (v : Word) : Laws.Encoding.Statement (.sysregWrite n v) := .inr rfl
theorem Laws.Encoding.msginRead : Laws.Encoding.Statement (.msginRead) := .inr rfl
theorem Laws.Encoding.dmemWrite (v : Word) : Laws.Encoding.Statement (.dmemWrite v) := .inr rfl
theorem Laws.Encoding.bwphaseWrite (v : Word) : Laws.Encoding.Statement (.bwphaseWrite v) := .inr rfl
theorem Laws.Encoding.sposWrite (k : BitVec 2) (v : Word) : Laws.Encoding.Statement (.sposWrite k v) := .inr rfl
theorem Laws.Encoding.mtcmdRead (i : Nat) : Laws.Encoding.Statement (.mtcmdRead i) := .inr rfl
theorem Laws.Encoding.mtcmdWrite (i : Nat) : Laws.Encoding.Statement (.mtcmdWrite i) := .inr rfl
theorem Laws.Encoding.mtcmdClear (i : Nat) : Laws.Encoding.Statement (.mtcmdClear i) := .inr rfl
theorem Laws.Encoding.wfiTimeout (slot : Nat) : Laws.Encoding.Statement (.wfiTimeout slot) := .inr rfl
theorem Laws.Encoding.interruptEntry (slot : Nat) : Laws.Encoding.Statement (.interruptEntry slot) := .inr rfl
theorem Laws.Encoding.timerExpiry (slot : Nat) : Laws.Encoding.Statement (.timerExpiry slot) := .inr rfl
theorem Laws.Encoding.messageArrival (slot : Nat) : Laws.Encoding.Statement (.messageArrival slot) := .inr rfl
theorem Laws.Encoding.preemptResume (slot : Nat) : Laws.Encoding.Statement (.preemptResume slot) := .inr rfl
theorem Laws.Encoding.haltComplete (slot : Nat) : Laws.Encoding.Statement (.haltComplete slot) := .inr rfl
theorem Laws.Encoding.engineCheckpoint (slot : Nat) : Laws.Encoding.Statement (.engineCheckpoint slot) := .inr rfl
theorem Laws.Encoding.itemStamp (core : Nat) (r : Nat) : Laws.Encoding.Statement (.itemStamp core r) := .inr rfl
theorem Laws.Encoding.starterShip (core : Nat) (r : Nat) (dst : Nat) : Laws.Encoding.Statement (.starterShip core r dst) := .inr rfl
theorem Laws.Encoding.starterShipComplete (core : Nat) (r : Nat) (dst : Nat) : Laws.Encoding.Statement (.starterShipComplete core r dst) := .inr rfl
theorem Laws.Encoding.regCopyExhausted (slot : Nat) : Laws.Encoding.Statement (.regCopyExhausted slot) := .inr rfl
theorem Laws.Encoding.starterResume (core : Nat) (r : Nat) : Laws.Encoding.Statement (.starterResume core r) := .inr rfl
theorem Laws.Encoding.bankRetEntry (cl : Nat) (bank : Nat) : Laws.Encoding.Statement (.bankRetEntry cl bank) := .inr rfl
theorem Laws.Encoding.proofingComplete (cl : Nat) (bank : Nat) : Laws.Encoding.Statement (.proofingComplete cl bank) := .inr rfl
theorem Laws.Encoding.treeContribution (i : Nat) : Laws.Encoding.Statement (.treeContribution i) := .inr rfl
theorem Laws.Encoding.syncResultDelivery (i : Nat) : Laws.Encoding.Statement (.syncResultDelivery i) := .inr rfl
theorem Laws.Encoding.doneArrival (i : Nat) : Laws.Encoding.Statement (.doneArrival i) := .inr rfl
theorem Laws.Encoding.meshMessageForward (i : Nat) : Laws.Encoding.Statement (.meshMessageForward i) := .inr rfl
theorem Laws.Encoding.copyCommandComplete (core : Nat) : Laws.Encoding.Statement (.copyCommandComplete core) := .inr rfl
theorem Laws.Encoding.engineWordWrite (core : Nat) (e : Engine) (k : Nat) : Laws.Encoding.Statement (.engineWordWrite core e k) := .inr rfl
theorem Laws.Encoding.tileCommandComplete (core : Nat) : Laws.Encoding.Statement (.tileCommandComplete core) := .inr rfl
theorem Laws.Encoding.queueSlotFreed (q : Nat) : Laws.Encoding.Statement (.queueSlotFreed q) := .inr rfl
theorem Laws.Encoding.dispenserTake (d : Nat) : Laws.Encoding.Statement (.dispenserTake d) := .inr rfl
theorem Laws.Encoding.recordDelivery (d : Nat) : Laws.Encoding.Statement (.recordDelivery d) := .inr rfl
theorem Laws.Encoding.withholdTimeout (d : Nat) : Laws.Encoding.Statement (.withholdTimeout d) := .inr rfl
theorem Laws.Encoding.watchdogPreempt (slot : Nat) : Laws.Encoding.Statement (.watchdogPreempt slot) := .inr rfl
theorem Laws.Encoding.watchdogKill (slot : Nat) : Laws.Encoding.Statement (.watchdogKill slot) := .inr rfl
theorem Laws.Encoding.watchdogFence (slot : Nat) : Laws.Encoding.Statement (.watchdogFence slot) := .inr rfl
theorem Laws.Encoding.queueRead (v : Word) : Laws.Encoding.Statement (.queueRead v) := .inr rfl
theorem Laws.Encoding.queueWrite (v : Word) : Laws.Encoding.Statement (.queueWrite v) := .inr rfl
theorem Laws.Encoding.coreReadmit (v : Word) : Laws.Encoding.Statement (.coreReadmit v) := .inr rfl
theorem Laws.Encoding.queueEmpty (v : Word) : Laws.Encoding.Statement (.queueEmpty v) := .inr rfl
theorem Laws.Encoding.packetArrival (core : Nat) : Laws.Encoding.Statement (.packetArrival core) := .inr rfl
theorem Laws.Encoding.dgeCommandComplete (core : Nat) (k : Nat) : Laws.Encoding.Statement (.dgeCommandComplete core k) := .inr rfl
theorem Laws.Encoding.icacheFill (slot : Nat) (line : Word) : Laws.Encoding.Statement (.icacheFill slot line) := .inr rfl
theorem Laws.Encoding.storeBufferDrain (core : Nat) : Laws.Encoding.Statement (.storeBufferDrain core) := .inr rfl
theorem Laws.Encoding.translationProbe (core : Nat) : Laws.Encoding.Statement (.translationProbe core) := .inr rfl
theorem Laws.Encoding.logDiscard (sid : Nat) : Laws.Encoding.Statement (.logDiscard sid) := .inr rfl
theorem Laws.Encoding.logRearm (sid : Nat) : Laws.Encoding.Statement (.logRearm sid) := .inr rfl
theorem Laws.Encoding.swapGo : Laws.Encoding.Statement (.swapGo) := .inr rfl
theorem Laws.Encoding.swapExchangeComplete (die : Nat) (k : Nat) (farOk : Bool) : Laws.Encoding.Statement (.swapExchangeComplete die k farOk) := .inr rfl
theorem Laws.Encoding.windowBoundary (core : Nat) : Laws.Encoding.Statement (.windowBoundary core) := .inr rfl
theorem Laws.Encoding.agePromotion (slot : Nat) : Laws.Encoding.Statement (.agePromotion slot) := .inr rfl
theorem Laws.Encoding.p3PeriodStart (core : Nat) : Laws.Encoding.Statement (.p3PeriodStart core) := .inr rfl
theorem Laws.Encoding.p3BudgetExhausted (core : Nat) : Laws.Encoding.Statement (.p3BudgetExhausted core) := .inr rfl
theorem Laws.Encoding.timestatKApply : Laws.Encoding.Statement (.timestatKApply) := .inr rfl
theorem Laws.Encoding.ptpSync (offset : Int) : Laws.Encoding.Statement (.ptpSync offset) := .inr rfl
theorem Laws.Encoding.timeLockLost : Laws.Encoding.Statement (.timeLockLost) := .inr rfl
theorem Laws.Encoding.ethernetFrame (fr : EthFrame) : Laws.Encoding.Statement (.ethernetFrame fr) := .inr rfl
theorem Laws.Encoding.hello (k : Nat) : Laws.Encoding.Statement (.hello k) := .inr rfl
theorem Laws.Encoding.ack (session : Nat) : Laws.Encoding.Statement (.ack session) := .inr rfl
theorem Laws.Encoding.launch (session : Nat) : Laws.Encoding.Statement (.launch session) := .inr rfl
theorem Laws.Encoding.memwrite (session : Nat) : Laws.Encoding.Statement (.memwrite session) := .inr rfl
theorem Laws.Encoding.memread (session : Nat) : Laws.Encoding.Statement (.memread session) := .inr rfl
theorem Laws.Encoding.load (session : Nat) : Laws.Encoding.Statement (.load session) := .inr rfl
theorem Laws.Encoding.khtResend (session : Nat) : Laws.Encoding.Statement (.khtResend session) := .inr rfl
theorem Laws.Encoding.khtSessionTimeout (session : Nat) : Laws.Encoding.Statement (.khtSessionTimeout session) := .inr rfl
theorem Laws.Encoding.roleImageForward (i : Nat) (ok : Bool) : Laws.Encoding.Statement (.roleImageForward i ok) := .inr rfl
theorem Laws.Encoding.roleStart (core : Nat) : Laws.Encoding.Statement (.roleStart core) := .inr rfl
theorem Laws.Encoding.powerOnReset : Laws.Encoding.Statement (.powerOnReset) := .inr rfl
theorem Laws.Encoding.olLinkTraining (port : Nat) (link : LinkUp) : Laws.Encoding.Statement (.olLinkTraining port link) := .inr rfl
theorem Laws.Encoding.olFlitReceive (port : Nat) (flit : Flit) : Laws.Encoding.Statement (.olFlitReceive port flit) := .inr rfl
theorem Laws.Encoding.clockPause (core : Nat) : Laws.Encoding.Statement (.clockPause core) := .inr rfl
theorem Laws.Encoding.clockRestart (core : Nat) : Laws.Encoding.Statement (.clockRestart core) := .inr rfl
theorem Laws.Encoding.supplyDroop (core : Nat) (percent : Nat) : Laws.Encoding.Statement (.supplyDroop core percent) := .inr rfl
theorem Laws.Encoding.powerTokenPass (die : Nat) (draws : Draws) : Laws.Encoding.Statement (.powerTokenPass die draws) := .inr rfl
theorem Laws.Encoding.pwrcapWrite (v : Word) : Laws.Encoding.Statement (.pwrcapWrite v) := .inr rfl
theorem Laws.Encoding.regionHot (die : Nat) (region : Nat) (temp : Nat) : Laws.Encoding.Statement (.regionHot die region temp) := .inr rfl
theorem Laws.Encoding.overBudgetStretch (die : Nat) : Laws.Encoding.Statement (.overBudgetStretch die) := .inr rfl
theorem Laws.Encoding.currentRampHold (die : Nat) : Laws.Encoding.Statement (.currentRampHold die) := .inr rfl
theorem Laws.Encoding.ballastStart (core : Nat) : Laws.Encoding.Statement (.ballastStart core) := .inr rfl
theorem Laws.Encoding.ballastEnd (core : Nat) : Laws.Encoding.Statement (.ballastEnd core) := .inr rfl
theorem Laws.Encoding.errorRecordRemove : Laws.Encoding.Statement (.errorRecordRemove) := .inr rfl
theorem Laws.Encoding.taskUnitCommandComplete (u : Nat) : Laws.Encoding.Statement (.taskUnitCommandComplete u) := .inr rfl
theorem Laws.Encoding.olLinkDown (port : Nat) : Laws.Encoding.Statement (.olLinkDown port) := .inr rfl
theorem Laws.Encoding.granuleClaimEnd (cl : Nat) (granule : Nat) : Laws.Encoding.Statement (.granuleClaimEnd cl granule) := .inr rfl

end Sys2Proof
end

