-- ==== Sys2Proof/Safety.lean ====
section
/-! DEFINITION. What counts as a safe step and a safe state, and when an instruction executes and retires without a trap, a
wait or an open choice, in the terms the statements use. -/

namespace Sys2Proof.Machine

/-- The outcome is a next state. -/
def Completes (o : Out) : Prop := ∃ t, o = .next t

/-- Every memory of the package is in its canonical form: HBM, and the scratchpad of every cluster. -/
def State.memoriesOk (s : State) : Bool := s.mem.wf && s.clusters.all fun c => c.2.mem.wf

/-! ### When an instruction executes and retires in order -/

/-- No lookahead window is open, no repetition runs, and the instruction does not end a pass of a loop: what retires goes on
at the next instruction (R89, R106, R147, R206). -/
def Slot.steady (x : Slot) : Bool :=
  x.windows.isEmpty && decide (x.rep.mode ≠ .running) &&
    (decide (x.loops.depth = 0) || decide (x.loops.fin[(x.loops.depth - 1) % 4]'(Nat.mod_lt _ (by decide)) ≠ x.pc))

/-- The guard's predicate register (R103). -/
def guardReg (h : Hdr) : BitVec 5 := (field h.gd 0 3).setWidth 5
/-- The guard of a scalar instruction is valid and on (R103, R108). -/
def Slot.executes (x : Slot) (h : Hdr) : Bool :=
  x.regs.validP (guardReg h) && ((x.regs.getP (guardReg h)).getLsbD 0 != h.gd.getLsbD 3)
/-- The guard of a scalar instruction is valid and off (R104). -/
def Slot.guardedOff (x : Slot) (h : Hdr) : Bool :=
  x.regs.validP (guardReg h) && ((x.regs.getP (guardReg h)).getLsbD 0 == h.gd.getLsbD 3)
/-- The lane mask of a vector-group instruction (R171). -/
def Slot.lanes (x : Slot) (h : Hdr) : Word :=
  if h.gd.getLsbD 3 then ~~~(x.regs.getP (guardReg h)) else x.regs.getP (guardReg h)

/-- A source register is valid and bound to no stream; g0 and p0 always are (R108, R197). -/
def Slot.readable (x : Slot) (c : Cls) (n : BitVec 5) : Bool :=
  (decide (c ≠ .v) && n == 0) || ((x.boundTo c n).isNone && (x.regs.peek c n).2)
/-- The register is the strand's own physical register (R24, R283). -/
def Regs.own (r : Regs) (c : Cls) (n : BitVec 5) : Bool :=
  match c with
  | .g => r.gv.getLsbD n.toNat && !r.gs.getLsbD n.toNat
  | .v => r.vv.getLsbD n.toNat && !r.vs.getLsbD n.toNat
  | .p => r.pv.getLsbD n.toNat && !r.ps.getLsbD n.toNat
  | .x => false
/-- A destination register is bound to no stream, and the strand owns it or its pool has a free one (R24, R197). -/
def State.writable (s : State) (c : Cls) (n : BitVec 5) : Bool :=
  (decide (c ≠ .v) && n == 0) || ((s.me.boundTo c n).isNone && (s.me.regs.own c n || s.poolFree (coreOf s.cur) c))
/-- Every source of the shape is readable. -/
def Slot.readableAll (x : Slot) (sh : Shape) : Bool := sh.srcs.all fun m => x.readable m.2.1 m.2.2.n
/-- The destination of the shape, if any, is writable. -/
def State.dstOk (s : State) (sh : Shape) : Bool :=
  match sh.dst with
  | some (c, n) => s.writable c n
  | none => true

/-- An instruction under a scalar guard executes and retires in order: nothing of R24, R106, R108, R147 or R206 intervenes. -/
def State.ready (s : State) (sh : Shape) : Bool :=
  s.me.steady && s.me.executes sh.h && s.me.readableAll sh && s.dstOk sh
/-- The same under a lane mask with an active element (R171). -/
def State.readyVec (s : State) (sh : Shape) (active : Word → Bool) : Bool :=
  s.me.steady && s.me.regs.validP (guardReg sh.h) && active (s.me.lanes sh.h) && s.me.readableAll sh && s.dstOk sh

/-- What the destination held before (R106). -/
def Shape.prior (sh : Shape) (x : Slot) : Nat × Bool :=
  match sh.dst with
  | some (c, n) => x.regs.peek c n
  | none => (0, false)
/-- The slot after retirement at the target of a transfer: last-read marks released (R109), and the window of LA opened (R105). -/
def Slot.finish (y : Slot) (sh : Shape) (prior : Nat × Bool) (target : Word) : Slot :=
  Slot.openWindow { y.releaseMarks sh with pc := target } sh prior
/-- The same at the next instruction in program order (R89, R93). -/
def Slot.pass (y : Slot) (sh : Shape) (prior : Nat × Bool) (next : Word) : Slot :=
  Slot.openWindow ((y.releaseMarks sh).goOn next) sh prior
/-- The state in which an instruction has retired that left the slot as `y`: only the slot of the strand differs (R89). -/
def State.retires (s : State) (sh : Shape) (y : Slot) : State :=
  s.setMe (y.pass sh (sh.prior s.me) (nextOf s.line s.me.pc))
/-- The same for a taken transfer to `target` (R143). -/
def State.jumps (s : State) (sh : Shape) (y : Slot) (target : Word) : State :=
  s.setMe (y.finish sh (sh.prior s.me) target)

/-- A g register written (R126). -/
def Slot.withG (x : Slot) (n : BitVec 5) (v : Word) : Slot := { x with regs := x.regs.putG n v }
/-- A v register written. -/
def Slot.withV (x : Slot) (n : BitVec 5) (v : Vec) : Slot := { x with regs := x.regs.putV n v }
/-- A p register written. -/
def Slot.withP (x : Slot) (n : BitVec 5) (v : Word) : Slot := { x with regs := x.regs.putP n v }
/-- Flags added to FFLAGS (R66). -/
def Slot.withFlags (x : Slot) (f : BitVec 5) : Slot := { x with ctl := { x.ctl with fflags := x.ctl.fflags ||| f.setWidth 64 } }

/-- SEED advanced (R63). -/
def Slot.withSeed (x : Slot) (seed : BitVec 32) : Slot := { x with ctl := { x.ctl with seed := seed.setWidth 64 } }

/-- The strand's stores have left the store buffer and its side log (R235, R270). -/
def State.drained (s : State) : Bool := (s.ownEntries s.cur).isEmpty && (s.ownLog s.cur).isEmpty

/-- The state after the bank check of an access (R213, R220, R226): its banks are touched, and the phase notes its groups, which leave RET
where the strand holds them. -/
def State.touched (s : State) (cl a n : Nat) : State :=
  let t := s.setCluster cl ((s.cluster cl).touch s.clock.time a n)
  if cl = clusterOf s.cur then t.noteTouch t.cur a n else t

/-- An entry put at the end of the issuing core's store buffer (R256). -/
def State.withEntry (s : State) (e : SbEntry) : State := s.setCore (coreOf s.cur) { s.myCore with sb := s.myCore.sb ++ [e] }

/-- An engine command accepted as the operation of handle `hd` (R242); the strand's slot apart. -/
def State.withOp (s : State) (hd : BitVec 3) : State :=
  { s with nextOp := s.nextOp + 1, ops := s.ops.insert s.nextOp ⟨.slot s.cur hd.toNat, none, false, false, none⟩ }
/-- The slot of the strand with its handle `hd` waiting for the next operation (R242). -/
def State.awaiting (s : State) (x : Slot) (hd : BitVec 3) : Slot := x.setHandle hd.toNat (.pending s.nextOp)
/-- A bank touched by the clearing of a destination's bits: in RET it starts proofing, and its idle count restarts (R220, R225). -/
def Bank.woken (b : Bank) (now : Nat) : Bank := ⟨if b.st = .ret then .proofing else b.st, now⟩
/-- A bank of a group that a strand comes to hold: in RET it starts proofing (R220, R227). -/
def Bank.held (b : Bank) : Bank := { b with st := if b.st = .ret then .proofing else b.st }
/-- From `s` to `t` the words of a destination have been cleared, by cluster and word, and exactly they; their banks are touched, and no bank
of a touched group that the strand, whose slot is now `y`, holds stays in RET (R246, R220, R226, R227). -/
def State.clears (s t : State) (y : Slot) (dest : Nat → Nat → Prop) : Prop :=
  ∀ k, let c := s.cluster k
    let d := t.cluster k
    let touched (b : Nat) : Prop := d.banks.find b = (c.banks.find b).map fun x => x.woken s.clock.time
    let near (b w : Nat) : Prop := k = clusterOf s.cur ∧ dest k w ∧ b ∈ c.banksOf (w / 0x400)
    d = { c with full := d.full, banks := d.banks } ∧ (∀ w, w ∈ d.full ↔ w ∈ c.full ∧ ¬dest k w) ∧
    ∀ b, ((∀ w, dest k w → c.bankOf (8 * w) ≠ some b) → (∀ w, ¬near b w) → d.banks.find b = c.banks.find b) ∧
      (d.banks.find b = c.banks.find b ∨ touched b ∨ ((∃ w, near b w) ∧ d.banks.find b = (c.banks.find b).map Bank.held)) ∧
      (∀ w x, near b w → y.holds (w / 0x400) = true → d.banks.find b = some x → x.st ≠ .ret) ∧
      ∀ w r, dest k w → c.bankOf (8 * w) = some b → r.first * 0x400 ≤ w → c.groups.find (w / 0x400) = some r →
        (∀ g ∈ stripeSet r (b / 8), c.groups.find g = some r) → touched b
/-- The groups of touched words are noted for the bandwidth phase, when the phase holds any (R226). -/
def Slot.notes (x y : Slot) (touched : Nat → Prop) : Prop :=
  let on : Prop := natField x.ctl.bwphase 0 3 ≠ 0 ∨ x.ctl.bwphase.getLsbD 8 = true
  y = { x with sched := { x.sched with phase := y.sched.phase } } ∧ (¬on → y = x) ∧
  (on → ∀ g, g ∈ y.sched.phase ↔ g ∈ x.sched.phase ∨ ∃ w, touched w ∧ w / 0x400 = g)
/-- Writes of an engine give a byte of a scratchpad a value. -/
def writesTo (ws : List EngWrite) (cl x : Nat) (b : Byte) : Prop :=
  ∃ w ∈ ws, w.sp = .l ∧ w.cl = cl ∧ w.addr ≤ x ∧ w.bytes[x - w.addr]? = some (some b)
/-- They give the bytes from `a` on their values. -/
def writesAll (ws : List EngWrite) (cl a : Nat) (bs : List Byte) : Prop := ∀ k b, bs[k]? = some b → writesTo ws cl (a + k) b
/-- They write to no other byte than those of a destination. -/
def writesOnly (ws : List EngWrite) (cl : Nat) (dest : List (Nat × Nat)) : Prop :=
  ∀ x b, writesTo ws cl x b → ∃ r ∈ dest, r.1 ≤ x ∧ x < r.1 + r.2
/-- They write plane `j` of up to 256 mantissas to the 32 bytes from `a` on: bit `j` of mantissa `i` is bit `i` of the plane (R70). -/
def writesPlane (ws : List EngWrite) (cl a j : Nat) (ms : List Int) : Prop :=
  ∃ bs : List Byte, bs.length = 32 ∧ writesAll ws cl a bs ∧
    ∀ i, i < 256 → (bs.getD (i / 8) 0).getLsbD (i % 8) = decide ((ms[i]?.getD 0) / 2 ^ j % 2 = 1)
/-- No two ranges have a byte in common. -/
def apart (rs : List (Nat × Nat)) : Prop := rs.Pairwise fun a b => a.1 + a.2 ≤ b.1 ∨ b.1 + b.2 ≤ a.1
/-- An engine's read of a scratchpad meets banks that are ON, with no bit error and no poison (R220, R222). -/
def Cluster.sound (c : Cluster) (a n : Nat) : Prop := c.check a n = .ok ∧ c.flawed a n = none ∧ c.poisoned a n = none
/-- Issue of an engine command that has passed its checks: it waits for its handle, for room in the queue, and for the
strand's stores, in this order (R242, R270); else `go`. -/
def State.issues (s : State) (i : Instr) (hd : BitVec 3) (length : Nat) (room : Wait) (go : Prop) : Prop :=
  if (s.me.handle hd.toNat).isPending then Sys2Proof.Machine.exec i s = .next (waitState (.handle hd.toNat) false s)
  else if 2 ≤ length then Sys2Proof.Machine.exec i s = .next (waitState room false s)
  else if s.drained = false then Sys2Proof.Machine.exec i s = .next (waitState .drained false s)
  else go
/-- An engine command of no work: it waits for its handle only, and completes at once with success (R242, R244). -/
def State.completesAtOnce (s : State) (i : Instr) (sh : Shape) (hd : BitVec 3) : Prop :=
  if (s.me.handle hd.toNat).isPending then Sys2Proof.Machine.exec i s = .next (waitState (.handle hd.toNat) false s)
  else Sys2Proof.Machine.exec i s =
    .next ({ s with nextOp := s.nextOp + 1 }.retires sh (s.me.setHandle hd.toNat (.complete s.nextOp 0)))

/-- The value of the second operand of R130. -/
def Slot.opnd (x : Slot) : Opnd → Word
  | .reg r => x.regs.getG r.n
  | .imm v => sext64 v
  | .lit v => v

end Sys2Proof.Machine
end

