-- ==== Sys2Proof/Certificates/Slice0/Obligations.lean ====
section
/-! DEFINITION. The statements for the provers: what the rules of the spec say the instructions and the machine do. -/

open Sys2Proof Sys2Proof.Machine

/-- The two-operand integer forms complete with f(a, b) of the table in RD, and change nothing else (R130). -/
def Obligations.IntegerTwoOperandResults : Prop :=
  ∀ (s : State) (f : IntBin), s.ready (intBinShape f) = true →
    let a := s.me.regs.getG f.a.n
    let b := s.me.opnd f.b
    let gives (i : Instr) (v : Word) : Prop := exec i s = .next (s.retires (intBinShape f) (s.me.withG f.rd v))
    let cnt := b.toNat % 64
    let pos := b.toNat % 64
    let w := Nat.min (b.toNat / 256 % 64 + 1) (64 - pos)
    gives (.add f) (a + b) ∧ gives (.sub f) (a - b) ∧ gives (.mul f) (a * b) ∧
    gives (.mulh f) (BitVec.ofInt 64 (a.toInt * b.toInt / 2 ^ 64)) ∧ gives (.mulhn f) (BitVec.ofNat 64 (a.toNat * b.toNat / 2 ^ 64)) ∧
    gives (.div f) (if b = 0 then BitVec.allOnes 64 else BitVec.ofInt 64 (a.toInt.tdiv b.toInt)) ∧
    gives (.divn f) (if b = 0 then BitVec.allOnes 64 else a / b) ∧
    gives (.rem f) (if b = 0 then a else BitVec.ofInt 64 (a.toInt.tmod b.toInt)) ∧ gives (.remn f) (if b = 0 then a else a % b) ∧
    gives (.and f) (a &&& b) ∧ gives (.or f) (a ||| b) ∧ gives (.xor f) (a ^^^ b) ∧
    gives (.andn f) (a &&& ~~~b) ∧ gives (.orn f) (a ||| ~~~b) ∧
    gives (.shl f) (a <<< cnt) ∧ gives (.shr f) (a >>> cnt) ∧ gives (.sra f) (a.sshiftRight cnt) ∧
    gives (.rol f) (a <<< cnt ||| a >>> (64 - cnt)) ∧ gives (.ror f) (a >>> cnt ||| a <<< (64 - cnt)) ∧
    gives (.bext f) (BitVec.ofNat 64 (a.toNat / 2 ^ pos % 2 ^ w)) ∧
    gives (.min f) (if a.toInt ≤ b.toInt then a else b) ∧ gives (.max f) (if a.toInt ≤ b.toInt then b else a) ∧
    gives (.minn f) (if a.toNat ≤ b.toNat then a else b) ∧ gives (.maxn f) (if a.toNat ≤ b.toNat then b else a) ∧
    gives (.seq f) (if a = b then 1 else 0) ∧ gives (.sne f) (if a = b then 0 else 1) ∧
    gives (.slt f) (if a.toInt < b.toInt then 1 else 0) ∧ gives (.sltn f) (if a.toNat < b.toNat then 1 else 0) ∧
    gives (.sle f) (if a.toInt ≤ b.toInt then 1 else 0) ∧ gives (.slen f) (if a.toNat ≤ b.toNat then 1 else 0)

/-- The unary, field, select, immediate and address forms complete with the values of their tables (R131, R132, R133, R134,
R135, R110). -/
def Obligations.IntegerUnaryAndTernaryResults : Prop :=
  (∀ (s : State) (f : Un), s.ready (unShape f) = true →
    let a := s.me.regs.getG f.a.n
    let gives (i : Instr) (v : Word) : Prop := exec i s = .next (s.retires (unShape f) (s.me.withG f.rd v))
    gives (.clz f) (BitVec.ofNat 64 ((List.range 64).findIdx fun k => a.getLsbD (63 - k))) ∧
    gives (.ctz f) (BitVec.ofNat 64 ((List.range 64).findIdx fun k => a.getLsbD k)) ∧
    gives (.popc f) (BitVec.ofNat 64 ((List.range 64).countP fun k => a.getLsbD k)) ∧
    (∃ v : Word, gives (.bswap f) v ∧ ∀ k, k < 8 → v.extractLsb' (8 * (7 - k)) 8 = a.extractLsb' (8 * k) 8) ∧
    gives (.abs f) (BitVec.ofInt 64 |a.toInt|) ∧ gives (.mov f) a) ∧
  (∀ (s : State) (f : IntTri), s.ready (intTriShape f) = true →
    let a := s.me.regs.getG f.a.n
    let b := s.me.opnd f.b
    let c := s.me.regs.getG f.c.n
    let pos := b.toNat % 64
    let w := Nat.min (b.toNat / 256 % 64 + 1) (64 - pos)
    (∃ v : Word, exec (.bins f) s = .next (s.retires (intTriShape f) (s.me.withG f.rd v)) ∧
      ∀ k, k < 64 → v.getLsbD k = if pos ≤ k ∧ k < pos + w then c.getLsbD (k - pos) else a.getLsbD k) ∧
    exec (.sel f) s = .next (s.retires (intTriShape f) (s.me.withG f.rd (if c = 0 then b else a)))) ∧
  (∀ (s : State) (f : LoadImm), s.ready ⟨f.h, [], some (.g, f.rd)⟩ = true →
    exec (.li f) s = .next (s.retires ⟨f.h, [], some (.g, f.rd)⟩ (s.me.withG f.rd f.imm))) ∧
  (∀ (s : State) (f : LeaOp), s.ready ⟨f.h, addrSrc f.ad, some (.g, f.rd)⟩ = true →
    exec (.lea f) s = .next (s.retires ⟨f.h, addrSrc f.ad, some (.g, f.rd)⟩ (s.me.withG f.rd
      (s.me.regs.getG f.ad.base.n + (s.me.regs.getG f.ad.index.n <<< f.ad.scale.toNat) + f.ad.disp.signExtend 64)))) ∧
  (∀ s : State, s.me.steady = true → exec .nop s = .next (s.setMe (s.me.goOn (nextOf s.line s.me.pc))))

/-- The scalar FP32 forms complete with the rounded result in RD, add their flags to FFLAGS, and change nothing else (R127,
R128, R136, R137, R138, R139, R140, R141, R66, R63, R55). -/
def Obligations.ScalarFloatResults : Prop :=
  (∀ (s : State) (f : Bin), s.ready (binShape f) = true →
    let rm := Rnd.ofRM (natField s.me.ctl.status 4 2)
    let ca := natField (s.me.regs.getG f.a.n) 0 32
    let cb := natField (s.me.regs.getG f.b.n) 0 32
    let a := FFmt.fp32.read ca
    let b := FFmt.fp32.read cb
    let gives (i : Instr) (r : Nat × Fl) : Prop :=
      exec i s = .next (s.retires (binShape f) ((s.me.withG f.rd (BitVec.ofNat 64 (r.1 % 2 ^ 32))).withFlags r.2))
    gives (.fadd f) (FFmt.fp32.add rm a b) ∧ gives (.fsub f) (FFmt.fp32.add rm a b.flip) ∧
    gives (.fmul f) (FFmt.fp32.mul rm a b) ∧ gives (.fdiv f) (FFmt.fp32.div rm a b) ∧
    gives (.fmin f) (FFmt.fp32.minmax false ca cb) ∧ gives (.fmax f) (FFmt.fp32.minmax true ca cb)) ∧
  (∀ (s : State) (f : Un), s.ready (unShape f) = true →
    let rm := Rnd.ofRM (natField s.me.ctl.status 4 2)
    let ca := natField (s.me.regs.getG f.a.n) 0 32
    let a := FFmt.fp32.read ca
    let gives (i : Instr) (r : Nat × Fl) : Prop :=
      exec i s = .next (s.retires (unShape f) ((s.me.withG f.rd (BitVec.ofNat 64 (r.1 % 2 ^ 32))).withFlags r.2))
    gives (.fsqrt f) (FFmt.fp32.sqrt rm a) ∧ gives (.frsqe f) (rsqrtEst a) ∧ gives (.frcpe f) (recipEst a) ∧
    gives (.fabs f) (if a.isNan then (0x7FC00000, if a.signalling then 16 else 0) else (ca % 2 ^ 31, 0)) ∧
    gives (.fneg f) (if a.isNan then (0x7FC00000, if a.signalling then 16 else 0)
      else (if ca < 2 ^ 31 then ca + 2 ^ 31 else ca - 2 ^ 31, 0)) ∧
    exec (.fclass f) s = .next (s.retires (unShape f) (s.me.withG f.rd (BitVec.ofNat 64 (2 ^ a.classBit .fp32))))) ∧
  (∀ (s : State) (f : Tri), s.ready (triShape f) = true →
    let v (r : Reg) := FFmt.fp32.read (natField (s.me.regs.getG r.n) 0 32)
    let r := FFmt.fp32.fma (Rnd.ofRM (natField s.me.ctl.status 4 2)) (v f.a) (v f.b) (v f.c)
    exec (.ffma f) s = .next (s.retires (triShape f) ((s.me.withG f.rd (BitVec.ofNat 64 (r.1 % 2 ^ 32))).withFlags r.2))) ∧
  (∀ (s : State) (f : CmpF), s.ready ⟨f.h, [(1, .g, f.a), (2, .g, f.b)], some (.g, f.rd)⟩ = true →
    let v (r : Reg) := FFmt.fp32.read (natField (s.me.regs.getG r.n) 0 32)
    let r := floatCond f.cc (v f.a) (v f.b)
    exec (.fcmp f) s = .next (s.retires ⟨f.h, [(1, .g, f.a), (2, .g, f.b)], some (.g, f.rd)⟩
      ((s.me.withG f.rd (if r.1 then 1 else 0)).withFlags r.2))) ∧
  (∀ (s : State) (f : CvtF), s.ready ⟨f.h, [(1, .g, f.a)], some (.g, f.rd)⟩ = true →
    let isInt (c : BitVec 4) : Bool := decide (5 ≤ c.toNat)
    let draws := f.rnd == 4 && !(isInt f.dst && isInt f.src)
    let seed := seedDraw (field s.me.ctl.seed 0 32)
    let mode := if f.rnd = 7 then Rnd.ofRM (natField s.me.ctl.status 4 2) else if draws then .rstoch seed.toNat else Rnd.ofRM f.rnd.toNat
    let r := convertFmt (s.me.ctl.status.getLsbD 10) f.dst f.src mode (natField (s.me.regs.getG f.a.n) 0 (8 * fmtBytes f.src))
    let x := if draws then s.me.withSeed seed else s.me
    (draws = true → f.rd = 0 ∨ s.me.regs.own .g f.rd = true) →
    exec (.fcvt f) s = .next (s.retires ⟨f.h, [(1, .g, f.a)], some (.g, f.rd)⟩
      ((x.withG f.rd (if isInt f.dst && decide (f.dst.toNat < 8) then BitVec.ofInt 64 (intRead f.dst r.1) else BitVec.ofNat 64 r.1)).withFlags r.2)))

/-- The predicate forms complete with their lane masks; p0 reads as all ones and discards writes (R142). -/
def Obligations.PredicateResults : Prop :=
  (∀ (s : State) (f : CmpI), s.ready ⟨f.h, (1, .g, f.a) :: vopndSrc .g 2 f.b, some (.p, f.rd)⟩ = true →
    let a := s.me.regs.getG f.a.n
    let b := match f.b with
      | .reg r => s.me.regs.getG r.n
      | .imm v => v.signExtend 64
    let holds : Bool := match f.cc.toNat with
      | 0 => decide (a = b)
      | 1 => decide (a ≠ b)
      | 2 => decide (a.toInt < b.toInt)
      | 3 => decide (a.toInt ≤ b.toInt)
      | 4 => decide (b.toInt < a.toInt)
      | 5 => decide (b.toInt ≤ a.toInt)
      | 6 => decide (a.toNat < b.toNat)
      | 7 => decide (a.toNat ≤ b.toNat)
      | 8 => decide (b.toNat < a.toNat)
      | _ => decide (b.toNat ≤ a.toNat)
    exec (.pcmp f) s = .next (s.retires ⟨f.h, (1, .g, f.a) :: vopndSrc .g 2 f.b, some (.p, f.rd)⟩
      (s.me.withP f.rd (if holds then BitVec.allOnes 64 else 0)))) ∧
  (∀ (s : State) (f : Bin), s.ready ⟨f.h, [(1, .p, f.a), (2, .p, f.b)], some (.p, f.rd)⟩ = true →
    let a := s.me.regs.getP f.a.n
    let b := s.me.regs.getP f.b.n
    let gives (i : Instr) (v : Word) : Prop :=
      exec i s = .next (s.retires ⟨f.h, [(1, .p, f.a), (2, .p, f.b)], some (.p, f.rd)⟩ (s.me.withP f.rd v))
    gives (.pand f) (a &&& b) ∧ gives (.por f) (a ||| b) ∧ gives (.pxor f) (a ^^^ b)) ∧
  (∀ (s : State) (f : Un), s.ready ⟨f.h, [(1, .p, f.a)], some (.p, f.rd)⟩ = true →
    exec (.pnot f) s = .next (s.retires ⟨f.h, [(1, .p, f.a)], some (.p, f.rd)⟩ (s.me.withP f.rd (~~~s.me.regs.getP f.a.n)))) ∧
  (∀ (s : State) (f : Un), s.ready ⟨f.h, [(1, .g, f.a)], some (.p, f.rd)⟩ = true →
    exec (.pset f) s = .next (s.retires ⟨f.h, [(1, .g, f.a)], some (.p, f.rd)⟩ (s.me.withP f.rd (s.me.regs.getG f.a.n)))) ∧
  (∀ (s : State) (f : Un), s.ready ⟨f.h, [(1, .p, f.a)], some (.g, f.rd)⟩ = true →
    exec (.pget f) s = .next (s.retires ⟨f.h, [(1, .p, f.a)], some (.g, f.rd)⟩ (s.me.withG f.rd (s.me.regs.getP f.a.n)))) ∧
  (∀ x : Slot, x.regs.getP 0 = BitVec.allOnes 64 ∧ ∀ v, (x.withP 0 v).regs = x.regs)

/-- Taken transfers are checked and go to their target, untaken ones go on at next_pc, and calls write the link (R143, R93; what a
line that cannot be fetched does to its transfer is log 68). -/
def Obligations.TransfersGoToCheckedTargets : Prop :=
  ∀ (s : State), s.me.steady = true →
    let lands (i : Instr) (sh : Shape) (y : Slot) (t : Word) : Prop :=
      if t.extractLsb' 3 3 ≠ 0 ∨ 4 < (t.extractLsb' 0 3).toNat then exec i s = .next (takeTrap { cause := 0x09, tval := t } s)
      else if t.toNat / 2 ^ 52 ≠ 0 ∧ t.toNat / 2 ^ 52 ≠ 0xFFF then exec i s = .next (takeTrap { cause := 0x11, tval := t } s)
      else match s.fetch s.cur t with
        | (.line b, s1) =>
          if b.getLsbD (480 + (t.extractLsb' 0 3).toNat) then
            s1.dstOk sh = true → exec i s = .next (s1.setMe (y.finish sh (sh.prior s.me) t))
          else exec i s = .next (takeTrap { cause := 0x03, tval := t } s)
        | (.wait w, _) => exec i s = .next (waitState w false s)
        | (.trap _, _) => exec i s = .next (s.jumps sh { y with sched := { y.sched with checked := true } } t)
    let taken (i : Instr) (sh : Shape) (y : Slot) (off : Target) : Prop :=
      let t : Int := (s.me.pc &&& ~~~63).toNat + off.line.toInt * 64 + off.slot.toNat
      if canonical t then lands i sh y (BitVec.ofInt 64 t) else exec i s = .next (takeTrap { cause := 0x11, tval := BitVec.ofInt 64 t } s)
    let onward (i : Instr) (sh : Shape) : Prop := exec i s = .next (s.retires sh s.me)
    let next := nextOf s.line s.me.pc
    (∀ f : Jump, s.ready ⟨f.h, [], none⟩ = true → taken (.br f) ⟨f.h, [], none⟩ s.me f.off) ∧
    (∀ f : Branch1, s.ready ⟨f.h, [(1, .p, f.a)], none⟩ = true →
      if (s.me.regs.getP f.a.n).getLsbD 0 then taken (.brp f) ⟨f.h, [(1, .p, f.a)], none⟩ s.me f.off
      else onward (.brp f) ⟨f.h, [(1, .p, f.a)], none⟩) ∧
    (∀ f : Branch1, let sh : Shape := ⟨f.h, [(1, .g, f.a)], none⟩
      s.ready sh = true →
        if s.me.regs.getG f.a.n = 0 then taken (.brz f) sh s.me f.off ∧ onward (.brnz f) sh
        else onward (.brz f) sh ∧ taken (.brnz f) sh s.me f.off) ∧
    (∀ f : Branch2, let sh : Shape := ⟨f.h, [(1, .g, f.a), (2, .g, f.b)], none⟩
      let a := s.me.regs.getG f.a.n
      let b := s.me.regs.getG f.b.n
      s.ready sh = true →
        (if a = b then taken (.beq f) sh s.me f.off ∧ onward (.bne f) sh else onward (.beq f) sh ∧ taken (.bne f) sh s.me f.off) ∧
        (if a.toInt < b.toInt then taken (.blt f) sh s.me f.off else onward (.blt f) sh)) ∧
    (∀ f : JumpReg, let sh : Shape := ⟨f.h, [(1, .g, f.a)], none⟩
      s.ready sh = true → lands (.jmpr f) sh s.me (s.me.regs.getG f.a.n) ∧ lands (.ret f) sh s.me (s.me.regs.getG f.a.n)) ∧
    (∀ f : Jump, s.ready ⟨f.h, [], some (.g, 31)⟩ = true → taken (.call f) ⟨f.h, [], some (.g, 31)⟩ (s.me.withG 31 next) f.off) ∧
    (∀ f : Un, s.ready (unShape f) = true → lands (.callr f) (unShape f) (s.me.withG f.rd next) (s.me.regs.getG f.a.n))

/-- loop and loopi push a level, skip the body on a zero count, and trap on a full stack or a bad END (R146; the fetch of
the line of END is log 20). -/
def Obligations.LoopsEnterAndSkip : Prop :=
  ∀ (s : State), s.me.steady = true →
    let x := s.me
    let d := (x.loops.state.extractLsb' 0 3).toNat
    let runs (i : Instr) (sh : Shape) (off : Target) (count entry : Word) (imm : Bool) : Prop :=
      let e : Int := (x.pc &&& ~~~63).toNat + off.line.toInt * 64 + off.slot.toNat
      let fin := BitVec.ofInt 64 e
      if 4 ≤ d then exec i s = .next (takeTrap { cause := 0x08, tval := 0 } s)
      else if canonical e = false then exec i s = .next (takeTrap { cause := 0x11, tval := fin } s)
      else if e ≤ x.pc.toNat then exec i s = .next (takeTrap { cause := 0x03, tval := fin } s)
      else if count = 0 then
        let skips (next : Word) (t : State) : Prop :=
          if next = 0 then exec i s = .next (takeTrap { cause := 0x11, tval := 0 } s)
          else exec i s = .next (t.setMe (x.finish sh (sh.prior x) next))
        if fin &&& ~~~63 = x.pc &&& ~~~63 then skips (nextOf s.line fin) s
        else if 4 ≤ (fin &&& 63).toNat then skips ((fin &&& ~~~63) + 64) s
        else match s.fetch s.cur fin with
          | (.line b, t) => skips (nextOf b fin) t
          | (.wait w, _) => exec i s = .next (waitState w false s)
          | (.trap e, t) => exec i s = .next (takeTrap e t)
      else ∃ y, exec i s = .next (s.retires sh y) ∧ y = { x with loops := y.loops } ∧
        (y.loops.state.extractLsb' 0 3).toNat = d + 1 ∧ y.loops.state.getLsbD (4 + d) = imm ∧
        (∀ k, 4 ≤ k → k ≠ 4 + d → y.loops.state.getLsbD k = x.loops.state.getLsbD k) ∧
        (∀ k : Fin 4, y.loops.start[k] = if k.val = d then nextOf s.line x.pc else x.loops.start[k]) ∧
        (∀ k : Fin 4, y.loops.fin[k] = if k.val = d then fin else x.loops.fin[k]) ∧
        (∀ k : Fin 4, y.loops.count[k] = if k.val = d then entry else x.loops.count[k])
    (∀ f : Branch1, s.ready ⟨f.h, [(1, .g, f.a)], none⟩ = true →
      runs (.loop f) ⟨f.h, [(1, .g, f.a)], none⟩ f.off (x.regs.getG f.a.n) (f.a.n.setWidth 64) false) ∧
    (∀ f : LoopImm, s.ready ⟨f.h, [], none⟩ = true →
      runs (.loopi f) ⟨f.h, [], none⟩ f.off (f.imm.setWidth 64) (f.imm.setWidth 64) true)

/-- Retiring at LEND ends a pass, whatever instruction retires there: a count above 1 goes back to LSTART, a lower one leaves the level, levels
that share END end together; a transfer and an instruction elsewhere end none (R147). That last-read marks at LEND take effect before the count is read is the model's choice
(log 95). -/
def Obligations.LoopPassEnds : Prop :=
  (∀ (s : State) (sh : Shape), s.me.windows = [] →
    (∀ (body : M (Option Word)) (jump : Option Word) (s' : State), s.me.executes sh.h = true → s.me.readableAll sh = true →
      body s = .ok (jump, s') → instr sh body s = outcome (fun _ => retireAt sh (sh.prior s.me) jump s') s) ∧
    (∀ (active : Word → Bool) (body : Word → M Unit) (s' : State), s.me.regs.validP (guardReg sh.h) = true → s.me.readableAll sh = true →
      active (s.me.lanes sh.h) = true → body (s.me.lanes sh.h) s = .ok ((), s') →
      vecInstr sh active body s = outcome (fun _ => retireAt sh (sh.prior s.me) none s') s) ∧
    (∀ body : M (Option Word), s.me.guardedOff sh.h = true → instr sh body s = outcome (retireOff sh) s)) ∧
  (∀ (s : State) (sh : Shape) (prior : Nat × Bool), s.me.rep.mode ≠ .running →
    let x := s.me
    let d := (x.loops.state.extractLsb' 0 3).toNat
    let z := x.releaseMarks sh
    let opens (y : Slot) : Slot := y.tickWindows.openWindow sh prior
    let next := nextOf s.line x.pc
    (∀ t, retireAt sh prior (some t) s = .ok ((), s.setMe (opens { z with pc := t }))) ∧
    (d ≤ 4 → (∀ k : Fin 4, d = k.val + 1 → x.loops.fin[k] ≠ x.pc) → retireAt sh prior none s = .ok ((), s.setMe (opens (z.goOn next)))) ∧
    (∀ k : Fin 4, d = k.val + 1 → x.loops.fin[k] = x.pc →
      (∀ start u, endOfPass d (s.setMe z) = .ok (some start, u) →
        retireAt sh prior none s = .ok ((), u.setMe (opens { u.me with pc := start }))) ∧
      (∀ u, endOfPass d (s.setMe z) = .ok (none, u) → retireAt sh prior none s = .ok ((), u.setMe (opens (u.me.goOn next)))) ∧
      (∀ e, endOfPass d (s.setMe z) = .error e → retireAt sh prior none s = .error e))) ∧
  (∀ (s : State) (k : Fin 4),
    let x := s.me
    let imm := x.loops.state.getLsbD (4 + k.val)
    let r : BitVec 5 := x.loops.count[k].setWidth 5
    let shared := ∃ j : Fin 4, j.val + 1 = k.val ∧ x.loops.fin[j] = x.loops.fin[k]
    let below (y : Slot) : Slot := { y with loops := { y.loops with state := setField y.loops.state 0 3 k.val } }
    let putImm (v : Word) : Slot := { x with loops := { x.loops with count := x.loops.count.set k v } }
    let ends (c : Word) (put : Word → Slot) : Prop :=
      (1 < c.toNat → endOfPass (k.val + 1) s = .ok (some x.loops.start[k], s.setMe (put (c - 1)))) ∧
      (c.toNat ≤ 1 → ¬shared → endOfPass (k.val + 1) s = .ok (none, s.setMe (below (put 0)))) ∧
      (c.toNat ≤ 1 → shared → endOfPass (k.val + 1) s = endOfPass k.val (s.setMe (below (put 0))))
    (imm = true → ends x.loops.count[k] putImm) ∧
    (imm = false →
      (x.regs.validG r = false → endOfPass (k.val + 1) s = .error (.trap { cause := 0x05, tval := BitVec.ofNat 64 (2 * r.toNat + 256 * 5) })) ∧
      (x.windows = [] → x.regs.validG r = true → x.boundTo .g r = none → (r = 0 ∨ x.regs.own .g r = true) → ends (x.regs.getG r) (x.withG r)))) ∧
  (∀ (s : State) (f : IntBin) (k : Fin 4),
    let x := s.me
    let sh := intBinShape f
    x.windows = [] → x.rep.mode ≠ .running → x.executes f.h = true → x.readableAll sh = true → s.dstOk sh = true →
    (x.loops.state.extractLsb' 0 3).toNat = k.val + 1 → x.loops.fin[k] = x.pc → x.loops.state.getLsbD (4 + k.val) = true →
    1 < x.loops.count[k].toNat →
    exec (.add f) s = .next (s.setMe ({ (x.withG f.rd (x.regs.getG f.a.n + x.opnd f.b)) with
      loops := { x.loops with count := x.loops.count.set k (x.loops.count[k] - 1) } }.finish sh (sh.prior x) x.loops.start[k]))) ∧
  ∀ (s : State), s.me.windows = [] → s.me.rep.mode ≠ .running →
    let x := s.me
    let d := (x.loops.state.extractLsb' 0 3).toNat
    let next := nextOf s.line x.pc
    ∀ k : Fin 4, d = k.val + 1 → x.loops.fin[k] = x.pc →
      let imm := x.loops.state.getLsbD (4 + k.val)
      let r : BitVec 5 := x.loops.count[k].setWidth 5
      let shared := ∃ j : Fin 4, j.val + 1 = k.val ∧ x.loops.fin[j] = x.loops.fin[k]
      let immBelow := ∀ j, j < k.val → x.loops.state.getLsbD (4 + j) = true
      let putImm (v : Word) : Slot := { x with loops := { x.loops with count := x.loops.count.set k v } }
      let below (y : Slot) : Slot := { y with loops := { y.loops with state := setField y.loops.state 0 3 k.val } }
      (imm = true →
        (1 < x.loops.count[k].toNat → exec .nop s = .next (s.setMe { putImm (x.loops.count[k] - 1) with pc := x.loops.start[k] })) ∧
        (x.loops.count[k].toNat ≤ 1 → ¬shared → exec .nop s = .next (s.setMe ((below (putImm 0)).goOn next))) ∧
        (x.loops.count[k].toNat ≤ 1 → shared → immBelow → exec .nop s = exec .nop (s.setMe (below (putImm 0))))) ∧
      (imm = false →
        (x.regs.validG r = false → exec .nop s = .next (takeTrap { cause := 0x05, tval := BitVec.ofNat 64 (2 * r.toNat + 256 * 5) } s)) ∧
        (x.regs.validG r = true → x.boundTo .g r = none → (r = 0 ∨ x.regs.own .g r = true) →
          (1 < (x.regs.getG r).toNat → exec .nop s = .next (s.setMe { x.withG r (x.regs.getG r - 1) with pc := x.loops.start[k] })) ∧
          ((x.regs.getG r).toNat ≤ 1 → ¬shared → exec .nop s = .next (s.setMe ((below (x.withG r 0)).goOn next))) ∧
          ((x.regs.getG r).toNat ≤ 1 → shared → immBelow → exec .nop s = exec .nop (s.setMe (below (x.withG r 0))))))

/-- mfs writes the value of the register it names to RD, in a mode that may view it, and takes PRIVILEGE else (R149, and the layouts of R23,
R29, R152, R160, R191, R228, R359, R361, R384, R385, R388). That EPRIO of a FREE slot reads 0 is the model's choice (log 79), and so is what S
reads of P3BUDGET.LIMIT: a free value (log 22); that every mode reads TIMESTAT.K is its reading (log 90). -/
def Obligations.SystemRegisterReads : Prop :=
  ∀ (s : State) (f : SysRead), s.ready ⟨f.h, [], some (.g, f.rd)⟩ = true →
    let x := s.me
    let n := f.sr.toNat
    let after (y : Slot) (v : Word) : Prop := exec (.mfs f) s = .next (s.retires ⟨f.h, [], some (.g, f.rd)⟩ (y.withG f.rd v))
    let gives (v : Word) : Prop := after x v
    let refused : Prop := exec (.mfs f) s = .next (takeTrap { cause := 0x06, tval := BitVec.ofNat 64 n } s)
    (n = 0x000 → gives x.ctl.status) ∧ (n = 0x001 → gives x.ctl.fflags) ∧ (n = 0x008 → gives x.ctl.ix) ∧ (n = 0x009 → gives x.ctl.nx) ∧
    (n = 0x00A → gives x.ctl.dmem) ∧ (n = 0x00C → gives (BitVec.ofNat 64 s.clock.time)) ∧
    (n = 0x00D → gives (BitVec.ofNat 64 s.myCore.issue.cycle)) ∧ (n = 0x00E → gives x.ctl.seed) ∧
    (n = 0x00F → gives (BitVec.ofNat 64 s.cur)) ∧ (∀ k : Fin 8, n = 0x010 + k.val → gives x.ctl.mbox[k]) ∧
    (n = 0x018 → gives x.loops.state) ∧ (∀ k : Fin 4, n = 0x019 + k.val → gives x.loops.start[k]) ∧
    (∀ k : Fin 4, n = 0x01D + k.val → gives x.loops.fin[k]) ∧ (∀ k : Fin 4, n = 0x021 + k.val → gives x.loops.count[k]) ∧
    (n = 0x028 → gives x.rep.state) ∧
    (n = 0x00B → isManagement (coreOf s.cur) = false → gives x.ctl.bwphase) ∧
    (∀ k : Fin 4, (n = 0x030 + 4 * k.val → gives x.streams[k].ctl) ∧ (n = 0x031 + 4 * k.val → gives x.streams[k].base) ∧
      (n = 0x032 + 4 * k.val → gives x.streams[k].pos) ∧ (n = 0x033 + 4 * k.val → gives x.streams[k].sfault)) ∧
    (n = 0x047 → gives (BitVec.ofNat 64 (s.clock.k % 16 * 16 + (if s.clock.lost then 2 else 0) + (if s.clock.lock then 1 else 0)))) ∧
    (x.mode ≠ .u →
      let core := coreOf s.cur
      let c := s.myCore
      let die := s.die (dieOf s.cur)
      let cl := s.myCluster
      (n = 0x040 → ∃ v, gives v ∧ v.getLsbD 1 = decide (x.ctl.timecmp.toNat ≤ s.clock.time) ∧
        (∀ k, k < 6 → k ≠ 1 → v.getLsbD k = x.msgs.any fun m => m.kind == k) ∧ ∀ k, 6 ≤ k → v.getLsbD k = false) ∧
      (n = 0x045 → match x.msgs with
        | [] => gives 0
        | m :: _ => gives (BitVec.ofNat 64 (m.src % 2 ^ 16 * 2 ^ 16 + m.kind % 16 * 2 ^ 8 + x.msgs.length))) ∧
      (n = 0x050 → gives x.ports.qsel) ∧
      (n = 0x060 → ∃ v, gives v ∧ (∀ k, k < 8 →
          let y := s.slot (8 * core + k)
          (v.extractLsb' (4 * k) 4).toNat = (if y.phase = .free then 0 else if 8 * core + k = s.cur then 2 else match y.phase with
            | .free => 0
            | .ready => 1
            | .blocked _ => 3
            | .waiting _ => 4
            | .suspended _ => 5) ∧
          (v.extractLsb' (32 + 2 * k) 2).toNat = if y.phase = .free then 0 else c.eprio y) ∧ v.extractLsb' 48 16 = 0) ∧
      (n = 0x061 → x.mode = .m → gives (BitVec.ofNat 64 (c.issue.limit % 2 ^ 16 * 2 ^ 16 + c.issue.used % 2 ^ 16))) ∧
      (n = 0x061 → x.mode = .s → ∃ v : Word, v.extractLsb' 0 16 = BitVec.ofNat 16 c.issue.used ∧ v.extractLsb' 32 32 = 0 ∧
        exec (.mfs f) s = .next ({ s with tick := s.tick + 1 }.retires ⟨f.h, [], some (.g, f.rd)⟩ (x.withG f.rd v))) ∧
      (n = 0x082 → gives die.ptroot) ∧ (∀ k, k < 4 → n = 0x084 + k → gives (s.die k).ptgen) ∧
      (n = 0x088 → ∃ v, gives v ∧ (v.extractLsb' 0 6).toNat = c.log.length % 64 ∧ ∀ k, 6 ≤ k → v.getLsbD k = c.logctl.getLsbD k) ∧
      (n = 0x089 → gives c.logsel) ∧
      (c.log.find c.logsel.toNat = none → n = 0x08A ∨ n = 0x08B → gives 0) ∧
      (∀ e, c.log.find c.logsel.toNat = some e → (n = 0x08A → gives e.header) ∧ (n = 0x08B → gives (BitVec.ofNat 64 e.entry.addr))) ∧
      (n = 0x090 → gives x.ctl.swptea) ∧ (n = 0x091 → gives x.ctl.swpteb) ∧ (n = 0x092 → gives x.ports.swcmd) ∧
      (n = 0x098 → if isCompute core then gives c.eckbase else gives 0) ∧
      (n = 0x0A0 → x.mode = .m → gives (BitVec.ofNat 64 (s.budget.pkg % 2 ^ 16))) ∧
      (n = 0x0A1 → gives (BitVec.ofNat 64 (die.power.hot.toNat * 2 ^ 48 + die.power.overBudget.toNat * 2 ^ 32 + die.power.draw % 2 ^ 16 * 2 ^ 16 +
        die.power.held % 2 ^ 16))) ∧
      (n = 0x0A2 → x.mode = .m → gives (BitVec.ofNat 64 (die.power.thot % 256 * 256 + die.power.hyst % 256))) ∧
      (die.errs = [] → n = 0x0A8 ∨ n = 0x0A9 → gives 0) ∧
      (∀ e rest, die.errs = e :: rest → (n = 0x0A9 → gives e.addr) ∧
        (n = 0x0A8 → ∃ v, gives v ∧ v.getLsbD 63 = true ∧ ∀ k, k < 63 → v.getLsbD k = e.head.getLsbD k)) ∧
      (n = 0x0AA → gives (BitVec.ofNat 64 (natField die.errTarget 0 16 * 2 ^ 48 + die.ovf % 256 * 2 ^ 16 + die.errs.length % 256 * 2 ^ 8))) ∧
      (isManagement core = true → n = 0x00B ∨ (0x0B0 ≤ n ∧ n ≤ 0x0B9) → gives 0) ∧
      (isManagement core = false →
        (n = 0x0B0 → gives (BitVec.ofNat 64 cl.tidle)) ∧ (∀ k : Fin 4, n = 0x0B1 + k.val → gives cl.user[k]) ∧ (n = 0x0B8 → gives cl.bmsel) ∧
        (n = 0x0B9 → ∃ v, gives v ∧
          let g := (cl.bmsel.extractLsb' 0 8).toNat
          v.getLsbD 0 = s.groupHeld (clusterOf s.cur) g ∧ v.getLsbD 8 = (cl.groups.find g).isSome ∧
          (∀ r, cl.groups.find g = some r → (v.extractLsb' 16 8).toNat = r.first % 256 ∧ (v.extractLsb' 9 3).toNat = r.stripe % 8) ∧
          ∀ k, k < 8 → v.getLsbD (40 + k) = cl.failed.contains (8 * g + k) ∧
            (v.extractLsb' (24 + 2 * k) 2).toNat = match cl.bankState (8 * g + k) with
              | none => 0
              | some .on => 1
              | some .ret => 2
              | some _ => 3)) ∧
      (n = 0x002 → gives x.sTrap.epc) ∧ (n = 0x003 → gives x.sTrap.cause) ∧ (n = 0x004 → gives x.sTrap.tval) ∧
      (n = 0x005 → gives x.sTrap.tvec) ∧ (n = 0x006 → gives x.sTrap.status) ∧ (n = 0x007 → gives x.sTrap.scratch) ∧
      (n = 0x041 → gives x.ctl.ienable) ∧ (n = 0x046 → gives x.ctl.timecmp) ∧ (n = 0x051 → gives x.ports.qring) ∧
      (n = 0x052 → gives x.ports.qctl) ∧ (n = 0x053 → gives x.ports.qwdog) ∧ (n = 0x070 → gives x.ports.mtcmd) ∧
      (n = 0x071 → gives x.ports.mtd0) ∧ (n = 0x072 → gives x.ports.mtd1) ∧ (n = 0x073 → gives x.ports.mtd2) ∧
      (n = 0x080 → gives x.ctl.asid) ∧ (n = 0x081 → gives x.ports.xinfo) ∧
      (n = 0x044 → match x.msgs with
        | [] => gives 0
        | m :: rest => f.rd = 0 ∨ x.regs.own .g f.rd = true → after { x with msgs := rest } m.payload)) ∧
    (x.mode = .m →
      (n = 0x102 → gives x.mTrap.epc) ∧ (n = 0x103 → gives x.mTrap.cause) ∧ (n = 0x104 → gives x.mTrap.tval) ∧
      (n = 0x105 → gives x.mTrap.tvec) ∧ (n = 0x106 → gives x.mTrap.status) ∧ (n = 0x107 → gives x.mTrap.scratch)) ∧
    (x.mode = .u → (Instr.mfs f).wf = true → (2 ≤ n ∧ n ≤ 7) ∨ (0x040 ≤ n ∧ n ≠ 0x047) → refused) ∧
    (x.mode ≠ .m → 0x102 ≤ n → n ≤ 0x107 → refused)

/-- mts stores the writable fields of the register it names, ignores read-only registers, and changes nothing else (R149,
R150, R26, and the layouts of R35, R152, R191, R208, R228, R361, R384, R385, R388). That each slot has MTDATA0 to 2 of its own is the model's
choice (log 6). -/
def Obligations.SystemRegisterWrites : Prop :=
  ∀ (s : State) (f : SysWrite), s.ready ⟨f.h, [(1, .g, f.a)], none⟩ = true →
    let x := s.me
    let n := f.sr.toNat
    let v := s.me.regs.getG f.a.n
    let leaves (y : Slot) : Prop := exec (.mts f) s = .next (s.retires ⟨f.h, [(1, .g, f.a)], none⟩ y)
    let refused : Prop := exec (.mts f) s = .next (takeTrap { cause := 0x06, tval := BitVec.ofNat 64 n } s)
    let status (m : Word) : Word := (x.ctl.status &&& ~~~m) ||| (v &&& m)
    let capped : Word := if v.extractLsb' 8 2 = 3 then status 0x730 &&& ~~~0x100 else status 0x730
    (n = 0x001 → leaves { x with ctl := { x.ctl with fflags := v &&& 0x1F } }) ∧
    (n = 0x000 → x.ctl.status &&& ~~~0x73B = 0 → x.ctl.status.extractLsb' 0 2 ≠ 2 →
      (x.mode ≠ .u → leaves { x with ctl := { x.ctl with status := status 0x738 } }) ∧
      (x.mode = .u → leaves { x with ctl := { x.ctl with status := capped } })) ∧
    (n = 0x00E → leaves { x with ctl := { x.ctl with seed := if v.extractLsb' 0 32 = 0 then 1 else v &&& 0xFFFFFFFF } }) ∧
    (∀ k : Fin 8, n = 0x010 + k.val → leaves { x with ctl := { x.ctl with mbox := x.ctl.mbox.set k v } }) ∧
    (n = 0x008 ∨ n = 0x009 ∨ n = 0x00C ∨ n = 0x00D ∨ n = 0x00F → leaves x) ∧
    let sets (t : State) : Prop := exec (.mts f) s = .next (t.retires ⟨f.h, [(1, .g, f.a)], none⟩ t.me)
    let masked (m old : Word) : Word := (old &&& ~~~m) ||| (v &&& m)
    (n = 0x018 → leaves { x with loops := { x.loops with state := if 4 < (v.extractLsb' 0 3).toNat then (v &&& 0xF0) ||| 4 else v &&& 0xF7 } }) ∧
    (∀ k : Fin 4,
      (n = 0x019 + k.val → leaves { x with loops := { x.loops with start := x.loops.start.set k (v &&& ~~~0x38) } }) ∧
      (n = 0x01D + k.val → leaves { x with loops := { x.loops with fin := x.loops.fin.set k (v &&& ~~~0x38) } }) ∧
      (n = 0x021 + k.val → leaves { x with loops := { x.loops with count := x.loops.count.set k v } })) ∧
    (n = 0x028 → leaves { x with rep := { x.rep with state := v &&& 0x800000003FFFFFFF } }) ∧
    (∀ k : Fin 4, n = 0x030 + 4 * k.val ∨ n = 0x031 + 4 * k.val ∨ n = 0x033 + 4 * k.val → leaves x) ∧
    (∀ k : Fin 4, n = 0x032 + 4 * k.val → 0 < x.streams[k].kind → leaves { x with streams := x.streams.set k { x.streams[k] with pos := v, ahead := [] } }) ∧
    (n = 0x047 → s.clock.pendingK = none →
      let lost := s.clock.lost && !(decide (x.mode ≠ .u) && v.getLsbD 1)
      let k := (v.extractLsb' 4 4).toNat
      sets { s with clock := { s.clock with lost := lost, pendingK := if x.mode = .m ∧ 8 ≤ k ∧ k ≤ 12 then some k else none } }) ∧
    (x.mode ≠ .u →
      let core := coreOf s.cur
      (n = 0x00A → ∃ y, leaves y ∧ y = { x with ctl := { x.ctl with dmem := y.ctl.dmem }, domain := y.domain } ∧
        y.domain = { x.domain with sent := none, result := none, counts := [] } ∧
        (∀ k, k < 40 ∨ 48 ≤ k → y.ctl.dmem.getLsbD k = v.getLsbD k) ∧ y.ctl.dmem.extractLsb' 43 5 = 0 ∧
        y.ctl.dmem.extractLsb' 40 3 = if v.extractLsb' 40 3 = 7 then 0 else v.extractLsb' 40 3) ∧
      (n = 0x006 → leaves { x with sTrap := { x.sTrap with status := v &&& 0x73B } }) ∧
      (n = 0x051 → leaves { x with ports := { x.ports with
        qring := (v &&& 0xFFFFFFFFFFFF0000) ||| BitVec.ofNat 64 (Nat.min 9 (v.extractLsb' 0 4).toNat) } }) ∧
      (n = 0x052 → leaves { x with ports := { x.ports with qctl := masked 0xFFFF00000000FF30 x.ports.qctl } }) ∧
      (n = 0x053 → leaves { x with ports := { x.ports with qwdog := v &&& 0xFFFFFFFFFFFF } }) ∧
      (n = 0x071 → leaves { x with ports := { x.ports with mtd0 := v } }) ∧
      (n = 0x072 → leaves { x with ports := { x.ports with mtd1 := BitVec.ofNat 64 (Nat.min 72 (v.extractLsb' 16 7).toNat * 2 ^ 16 +
        Nat.min 8 (v.extractLsb' 8 4).toNat * 2 ^ 8 + (v.extractLsb' 0 7).toNat) } }) ∧
      (n = 0x073 → leaves { x with ports := { x.ports with mtd2 := v } }) ∧
      (n = 0x090 → leaves { x with ctl := { x.ctl with swptea := v &&& ~~~7 } }) ∧
      (n = 0x091 → leaves { x with ctl := { x.ctl with swpteb := v &&& ~~~7 } }) ∧
      (n = 0x082 → sets (s.setDie (dieOf s.cur) { s.die (dieOf s.cur) with ptroot := v &&& 0x0000FFFFFFFF0001 })) ∧
      (n = 0x089 → sets (s.setCore core { s.myCore with logsel := v &&& 31 })) ∧
      (n = 0x098 → if isCompute core then sets (s.setCore core { s.myCore with eckbase := v &&& 0xFFFFFFFFFFFF0001 }) else leaves x) ∧
      (n = 0x0AA → let d := s.die (dieOf s.cur)
        sets (s.setDie (dieOf s.cur) { d with
          errTarget := BitVec.ofNat 64 (v.extractLsb' 48 16).toNat
          ovf := if v.extractLsb' 16 8 = 0 then d.ovf else 0
          errs := if v.extractLsb' 0 2 = 1 then d.errs.tail else d.errs })) ∧
      (isManagement core = true → 0x0B0 ≤ n → n ≤ 0x0B9 → leaves x) ∧
      (isManagement core = false →
        let cl := s.myCluster
        let setsC (c : Cluster) : Prop := sets (s.setCluster (clusterOf s.cur) c)
        (n = 0x0B0 → setsC { cl with tidle := (v.extractLsb' 0 32).toNat }) ∧ (n = 0x0B8 → setsC { cl with bmsel := v &&& 0xFF }) ∧
        (∀ k : Fin 4, n = 0x0B1 + k.val → setsC { cl with user := cl.user.set k v })) ∧
      (x.mode = .m →
        (n = 0x061 → sets (s.setCore core { s.myCore with issue := { s.myCore.issue with limit := (v.extractLsb' 16 16).toNat } })) ∧
        (n = 0x0A0 → sets { s with budget := { s.budget with pkg := (v.extractLsb' 0 16).toNat } }) ∧
        (n = 0x0A2 → let d := s.die (dieOf s.cur)
          sets (s.setDie (dieOf s.cur) { d with power := { d.power with
            thot := (v.extractLsb' 8 8).toNat, hyst := (v.extractLsb' 0 8).toNat } })))) ∧
    (x.mode ≠ .u →
      (n = 0x002 → leaves { x with sTrap := { x.sTrap with epc := v } }) ∧
      (n = 0x003 → leaves { x with sTrap := { x.sTrap with cause := v &&& 0xFFF } }) ∧
      (n = 0x004 → leaves { x with sTrap := { x.sTrap with tval := v } }) ∧
      (n = 0x005 → leaves { x with sTrap := { x.sTrap with tvec := v &&& ~~~63 } }) ∧
      (n = 0x007 → leaves { x with sTrap := { x.sTrap with scratch := v } }) ∧
      (n = 0x041 → leaves { x with ctl := { x.ctl with ienable := v &&& 0x3F } }) ∧
      (n = 0x046 → leaves { x with ctl := { x.ctl with timecmp := v } }) ∧
      (n = 0x080 → leaves { x with ctl := { x.ctl with asid := v &&& 0xFFFF } }) ∧
      (n = 0x040 ∨ n = 0x044 ∨ n = 0x045 ∨ n = 0x081 → leaves x)) ∧
    (x.mode = .m →
      (n = 0x102 → leaves { x with mTrap := { x.mTrap with epc := v } }) ∧
      (n = 0x103 → leaves { x with mTrap := { x.mTrap with cause := v &&& 0xFFF } }) ∧
      (n = 0x104 → leaves { x with mTrap := { x.mTrap with tval := v } }) ∧
      (n = 0x106 → leaves { x with mTrap := { x.mTrap with status := v &&& 0x73B } }) ∧
      (n = 0x107 → leaves { x with mTrap := { x.mTrap with scratch := v } }) ∧
      (n = 0x105 → leaves { x with mTrap := { x.mTrap with tvec := v &&& ~~~63 } })) ∧
    (x.mode = .u → (Instr.mts f).wf = true → (2 ≤ n ∧ n ≤ 7) ∨ n = 0x00A ∨ (0x040 ≤ n ∧ n ≠ 0x047) → refused) ∧
    (x.mode ≠ .m → n = 0x061 ∨ (0x102 ≤ n ∧ n ≤ 0x107) → refused)

/-- Writes of system registers that act: their effects, and the operations of MTCMD on combining entries (R149, R160, R35,
R226, R192, R384, R388, R168, R38, R39). That each slot has an MTCMD and MTDATA0 to 2 of its own is the model's choice (log 6), and so is that
a clear takes the writes that wait with it (log 78), that a read of no entry gives zeros, and from when an entry combines (log 91). -/
def Obligations.SystemWritesThatAct : Prop :=
  (
    (∀ (s : State) (f : SysMod), s.ready ⟨f.h, [(1, .g, f.a)], some (.g, f.rd)⟩ = true → (f.rd = 0 ∨ s.me.regs.own .g f.rd = true) →
      let x := s.me
      let n := f.sr.toNat
      let v := s.me.regs.getG f.a.n
      let leaves (i : Instr) (y : Slot) (old : Word) : Prop :=
        exec i s = .next (s.retires ⟨f.h, [(1, .g, f.a)], some (.g, f.rd)⟩ (y.withG f.rd old))
      let box (k : Fin 8) (w : Word) : Slot := { x with ctl := { x.ctl with mbox := x.ctl.mbox.set k w } }
      (∀ k : Fin 8, n = 0x010 + k.val →
        leaves (.mtsb f) (box k (x.ctl.mbox[k] ||| v)) x.ctl.mbox[k] ∧ leaves (.mtsc f) (box k (x.ctl.mbox[k] &&& ~~~v)) x.ctl.mbox[k]) ∧
      (x.mode ≠ .u →
        (n = 0x041 →
          leaves (.mtsb f) { x with ctl := { x.ctl with ienable := (x.ctl.ienable ||| v) &&& 0x3F } } x.ctl.ienable ∧
          leaves (.mtsc f) { x with ctl := { x.ctl with ienable := (x.ctl.ienable &&& ~~~v) &&& 0x3F } } x.ctl.ienable) ∧
        (n = 0x046 →
          leaves (.mtsb f) { x with ctl := { x.ctl with timecmp := x.ctl.timecmp ||| v } } x.ctl.timecmp ∧
          leaves (.mtsc f) { x with ctl := { x.ctl with timecmp := x.ctl.timecmp &&& ~~~v } } x.ctl.timecmp) ∧
        (∀ m rest, n = 0x044 → x.msgs = m :: rest →
          leaves (.mtsb f) { x with msgs := rest } m.payload ∧ leaves (.mtsc f) { x with msgs := rest } m.payload))) ∧
    (∀ (s : State) (v : Word),
      let x := s.me
      (∀ k : Fin 8, exec (.sysregWrite (BitVec.ofNat 12 (0x010 + k.val)) v) s =
        .next (s.setMe { x with ctl := { x.ctl with mbox := x.ctl.mbox.set k v } })) ∧
      exec .msginRead s = .next (if x.msgs = [] then s else s.setMe { x with msgs := x.msgs.tail }) ∧
      (∃ y, exec (.dmemWrite v) s = .next (s.setMe y) ∧ y.ctl.dmem = dmemStored v ∧ y.domain.sent = none ∧ y.domain.result = none ∧
        y.domain.counts = [] ∧ y = { x with ctl := { x.ctl with dmem := y.ctl.dmem }, domain := y.domain }) ∧
      (let groups := ((List.range (v.toNat / 2 ^ 40 % 256)).map (v.toNat / 2 ^ 32 % 256 + ·)).filter fun g =>
         decide (g < 256) && ((s.myCluster.groups.find g).isSome)
       exec (.bwphaseWrite v) s = .next ((s.setCluster (clusterOf s.cur) (s.myCluster.wake s.clock.time (0x2000 * (v.toNat / 2 ^ 32 % 256))
         (0x2000 * (v.toNat / 2 ^ 40 % 256)))).setMe { x with
         ctl := { x.ctl with bwphase := v &&& 0x0000FFFF00000107 }
         sched := { x.sched with phase := [], hint := groups } })) ∧
      (∀ k : BitVec 2, if 0 = (x.stream k.toNat).kind then exec (.sposWrite k v) s = .next (takeTrap
          { cause := 0x18, tval := 1, stream := some k.toNat, sfault := some (BitVec.allOnes 64) } s)
        else ∃ y, exec (.sposWrite k v) s = .next (s.setMe y) ∧ y = x.setStream k.toNat { x.stream k.toNat with pos := v, ahead := [] }) ∧
      exec (.pwrcapWrite v) s = .next { s with budget := { s.budget with pkg := v.toNat % 2 ^ 16 } } ∧
      exec .errorRecordRemove s = .next (s.setDie (dieOf s.cur) { s.die (dieOf s.cur) with errs := (s.die (dieOf s.cur)).errs.tail }))
  ) ∧ (
    (∀ (s : State) (f : SysWrite), s.ready ⟨f.h, [(1, .g, f.a)], none⟩ = true → s.me.mode ≠ .u → f.sr = 0x070 →
      let x := s.me
      let v := x.regs.getG f.a.n
      let opc := (v.extractLsb' 0 2).toNat
      let stored (err : Bool) : Word := v &&& 0xFFFF000F00000003 ||| (if err then 4 else 0)
      let completes (err : Bool) : Prop := exec (.mts f) s = .next (s.retires ⟨f.h, [(1, .g, f.a)], none⟩ { x with
        ports := { x.ports with mtcmd := stored err }
        sched := { x.sched with reply := .none } })
      (opc = 0 → completes (x.ports.mtcmd.getLsbD 2)) ∧
      (opc ≠ 0 → 48 ≤ (v.extractLsb' 48 6).toNat → completes true) ∧
      (opc ≠ 0 → (v.extractLsb' 48 6).toNat < 48 →
        (∀ w, x.sched.reply = some w → completes false) ∧
        (x.sched.reply = none → (v.extractLsb' 56 8).toNat = Config.package % 256 → ∃ t, exec (.mts f) s = .next t ∧
          t.me = { x with phase := .blocked (.reply s.nextOp) } ∧ t.nextOp = s.nextOp + 1 ∧ t.mem = s.mem ∧
          t.mesh = s.mesh ++ [⟨coreOf s.cur, dieOf s.cur, routerOf s.cur, (v.extractLsb' 54 2).toNat, (v.extractLsb' 48 6).toNat,
            .mtOp opc (v.extractLsb' 32 4).toNat s.cur s.nextOp ⟨x.ports.mtd0, x.ports.mtd1, x.ports.mtd2⟩⟩]))) ∧
    (∀ (s s1 : State) (i : Nat) (m : MeshMsg), s.meshTake i = some (m, s1) →
      (∀ opc idx sid n d, m.body = .mtOp opc idx sid n d → sid < 65536 →
        let key := 16 * m.router + idx % 16
        let answer (t : State) (r : Option TreeData) : State := { t with mesh := t.mesh ++
          [⟨0x1000 + 64 * m.die + m.router, m.die, m.router, dieOf sid, routerOf sid, .mtReply sid n r⟩] }
        let put (t : State) (e : TreeEntry) : State := t.setDie m.die { t.die m.die with tree := (t.die m.die).tree.insert key e }
        let entry := (s1.die m.die).tree.find key
        let written : TreeEntry := {
          domid := (d.d0.extractLsb' 48 16).toNat, epoch := (d.d0.extractLsb' 32 16).toNat, parent := (d.d0.extractLsb' 16 16).toNat
          owner := (d.d0.extractLsb' 0 16).toNat, loc := Nat.min 72 (d.d1.extractLsb' 16 7).toNat, child := Nat.min 8 (d.d1.extractLsb' 8 4).toNat
          retired := (d.d1.extractLsb' 0 7).toNat, last := d.d2, doneChildren := 0, got := [], foreign := [], writes := [] }
        (opc = 1 → (entry = none → exec (.mtcmdRead i) s = .next (answer s1 (some ⟨0, 0, 0⟩))) ∧
          (∀ e, entry = some e → exec (.mtcmdRead i) s = .next (answer s1 (some ⟨
            BitVec.ofNat 64 (e.domid % 2 ^ 16 * 2 ^ 48 + e.epoch % 2 ^ 16 * 2 ^ 32 + e.parent % 2 ^ 16 * 2 ^ 16 + e.owner % 2 ^ 16),
            BitVec.ofNat 64 (e.loc % 2 ^ 7 * 2 ^ 16 + e.child % 2 ^ 4 * 2 ^ 8 + e.retired % 2 ^ 7), e.last⟩)))) ∧
        (opc = 2 → (∀ e, entry = some e → e.got ≠ [] → exec (.mtcmdWrite i) s = .next (put s1 { e with writes := e.writes ++ [(sid, n, d)] })) ∧
          ((∀ e, entry = some e → e.got = []) → exec (.mtcmdWrite i) s = .next (answer (put s1 written) none))) ∧
        (opc = 3 → (∀ e, entry = some e → e.writes = []) →
          exec (.mtcmdClear i) s = .next (answer (s1.setDie m.die { s1.die m.die with tree := (s1.die m.die).tree.erase key }) none)) ∧
        (opc ≠ 1 → exec (.mtcmdRead i) s = .next s) ∧ (opc ≠ 2 → exec (.mtcmdWrite i) s = .next s) ∧ (opc ≠ 3 → exec (.mtcmdClear i) s = .next s)) ∧
      (∀ sid n d, m.body = .mtReply sid n d → (s1.slot sid).phase = .blocked (.reply n) →
        let x := s1.slot sid
        (∀ e : TreeData, d = some e → exec (.mtcmdRead i) s = .next (s1.setSlot sid { x with
          ports := { x.ports with mtd0 := e.d0, mtd1 := e.d1, mtd2 := e.d2 }, sched := { x.sched with reply := some 0 } })) ∧
        (d = none → exec (.mtcmdWrite i) s = .next (s1.setSlot sid { x with sched := { x.sched with reply := some 0 } }) ∧
          exec (.mtcmdClear i) s = exec (.mtcmdWrite i) s))) ∧
    (∀ (s : State) (die key : Nat) (e : TreeEntry) (c : Contrib), (s.die die).tree.find key = some e → e.complete = true →
      Contrib.mergeAll e.now = some c → ∀ sid n d, e.writes = [(sid, n, d)] → sid < 65536 →
      let t := s.tryCombine die key
      (t.die die).tree.find key = some d.entry ∧ t.mesh.getLast? =
        some ⟨0x1000 + 64 * die + key / 16, die, key / 16, dieOf sid, routerOf sid, .mtReply sid n none⟩)
  )

/-- Trap entry saves epc, cause, tval and STATUS in the bank of its target mode, sets PRIV and clears IE, and goes to TVEC
(R153). -/
def Obligations.TrapEntrySavesAndRedirects : Prop :=
  ∀ (s : State) (t : Trap),
    let x := s.me
    let y := (takeTrap t s).me
    let toM := x.mode = .m ∨ t.cause = 0x7F ∨ (t.cause = 0x70 ∧ x.mode = .s)
    let code : Word := match t.stream with
      | none => BitVec.ofNat 64 (t.cause % 256)
      | some k => BitVec.ofNat 64 (t.cause % 256 + 256 * (k % 4) + 2048)
    takeTrap t s = s.setMe y ∧
    (toM → y.pc = x.mTrap.tvec ∧ y.sTrap = x.sTrap ∧ y.ctl.status.extractLsb' 0 2 = 3 ∧
      y.mTrap = ⟨t.epc.getD x.pc, code, t.tval, x.mTrap.tvec, x.ctl.status, x.mTrap.scratch⟩) ∧
    (¬toM → y.pc = x.sTrap.tvec ∧ y.mTrap = x.mTrap ∧ y.ctl.status.extractLsb' 0 2 = 1 ∧
      y.sTrap = ⟨t.epc.getD x.pc, code, t.tval, x.sTrap.tvec, x.ctl.status, x.sTrap.scratch⟩) ∧
    y.ctl.status.getLsbD 3 = false ∧ (∀ k, k ≠ 0 → k ≠ 1 → k ≠ 3 → y.ctl.status.getLsbD k = x.ctl.status.getLsbD k) ∧
    y.ctl = { x.ctl with status := y.ctl.status } ∧ y.regs = x.regs ∧ y.loops = x.loops ∧ y.rep.state = x.rep.state ∧
    (∀ k : Fin 4, { y.streams[k] with sfault := 0 } = { x.streams[k] with sfault := 0 }) ∧ (t.stream = none → y.streams = x.streams) ∧
    y.phase = x.phase ∧ y.msgs = x.msgs ∧ y.handles = x.handles ∧ y.domain = x.domain ∧ y.record = x.record ∧ y.item = x.item ∧ y.idem = x.idem

/-- ecall and ebreak take their trap at themselves in every mode; eret restores pc and STATUS from the bank of its mode
(R156, R157, R103, R104). -/
def Obligations.ServiceCallsAndReturn : Prop :=
  ∀ s : State, s.me.windows = [] → s.me.rep.mode ≠ .running →
    (∀ f : Service, s.me.executes f.h = true →
      exec (.ecall f) s = .next (takeTrap { cause := 0x70, tval := f.imm.setWidth 64 } s) ∧
      exec (.ebreak f) s = .next (takeTrap { cause := 0x71, tval := f.imm.setWidth 64 } s)) ∧
    (∀ f : Plain, s.me.executes f.h = true →
      (s.me.mode = .u → exec (.eret f) s = .next (takeTrap { cause := 0x06, tval := 0 } s)) ∧
      (s.me.mode ≠ .u → ∃ y, exec (.eret f) s = .next (s.setMe y) ∧
        let bank := if s.me.mode = .m then s.me.mTrap else s.me.sTrap
        y.pc = bank.epc ∧
        y.ctl.status.extractLsb' 0 2 = (if bank.status.extractLsb' 0 2 = 2 then 0 else bank.status.extractLsb' 0 2) ∧
        y.ctl.status.extractLsb' 8 2 = (if bank.status.extractLsb' 8 2 = 3 ∧ y.ctl.status.extractLsb' 0 2 = 0 then 2
          else bank.status.extractLsb' 8 2) ∧
        (∀ k, k = 3 ∨ k = 4 ∨ k = 5 ∨ k = 10 → y.ctl.status.getLsbD k = bank.status.getLsbD k) ∧
        (∀ k, k = 2 ∨ k = 6 ∨ k = 7 ∨ 11 ≤ k → y.ctl.status.getLsbD k = false) ∧
        y = { s.me with
          pc := y.pc
          ctl := { s.me.ctl with status := y.ctl.status }
          sched := if s.me.sched.owed = some bank.epc then { s.me.sched with checked := true, owed := none, beyond := false }
            else { s.me.sched with beyond := false }
          rep := { state := s.me.rep.state, mode := if s.me.rep.state.getLsbD 63 then .reload else .off, body := [] } })) ∧
    (s.me.steady = true → ∀ (f : Service) (p : Plain), s.me.guardedOff f.h = true → s.me.guardedOff p.h = true →
      let t := s.setMe (s.me.goOn (nextOf s.line s.me.pc))
      exec (.ecall f) s = .next t ∧ exec (.ebreak f) s = .next t ∧ exec (.eret p) s = .next t)

/-- Interrupt entry takes the lowest pending enabled source in U or S with IE set; wfi waits for one or for its time limit
(R159, R162). That a strand which an answer has made READY completes its instruction before an interrupt is taken is the model's choice (log
80). -/
def Obligations.InterruptsAndWaits : Prop :=
  (∀ (s : State) (sid : Nat),
    let x := s.slot sid
    let pending := x.ipend s.clock.time &&& x.ctl.ienable &&& 0x3F
    let live := x.phase ≠ .free ∧ (¬∃ d, x.phase = .suspended d) ∧ (x.phase = .ready → x.sched.reply = none)
    (live → x.ctl.status.getLsbD 3 = true → x.mode ≠ .m → ∀ k, k < 6 → pending.getLsbD k = true →
      (∀ j, j < k → pending.getLsbD j = false) →
      ∃ t, exec (.interruptEntry sid) s = .next t ∧ t.slot sid = { x.enter { cause := 0x80 + k, tval := 0 } with phase := .ready } ∧
        (t.core (coreOf sid)).issue.paused = false ∧ t.mem = s.mem ∧ t.clusters = s.clusters ∧
        ∀ sid', sid' ≠ sid → t.slot sid' = s.slot sid') ∧
    (¬live ∨ x.ctl.status.getLsbD 3 = false ∨ x.mode = .m ∨ pending = 0 → exec (.interruptEntry sid) s = .next s)) ∧
  (∀ (s : State) (f : Plain), s.me.steady = true → s.me.executes f.h = true →
    let x := s.me
    let pending := x.ipend s.clock.time &&& x.ctl.ienable &&& 0x3F
    let y : Slot := { x with sched := { x.sched with waited := false } }
    (x.sched.waited = true → exec (.wfi f) s = .next (s.retires ⟨f.h, [], none⟩ y)) ∧
    (x.sched.waited = false → pending ≠ 0 → exec (.wfi f) s = .next (s.retires ⟨f.h, [], none⟩ x)) ∧
    (x.sched.waited = false → pending = 0 →
      exec (.wfi f) s = .next (s.setMe { x with phase := .blocked (.wfi (s.clock.time + 1821)) }))) ∧
  (∀ (s : State) (sid deadline : Nat), (s.slot sid).phase = .blocked (.wfi deadline) →
    let x := s.slot sid
    (s.clock.time < deadline → exec (.wfiTimeout sid) s = .next s) ∧
    (deadline ≤ s.clock.time → ∃ t, exec (.wfiTimeout sid) s = .next t ∧
      t.slot sid = { x with phase := .ready, sched := { x.sched with waited := true } } ∧ (t.core (coreOf sid)).issue.paused = false))

/-- A timer that expires wakes the core, a message arrives at its queue, a register wait of 65,536 cycles is REG_COPY_EXHAUSTED, and ipi sends
its message and completes with the answer (R158, R160, R24, R161). The model's choices: a message of a unit for a FREE slot is discarded (log
36), the cycles of a register wait are those of the core's CYCLE (log 67), the answer of ipi comes back over the mesh (log 63), and a strand
that names itself is sent to like any other (log 81). -/
def Obligations.TimerMessageAndPoolEvents : Prop :=
  (∀ (s : State) (sid : Nat),
    (s.clock.time < (s.slot sid).ctl.timecmp.toNat → exec (.timerExpiry sid) s = .next s) ∧
    ((s.slot sid).ctl.timecmp.toNat ≤ s.clock.time → ∃ t, exec (.timerExpiry sid) s = .next t ∧
      (t.core (coreOf sid)).issue.paused = false ∧ t.slots = s.slots ∧ (((t.slot sid).ipend t.clock.time).getLsbD 1) = true)) ∧
  (∀ (s : State) (sid i : Nat) (m : MeshMsg), s.mesh[i]? = some m → m.body.forStrand sid = true → m.arrived = true → s.mayMove i m = true →
    let x := s.slot sid
    let held (b : MeshBody) : Prop := (∃ k, b = .msg sid k) ∧ x.phase ≠ .free ∧ 8 ≤ x.msgs.length
    let first (n : Nat) : Prop := ∀ j m', j < n → s.mesh[j]? = some m' → m'.body.forStrand sid = true → m'.arrived = true → s.mayMove j m' = true →
      held m'.body
    first i →
    let t : State := { s with mesh := s.mesh.eraseIdx i }
    let queued (k : Msg) : State := (t.setSlot sid { x with msgs := x.msgs ++ [k] }).unpause (coreOf sid)
    (∀ k, m.body = .msg sid k →
      if x.phase = .free then exec (.messageArrival sid) s = .next t
      else if x.msgs.length < 8 then exec (.messageArrival sid) s = .next (queued k)
      else first s.mesh.length → exec (.messageArrival sid) s = .next s) ∧
    (∀ src n payload, m.body = .ipi sid src n payload →
      let answers (u : State) (code : Nat) : Prop := exec (.messageArrival sid) s = .next { u with mesh := u.mesh ++
        [⟨coreOf sid, dieOf sid, routerOf sid, dieOf src, routerOf src, .ipiReply src n code⟩] }
      if x.phase = .free then answers t 2 else if 8 ≤ x.msgs.length then answers t 1 else answers (queued ⟨0, src, payload⟩) 0) ∧
    (∀ n code, m.body = .ipiReply sid n code → x.phase = .blocked (.finishing (.reply n)) →
      exec (.messageArrival sid) s = .next (t.setSlot sid { x with sched := { x.sched with reply := some (BitVec.ofNat 64 code) } }))) ∧
  (∀ (s : State) (sid spec pos since : Nat) (c : Cls), (s.slot sid).phase = .blocked (.pool c spec pos since) →
    let x := s.slot sid
    ((s.core (coreOf sid)).issue.cycle < since + 65536 → exec (.regCopyExhausted sid) s = .next s) ∧
    (since + 65536 ≤ (s.core (coreOf sid)).issue.cycle → exec (.regCopyExhausted sid) s = .next ((s.setSlot sid
      { x.enter { cause := 0x20, tval := BitVec.ofNat 64 (spec + 256 * pos) } with phase := .ready }).unpause (coreOf sid)))) ∧
  (∀ (s : State) (f : Bin), s.ready (binShape f) = true → s.me.mode ≠ .u → (f.rd = 0 ∨ s.me.regs.own .g f.rd = true) →
    let x := s.me
    let a := x.regs.getG f.a.n
    let sid := a.toNat % 65536
    let gives (code : Word) : Prop := exec (.ipi f) s =
      .next (s.retires (binShape f) (({ x with sched := { x.sched with reply := none } } : Slot).withG f.rd code))
    (∀ code, x.sched.reply = some code → gives code) ∧
    (x.sched.reply = none → 65536 ≤ a.toNat ∨ sidExists sid = false → gives 3) ∧
    (x.sched.reply = none → a.toNat < 65536 → sidExists sid = true → ∃ t, exec (.ipi f) s = .next t ∧
      t.me = { x with phase := .blocked (.finishing (.reply s.nextOp)) } ∧ t.nextOp = s.nextOp + 1 ∧
      t.mesh = s.mesh ++ [⟨coreOf s.cur, dieOf s.cur, routerOf s.cur, dieOf sid, routerOf sid, .ipi sid s.cur s.nextOp (x.regs.getG f.b.n)⟩] ∧
      (∀ k, k ≠ s.cur → t.slot k = s.slot k) ∧ t.mem = s.mem ∧ t.clusters = s.clusters))

/-- fence.i empties the instruction cache, tlbinv removes its scope, ptsync raises PTGEN, logreplay replays or refuses
(R163, R357, R360). The model's choice: a data-cache line of the scope whose merged stores cannot be sent home, since its page has gone far
and the side log has no room, stays in its cache (log 47). -/
def Obligations.MaintenanceForms : Prop :=
  ∀ s : State,
    let core := coreOf s.cur
    let home := s.writeThrough core
    (s.drained = true → s.unsent s.cur = false → ∀ f : Plain, s.ready ⟨f.h, [], none⟩ = true →
      let t := home.setCore core { home.core core with icache := [] }
      exec (.fenceI f) s = .next (t.retires ⟨f.h, [], none⟩ t.me)) ∧
    (s.me.mode ≠ .u → ∀ f : Src2, s.ready ⟨f.h, [(1, .g, f.a), (2, .g, f.b)], none⟩ = true →
      let a := s.me.regs.getG f.a.n
      let b := s.me.regs.getG f.b.n
      let asid := (b.extractLsb' 0 16).toNat
      let eff := if a.toNat / 2 ^ 52 = 0xFFF then 0 else asid
      let scope := (b.extractLsb' 16 2).toNat
      let goes (d : Nat) (e : Tlb) : Prop :=
        (scope = 0 ∧ d = (a.extractLsb' 50 2).toNat ∧ e.asid = eff ∧ e.va = pageOf e.size a.toNat) ∨ (scope = 1 ∧ e.asid = asid) ∨
          (scope = 2 ∧ e.leaf.getLsbD 4 = false) ∨ scope = 3
      s.translatedWaits (s.tlbScope a b) = false →
        ∃ t, exec (.tlbinv f) s = .next t ∧
          (∀ d e, e ∈ (t.die d).tlb ↔ e ∈ (s.die d).tlb ∧ ¬goes d e) ∧
          (∀ c, ∀ l ∈ (t.core c).dcache, l.stuck = false → scope ≠ 2 ∧ scope ≠ 3 ∧ (scope = 1 → l.asid ≠ asid) ∧
            (scope = 0 → l.asid = eff → l.va / 2 ^ 16 ≠ a.toNat / 2 ^ 16)) ∧
          t.me.pc = nextOf s.line s.me.pc ∧ ∀ sid, sid ≠ s.cur → t.slot sid = s.slot sid) ∧
    (s.me.mode ≠ .u → s.drained = true → s.unsent s.cur = false → ∀ f : Un, s.ready (unShape f) = true →
      let d := ((s.me.regs.getG f.a.n).extractLsb' 0 2).toNat
      let gen := (s.die d).ptgen + 1
      let t := home.setDie d { s.die d with ptgen := gen }
      t.writable .g f.rd = true → exec (.ptsync f) s =
        .next (t.retires (unShape f) (({ s.me with sched := { s.me.sched with reply := none } } : Slot).withG f.rd gen))) ∧
    (s.me.mode ≠ .u → s.me.sched.reply = none → ∀ f : Un, s.ready (unShape f) = true →
      let gen := s.me.regs.getG f.a.n
      let stale := ∃ e ∈ s.myCore.log, gen.toNat < (s.die e.2.owndie).ptgen.toNat
      (stale → exec (.logreplay f) s = .next (s.retires (unShape f) (s.me.withG f.rd 1))) ∧
      (s.myCore.log = [] → exec (.logreplay f) s = .next (s.retires (unShape f) (s.me.withG f.rd 0))) ∧
      (¬stale → ∀ k x pas s1, s.myCore.log = [(k, x)] → x.persist = false → (∀ c, ∀ l ∈ (s.core c).dcache, l.far = false) →
        (∀ e ∈ s.myCore.sb, e.ctx = x.entry.ctx → x.entry.seq ≤ e.seq) →
        s.xlatBytes x.entry.asid x.entry.addr x.entry.bytes.length x.entry.access x.entry.mode false = (.ok pas, s1) →
        let t := (s1.setCore core { s1.core core with log := [] }).performHome core x.entry pas
        t.writable .g f.rd = true → exec (.logreplay f) s = .next (t.retires (unShape f) (t.me.withG f.rd 0))))

/-- preempt, strandnew and strandkill answer the status codes and halt, resume, start and free their target (R164, R165,
R166, R167). The model's choices: PRIV 2 is compared as the number 2, so strandnew with it takes PRIVILEGE from S (log 32); a resumed strand is
BLOCKED or WAITING as it was halted, until its instruction executes again (log 58); the end of the wait for a halt is noted, and the preempt
then completes with it (log 59); a die that takes no part in the package has no slots (log 83). -/
def Obligations.StrandManagementForms : Prop :=
  (∀ (s : State) (f : Bin), s.me.mode ≠ .u → s.ready (binShape f) = true → s.me.sched.reply = none →
    (f.rd = 0 ∨ s.me.regs.own .g f.rd = true) →
    let a := s.me.regs.getG f.a.n
    let sid := a.toNat % 2 ^ 16
    let named := a.toNat < 2 ^ 16 ∧ sidExists sid = true ∧ (s.die (dieOf sid)).absent = false
    let resume := (s.me.regs.getG f.b.n).getLsbD 0
    let gives (code : Word) : Prop := exec (.preemptHalt f) s = .next (s.retires (binShape f) (s.me.withG f.rd code))
    (¬named → gives 3) ∧ (named → sid = s.cur → gives 5) ∧ (named → sid ≠ s.cur → (s.slot sid).phase = .free → gives 2) ∧
    (named → sid ≠ s.cur → (s.slot sid).phase ≠ .free →
      ((s.slot sid).phase.isSuspended = true → resume = false → gives 1) ∧
      ((s.slot sid).phase.isSuspended = false → resume = true → gives 1) ∧
      ((s.slot sid).phase.isSuspended = false → resume = false → ∃ t, exec (.preemptHalt f) s = .next t ∧
        t.me = { s.me with phase := .blocked (.target sid (s.slot sid).ctx) } ∧ t.slot sid = { s.slot sid with sched := { (s.slot sid).sched with halt := true } }) ∧
      ((s.slot sid).phase.isSuspended = true → resume = true →
        ∃ t y, exec (.preemptHalt f) s = .next t ∧ t.slot sid = y ∧
          y = { s.slot sid with phase := resumedPhase (s.slot sid).sched.was, rep := y.rep,
                                sched := { (s.slot sid).sched with ckptDue := false, ckptAt := s.ckptKept sid, was := none } } ∧
          (f.rd ≠ 0 → t.me.regs.getG f.rd = 0) ∧ t.me.pc = nextOf s.line s.me.pc))) ∧
  (∀ (s : State) (f : Bin) (code : Word), s.me.mode ≠ .u → s.ready (binShape f) = true → s.me.sched.reply = some code →
    (f.rd = 0 ∨ s.me.regs.own .g f.rd = true) →
      let y : Slot := { s.me with sched := { s.me.sched with reply := none } }
      exec (.preemptHalt f) s = .next (s.retires (binShape f) (y.withG f.rd code))) ∧
  (∀ (s : State) (sid t ctx : Nat), (s.slot sid).phase = .blocked (.target t ctx) →
    let x := s.slot sid
    let ends (code : Word) : Prop := (s.wake sid).slot sid =
      { x with phase := .ready, sched := { x.sched with waited := true, reply := some code } }
    let halted := (s.slot t).phase.isSuspended = true ∧ (s.slot t).ctx = ctx
    (halted → ends 0) ∧ ((s.slot t).phase = .free ∨ (s.slot t).ctx ≠ ctx → ends 2) ∧
    ((s.slot t).phase ≠ .free → (s.slot t).phase.isSuspended = false → (s.slot t).ctx = ctx → s.wake sid = s)) ∧
  (∀ (s s1 : State) (f : Tri) (bs : List Byte), s.me.mode ≠ .u → s.ready (triShape f) = true →
    loadGlobal (s.me.regs.getG f.c.n).toNat 128 64 s = .ok (bs, s1) → s1.writable .g f.rd = true →
    let a := s.me.regs.getG f.a.n
    let e := s.me.regs.getG f.b.n
    let sid := a.toNat % 2 ^ 16
    let status := dwordAt bs 1
    let priv := (status.extractLsb' 0 2).toNat
    let covered : Bool := ((s1.core (coreOf sid)).image.map fun r => decide (r.1 ≤ e.toNat) && decide (e.toNat < r.2)) == some true
    let gives (code : Word) : Prop := exec (.strandnew f) s = .next (s1.retires (triShape f) (s1.me.withG f.rd code))
    if s1.me.mode.code < priv then exec (.strandnew f) s = .next (takeTrap { cause := 0x06, tval := 0 } s)
    else if 2 ^ 16 ≤ a.toNat ∨ sidExists sid = false ∨ (s1.die (dieOf sid)).absent = true then gives 3
    else if status &&& 0x7FFFFFFFFFFFF8C4 ≠ 0 ∨ priv = 2 ∨ (∃ b ∈ bs.drop 88, b ≠ 0) then gives 4
    else if isCompute (coreOf sid) = false ∧ covered = false then gives 6
    else if (s1.slot sid).phase ≠ .free then gives 1
    else sid ≠ s.cur → (f.rd = 0 ∨ s1.me.regs.own .g f.rd = true) → ∃ t, exec (.strandnew f) s = .next t ∧
      (let y := t.slot sid
       y.phase = .ready ∧ y.pc = e ∧ y.ctl.status = fixStatus status ∧ y.ctl.dmem = dmemStored (dwordAt bs 0) ∧
        y.sTrap.tvec = dwordAt bs 2 &&& ~~~63 ∧ (∀ k : Fin 8, y.ctl.mbox[k] = dwordAt bs (3 + k)) ∧ y.ctl.asid = s1.me.ctl.asid ∧
        y.regs = Regs.none ∧ y.ctl.fflags = 0 ∧ y.ctl.ix = 0 ∧ y.ctl.nx = 0 ∧ y.loops.depth = 0 ∧
        (∀ k : Fin 4, y.streams[k].bound = false) ∧ y.sched.halt = status.getLsbD 63 ∧ y.sched.checked = true) ∧
      (f.rd ≠ 0 → t.me.regs.getG f.rd = 0) ∧ t.me.pc = nextOf s.line s.me.pc) ∧
  (∀ (s : State) (f : Un), s.me.mode ≠ .u → s.ready (unShape f) = true →
    let a := s.me.regs.getG f.a.n
    let sid := a.toNat % 2 ^ 16
    let named := a.toNat < 2 ^ 16 ∧ sidExists sid = true ∧ (s.die (dieOf sid)).absent = false
    let gives (code : Word) : Prop := exec (.strandkill f) s = .next (s.retires (unShape f) (s.me.withG f.rd code))
    (¬named → gives 3) ∧ (named → sid ≠ s.cur → (s.slot sid).phase = .free → gives 2) ∧
    (named → sid = s.cur → ∃ t, exec (.strandkill f) s = .next t ∧ (t.slot s.cur).phase = .free) ∧
    (named → sid ≠ s.cur → (s.slot sid).phase ≠ .free → (f.rd = 0 ∨ (s.killSlot sid).me.regs.own .g f.rd = true) →
      ∃ t, exec (.strandkill f) s = .next t ∧ (t.slot sid).phase = .free ∧ (f.rd ≠ 0 → t.me.regs.getG f.rd = 0)))

/-- A halt suspends or ends a strand, a resumption returns it to the state it was halted in, and ctxsave and ctxload move its context through memory
(R165, R365, R351, R209, R367, R368, R369, R322, R366). The model's choices: the order of the checks of ctxsave and ctxload (log 33); a resumed
strand is BLOCKED or WAITING as it was halted, until its instruction executes again (log 58); a halt does not come between an answer and the
instruction that it completes (log 80); a die that takes no part in the package has no slots (log 83); and what an image has no place for goes by the STRANDID of the saved slot (log 82). -/
def Obligations.HaltsAndContextImages : Prop :=
  (
    (∀ (s : State) (sid : Nat),
      let x := s.slot sid
      let may := x.sched.halt = true ∧ x.phase ≠ .free ∧ x.phase.isSuspended = false ∧ (x.phase = .ready → x.sched.reply = none) ∧
        ¬∃ w, x.phase = .blocked (.finishing w) ∨ x.phase = .waiting (.finishing w)
      (¬may → exec (.haltComplete sid) s = .next s) ∧
      (may → ∃ t, exec (.haltComplete sid) s = .next t ∧
        let y := t.slot sid
        y.phase = .suspended false ∧ y.windows = [] ∧ y.sched.halt = false ∧ y.regs = x.regs ∧ y.ctl = x.ctl ∧ y.sTrap = x.sTrap ∧
        y.mTrap = x.mTrap ∧ y.streams = x.streams ∧ y.msgs = x.msgs ∧
        (x.idem.active = false → y.sched.was = (match x.phase with
            | .blocked w => some (false, w.issued)
            | .waiting w => some (true, w.issued)
            | _ => if x.sched.redo then x.sched.was else none) ∧ y.pc = x.pc ∧ y.loops = x.loops ∧ y.rep.state = x.rep.state ∧ y.handles = x.handles) ∧
        (x.idem.active = true → y.sched.was = none ∧ y.pc = x.idem.pc ∧ y.loops = x.loops.withDepth x.idem.depth ∧ y.rep.state = 0))) ∧
    (∀ (s : State) (sid : Nat), ∃ t, exec (.preemptResume sid) s = .next t ∧
      let x := s.slot sid
      t.slot sid = (if x.phase.isSuspended then { x with
          phase := match x.sched.was with
            | none => .ready
            | some (false, i) => .blocked (.again i)
            | some (true, i) => .waiting (.again i)
          rep := { x.rep with mode := if x.rep.state.getLsbD 63 then .reload else .off }
          sched := { x.sched with
            ckptDue := false
            ckptAt := if (s.saved.find sid).any fun v => v.ctx == x.ctx && v.ckpt == x.sched.ckptAt then none else x.sched.ckptAt
            was := none } } else x) ∧
      (∀ k, k ≠ sid → t.slot k = s.slot k) ∧ t.mem = s.mem ∧ t.clusters = s.clusters)
  ) ∧ (
    (∀ (s : State) (f : Bin), s.me.mode ≠ .u → s.ready (binShape f) = true → (f.rd = 0 ∨ s.me.regs.own .g f.rd = true) →
      let done (y : Slot) : Slot := { y with sched := { y.sched with reply := none } }
      let a := s.me.regs.getG f.a.n
      let ea := (s.me.regs.getG f.b.n).toNat
      let sid := a.toNat % 2 ^ 16
      let named := a.toNat < 2 ^ 16 ∧ sidExists sid = true ∧ (s.die (dieOf sid)).absent = false
      let x := s.slot sid
      let both (code : Word) : Prop := exec (.ctxsave f) s = .next (s.retires (binShape f) ((done s.me).withG f.rd code)) ∧
        exec (.ctxload f) s = .next (s.retires (binShape f) ((done s.me).withG f.rd code))
      (¬named → both 3) ∧ (named → sid = s.cur → both 5) ∧ (named → sid ≠ s.cur → x.phase = .free → both 2) ∧
      (named → sid ≠ s.cur → x.phase ≠ .free → x.phase.isSuspended = false → both 1) ∧
      (named → sid ≠ s.cur → x.phase.isSuspended = true →
        (∀ pas s1, x.sched.ckptDue = false → s.drained = true → gFault s.me.mode ea (imageSize x.item.isSome) 64 = none →
          xlatLines ea (imageSize x.item.isSome / 64) s = .ok (pas, s1) →
          let asid := effAsid s.me.ctl.asid.toNat ea
          let s2 := (List.range (imageSize x.item.isSome / 64)).foldl (fun t k => t.dropLineOf (coreOf s.cur) asid (ea + 64 * k)) s1
          let s3 := (s2.exportAll sid).2.storePhys (pas.flatMap fun pa => (List.range 64).map (pa + ·))
            ((x.image sid (s2.exportAll sid).1 ((s2.exportAll sid).2.itemBase x)).map some)
          let t : State := { s3 with saved := s3.saved.insert sid x.saved }
          t.writable .g f.rd = true →
            exec (.ctxsave f) s = .next (t.retires (binShape f) ((done t.me).withG f.rd 0)) ∧
            (t.slot sid).phase = x.phase ∧ (t.slot sid).regs = x.regs) ∧
        (x.sched.ckptDue = true → exec (.ctxsave f) s = .next (waitState (.finishing (.checkpoint sid)) false s)) ∧
        (∀ head tail bs s1 t, loadLines ea 47 s = .ok (head, s1) →
          (if imageFlag head 0 then loadLines (ea + 3008) 2 s1 = .ok (tail, t) ∧ bs = head ++ tail else bs = head ∧ t = s1) →
          let r := t.imageFile bs
          let suits := t.imageBad sid bs = false ∧ (isCompute (coreOf sid) = true ∨ (r.vv = 0 ∧ numAt bs 3000 8 = 0))
          let room := t.imageRoom sid (r.owned .g) (r.owned .v) (r.owned .p)
          t.writable .g f.rd = true →
          (t.imageBad sid bs = true → exec (.ctxload f) s = .next (t.retires (binShape f) ((done t.me).withG f.rd 4))) ∧
          (t.imageBad sid bs = false → ¬suits → exec (.ctxload f) s = .next (t.retires (binShape f) ((done t.me).withG f.rd 6))) ∧
          (suits → room = true →
            let u := t.loadImage sid bs
            u.writable .g f.rd = true →
            exec (.ctxload f) s = .next (u.retires (binShape f) ((done u.me).withG f.rd 0)) ∧
            (u.slot sid).phase = resumedPhase ((t.saved.find (numAt bs 8 2)).bind (·.was)) ∧ (u.slot sid).pc = dwordAt bs 2 ∧ (u.slot sid).ctl.status = fixStatus (dwordAt bs 3) ∧
            (imageFlag bs 0 = false → (u.slot sid).regs = imageRegs bs)) ∧
          (suits → room = false → t.supplyEnd ≤ t.myCore.issue.cycle → exec (.ctxload f) s = .next (t.retires (binShape f) ((done t.me).withG f.rd 6))) ∧
          (suits → room = false → t.myCore.issue.cycle < t.supplyEnd → exec (.ctxload f) s =
            .next (waitState (.finishing (.supply t.supplyEnd sid (r.owned .g) (r.owned .v) (r.owned .p))) false s))))) ∧
    (∀ (s : State) (sid : Nat),
      let c := s.core (coreOf sid)
      let x := s.slot sid
      let due := x.phase.isSuspended = true ∧ x.sched.ckptDue = true
      let busy := ∃ k ∈ c.tileq.take 1, k.sid = sid ∧ k.removable = false
      let cmds := c.tileq.filter fun k => k.sid == sid
      let accs := c.accs.filter fun a => a.2.owner == some sid
      (¬due ∨ busy → exec (.engineCheckpoint sid) s = .next s) ∧
      (due → ¬busy → cmds = [] → accs = [] →
        exec (.engineCheckpoint sid) s = .next (s.setSlot sid { x with sched := { x.sched with ckptDue := false } })) ∧
      (∀ pa s1, due → ¬busy → (cmds ≠ [] ∨ accs ≠ []) → s.areaAddr (c.ckptArea (sid % 8)) .write = (.busy pa, s1) →
        exec (.engineCheckpoint sid) s = .next s1) ∧
      (∀ pa s1, due → ¬busy → (cmds ≠ [] ∨ accs ≠ []) → s.areaAddr (c.ckptArea (sid % 8)) .write = (.ok pa, s1) →
        ∃ t, exec (.engineCheckpoint sid) s = .next t ∧ t.ckpts.find (c.ckptArea (sid % 8)) = some ⟨sid, cmds, accs⟩ ∧
          (t.slot sid).sched.ckptDue = false ∧ (t.slot sid).sched.ckptAt = some (c.ckptArea (sid % 8)) ∧
          ∀ k ∈ (t.core (coreOf sid)).tileq, k.sid ≠ sid))
  )

/-- freeze checks its depth, its record, its template and its banks in order, and forms a starter record that holds the
context (R277, R278, R279, R280). -/
def Obligations.FreezeChecksAndForms : Prop :=
  ∀ (s s1 : State) (f : FreezeOp),
    let sh : Shape := ⟨f.h, [(1, .g, f.a), (2, .g, f.b)], none⟩
    let ti : Int := (s.me.pc &&& ~~~63).toNat + f.off.line.toInt * 64 + f.off.slot.toNat
    let cont := BitVec.ofInt 64 ti
    let extent := (s.me.regs.getG f.a.n).toNat
    let d := s.me.regs.getG f.b.n
    let home := s.cur / 8 % 2048 % 16
    let place := f.place.setWidth 16 ||| BitVec.twoPow 16 home
    let crumbs := (d.extractLsb' 32 16).toNat
    let quota := if (d.extractLsb' 48 6).toNat = 0 then 64 else (d.extractLsb' 48 6).toNat
    let base := (d.extractLsb' 0 21).toNat
    let traps (cause : Nat) (tval : Word) : Prop := exec (.freeze f) s = .next (takeTrap { cause := cause, tval := tval } s)
    s.ready sh = true → canonical ti = true → checkTarget cont s = .ok ((), s1) →
      if extent = 0 then exec (.freeze f) s = .next (s1.jumps sh s1.me cont)
      else if 3 < s1.freezeDepth s.cur then traps 0x22 1
      else match (List.range 8).find? fun k => (s1.myCore.starters.find k).isNone with
        | none => traps 0x22 2
        | some k =>
          if crumbs ≠ 0 ∧ (d.extractLsb' 54 10 ≠ 0 ∨ d.extractLsb' 21 11 ≠ 0 ∨ d.extractLsb' 0 6 ≠ 0) then traps 0x10 d
          else if crumbs ≠ 0 ∧ (0x8000 < crumbs ∨ 0x200000 < base + 64 * crumbs + 4096 * quota) then traps 0x16 d
          else match (if crumbs = 0 then none else s1.templateAbsent s.cur d place) with
            | some a => traps 0x17 (BitVec.ofNat 64 a)
            | none => s1.drained = true → ∃ t r, exec (.freeze f) s = .next t ∧ (t.slot s.cur).phase = .free ∧
              t.starter (coreOf s.cur) k = some r ∧ r.ctx = { s1.me with pc := cont, windows := [], msgs := [] } ∧
              r.entry = nextOf s.line s.me.pc ∧ r.extent = extent ∧ r.next = 0 ∧ r.live = 0 ∧ r.retired = 0 ∧ r.killed = 0 ∧
              r.tmpl = d ∧ r.place = place ∧ r.depth = s1.freezeDepth s.cur ∧ r.slot = s.cur % 8

/-- retire ends a strand and counts its item, yield lets others go first, and itemq reads the counts of the starter (R290,
R291, R293, R294, R43). That the done contribution of an item counts nothing when it arrives, since its record has counted it at the retire, is
the model's choice (log 37). -/
def Obligations.ItemsRetireYieldAndAsk : Prop :=
  ∀ s : State,
    (∀ f : Plain, s.ready ⟨f.h, [], none⟩ = true → s.me.anyPending = false → s.drained = true → s.unsent s.cur = false → ∃ t, exec (.retire f) s = .next t ∧
      (t.slot s.cur).phase = .free ∧
      let mesh := (s.writeThrough (coreOf s.cur)).mesh
      (∀ i, s.me.record = none → s.me.item = some i → t.mesh = mesh ++ [⟨coreOf s.cur, dieOf s.cur, routerOf s.cur, i.home / 512,
        routerOf (8 * i.home), .itemDone i.home i.index i.gen false⟩] ∧
        ∀ r, s.starter i.home i.index = some r → t.starter i.home i.index = some (if r.gen = i.gen then
          { r with live := r.live - 1, retired := r.retired + 1 } else r)) ∧
      (s.me.record = none → s.me.item = none → t.mesh = if s.me.inTree then
        mesh ++ [⟨coreOf s.cur, dieOf s.cur, routerOf s.cur, dieOf s.cur, routerOf s.cur, .done s.me.domid false s.cur⟩] else mesh)) ∧
    (∀ (i : Nat) (m : MeshMsg) (s1 : State) (core k gen : Nat) (killed : Bool), s.meshTake i = some (m, s1) →
      m.body = .itemDone core k gen killed → exec (.doneArrival i) s = .next s1) ∧
    (∀ f : Plain, s.ready ⟨f.h, [], none⟩ = true →
      exec (.yield f) s = .next (s.retires ⟨f.h, [], none⟩ { s.me with sched := { s.me.sched with yielded := some (0, []) } })) ∧
    (∀ f : Query, s.ready ⟨f.h, [], some (.g, f.rd)⟩ = true →
      let gives (n : Nat) : Prop := exec (.itemq f) s =
        .next (s.retires ⟨f.h, [], some (.g, f.rd)⟩ (s.me.withG f.rd (BitVec.ofNat 64 n)))
      (s.me.item = none → gives 0) ∧
      (∀ i r, s.me.item = some i → s.starter i.home i.index = some r →
        (f.sel = 0 → gives r.live) ∧ (f.sel = 1 → gives (r.extent - r.next)) ∧ (f.sel = 2 → gives r.retired) ∧ (f.sel = 3 → gives r.killed) ∧
        (f.sel = 4 → gives r.extent) ∧ (f.sel = 5 → gives r.depth)))

/-- A starter stamps its next item on the first FREE slot, ships its context, and resumes when every item has retired (R281,
R282, R283, R292, R64). That a copy is shipped in two events 89 ns apart is the model's choice (log 35), and so is that the M bank and the
ports stay with the slot (log 28). -/
def Obligations.StartersStampShipAndResume : Prop :=
  ∀ (s : State) (core k : Nat) (r : Starter), s.starter core k = some r →
    (let stamps := r.next < r.extent ∧ s.withheld r = false
     (¬stamps ∨ s.stampSlot core r = none → exec (.itemStamp core k) s = .next s) ∧
     (∀ sid, stamps → s.stampSlot core r = some sid → ∃ t, exec (.itemStamp core k) s = .next t ∧
      t.starter core k = some { r with next := r.next + 1, live := r.live + 1 } ∧
      let y := t.slot sid
      let x := r.ctx
      y.phase = .ready ∧ y.pc = r.entry ∧ y.regs = { x.regs with gs := x.regs.gv, vs := x.regs.vv, ps := x.regs.pv } ∧
        y.ctl = { x.ctl with ix := BitVec.ofNat 64 r.next, nx := BitVec.ofNat 64 r.extent, seed := itemSeed x.ctl.seed r.next } ∧
        y.sTrap = x.sTrap ∧ y.loops = { x.loops with state := 0 } ∧ y.rep.state = 0 ∧ y.handles = Vector.replicate 8 .empty ∧
        (∃ i, y.item = some i ∧ i.home = core ∧ i.index = k ∧ i.gen = r.gen ∧ i.crumbs = []))) ∧
    (∀ dst : Nat,
      let n := dst % 16
      let there := core / 16 * 16 + n
      let due := if s.poolsSupply there r.ctx.regs then s.clock.time + 89 else 1
      let begins := r.next < r.extent ∧ s.stampSlot core r = none ∧ n ≠ core % 16 ∧ r.place.getLsbD n = true ∧ r.copies.find n = none ∧
        s.lowestFree there ≠ none
      let put (v : Nat) : State := s.setStarter core k { r with copies := r.copies.insert n v }
      (begins → exec (.starterShip core k dst) s = .next (put due)) ∧ (¬begins → exec (.starterShip core k dst) s = .next s) ∧
      (r.copies.find n = some 1 → exec (.starterShipComplete core k dst) s = .next (put due)) ∧
      (∀ v, r.copies.find n = some (v + 2) → exec (.starterShipComplete core k dst) s = .next (if v + 2 ≤ s.clock.time then put 0 else s))) ∧
    (r.retired < r.extent → exec (.starterResume core k) s = .next s) ∧
    (∀ sid, r.extent ≤ r.retired →
      (if (s.slot (8 * core + r.slot)).phase = .free then some (8 * core + r.slot) else s.lowestFree core) = some sid →
      ∃ t, exec (.starterResume core k) s = .next t ∧ (t.core core).starters = (s.core core).starters.erase k ∧ (∀ l ∈ (t.core core).dcache, l.stuck = true) ∧
        t.slot sid = { r.ctx with phase := .ready, ports := (s.slot sid).ports, mTrap := (s.slot sid).mTrap, msgs := [], sched := { Slot.none.sched with checked := r.ctx.sched.checked } })

/-- The stream forms configure, bind, release, save, restore, seek and count a stream, or report the first bad field; a read of a bound
register pops the element at POS and a write pushes one, with the checks of R194 in order, the stream named in the trap; a stream reads
ahead with no effect but on the bytes that a later pop gives (R191, R193, R194, R195, R196, R197, R198, R199, R200, R201; what is read ahead:
log 56). -/
def Obligations.StreamConfiguration : Prop :=
  ∀ s : State,
    let sh (f : StreamReg) : Shape := ⟨f.h, [(1, .g, f.a)], none⟩
    let faults (i : Instr) (k : BitVec 2) (sub : Nat) : Prop := exec i s = .next (takeTrap
      { cause := 0x18, tval := BitVec.ofNat 64 sub, stream := some k.toNat, sfault := some (BitVec.allOnes 64) } s)
    let loads (i : Instr) (f : StreamReg) (kinds : List Nat) (restore : Bool) : Prop := s.ready (sh f) = true →
      ∀ bs s1, loadLocal .l (s.me.regs.getG f.a.n).toNat 64 64 s = .ok (bs, s1) →
        let ctl := dwordAt bs 0
        let kind := (ctl.extractLsb' 0 2).toNat
        let old := s1.me.stream f.st.toNat
        let word (k : Nat) : Word := dwordAt bs k
        let new : Stream := ⟨if restore then ctl else bitOff ctl 15, word 1, if restore then word 2 else 0, word 3, word 4, word 5, old.sfault, []⟩
        if kind ∉ kinds then faults i f.st 1
        else if 4 < (ctl.extractLsb' 4 3).toNat ∨ ctlReservedBad ctl = true ∨ imageZeroBad bs ctl = true then faults i f.st 2
        else if imageBaseBad bs ctl = true then faults i f.st 3
        else if old.ctl.getLsbD 15 then faults i f.st 4
        else if restore = true ∧ ctl.getLsbD 15 = true ∧ ctl.extractLsb' 4 3 = 4 ∧ isCompute (coreOf s.cur) = false then faults i f.st 5
        else if restore = true ∧ ctl.getLsbD 15 = true then
          exec i s = .next (s1.retires (sh f)
            ((s1.me.releaseBound f.st.toNat (ctl.extractLsb' 4 3 == 4)).setStream f.st.toNat new))
        else exec i s = .next (s1.retires (sh f) (s1.me.setStream f.st.toNat new))
    (∀ f, loads (.scfg f) f [1] false ∧ loads (.scfgi f) f [2] false ∧ loads (.srest f) f [0, 1, 2] true) ∧
    (∀ f : StreamBind, s.ready ⟨f.h, [], none⟩ = true →
      let t := s.me.stream f.st.toNat
      if t.kind = 0 then faults (.sbind f) f.st 1
      else if (t.esizeCode = 4) ≠ (f.vec = true) then faults (.sbind f) f.st 5
      else if t.ctl.getLsbD 15 then exec (.sbind f) s = .next (s.retires ⟨f.h, [], none⟩ s.me)
      else exec (.sbind f) s = .next (s.retires ⟨f.h, [], none⟩
        ((s.me.releaseBound f.st.toNat f.vec).setStream f.st.toNat { t with ctl := bitOn t.ctl 15 }))) ∧
    (∀ f : StreamOnly, s.ready ⟨f.h, [], none⟩ = true →
      let t := s.me.stream f.st.toNat
      exec (.sunbind f) s = .next (s.retires ⟨f.h, [], none⟩ (s.me.setStream f.st.toNat { t with ctl := bitOff t.ctl 15 }))) ∧
    (∀ f : StreamReg, s.ready (sh f) = true →
      let t := s.me.stream f.st.toNat
      let pos := s.me.regs.getG f.a.n
      (t.kind = 0 → faults (.sseek f) f.st 1) ∧
      (t.kind ≠ 0 → exec (.sseek f) s = .next (s.retires (sh f) (s.me.setStream f.st.toNat { t with pos := pos, ahead := [] }))) ∧
      (∀ cl a s1, localPlace .l pos.toNat 64 64 true s = .ok ((cl, a), s1) → s1.ownLog s1.cur = [] → s1.leftEntries s1.cur = [] → s1.myCore.sb.length < 16 →
        (s1.cluster cl).narrowed a (t.image.map some) = none →
        let u := s1.withEntry (s1.entry .vector .l cl a (t.image.map some) 0 none)
        exec (.ssave f) s = .next (u.retires (sh f) (u.me.setStream f.st.toNat { u.me.stream f.st.toNat with ahead := [] })))) ∧
    (∀ f : StreamStat, s.ready ⟨f.h, [], some (.g, f.rd)⟩ = true →
      let t := s.me.stream f.st.toNat
      exec (.sstat f) s = .next (s.retires ⟨f.h, [], some (.g, f.rd)⟩
        (s.me.withG f.rd (BitVec.ofNat 64 (Nat.min (t.count - t.pos.toNat) (2 ^ 64 - 1)))))) ∧
    -- access through the register of a bound stream
    (∀ k : Nat, k < 4 → s.me.steady = true →
      let t := s.me.stream k
      let q := t.pos.toNat
      let n := t.esize
      let cl := clusterOf s.cur
      let plain : Prop := isManagement (coreOf s.cur) = false ∧ s.me.item = none
      let strm (i : Instr) (cause : Nat) (tval : Word) : Prop :=
        exec i s = .next (takeTrap { cause := cause, tval := tval, stream := some k, sfault := some t.pos } s)
      let place (i : Instr) (s1 : State) (a : Int) (n : Nat) (go : State → Prop) : Prop :=
        if a < 0 ∨ 0x200000 < a + n then strm i 0x16 (BitVec.ofInt 64 a)
        else if a % n ≠ 0 then strm i 0x10 (BitVec.ofInt 64 a)
        else match (s1.cluster cl).check a.toNat n with
          | .off _ => strm i 0x17 (BitVec.ofInt 64 a)
          | .proof banks => exec i s = .next (waitState (.proof cl banks) false s)
          | .ok => go (s1.touched cl a.toNat n)
      let bytes (i : Instr) (s1 : State) (a : Nat) (n : Nat) (go : List Byte → Prop) : Prop :=
        if ((s1.cluster cl).flawed a n).isSome then exec i s = .next (waitState (.errors cl a n) false s)
        else match (s1.cluster cl).poisoned a n with
          | some w => exec i s = .next (takeTrap { cause := 0x7F, tval := BitVec.ofNat 64 (8 * w) } s)
          | none => go ((s1.cluster cl).mem.readN a n)
      let element (i : Instr) (go : State → Option Int → Prop) : Prop :=
        if t.count ≤ q then strm i 0x18 0
        else if t.kind = 1 then go s (some (t.affine q))
        else
          let w := t.idxBytes
          let ia := (t.geo0.extractLsb' 32 32).toNat + q * w
          place i s ia w fun s1 => bytes i s1 ia w fun bs =>
            let x := ofBytes bs
            let bound := (t.geo1.extractLsb' 0 32).toNat
            if t.sentV = true ∧ x = (t.geo1.extractLsb' 32 32).toNat then go s1 none
            else if bound ≠ 0 ∧ bound ≤ x then strm i 0x18 (BitVec.ofNat 64 x)
            else go s1 (some (t.base.toNat + x * (t.geo2.extractLsb' 0 32).toInt))
      let moved (x : Slot) : Slot := x.setStream k { x.stream k with
        pos := t.pos + 1
        ahead := t.ahead.filter fun e => e.1 != q }
      let pop (i : Instr) (gives : State → List Byte → Prop) : Prop := element i fun s1 ea => match ea with
        | none => gives s1 (List.replicate n 0)
        | some a =>
          let got (u : State) (bs : List Byte) : Prop := gives u ((NMap.find t.ahead q).getD bs)
          if t.isG then
            (∀ bs u, elemBytes t a s1 = .ok (bs, u) → got u bs) ∧
            (∀ tr, elemBytes t a s1 = .error (.trap tr) → tr.cause ≠ 0x7F →
              exec i s = .next (takeTrap { tr with stream := some k, sfault := some t.pos } s))
          else place i s1 a n fun u => bytes i u a.toNat n (got u)
      let push (i : Instr) (bs : List (Option Byte)) (sh : Shape) : Prop := element i fun s1 ea => match ea with
        | none => exec i s = .next (s1.retires sh (moved s1.me))
        | some a =>
          if t.isG then
            (∀ u, (do gCheck a n n; storeGlobalAt .push a.toNat (bs.take n) : M Unit) s1 = .ok ((), u) →
              exec i s = .next (u.retires sh (moved u.me))) ∧
            (∀ tr, (do gCheck a n n; storeGlobalAt .push a.toNat (bs.take n) : M Unit) s1 = .error (.trap tr) → tr.cause ≠ 0x7F →
              exec i s = .next (takeTrap { tr with stream := some k, sfault := some t.pos } s))
          else place i s1 a n fun u => u.ownLog u.cur = [] → u.leftEntries u.cur = [] → u.myCore.sb.length < 16 →
            (u.cluster cl).narrowed a.toNat (bs.take n) = none →
            let v := u.withEntry (u.entry .push .l cl a.toNat (bs.take n) 0 none)
            exec i s = .next (v.retires sh (moved v.me))
      let value (bs : List Byte) : Word :=
        let v := ofBytes bs
        if t.sext = true ∧ n < 8 ∧ 2 ^ (8 * n - 1) ≤ v then BitVec.ofInt 64 ((v : Int) - 2 ^ (8 * n)) else BitVec.ofNat 64 v
      (t.bound = true → t.esizeCode ≠ 4 →
        (∀ (f : IntBin) (c : Word), f.a.n = BitVec.ofNat 5 (24 + k) → f.b = .lit c → s.me.executes f.h = true → s.writable .g f.rd = true →
          let sh : Shape := ⟨f.h, [(1, .g, f.a)], some (.g, f.rd)⟩
          (t.isStore = true → exec (.add f) s = .next (takeTrap { cause := 0x05, tval := BitVec.ofNat 64 (specWord .g f.a + 256) } s)) ∧
          (t.isStore = false → (t.isG = true ∧ t.kind = 1 ∨ plain) →
            pop (.add f) fun u bs => exec (.add f) s = .next (u.retires sh ((moved u.me).withG f.rd (value bs + c))))) ∧
        (∀ f : LoadImm, f.rd = BitVec.ofNat 5 (24 + k) → s.me.executes f.h = true →
          let sh : Shape := ⟨f.h, [], some (.g, f.rd)⟩
          (t.isStore = false → exec (.li f) s = .next (s.retires sh s.me)) ∧
          (t.isStore = true → (t.isG = true ∧ t.kind = 1 ∨ plain) → push (.li f) ((toBytes 8 f.imm.toNat).map some) sh))) ∧
      (t.bound = true → t.esizeCode = 4 →
        (∀ f : VUn, f.a.n = BitVec.ofNat 5 (24 + k) → s.me.regs.validP (guardReg f.h) = true → anyActive (fmtBytes f.fmt) (s.me.lanes f.h) = true →
          s.writable .v f.rd = true →
          let w := fmtBytes f.fmt
          let sh : Shape := ⟨f.h, [(1, .v, f.a)], some (.v, f.rd)⟩
          (t.isStore = true → exec (.vmov f) s = .next (takeTrap { cause := 0x05, tval := BitVec.ofNat 64 (specWord .v f.a + 256) } s)) ∧
          (t.isStore = false → (t.isG = true ∧ t.kind = 1 ∨ plain) →
            pop (.vmov f) fun u bs => ∃ v, exec (.vmov f) s = .next (u.retires sh ((moved u.me).withV f.rd v)) ∧
              ∀ j, j < 64 / w → elem v w j = if (s.me.lanes f.h).getLsbD (w * j) then elem (BitVec.ofNat 512 (ofBytes bs)) w j else 0)) ∧
        (∀ f : VUn, f.rd = BitVec.ofNat 5 (24 + k) → s.me.regs.validP (guardReg f.h) = true → anyActive (fmtBytes f.fmt) (s.me.lanes f.h) = true →
          s.me.readable .v f.a.n = true →
          let w := fmtBytes f.fmt
          let sh : Shape := ⟨f.h, [(1, .v, f.a)], some (.v, f.rd)⟩
          (t.isStore = false → exec (.vmov f) s = .next (s.retires sh s.me)) ∧
          (t.isStore = true → (t.isG = true ∧ t.kind = 1 ∨ plain) → push (.vmov f) ((List.range 64).map fun b =>
            if (s.me.lanes f.h).getLsbD (b / w * w) then some ((s.me.regs.getV f.a.n).extractLsb' (8 * b) 8) else none) sh)))) ∧
    -- reading ahead
    (∀ sid k : Nat,
      let t := (s.slot sid).stream k
      let turn := s.takeTurn exec (.readAhead sid k)
      let q := match t.ahead.getLast? with
        | some e => Nat.max (e.1 + 1) t.pos.toNat
        | none => t.pos.toNat
      let a := t.affine q
      let cl := clusterOf sid
      (t.bound = false ∨ t.isStore = true ∨ t.kind = 0 ∨ t.count ≤ q → turn = .next s) ∧
      (t.bound = true → t.isStore = false → t.kind = 1 → t.isG = false → (s.slot sid).item = none → isManagement (coreOf sid) = false → q < t.count →
        let passes : Prop := 0 ≤ a ∧ a + t.esize ≤ 0x200000 ∧ a % t.esize = 0 ∧ (s.cluster cl).check a.toNat t.esize = .ok ∧
          (s.cluster cl).flawed a.toNat t.esize = none ∧ (s.cluster cl).poisoned a.toNat t.esize = none
        (¬passes → turn = .next s) ∧
        (passes →
          let u := State.touched { s with cur := sid } cl a.toNat t.esize
          turn = .next { u.setMe (u.me.setStream k { t with ahead := NMap.insert t.ahead q ((s.cluster cl).mem.readN a.toNat t.esize) }) with cur := s.cur })))

/-- rep checks its body, skips it for a count of 0, else issues it; each pass counts down and moves the stagger on (R205,
R206, R207, R208, R204). That the body's lines are fetched, with their faults and waits, at rep, also when it is guarded off, is the model's
choice (log 20). -/
def Obligations.RepetitionsStartStepAndEnd : Prop :=
  (∀ (s : State) (f : RepOp), s.me.windows = [] → s.me.rep.mode ≠ .running → nextOf s.line s.me.pc ≠ 0 →
    let collects := collectBody 40 f.len.toNat (nextOf s.line s.me.pc) s
    (∀ t, collects = .error (.trap t) → t.cause ≠ 0x11 → exec (.rep f) s = .next (takeTrap t s)) ∧
    (∀ b s1, collects = .ok (b, s1) → s1.me.steady = true → s1.me.guardedOff f.h = true →
      exec (.rep f) s = .next (s1.setMe (s1.me.goOn (nextOf s1.line s1.me.pc)))) ∧
    (∀ u, collects = .error (.done u) → s.ready ⟨f.h, [(1, .g, ⟨f.gn, false⟩)], none⟩ = true → exec (.rep f) s = .next (unretired s u)) ∧
    (∀ e, collects = .error e → (∀ t, e = .trap t → t.cause = 0x11) → s.me.steady = true → s.me.guardedOff f.h = true →
      exec (.rep f) s = .next (s.setMe (s.me.goOn (nextOf s.line s.me.pc))))) ∧
  (∀ (s s1 : State) (f : RepOp) (body : List BodySlot), s.ready ⟨f.h, [(1, .g, ⟨f.gn, false⟩)], none⟩ = true →
    nextOf s.line s.me.pc ≠ 0 → body ≠ [] → collectBody 40 f.len.toNat (nextOf s.line s.me.pc) s = .ok (body, s1) →
    let sh : Shape := ⟨f.h, [(1, .g, ⟨f.gn, false⟩)], none⟩
    let traps (tv : Nat) : Prop := exec (.rep f) s = .next (takeTrap { cause := 0x07, tval := BitVec.ofNat 64 tv } s)
    let first := (body.head?.map (·.addr)).getD (nextOf s.line s.me.pc)
    let after := (body.getLast?.map (·.next)).getD (nextOf s.line s.me.pc)
    if s.me.rep.state.getLsbD 63 then traps 0x400
    else if s.me.pc ∈ s.me.loops.fin.toList.take s.me.loops.depth then traps 0x30F
    else match bodyConflict s.me.loops f.gn.toNat f.mask.toNat 0 body with
      | some tv => traps tv
      | none =>
        if s.me.regs.getG f.gn = 0 then exec (.rep f) s = .next (if after = 0 then takeTrap { cause := 0x11, tval := 0 } s
          else s1.jumps sh s1.me after)
        else
          let st : Word := BitVec.ofNat 64 (2 ^ 63 + f.gn.toNat * 2 ^ 25 + f.len.toNat * 2 ^ 21 + f.stride.toNat * 2 ^ 11 +
            f.mask.toNat * 2 ^ 7 + (first.extractLsb' 0 3).toNat)
          exec (.rep f) s = .next (s1.jumps sh { s1.me with rep := ⟨st, .running, body⟩ } first)) ∧
  (∀ (s : State), let x := s.me
    x.windows = [] → x.rep.mode = .running →
    let r := x.rep
    let i := r.index
    let gn := (r.state.extractLsb' 25 5)
    (∀ b, i + 1 < r.len → r.body[i + 1]? = some b →
      exec .nop s = .next (s.setMe { x with pc := b.addr, rep := r.goto (i + 1) })) ∧
    (∀ b b0, r.len ≤ i + 1 → r.body[i]? = some b → r.body[0]? = some b0 → gn ≠ 0 → x.boundTo .g gn = none → x.regs.own .g gn = true →
      let c := x.regs.getG gn
      let off := ((r.state.extractLsb' 14 3).toNat + (r.state.extractLsb' 11 3).toNat) % 8
      if c.toNat ≤ 1 then exec .nop s = .next (s.setMe { x.withG gn 0 with
        pc := b.next
        rep := ⟨setField r.state 63 1 0, .off, []⟩
        sched := { x.sched with beyond := b.next == 0 } })
      else exec .nop s = .next (s.setMe { x.withG gn (c - 1) with
        pc := b0.addr
        rep := ({ r with state := setField r.state 14 3 off } : Rep).goto 0 })))

/-- The element-wise vector forms give f(a, b, c) in each active element and zero in the others, with the flags of active
elements (R170, R171, R174, R175, R176, R178, R179, R186, R66). -/
def Obligations.VectorElementResults : Prop :=
  ∀ (s : State),
    let rm := Rnd.ofRM (natField s.me.ctl.status 4 2)
    let lanes (i : Instr) (sh : Shape) (rd : BitVec 5) (w : Nat) (r : Nat → Nat × Fl) : Prop :=
      let on (j : Nat) : Bool := (s.me.lanes sh.h).getLsbD (w * j)
      ∃ v fl, exec i s = .next (s.retires sh ((s.me.withV rd v).withFlags fl)) ∧
        (∀ j, j < 64 / w → elem v w j = if on j then (r j).1 % 2 ^ (8 * w) else 0) ∧
        ∀ k, fl.getLsbD k = true ↔ ∃ j, j < 64 / w ∧ on j = true ∧ (r j).2.getLsbD k = true
    (∀ f : VBin,
      let w := fmtBytes f.fmt
      let sh : Shape := ⟨f.h, (1, .v, f.a) :: vopndSrc .v 2 f.b, some (.v, f.rd)⟩
      s.readyVec sh (anyActive w) = true →
      let a (j : Nat) : Nat := elem (s.me.regs.getV f.a.n) w j
      let b (j : Nat) : Nat := match f.b with
        | .reg r => elem (s.me.regs.getV r.n) w j
        | .imm i => i.toNat % 2 ^ (8 * w)
      let count (j : Nat) : Nat := match f.b with
        | .reg r => elem (s.me.regs.getV r.n) w j % (8 * w)
        | .imm i => i.toNat % (8 * w)
      let signed (x : Nat) : Int := if 2 ^ (8 * w - 1) ≤ x then (x : Int) - 2 ^ (8 * w) else x
      let less (j : Nat) : Prop := intRead f.fmt (a j) < intRead f.fmt (b j)
      let gives (i : Instr) (r : Nat → Nat × Fl) : Prop := lanes i sh f.rd w r
      (∀ F, floatFmt false f.fmt = some F →
        gives (.vadd f) (fun j => F.add rm (F.read (a j)) (F.read (b j))) ∧ gives (.vsub f) (fun j => F.sub rm (F.read (a j)) (F.read (b j))) ∧
        gives (.vmul f) (fun j => F.mul rm (F.read (a j)) (F.read (b j))) ∧
        gives (.vmin f) (fun j => F.minmax false (a j) (b j)) ∧ gives (.vmax f) (fun j => F.minmax true (a j) (b j))) ∧
      (floatFmt false f.fmt = none →
        gives (.vadd f) (fun j => (a j + b j, 0)) ∧ gives (.vsub f) (fun j => (a j + 2 ^ (8 * w) - b j, 0)) ∧
        gives (.vmul f) (fun j => (a j * b j, 0)) ∧
        gives (.vmin f) (fun j => (if less j then a j else b j, 0)) ∧ gives (.vmax f) (fun j => (if less j then b j else a j, 0))) ∧
      gives (.vand f) (fun j => (a j &&& b j, 0)) ∧ gives (.vor f) (fun j => (a j ||| b j, 0)) ∧
      gives (.vxor f) (fun j => (a j ^^^ b j, 0)) ∧ gives (.vandn f) (fun j => (a j ^^^ (a j &&& b j), 0)) ∧
      gives (.vshl f) (fun j => (a j * 2 ^ count j, 0)) ∧ gives (.vshr f) (fun j => (a j / 2 ^ count j, 0)) ∧
      gives (.vsra f) (fun j => ((signed (a j) / 2 ^ count j % 2 ^ (8 * w)).toNat, 0))) ∧
    (∀ f : VTri,
      let w := fmtBytes f.fmt
      let sh : Shape := ⟨f.h, (1, .v, f.a) :: (vopndSrc .v 2 f.b ++ [(3, .v, f.c)]), some (.v, f.rd)⟩
      s.readyVec sh (anyActive w) = true → ∀ F, floatFmt false f.fmt = some F →
      let a (j : Nat) : FVal := F.read (elem (s.me.regs.getV f.a.n) w j)
      let b (j : Nat) : FVal := match f.b with
        | .reg r => F.read (elem (s.me.regs.getV r.n) w j)
        | .imm i => F.read (i.toNat % 2 ^ (8 * w))
      let c (j : Nat) : FVal := F.read (elem (s.me.regs.getV f.c.n) w j)
      lanes (.vfma f) sh f.rd w (fun j => F.fma rm (a j) (b j) (c j)) ∧ lanes (.vfms f) sh f.rd w (fun j => F.fma rm (a j) (b j) (c j).flip)) ∧
    (∀ f : VUn,
      let w := fmtBytes f.fmt
      let sh : Shape := ⟨f.h, [(1, .v, f.a)], some (.v, f.rd)⟩
      s.readyVec sh (anyActive w) = true →
      let a (j : Nat) : Nat := elem (s.me.regs.getV f.a.n) w j
      let gives (i : Instr) (r : Nat → Nat × Fl) : Prop := lanes i sh f.rd w r
      (∀ F, floatFmt false f.fmt = some F →
        gives (.vneg f) (fun j => signForm false (a j) F) ∧ gives (.vabs f) (fun j => signForm true (a j) F)) ∧
      (floatFmt false f.fmt = none →
        gives (.vneg f) (fun j => (2 ^ (8 * w) - a j, 0)) ∧
        gives (.vabs f) (fun j => (if intRead f.fmt (a j) < 0 then 2 ^ (8 * w) - a j else a j, 0))) ∧
      gives (.vrcpe f) (fun j => if f.fmt = 0 then recipEst (FFmt.fp32.read (a j)) else bfEst recipEst (a j)) ∧
      gives (.vrsqe f) (fun j => if f.fmt = 0 then rsqrtEst (FFmt.fp32.read (a j)) else bfEst rsqrtEst (a j)) ∧
      gives (.vmov f) (fun j => (a j, 0)))

/-- Compare, select, dot, broadcast, extract, insert, permute, compress, expand, iota and count give their elements (R177,
R180, R181, R183, R184, R185, R186, R171). -/
def Obligations.VectorComparesSelectsAndPermutes : Prop :=
  ∀ (s : State),
    let on (h : Hdr) (w j : Nat) : Bool := (s.me.lanes h).getLsbD (w * j)
    let lanes (i : Instr) (sh : Shape) (rd : BitVec 5) (w : Nat) (r : Nat → Nat) : Prop :=
      ∃ v, exec i s = .next (s.retires sh (s.me.withV rd v)) ∧
        ∀ j, j < 64 / w → elem v w j = if on sh.h w j then r j % 2 ^ (8 * w) else 0
    let e (r : Reg) (w j : Nat) : Nat := elem (s.me.regs.getV r.n) w j
    let below (h : Hdr) (w j : Nat) : Nat := (List.range j).countP fun k => on h w k
    (∀ f : VCmp,
      let w := fmtBytes f.fmt
      let sh : Shape := ⟨f.h, [(1, .v, f.a), (2, .v, f.b)], some (.p, f.rd)⟩
      s.readyVec sh (anyActive w) = true →
      let cond (j : Nat) : Bool × Fl := match floatFmt false f.fmt with
        | some F => floatCond f.cc (F.read (e f.a w j)) (F.read (e f.b w j))
        | none => (intCond f.cc (BitVec.ofNat (8 * w) (e f.a w j)) (BitVec.ofNat (8 * w) (e f.b w j)), 0)
      ∃ (bits : Word) (fl : BitVec 5), exec (.vcmp f) s = .next (s.retires sh ((s.me.withP f.rd bits).withFlags fl)) ∧
        (∀ k, k < 64 → bits.getLsbD k = (on f.h w (k / w) && (cond (k / w)).1)) ∧
        ∀ k, fl.getLsbD k = true ↔ ∃ j, j < 64 / w ∧ on f.h w j = true ∧ (cond j).2.getLsbD k = true) ∧
    (∀ f : VSel,
      let w := fmtBytes f.fmt
      let sh : Shape := ⟨f.h, [(1, .v, f.a), (2, .v, f.b), (3, .p, f.c)], some (.v, f.rd)⟩
      s.readyVec sh (anyActive w) = true →
      lanes (.vsel f) sh f.rd w (fun j => if (s.me.regs.getP f.c.n).getLsbD (w * j) then e f.a w j else e f.b w j)) ∧
    (∀ f : V3,
      let sh : Shape := ⟨f.h, [(1, .v, f.a), (2, .v, f.b), (3, .v, f.c)], some (.v, f.rd)⟩
      let w := fmtBytes f.fmt
      let n := 64 / w
      let prod (j k : Nat) : Int := intRead f.fmt (e f.a 1 (4 * j + k)) * intRead f.fmt (e f.b 1 (4 * j + k))
      (s.readyVec sh (anyActive 4) = true →
        lanes (.vdot4 f) sh f.rd 4 (fun j => (((e f.c 4 j : Nat) + prod j 0 + prod j 1 + prod j 2 + prod j 3 : Int) % 2 ^ 32).toNat)) ∧
      (s.readyVec sh (anyActive w) = true →
        lanes (.vshuf f) sh f.rd w (fun j =>
          if e f.c w j < n then e f.a w (e f.c w j) else if e f.c w j < 2 * n then e f.b w (e f.c w j - n) else 0))) ∧
    (∀ f : VBcast,
      let w := fmtBytes f.fmt
      let srcs : List Src := match f.s with
        | .reg r => [(1, .g, r)]
        | .lit _ => []
      s.readyVec ⟨f.h, srcs, some (.v, f.rd)⟩ (anyActive w) = true →
      let x : Word := match f.s with
        | .reg r => s.me.regs.getG r.n
        | .lit v => v
      lanes (.vbcast f) ⟨f.h, srcs, some (.v, f.rd)⟩ f.rd w (fun _ => x.toNat)) ∧
    (∀ f : VExt,
      let w := fmtBytes f.fmt
      let sh : Shape := ⟨f.h, (1, .v, f.a) :: vopndSrc .g 2 f.i, some (.g, f.rd)⟩
      s.readyVec sh (anyActive w) = true →
      let i := match f.i with
        | .reg r => (s.me.regs.getG r.n).toNat
        | .imm k => k.toNat
      let isInt := 5 ≤ f.fmt.toNat ∧ f.fmt.toNat < 8
      let x : Word := if i < 64 / w then (if isInt then BitVec.ofInt 64 (intRead f.fmt (e f.a w i)) else BitVec.ofNat 64 (e f.a w i)) else 0
      exec (.vext f) s = .next (s.retires sh (s.me.withG f.rd x))) ∧
    (∀ f : VIns,
      let w := fmtBytes f.fmt
      let sh : Shape := ⟨f.h, (1, .v, f.a) :: (2, .g, f.s) :: vopndSrc .g 3 f.i, some (.v, f.rd)⟩
      s.readyVec sh (anyActive w) = true →
      let i := match f.i with
        | .reg r => (s.me.regs.getG r.n).toNat
        | .imm k => k.toNat
      lanes (.vins f) sh f.rd w (fun j => if j = i then (s.me.regs.getG f.s.n).toNat else e f.a w j)) ∧
    (∀ f : V2,
      let w := fmtBytes f.fmt
      let sh : Shape := ⟨f.h, [(1, .v, f.a), (2, .v, f.b)], some (.v, f.rd)⟩
      s.readyVec sh (anyActive w) = true → lanes (.vperm f) sh f.rd w (fun j => if e f.b w j < 64 / w then e f.a w (e f.b w j) else 0)) ∧
    (∀ f : VUn,
      let w := fmtBytes f.fmt
      let sh : Shape := ⟨f.h, [(1, .v, f.a)], some (.v, f.rd)⟩
      s.readyVec sh (anyActive w) = true →
      lanes (.vexpand f) sh f.rd w (fun j => e f.a w (below f.h w j)) ∧
      (∃ v, exec (.vcompress f) s = .next (s.retires sh (s.me.withV f.rd v)) ∧
        (∀ j, j < 64 / w → on f.h w j = true → elem v w (below f.h w j) = e f.a w j) ∧
        ∀ j, j < 64 / w → below f.h w (64 / w) ≤ j → elem v w j = 0)) ∧
    (∀ f : VNull,
      let w := fmtBytes f.fmt
      (s.readyVec ⟨f.h, [], some (.v, f.rd)⟩ (anyActive w) = true → lanes (.viota f) ⟨f.h, [], some (.v, f.rd)⟩ f.rd w (below f.h w)) ∧
      (s.readyVec ⟨f.h, [], some (.g, f.rd)⟩ (anyActive w) = true → exec (.vpopc f) s =
        .next (s.retires ⟨f.h, [], some (.g, f.rd)⟩ (s.me.withG f.rd (BitVec.ofNat 64 (below f.h w (64 / w)))))))

/-- vcvt converts its PART of the elements, the reductions reduce the elements in tree or element order, and tables load and
apply (R182, R63, R187, R79, R80, R188, R189, R190). The model's choices: a lone NaN in a reduction (log 72), the order of vtload's faults (log
73), and the sign of a zero t of vti (log 97). -/
def Obligations.VectorConversionsReductionsAndTables : Prop :=
  ∀ (s : State),
    let rm := Rnd.ofRM (natField s.me.ctl.status 4 2)
    (∀ f : VCvt, f.part.toNat < partCount f.dst f.src →
      let ws := fmtBytes f.src
      let wd := fmtBytes f.dst
      let n := 64 / Nat.max ws wd
      let sbase := if ws < wd then f.part.toNat * n * ws else 0
      let dbase := if wd < ws then f.part.toNat * n * wd else 0
      let sh : Shape := ⟨f.h, [(1, .v, f.a)], some (.v, f.rd)⟩
      let on (j : Nat) : Bool := (s.me.lanes f.h).getLsbD (dbase + j * wd)
      let count (j : Nat) : Nat := (List.range j).countP on
      s.readyVec sh (fun m => (List.range n).any fun j => m.getLsbD (dbase + j * wd)) = true →
      let draws := f.rnd = 4 ∧ ¬(5 ≤ f.dst.toNat ∧ 5 ≤ f.src.toNat)
      (draws → s.me.regs.own .v f.rd = true) →
      let seed := field s.me.ctl.seed 0 32
      let mode (j : Nat) : Rnd := if draws then .rstoch (seedDraws (count j + 1) seed).toNat
        else if f.rnd = 7 then rm else if f.rnd = 4 then .rne else Rnd.ofRM f.rnd.toNat
      let r (j : Nat) : Nat × Fl :=
        convertFmt (s.me.ctl.status.getLsbD 10) f.dst f.src (mode j) (natField (s.me.regs.getV f.a.n) (8 * (sbase + j * ws)) (8 * ws))
      let x := if draws then s.me.withSeed (seedDraws (count n) seed) else s.me
      ∃ v fl, exec (.vcvt f) s = .next (s.retires sh ((x.withV f.rd v).withFlags fl)) ∧
        (∀ j, j < n → natField v (8 * (dbase + j * wd)) (8 * wd) = if on j then (r j).1 % 2 ^ (8 * wd) else 0) ∧
        (∀ k, k < 64 → k < dbase ∨ dbase + n * wd ≤ k → natField v (8 * k) 8 = 0) ∧
        ∀ k, fl.getLsbD k = true ↔ ∃ j, j < n ∧ on j = true ∧ (r j).2.getLsbD k = true) ∧
    (∀ f : VRed,
      let w := fmtBytes f.fmt
      let srcs : List Src := match f.pm with
        | some r => [(1, .v, f.a), (2, .p, r)]
        | none => [(1, .v, f.a)]
      let sh : Shape := ⟨f.h, srcs, some (.g, f.rd)⟩
      let pm : Word := match f.pm with
        | some r => s.me.regs.getP r.n
        | none => BitVec.allOnes 64
      let xs : List (Option Nat) := (List.range (64 / w)).map fun j =>
        if (s.me.lanes f.h).getLsbD (w * j) && pm.getLsbD (w * j) then some (elem (s.me.regs.getV f.a.n) w j) else none
      let gives (i : Instr) (x : Word) (fl : BitVec 5) : Prop := exec i s = .next (s.retires sh ((s.me.withG f.rd x).withFlags fl))
      s.readyVec sh (anyActive w) = true →
      (∀ F, floatFmt false f.fmt = some F →
        let tree := treeSum (fun a b => F.add rm (F.read a) (F.read b)) 5 xs
        let top := treeSum (F.minmax true) 5 xs
        let chain := chainSum (fun a b => F.add rm (F.read a) (F.read b)) none xs
        let one := match chain.1 with
          | none => (F.signBit, chain.2)
          | some v => match F.read v with
            | .nan sn => (F.nan, chain.2 ||| if sn then flNV else 0)
            | _ => (v, chain.2)
        gives (.vredAdd f) (BitVec.ofNat 64 (tree.1.getD F.signBit)) tree.2 ∧
        gives (.vredMax f) (BitVec.ofNat 64 (top.1.getD (F.inf true))) top.2 ∧
        gives (.vredoAdd f) (BitVec.ofNat 64 one.1) one.2) ∧
      (floatFmt false f.fmt = none →
        let zs := (xs.filterMap id).map (intRead f.fmt)
        gives (.vredAdd f) (BitVec.ofInt 64 zs.sum) 0 ∧
        gives (.vredMax f) (BitVec.ofInt 64 (zs.foldl (fun m x => Max.max m x) (intRange f.fmt).1)) 0)) ∧
    (∀ f : VTable,
      let w := fmtBytes f.fmt
      let sh : Shape := ⟨f.h, [(1, .v, f.a)], some (.v, f.rd)⟩
      let on (j : Nat) : Bool := (s.me.lanes f.h).getLsbD (w * j)
      let r (j : Nat) : Nat × Fl := elemTable (s.myCore.tables.find f.t.toNat) f.fmt (elem (s.me.regs.getV f.a.n) w j)
      s.readyVec sh (anyActive w) = true →
      ∃ v fl, exec (.vti f) s = .next (s.retires sh ((s.me.withV f.rd v).withFlags fl)) ∧
        (∀ j, j < 64 / w → elem v w j = if on j then (r j).1 % 2 ^ (8 * w) else 0) ∧
        ∀ k, fl.getLsbD k = true ↔ ∃ j, j < 64 / w ∧ on j = true ∧ (r j).2.getLsbD k = true) ∧
    (∀ f : VTLoad,
      let sh : Shape := ⟨f.h, [(1, .g, f.a)], none⟩
      let a := (s.me.regs.getG f.a.n).toNat
      s.readyVec sh (anyActive 4) = true →
      let traps (cause : Nat) : Prop := exec (.vtload f) s = .next (takeTrap { cause := cause, tval := BitVec.ofNat 64 a } s)
      (0x200000 < a + 80 → traps 0x16) ∧
      (a + 80 ≤ 0x200000 → (∀ bs t, loadLocal .l (a + 5) 1 1 s = .ok (bs, t) → a + 64 + 16 * (ofBytes bs + 1) ≤ 0x200000) →
        a % 64 ≠ 0 → traps 0x10) ∧
      (∀ bs t, loadLocal .l (a + 5) 1 1 s = .ok (bs, t) → 0x200000 < a + 64 + 16 * (ofBytes bs + 1) → traps 0x16) ∧
      ∀ hd s1 body s2, loadLocal .l a 64 64 s = .ok (hd, s1) →
      let n := numAt hd 5 1 + 1
      a + 64 + 16 * n ≤ 0x200000 → loadPieces (a + 64) 64 (16 * n) s1 = .ok (body, s2) →
      let segs := (List.range n).map fun k => Vector.ofFn fun j : Fin 4 => BitVec.ofNat 32 (numAt body (16 * k + 4 * j.val) 4)
      let t : FTable := ⟨BitVec.ofNat 32 (numAt hd 0 4), (BitVec.ofNat 8 (numAt hd 4 1)).toInt, numAt hd 6 1 % 2 == 1, segs⟩
      let tables := if tableHeaderOk hd then s2.myCore.tables.insert f.t.toNat t else s2.myCore.tables.erase f.t.toNat
      let u := s2.setCore (coreOf s.cur) { s2.myCore with tables := tables }
      exec (.vtload f) s = .next (u.retires sh u.me))

/-- ldl, ldc, stl, stc and stlf complete where their checks pass and no entry of the strand is in the way; the checks come in order
(range, alignment, banks), a load takes the newest bytes, a store goes through the buffer, and an item's first write to a crumb
copies it (R211, R213, R220, R222, R231, R255, R256, R229, R285). -/
def Obligations.LocalLoadsAndStores : Prop :=
  ∀ (s : State),
    let eaOf (ad : Addr) : Int :=
      (s.me.regs.getG ad.base.n).toNat + (s.me.regs.getG ad.index.n).toNat * 2 ^ ad.scale.toNat + ad.disp.toInt
    let extend (z : Bool) (n : Nat) (bs : List Byte) : Word :=
      let v := ofBytes bs
      if z = true ∨ v < 2 ^ (8 * n - 1) then BitVec.ofNat 64 v else BitVec.ofInt 64 ((v : Int) - 2 ^ (8 * n))
    let dieCluster (ea : Int) : Nat := dieOf s.cur * 32 + (ea / 0x200000).toNat
    let plainL : Prop := isManagement (coreOf s.cur) = false ∧ s.me.item = none
    let loads (i : Instr) (f : Load) (cl a n : Nat) : Prop :=
      (s.cluster cl).check a n = .ok → (∀ e ∈ s.ownEntries s.cur, e.overlaps .l cl 0 a n = false ∧ e.isReduction = false) →
      (s.cluster cl).flawed a n = none → (s.cluster cl).poisoned a n = none →
        let t := s.touched cl a n
        exec i s = .next (t.retires (loadShape f) (t.me.withG f.rd (extend f.z n ((s.cluster cl).mem.readN a n))))
    let stores (i : Instr) (f : Store) (kind : SbKind) (cl a n : Nat) : Prop :=
      let bytes := (toBytes n (s.me.regs.getG f.src.n).toNat).map some
      (s.cluster cl).check a n = .ok → s.ownLog s.cur = [] → s.leftEntries s.cur = [] → s.myCore.sb.length < 16 →
      (s.cluster cl).narrowed a bytes = none →
        let t := s.touched cl a n
        let u := t.withEntry (t.entry kind .l cl a bytes 0 none)
        exec i s = .next (u.retires (storeShape f) u.me)
    let access (i : Instr) (sp : Space) (ea : Int) (n : Nat) (loc : Nat → Nat → Prop) (go : Nat → Nat → State → Prop) : Prop :=
      let hi : Int := if sp = .c then 2 ^ 26 else 0x200000
      let cl := if sp = .c then dieOf s.cur * 32 + (ea / 0x200000).toNat else clusterOf s.cur
      let a := (ea % 0x200000).toNat
      let traps (cause : Nat) (tval : Word) : Prop := exec i s = .next (takeTrap { cause := cause, tval := tval } s)
      let tv := BitVec.ofInt 64 ea
      if ea < 0 ∨ hi ≤ ea ∨ 0x200000 < ea % 0x200000 + n then traps 0x16 tv
      else if ea % n ≠ 0 then traps 0x10 tv
      else if sp = .l ∧ isManagement (coreOf s.cur) = true then traps 0x17 tv
      else ∀ b, loc a b → match (s.cluster cl).check b n with
        | .off x => traps 0x17 (if sp = .l ∧ s.me.item.isSome then BitVec.ofNat 64 x else tv)
        | .proof banks => exec i s = .next (waitState (.proof cl banks) false s)
        | .ok => go cl b (s.touched cl b n)
    let wordIn (sp : Space) (cl w : Nat) : Word := BitVec.ofNat 64 (8 * w + if sp = .c then cl % 32 * 0x200000 else 0)
    let read (i : Instr) (f : Load) (sp : Space) : Prop := s.ready (loadShape f) = true →
      let n : Nat := 2 ^ f.size.toNat
      let ea := eaOf f.ad
      access i sp ea n (fun a b => b = if sp = .l ∧ s.me.item.isSome then crumbRead s a else a) fun cl a t =>
        let gives (bs : List Byte) : Prop :=
          exec i s = .next (t.retires (loadShape f) (t.me.withG f.rd (extend f.z n bs)))
        if (t.ownEntries t.cur).any SbEntry.isReduction = true then exec i s = .next (waitState .stores false s)
        else match (t.ownEntries t.cur).reverse.find? fun e => e.overlaps .l cl 0 a n with
        | some e => match (if e.ctx = t.me.ctx then e.covers a n else none) with
          | some bs => gives bs
          | none => exec i s = .next (waitState (.overlap .l cl a n) false s)
        | none =>
          if ((t.cluster cl).flawed a n).isSome then exec i s = .next (waitState (.errors cl a n) false s)
          else match (t.cluster cl).poisoned a n with
            | some w => exec i s = .next (takeTrap { cause := 0x7F, tval := wordIn sp cl w } s)
            | none => gives ((t.cluster cl).mem.readN a n)
    let write (i : Instr) (f : Store) (sp : Space) (kind : SbKind) : Prop := s.ready (storeShape f) = true →
      let n : Nat := 2 ^ f.size.toNat
      let ea := eaOf f.ad
      let bytes := (toBytes n (s.me.regs.getG f.src.n).toNat).map some
      let chain := s.chain 3 s.me.item
      access i sp ea n (fun a b =>
          (b = a ∧ (sp = .c ∨ s.me.item = none ∨ ∀ x ∈ chain, inTemplate x.2.tmpl a = false)) ∨
          (sp = .l ∧ s.me.item ≠ none ∧ (∃ x ∈ chain, inTemplate x.2.tmpl a = true) ∧ ∃ x, chain.head? = some x ∧ x.1.privateOf a = some b))
        fun cl a t =>
          if t.ownLog t.cur ≠ [] then exec i s = .next (waitState .sideLog false s)
          else match (t.cluster cl).narrowed a bytes with
            | some w => exec i s = .next (takeTrap { cause := 0x7F, tval := wordIn sp cl w } s)
            | none =>
              if t.leftEntries t.cur ≠ [] then exec i s = .next (waitState .stores false s)
              else if 16 ≤ t.myCore.sb.length then exec i s = .next (waitState .storeRoom false s)
              else
                let due := (t.clock.time / 2 ^ t.clock.k + 2) * 2 ^ t.clock.k
                let e := t.entry kind .l cl a bytes 0 none
                let u := t.withEntry e
                e.sid = s.cur ∧ e.ctx = s.me.ctx ∧ e.kind = kind ∧ e.sp = .l ∧ e.cl = cl ∧ e.addr = a ∧ e.bytes = bytes ∧ e.due = due ∧
                (∀ x ∈ s.myCore.sb, x.seq < e.seq) ∧
                exec i s = .next (u.retires (storeShape f) u.me)
    let copies (i : Instr) (f : Store) (kind : SbKind) : Prop := ∀ it r, s.memoriesOk = true → s.ready (storeShape f) = true → s.me.item = some it →
      (s.chain 3 s.me.item).head? = some (it, r) →
      let n : Nat := 2 ^ f.size.toNat
      let a := (eaOf f.ad).toNat
      let k := it.crumbs.length
      let dst := it.area + 64 * k
      let src := crumbRead s (a / 64 * 64)
      let cl := clusterOf s.cur
      isManagement (coreOf s.cur) = false → 0 ≤ eaOf f.ad → a + n ≤ 0x200000 → a % n = 0 →
      (∃ x ∈ s.chain 3 s.me.item, inTemplate x.2.tmpl a = true) → it.privateOf a = none →
      if tmplCrumbs r.tmpl = 0 ∨ tmplQuota r.tmpl ≤ k then
        exec i s = .next (takeTrap { cause := 0x21, tval := BitVec.ofNat 64 a } s)
      else (s.cluster cl).check src 64 = .ok → (s.cluster cl).check dst 64 = .ok → s.claimedRange cl dst 64 = false →
        (s.cluster cl).poison = [] → (s.cluster cl).flawed src 64 = none → s.ownLog s.cur = [] → s.leftEntries s.cur = [] → s.myCore.sb.length < 16 →
        ∃ t e, exec i s = .next t ∧ t.me.item = some { it with crumbs := it.crumbs ++ [(k, a / 64)] } ∧
          (t.cluster cl).mem.readN dst 64 = (s.cluster cl).mem.readN src 64 ∧
          (t.core (coreOf s.cur)).sb = s.myCore.sb ++ [e] ∧ e.kind = kind ∧ e.sp = .l ∧ e.cl = cl ∧ e.addr = dst + a % 64 ∧
          e.bytes = (toBytes n (s.me.regs.getG f.src.n).toNat).map some ∧ t.me.pc = nextOf s.line s.me.pc
    (∀ f : Load, s.ready (loadShape f) = true →
      let n : Nat := 2 ^ f.size.toNat
      let ea := eaOf f.ad
      0 ≤ ea → ea % n = 0 →
      (plainL → ea + n ≤ 0x200000 → loads (.ldl f) f (clusterOf s.cur) ea.toNat n) ∧
      (ea < 2 ^ 26 → loads (.ldc f) f (dieCluster ea) (ea.toNat % 0x200000) n)) ∧
    (∀ f : Store, s.ready (storeShape f) = true →
      let n : Nat := 2 ^ f.size.toNat
      let ea := eaOf f.ad
      0 ≤ ea → ea % n = 0 →
      (plainL → ea + n ≤ 0x200000 →
        stores (.stl f) f .store (clusterOf s.cur) ea.toNat n ∧ stores (.stlf f) f .stlf (clusterOf s.cur) ea.toNat n) ∧
      (ea < 2 ^ 26 → stores (.stc f) f .store (dieCluster ea) (ea.toNat % 0x200000) n)) ∧
    (∀ f, read (.ldl f) f .l ∧ read (.ldc f) f .c) ∧
    (∀ f, write (.stl f) f .l .store ∧ write (.stc f) f .c .store ∧ write (.stlf f) f .l .stlf) ∧
    (∀ f, copies (.stl f) f .store ∧ copies (.stlf f) f .stlf)

/-- ldg, stg, ldaq and strl check their address in order; ldg translates precisely, stg enters the store buffer untranslated, or the
side log behind the strand's entries there (R214, R231, R256, R273, R258, R358, R356, R260). That a G store to a poisoned word is checked
when it issues is the model's choice (log 71). -/
def Obligations.GlobalLoadsAndStores : Prop :=
  ∀ (s : State),
    let addr (ad : Addr) : Int := (s.me.regs.getG ad.base.n).toNat + (s.me.regs.getG ad.index.n).toNat * 2 ^ ad.scale.toNat + ad.disp.toInt
    let checks (i : Instr) (ea : Int) (n al : Nat) (go : Prop) : Prop :=
      let last := ea + n - 1
      let traps (cause : Nat) : Prop := exec i s = .next (takeTrap { cause := cause, tval := BitVec.ofInt 64 ea } s)
      if ea % al ≠ 0 then traps 0x10
      else if canonical ea = false ∨ canonical last = false ∨ supervisor ea.toNat ≠ supervisor last.toNat then traps 0x11
      else if ea.toNat / 2 ^ 50 % 4 ≠ last.toNat / 2 ^ 50 % 4 then traps 0x12
      else if s.me.mode = .u ∧ supervisor ea.toNat = true then traps 0x15
      else go
    let translated (i : Instr) (acc : Access) (ea : Int) (n : Nat) (t0 : State) (go : List Nat → State → Prop) : Prop :=
      ea.toNat % 2 ^ 16 + n ≤ 2 ^ 16 → match t0.translate s.me.ctl.asid.toNat ea.toNat acc s.me.mode true with
      | (.fail r l, _) =>
        let cause := if r = 5 then 0x15 else 0x13
        let eff := if supervisor ea.toNat then 0 else s.me.ctl.asid.toNat
        let info := BitVec.ofNat 64 (eff * 2 ^ 48 + l * 64 + acc.code * 16 + r)
        exec i s = .next (takeTrap { cause := cause, tval := BitVec.ofInt 64 ea, xinfo := some info } s)
      | (.busy pa, _) => exec i s = .next (waitState (.swapBusy pa) false s)
      | (.ok pa, t) => go ((List.range n).map (pa + ·)) t
    let asid (ea : Int) : Nat := if supervisor ea.toNat then 0 else s.me.ctl.asid.toNat
    let load (i : Instr) (f : Load) (home : Bool) (ea : Int) (n : Nat) (after : State → State) (pas : List Nat) (t : State) : Prop :=
      let gives (bs : List Byte) (t : State) : Prop :=
        let v := ofBytes bs
        let x : Word := if f.z = true ∨ v < 2 ^ (8 * n - 1) then BitVec.ofNat 64 v else BitVec.ofInt 64 ((v : Int) - 2 ^ (8 * n))
        let u := after t
        exec i s = .next (u.retires (loadShape f) (u.me.withG f.rd x))
      let seen (bs : List Byte) : List Byte := if home then bs else t.me.seen .g (asid ea) ea.toNat bs
      if t.leftMerged t.cur (asid ea) ea.toNat n = true then exec i s = .next (waitState .merged false s)
      else if ((t.ownLog t.cur).any fun x => x.2.entry.overlaps .g 0 (asid ea) ea.toNat n) = true then
        exec i s = .next (waitState (.overlap .g 0 ea.toNat n) false s)
      else if (t.ownEntries t.cur).any SbEntry.isReduction = true then exec i s = .next (waitState .stores false s)
      else match (t.ownEntries t.cur).reverse.find? fun e => e.overlaps .g 0 (asid ea) ea.toNat n with
        | some e => match (if e.ctx = t.me.ctx then e.covers ea.toNat n else none) with
          | some bs => gives bs t
          | none => exec i s = .next (waitState (.overlap .g 0 ea.toNat n) false s)
        | none =>
          if home = true ∨ ea.toNat / 2 ^ 50 % 4 = dieOf s.cur then
            match (List.range n).find? fun k => t.hbmPoison.contains (pas[k]?.getD 0 / 8) with
            | some k => exec i s = .next (takeTrap { cause := 0x7F, tval := BitVec.ofNat 64 ((ea.toNat + k) / 8 * 8) } s)
            | none => gives (seen (pas.map t.mem.read)) t
          else
            (∀ l, t.myCore.dcFind (asid ea) (ea.toNat / 64 * 64) = some l → ea.toNat % 64 + n ≤ 64 →
              gives (seen ((List.range n).map fun k => l.data[ea.toNat % 64 + k]?.getD 0)) t) ∧
            ∀ bs u, dcBytes (asid ea) ea.toNat pas t = .ok (bs, u) → gives (seen bs) u
    (∀ f : Load, s.ready (loadShape f) = true →
      let ea := addr f.ad
      let n := 2 ^ f.size.toNat
      checks (.ldg f) ea n 1 (translated (.ldg f) .read ea n s (load (.ldg f) f false ea n id)) ∧
      checks (.ldaq f) ea n n (
        let t0 := s.dropLineOf (coreOf s.cur) (asid ea) ea.toNat
        translated (.ldaq f) .read ea n t0 (load (.ldaq f) f true ea n fun t =>
          let u := t.acquire (coreOf s.cur)
          u.setMe { u.me with streams := u.me.streams.map fun x => { x with ahead := [] } }))) ∧
    (∀ f : Store, s.ready (storeShape f) = true →
      let ea := addr f.ad
      let n := 2 ^ f.size.toNat
      let bytes := (toBytes n (s.me.regs.getG f.src.n).toNat).map some
      let stores (i : Instr) (kind : SbKind) (pas : Option (List Nat)) (t : State) : Prop :=
        let e := t.entry kind .g 0 ea.toNat bytes (asid ea) pas
        e.sid = s.cur ∧ e.ctx = s.me.ctx ∧ e.mode = s.me.mode ∧ e.due = (t.clock.time / 2 ^ t.clock.k + 2) * 2 ^ t.clock.k ∧
        if t.leftEntries t.cur ≠ [] then exec i s = .next (waitState .stores false s)
        else if 16 ≤ t.myCore.sb.length then exec i s = .next (waitState .storeRoom false s)
        else exec i s = .next ((t.withEntry e).retires (storeShape f) t.me)
      let logs (i : Instr) : Prop :=
        if s.leftLog s.cur ≠ [] then exec i s = .next (waitState .sideLog false s)
        else match s.myCore.logPut (s.entry .store .g 0 ea.toNat bytes (asid ea) none) 0 with
          | some (c, _) => exec i s = .next ((s.setCore (coreOf s.cur) c).retires (storeShape f) s.me)
          | none => exec i s = .next (waitState (.logRoom (if n ≤ 32 then 1 else 2)) false s)
      let sound (i : Instr) (kind : SbKind) (t : State) (go : Prop) : Prop :=
        (∀ pa t', t.translate s.me.ctl.asid.toNat ea.toNat .write s.me.mode true = (.ok pa, t') → ea.toNat % 2 ^ 16 + n ≤ 2 ^ 16 →
          (n < 8 ∨ pa % 8 ≠ 0) → pa / 8 ∈ t.hbmPoison →
          exec i s = .next (takeTrap { cause := 0x7F, tval := BitVec.ofNat 64 (ea.toNat / 8 * 8) } s)) ∧
        (t.homePoison kind ea.toNat bytes = none → go)
      checks (.stg f) ea n 1 (sound (.stg f) .store s (if s.ownLog s.cur = [] then stores (.stg f) .store none s else logs (.stg f))) ∧
      checks (.strl f) ea n n (translated (.strl f) .write ea n s fun pas t => sound (.strl f) .strl t
        (if t.ownLog t.cur ≠ [] then exec (.strl f) s = .next (waitState .sideLog false s) else stores (.strl f) .strl (some pas) t)))

/-- Vector loads fill active elements from their addresses, and vector stores and scatters put their active bytes into one
buffer entry; the first active element that fails its checks gives the fault, before any access (R215, R234, R171, R213, R214, R256). -/
def Obligations.VectorLoadsAndStores : Prop :=
  ∀ (s : State) (f : VMem),
    let w := fmtBytes f.fmt
    let n := 64 / w
    let on (j : Nat) : Prop := j < n ∧ (s.me.lanes f.h).getLsbD (w * j) = true
    let x := s.me
    let cl := clusterOf s.cur
    let c := s.cluster cl
    let ea : Int := (x.regs.getG f.ad.base.n).toNat + (x.regs.getG f.ad.index.n).toNat * 2 ^ f.ad.scale.toNat + f.ad.disp.toInt
    let at_ (j : Nat) : Int := ea + w * j
    let ix (j : Nat) : Int :=
      (x.regs.getG f.ad.base.n).toNat + elem (x.regs.getV f.ad.index.n) w j * 2 ^ f.ad.scale.toNat + f.ad.disp.toInt
    let elemsOk (addr : Nat → Int) (gather : Bool) : Prop := x.item = none ∧ isManagement (coreOf s.cur) = false ∧
      (gather = false → ea % 64 = 0) ∧ ∀ j, on j → 0 ≤ addr j ∧ addr j + w ≤ 0x200000 ∧ (gather = true → addr j % w = 0) ∧
        c.check (addr j).toNat w = .ok
    let loads (i : Instr) (addr : Nat → Int) (gather : Bool) : Prop :=
      let sh := vecMemShape gather false f
      s.readyVec sh (anyActive w) = true → x.regs.own .v f.r.n = true → elemsOk addr gather →
        (∀ j, on j → c.flawed (addr j).toNat w = none ∧ c.poisoned (addr j).toNat w = none ∧
          ∀ e ∈ s.ownEntries s.cur, e.overlaps .l cl 0 (addr j).toNat w = false ∧ e.isReduction = false) →
        ∃ (t : State) (v : Vec), exec i s = .next (t.retires sh (t.me.withV f.r.n v)) ∧ t.mem = s.mem ∧ t.cores = s.cores ∧ (t.cluster cl).mem = c.mem ∧
          (∀ j, on j → elem v w j = ofBytes (x.seen .l cl (addr j).toNat (c.mem.readN (addr j).toNat w))) ∧ (∀ j, j < n → ¬on j → elem v w j = 0)
    let stores (i : Instr) (addr : Nat → Int) (gather : Bool) : Prop :=
      let sh := vecMemShape gather true f
      s.readyVec sh (anyActive w) = true → elemsOk addr gather → s.ownLog s.cur = [] → s.leftEntries s.cur = [] →
        s.myCore.sb.length < 16 → (∀ j, on j → c.poisoned (addr j).toNat w = none) →
        ∃ t e, exec i s = .next t ∧ (t.core (coreOf s.cur)).sb = s.myCore.sb ++ [e] ∧ t.mem = s.mem ∧ (t.cluster cl).mem = c.mem ∧
          t.me.pc = nextOf s.line x.pc ∧ e.kind = .vector ∧ e.sp = .l ∧ e.cl = cl ∧ e.ctx = x.ctx ∧
          (∀ j k, on j → k < w → (∀ i, j < i → on i → (addr j).toNat + k < (addr i).toNat ∨ (addr i).toNat + w ≤ (addr j).toNat + k) →
            e.addr ≤ (addr j).toNat + k ∧
            e.bytes[(addr j).toNat + k - e.addr]? = some (some (field (x.regs.getV f.r.n) (8 * (w * j + k)) 8))) ∧
          (∀ k b, e.bytes[k]? = some (some b) → ∃ j, on j ∧ (addr j).toNat ≤ e.addr + k ∧ e.addr + k < (addr j).toNat + w)
    let faults (i : Instr) (store : Bool) (addr : Nat → Int) (gather : Bool) : Prop :=
      let fault (j : Nat) : Option (Nat × Int) :=
        if addr j < 0 ∨ 0x200000 < addr j + w then some (0x16, addr j)
        else if gather = false ∧ ea % 64 ≠ 0 then some (0x10, ea)
        else if gather = true ∧ addr j % w ≠ 0 then some (0x10, addr j)
        else if isManagement (coreOf s.cur) = true then some (0x17, addr j)
        else match c.check (addr j).toNat w with
          | .off _ => some (0x17, addr j)
          | _ => none
      s.readyVec (vecMemShape gather store f) (anyActive w) = true → x.item = none → ∀ j cause tval, on j → fault j = some (cause, tval) →
        (∀ k, k < j → on k → fault k = none ∧ c.check (addr k).toNat w = .ok) →
        exec i s = .next (takeTrap { cause := cause, tval := BitVec.ofInt 64 tval } s)
    let faultsG (i : Instr) (store : Bool) : Prop :=
      s.readyVec (vecMemShape false store f) (anyActive w) = true →
      (ea % 64 ≠ 0 → exec i s = .next (takeTrap { cause := 0x10, tval := BitVec.ofInt 64 ea } s)) ∧
      (∀ j cause tval, ea % 64 = 0 → on j → gFault x.mode (at_ j) w 1 = some (cause, tval) → (∀ k, k < j → ¬on k) →
        exec i s = .next (takeTrap { cause := cause, tval := tval } s)) ∧
      (store = false → ∀ j r l t, ea % 64 = 0 → on j → gFault x.mode (at_ j) w 1 = none → (∀ k, k < j → ¬on k) →
        s.translate x.ctl.asid.toNat (at_ j).toNat .read x.mode true = (.fail r l, t) →
        let eff := if supervisor (at_ j).toNat then 0 else x.ctl.asid.toNat
        exec i s = .next (takeTrap { cause := if r = 5 then 0x15 else 0x13, tval := BitVec.ofInt 64 (at_ j),
                                     xinfo := some (BitVec.ofNat 64 (eff * 2 ^ 48 + l * 64 + r)) } s))
    faults (.vldl f) false at_ false ∧ faults (.vgathl f) false ix true ∧ faults (.vstl f) true at_ false ∧ faults (.vscatl f) true ix true ∧
    faultsG (.vldg f) false ∧ faultsG (.vstg f) true ∧
    loads (.vldl f) at_ false ∧ loads (.vgathl f) ix true ∧ stores (.vstl f) at_ false ∧ stores (.vscatl f) ix true ∧
    (let sh := vecMemShape false false f
     s.readyVec sh (anyActive w) = true → x.regs.own .v f.r.n = true → ea % 64 = 0 → (∀ j, on j → gFault x.mode (at_ j) w 1 = none) →
     ea.toNat / 2 ^ 50 % 4 = dieOf s.cur → s.drained = true → ∀ p : Nat → Nat,
     (∀ j, on j → s.translate x.ctl.asid.toNat (at_ j).toNat .read x.mode true = (.ok (p j), s)) →
     let asid := effAsid x.ctl.asid.toNat
     (∀ j, on j → s.leftMerged s.cur (asid (at_ j).toNat) (at_ j).toNat w = false) →
     (∀ j k, on j → k < w → (p j + k) / 8 ∉ s.hbmPoison) →
      ∃ v, exec (.vldg f) s = .next (s.retires sh (x.withV f.r.n v)) ∧
        (∀ j, on j → elem v w j = ofBytes (x.seen .g (asid (at_ j).toNat) (at_ j).toNat (s.mem.readN (p j) w))) ∧ (∀ j, j < n → ¬on j → elem v w j = 0)) ∧
    (let sh := vecMemShape false true f
     s.readyVec sh (anyActive w) = true → ea % 64 = 0 → (∀ j, on j → gFault x.mode (at_ j) w 1 = none) →
     s.ownLog s.cur = [] → s.leftEntries s.cur = [] → s.myCore.sb.length < 16 →
     let bytes : List (Option Byte) := (List.range 64).map fun k =>
       if (s.me.lanes f.h).getLsbD (w * (k / w)) then some (field (x.regs.getV f.r.n) (8 * k) 8) else none
     s.homePoison .vector ea.toNat bytes = none →
      ∃ e, exec (.vstg f) s = .next ((s.withEntry e).retires sh x) ∧
        e = s.entry .vector .g 0 ea.toNat e.bytes (effAsid x.ctl.asid.toNat ea.toNat) none ∧ e.bytes = bytes)

/-- ldlf and ldlt wait for a full word and load it, ldlt empties it, empty enters the store buffer, prefg never faults and changes
nothing but the data cache and the translations held (R229, R230, R236, R255). That they wait with LA > 0 too is the model's choice (log 16). -/
def Obligations.FullEmptyFormsAndPrefetch : Prop :=
  ∀ (s : State),
    let access (f : Load) (take : Bool) (i : Instr) : Prop := s.ready (loadShape f) = true →
      let n := 2 ^ f.size.toNat
      let ea : Int := (s.me.regs.getG f.ad.base.n).toNat + (s.me.regs.getG f.ad.index.n).toNat * 2 ^ f.ad.scale.toNat + f.ad.disp.toInt
      ∀ cl a t, localPlace .l ea n n take s = .ok ((cl, a), t) →
        if ((t.ownEntries t.cur).any fun e => e.guards cl (a / 8) take) = true then
          exec i s = .next (waitState (.overlap .l cl (a / 8 * 8) 8) false s)
        else if a / 8 ∉ (t.cluster cl).full then exec i s = .next (waitState (.full (crumbRead s ea.toNat / 8) (if s.me.item.isSome then BitVec.ofNat 64 a else BitVec.ofInt 64 ea)) false s)
        else (∀ e ∈ t.ownEntries t.cur, e.overlaps .l cl 0 a n = false ∧ e.isReduction = false) →
          (t.cluster cl).flawed a n = none → (t.cluster cl).poisoned a n = none →
          let u := if take then t.setCluster cl ((t.cluster cl).setEmpty (a / 8)) else t
          let v := ofBytes ((t.cluster cl).mem.readN a n)
          let x : Word := if f.z = true ∨ v < 2 ^ (8 * n - 1) then BitVec.ofNat 64 v else BitVec.ofInt 64 ((v : Int) - 2 ^ (8 * n))
          exec i s = .next (u.retires (loadShape f) (u.me.withG f.rd x)) ∧
            (take = true → a / 8 ∉ (u.cluster cl).full)
    (∀ f, access f false (.ldlf f) ∧ access f true (.ldlt f)) ∧
    (∀ f : Src2, s.ready ⟨f.h, [(1, .g, f.a), (2, .g, f.b)], none⟩ = true →
      let a := s.me.regs.getG f.a.n
      let b := s.me.regs.getG f.b.n
      let sh : Shape := ⟨f.h, [(1, .g, f.a), (2, .g, f.b)], none⟩
      let traps (cause : Nat) (tval : Word) : Prop := exec (.empty f) s = .next (takeTrap { cause := cause, tval := tval } s)
      if 0x200000 < a.toNat + b.toNat then traps 0x16 a
      else if a.toNat % 8 ≠ 0 then traps 0x10 a
      else if b.toNat % 8 ≠ 0 then traps 0x10 b
      else if b = 0 then exec (.empty f) s = .next (s.retires sh s.me)
      else isManagement (coreOf s.cur) = false → s.me.item = none →
        match (s.cluster (clusterOf s.cur)).check a.toNat b.toNat with
        | .off _ => traps 0x17 a
        | .proof banks => exec (.empty f) s = .next (waitState (.proof (clusterOf s.cur) banks) false s)
        | .ok =>
          let t := s.touched (clusterOf s.cur) a.toNat b.toNat
          t.ownLog t.cur = [] → t.leftEntries t.cur = [] → t.myCore.sb.length < 16 →
            let u := t.withEntry (t.entry (.empty [(a.toNat, b.toNat)]) .l (clusterOf s.cur) 0 [] 0 none)
            exec (.empty f) s = .next (u.retires sh u.me)) ∧
    (∀ f : Pref, s.me.steady = true → s.me.executes f.h = true → s.me.boundTo .g f.ad.base.n = none → s.me.boundTo .g f.ad.index.n = none →
      let sh : Shape := ⟨f.h, addrSrc f.ad, none⟩
      ∃ t, exec (.prefg f) s = .next t ∧ t.me = s.me.pass sh (sh.prior s.me) (nextOf s.line s.me.pc) ∧ t.cur = s.cur ∧
        (∀ sid, sid ≠ s.cur → t.slot sid = s.slot sid) ∧ t.clusters = s.clusters ∧ t.saved = s.saved ∧
        (t.core (coreOf s.cur)).sb = s.myCore.sb ∧ (s.myCore.dcache.length < 256 → t.mesh = s.mesh) ∧
        (∀ l ∈ s.myCore.dcache, s.myCore.dcache.length < 256 → ∃ l' ∈ (t.core (coreOf s.cur)).dcache, l'.asid = l.asid ∧ l'.va = l.va))

/-- Atomics and cell forms check, wait and act in one action at the home, with the arithmetic of each operation (R237, R238,
R239, R83, R257, R252, R273, R222). That a G form is checked for poison when it issues is the model's choice (log 71). -/
def Obligations.AtomicsCellsAndTheirArithmetic : Prop :=
  (
    ∀ (s : State),
      let eaOf (ad : Addr) : Int := (s.me.regs.getG ad.base.n).toNat + (s.me.regs.getG ad.index.n).toNat * 2 ^ ad.scale.toNat + ad.disp.toInt
      let buffered (i : Instr) (sh : Shape) (kind : SbKind) (ea : Nat) (bytes : List (Option Byte)) : Prop :=
        let e := s.entry kind .g 0 ea bytes (effAsid s.me.ctl.asid.toNat ea) none
        (∀ k, s.homePoison kind ea bytes = some k →
          exec i s = .next (takeTrap { cause := 0x7F, tval := BitVec.ofNat 64 ((ea + k) / 8 * 8) } s)) ∧
        (s.homePoison kind ea bytes = none →
          (s.ownLog s.cur = [] → s.leftEntries s.cur = [] → s.myCore.sb.length < 16 → exec i s = .next ((s.withEntry e).retires sh s.me)) ∧
          (∀ c k, s.ownLog s.cur ≠ [] → s.leftLog s.cur = [] → s.myCore.logPut e 0 = some (c, k) →
            exec i s = .next ((s.setCore (coreOf s.cur) c).retires sh s.me)))
      let waits (i : Instr) (w : Wait) : Prop := exec i s = .next (waitState w false s)
      let traps (i : Instr) (cause : Nat) (tval : Word) : Prop := exec i s = .next (takeTrap { cause := cause, tval := tval } s)
      (∀ f : Amo, s.ready (amoShape f) = true →
        let n := if f.dword then 8 else 4
        let ea : Int := (s.me.regs.getG f.base.n).toNat + f.disp.toInt
        let b := (s.me.regs.getG f.v.n).toNat % 2 ^ (8 * n)
        let e := (s.me.regs.getG f.rd).toNat % 2 ^ (8 * n)
        let sg (x : Nat) : Int := if 2 ^ (8 * n - 1) ≤ x then (x : Int) - 2 ^ (8 * n) else x
        let new (old : Nat) : Nat :=
          match f.op.toNat with
          | 0 => (old + b) % 2 ^ (8 * n)
          | 1 => if sg b < sg old then b else old
          | 2 => if sg old < sg b then b else old
          | 3 => Nat.min old b
          | 4 => Nat.max old b
          | 5 => b
          | 6 => if old = e then b else old
          | 7 => old &&& b
          | 8 => old ||| b
          | _ => old ^^^ b
        (∀ cause tval, localFault s.cur .l ea n n = .error (cause, tval) → traps (.amol f) cause tval) ∧
        (∀ cause tval, gFault s.me.mode ea n n = some (cause, tval) → traps (.amog f) cause tval) ∧
        (∀ cl a t, localPlace .l ea n n true s = .ok ((cl, a), t) → t.drained = false → waits (.amol f) .drained) ∧
        (∀ cl a t, localPlace .l ea n n true s = .ok ((cl, a), t) → t.drained = true → t.claimedRange cl a n = true →
          waits (.amol f) (.claims a n)) ∧
        (∀ cl a t w, localPlace .l ea n n true s = .ok ((cl, a), t) → t.drained = true → t.claimedRange cl a n = false →
          (t.cluster cl).flawed a n = none → (t.cluster cl).poisoned a n = some w → traps (.amol f) 0x7F (BitVec.ofNat 64 (8 * w))) ∧
        (∀ cl a t, localPlace .l ea n n true s = .ok ((cl, a), t) → t.drained = true → t.claimedRange cl a n = false →
          (t.cluster cl).flawed a n = none → (t.cluster cl).poisoned a n = none →
          let old := ofBytes ((t.cluster cl).mem.readN a n)
          let u := t.setCluster cl ((t.cluster cl).store a ((toBytes n (new old)).map some))
          u.writable .g f.rd = true → exec (.amol f) s = .next (u.retires (amoShape f) (u.me.withG f.rd (BitVec.ofNat 64 old)))) ∧
        (gFault s.me.mode ea n n = none →
          (f.rd = 0 → s.ownEntries s.cur ≠ [] → waits (.amog f) .stores) ∧
          (f.rd = 0 → s.ownEntries s.cur = [] → buffered (.amog f) (amoShape f) (.reduction f.op.toNat n b) ea.toNat ((toBytes n b).map some)) ∧
          (f.rd ≠ 0 → s.drained = false → waits (.amog f) .drained) ∧
          (∀ pas t, f.rd ≠ 0 → s.drained = true → xlatRange .rmw ea.toNat n s = .ok (pas, t) →
            let u := t.dropLineOf (coreOf s.cur) (effAsid t.me.ctl.asid.toNat ea.toNat) ea.toNat
            (∀ pa ∈ pas, pa / 8 ∉ u.hbmPoison) →
            let old := ofBytes (pas.map u.mem.read)
            let w := u.storePhys pas ((toBytes n (new old)).map some)
            w.writable .g f.rd = true → exec (.amog f) s = .next (w.retires (amoShape f) (w.me.withG f.rd (BitVec.ofNat 64 old)))))) ∧
      (∀ f : CellAdd,
        let sh : Shape := ⟨f.h, addrSrc f.ad ++ [(0, .g, f.src)], none⟩
        s.ready sh = true →
        let x := (s.me.regs.getG f.src.n).toNat % 2 ^ (if f.bf then 16 else 32)
        let zero := List.replicate 64 (some (0 : Byte))
        (∀ cause tval, f.g = true → gFault s.me.mode (eaOf f.ad) 64 64 = some (cause, tval) → traps (.faddx f) cause tval) ∧
        (f.g = true → gFault s.me.mode (eaOf f.ad) 64 64 = none → buffered (.faddx f) sh (.faddx f.bf x) (eaOf f.ad).toNat zero) ∧
        (∀ cl a t w, f.g = false → localPlace .l (eaOf f.ad) 64 64 true s = .ok ((cl, a), t) → (t.cluster cl).flawed a 41 = none →
          (t.cluster cl).poisoned a 41 = some w → traps (.faddx f) 0x7F (BitVec.ofNat 64 (8 * w))) ∧
        (∀ cl a t, f.g = false → localPlace .l (eaOf f.ad) 64 64 true s = .ok ((cl, a), t) →
          (t.cluster cl).flawed a 41 = none → (t.cluster cl).poisoned a 41 = none → (t.cluster cl).narrowed a zero = none →
          t.ownLog t.cur = [] → t.leftEntries t.cur = [] → t.myCore.sb.length < 16 →
          let u := t.withEntry (t.entry (.faddx f.bf x) .l cl a zero 0 none)
          exec (.faddx f) s = .next (u.retires sh u.me))) ∧
      (∀ f : CellRead,
        let sh : Shape := ⟨f.h, addrSrc f.ad, some (.g, f.rd)⟩
        s.ready sh = true →
        let gives (bs : List Byte) (t : State) : Prop := ∀ mode fl r, statusMode t = .ok (mode, t) → cellRead bs mode = (r, fl) →
          t.writable .g f.rd = true → exec (.rdx f) s = .next (t.retires sh ((t.me.withG f.rd (BitVec.ofNat 64 r)).withFlags fl))
        (∀ pas t, f.g = true → gFault s.me.mode (eaOf f.ad) 64 64 = none → s.drained = true →
          xlatRange .read (eaOf f.ad).toNat 64 s = .ok (pas, t) →
          let u := t.dropLineOf (coreOf s.cur) (effAsid t.me.ctl.asid.toNat (eaOf f.ad).toNat) (eaOf f.ad).toNat
          (∀ pa ∈ pas, pa / 8 ∉ u.hbmPoison) → gives (pas.map u.mem.read) u) ∧
        (∀ cl a t, f.g = false → localPlace .l (eaOf f.ad) 64 64 false s = .ok ((cl, a), t) → t.drained = true →
          (t.cluster cl).flawed a 64 = none → (t.cluster cl).poisoned a 64 = none → gives ((t.cluster cl).mem.readN a 64) t)) ∧
      (∀ f : CellClear,
        let sh : Shape := ⟨f.h, addrSrc f.ad, none⟩
        s.ready sh = true →
        let zero := List.replicate 64 (some (0 : Byte))
        (∀ pas t, f.g = true → gFault s.me.mode (eaOf f.ad) 64 64 = none → s.drained = true →
          xlatRange .write (eaOf f.ad).toNat 64 s = .ok (pas, t) →
          let u := (t.dropLineOf (coreOf s.cur) (effAsid t.me.ctl.asid.toNat (eaOf f.ad).toNat) (eaOf f.ad).toNat).storePhys pas zero
          exec (.clrx f) s = .next (u.retires sh u.me)) ∧
        (∀ cl a t, f.g = false → localPlace .l (eaOf f.ad) 64 64 true s = .ok ((cl, a), t) → t.drained = true →
          t.claimedRange cl a 64 = false →
          let u := t.setCluster cl ((t.cluster cl).store a zero)
          exec (.clrx f) s = .next (u.retires sh u.me)))
  ) ∧ (
    (∀ (bs : List Byte) (p : Bool), cellAdd bs (.nan p) = toBytes 40 (cellValue bs % 2 ^ 320).toNat ++ toBytes 1 (numAt bs 40 1 ||| 1)) ∧
    (∀ (bs : List Byte) (neg : Bool),
      cellAdd bs (.inf neg) = toBytes 40 (cellValue bs % 2 ^ 320).toNat ++ toBytes 1 (numAt bs 40 1 ||| if neg then 4 else 2)) ∧
    (∀ (bs : List Byte) (neg : Bool) (m : Nat),
      let z := cellValue bs + if neg then -(m : Int) else m
      cellAdd bs (.fin neg m (-149)) = toBytes 40 (z % 2 ^ 320).toNat ++
        toBytes 1 (numAt bs 40 1 ||| if z < -(2 ^ 319) ∨ 2 ^ 319 ≤ z then 8 else 0)) ∧
    (∀ (bs : List Byte) (mode : Rnd),
      let flag (k : Nat) : Prop := numAt bs 40 1 / 2 ^ k % 2 = 1
      (flag 0 ∨ flag 3 ∨ (flag 1 ∧ flag 2) → cellRead bs mode = (FFmt.fp32.nan, flNV)) ∧
      (¬flag 0 → ¬flag 3 → flag 1 → ¬flag 2 → cellRead bs mode = (0x7F800000, 0)) ∧
      (¬flag 0 → ¬flag 3 → ¬flag 1 → flag 2 → cellRead bs mode = (0xFF800000, 0)) ∧
      (¬flag 0 → ¬flag 3 → ¬flag 1 → ¬flag 2 →
        cellRead bs mode = FFmt.fp32.roundVal mode (.fin (decide (cellValue bs < 0)) (cellValue bs).natAbs (-149))))
  )

/-- balloc and bfree answer a status and give or take whole groups, a strand that waits for a word of a freed group takes BANK_OFF, bwake starts
proofing, and idle banks enter RET and come back (R218, R220, R223, R224, R225, R222, R226, R230). -/
def Obligations.BanksAndTheirRetention : Prop :=
  (
    ∀ (s : State), isManagement (coreOf s.cur) = false →
      let cl := clusterOf s.cur
      let c := s.cluster cl
      let user := s.me.mode = .u
      let barred (g : Nat) : Prop := user ∧ c.userGroup g = false
      let checks (i : Instr) (a b : Word) (unit : Nat) (go : Prop) : Prop :=
        let traps (cause : Nat) (tval : Word) : Prop := exec i s = .next (takeTrap { cause := cause, tval := tval } s)
        if 0x200000 < a.toNat + b.toNat then traps 0x16 a
        else if a.toNat % unit ≠ 0 then traps 0x10 a
        else if b.toNat % unit ≠ 0 then traps 0x10 b
        else go
      (∀ f : Balloc,
        let sh : Shape := ⟨f.h, [(1, .g, f.a), (2, .g, f.b)], some (.g, f.rd)⟩
        s.ready sh = true →
        let a := s.me.regs.getG f.a.n
        let b := s.me.regs.getG f.b.n
        let first := a.toNat / 0x2000
        let count := b.toNat / 0x2000
        let some_ (p : Nat → Prop) : Prop := ∃ g, first ≤ g ∧ g < first + count ∧ p g
        let failed (g : Nat) : Prop := ∃ k ∈ c.failed, k / 8 = g
        let gives (w : Word) (t : State) : Prop := exec (.balloc f) s = .next (t.retires sh (s.me.withG f.rd w))
        checks (.balloc f) a b (0x2000 * 2 ^ f.stripe.toNat) (
          (b = 0 → gives 0 s) ∧
          (b ≠ 0 → some_ barred → gives 3 s) ∧
          (b ≠ 0 → ¬some_ barred → some_ failed → gives 2 s) ∧
          (b ≠ 0 → ¬some_ barred → ¬some_ failed → some_ (fun g => (c.groups.find g).isSome = true) → gives 1 s) ∧
          (b ≠ 0 → ¬some_ barred → ¬some_ failed → (∀ g, first ≤ g → g < first + count → c.groups.find g = none) →
            ∃ t : State, gives 0 t ∧ t = { s with clusters := t.clusters } ∧ (∀ k, k ≠ cl → t.cluster k = s.cluster k) ∧
              (∀ g, first ≤ g → g < first + count → (t.cluster cl).groups.find g = some ⟨first, count, f.stripe.toNat⟩) ∧
              (∀ k, 8 * first ≤ k → k < 8 * (first + count) → (t.cluster cl).bankState k = some .on) ∧
              (∀ x, (t.cluster cl).mem.read x = if a.toNat ≤ x ∧ x < a.toNat + b.toNat then 0 else c.mem.read x) ∧
              (∀ w, w ∈ (t.cluster cl).full ↔ w ∈ c.full ∧ (8 * w < a.toNat ∨ a.toNat + b.toNat ≤ 8 * w))))) ∧
      (∀ f : Bin, s.ready (binShape f) = true →
        let a := s.me.regs.getG f.a.n
        let b := s.me.regs.getG f.b.n
        let first := a.toNat / 0x2000
        let count := b.toNat / 0x2000
        let here (g : Nat) : Prop := first ≤ g ∧ g < first + count ∧ (c.groups.find g).isSome = true
        let cut (g : Nat) : Prop := ∃ r, c.groups.find g = some r ∧ ∃ x ∈ stripeSet r g, x < first ∨ first + count ≤ x
        let gives (w : Word) : Prop := exec (.bfree f) s = .next (s.retires (binShape f) (s.me.withG f.rd w))
        checks (.bfree f) a b 0x2000 (
          (b = 0 → gives 0) ∧
          (b ≠ 0 → (∃ g, here g ∧ barred g) → gives 3) ∧
          (b ≠ 0 → (¬∃ g, here g ∧ barred g) → (∃ g, here g ∧ cut g) → gives 1) ∧
          (b ≠ 0 → (¬∃ g, here g ∧ barred g) → (¬∃ g, here g ∧ cut g) → (∃ g, here g ∧ s.claimedRange cl (0x2000 * g) 0x2000 = true) →
            exec (.bfree f) s = .next (waitState (.claims a.toNat b.toNat) false s)) ∧
          (b ≠ 0 → (¬∃ g, here g ∧ barred g) → (¬∃ g, here g ∧ cut g) → (∀ g, here g → s.claimedRange cl (0x2000 * g) 0x2000 = false) →
            (∃ g, here g ∧ s.buffered cl (0x2000 * g) 0x2000 = true) →
            exec (.bfree f) s = .next (waitState (.bankStores a.toNat b.toNat) false s)) ∧
          (b ≠ 0 → (¬∃ g, here g ∧ barred g) → (¬∃ g, here g ∧ cut g) → (∀ w ea, s.me.phase ≠ .blocked (.full w ea)) →
            (∀ g, here g → s.claimedRange cl (0x2000 * g) 0x2000 = false ∧ s.buffered cl (0x2000 * g) 0x2000 = false) →
            ∃ t : State, (∀ sid w ea, clusterOf sid = cl → (s.slot sid).phase = .blocked (.full w ea) → here (w / 0x400) →
                ∃ y : Slot, y = { s.slot sid with sched := y.sched } ∧ t.slot sid = { y.enter { cause := 0x17, tval := ea } with phase := .ready }) ∧
              exec (.bfree f) s = .next (t.retires (binShape f) (t.me.withG f.rd 0)) ∧ t.mem = s.mem ∧
              (∀ k, here (k / 8) → (t.cluster cl).bankState k = none) ∧
              (∀ k, ¬here (k / 8) → (t.cluster cl).bankState k = c.bankState k) ∧
              (∀ x, here (x / 0x2000) → (t.cluster cl).mem.read x = 0) ∧
              (∀ x, ¬here (x / 0x2000) → (t.cluster cl).mem.read x = c.mem.read x)))) ∧
      (∀ f : Src2,
        let sh : Shape := ⟨f.h, [(1, .g, f.a), (2, .g, f.b)], none⟩
        s.ready sh = true →
        let a := (s.me.regs.getG f.a.n).toNat
        let hi := Nat.min (a + (s.me.regs.getG f.b.n).toNat) 0x200000
        ∃ t : State, exec (.bwake f) s = .next (t.retires sh s.me) ∧ t = { s with clusters := t.clusters } ∧
          (t.cluster cl).mem = c.mem ∧ (t.cluster cl).full = c.full ∧
          ∀ k, (let woken := (c.banks.find k).map fun x => (⟨if x.st = .ret then .proofing else x.st, s.clock.time⟩ : Bank)
            ((t.cluster cl).banks.find k = c.banks.find k ∨ (t.cluster cl).banks.find k = woken) ∧
            ((∀ y, a ≤ y → y < hi → c.bankOf y ≠ some k) → (t.cluster cl).banks.find k = c.banks.find k) ∧
            (∀ y r, a ≤ y → y < hi → c.bankOf y = some k → r.first * 0x2000 ≤ y → c.groups.find (y / 0x2000) = some r →
              (∀ g ∈ stripeSet r (k / 8), c.groups.find g = some r) → (t.cluster cl).banks.find k = woken)))
  ) ∧ (
    ∀ (s : State) (cl bank : Nat),
      let c := s.cluster cl
      let put (b : Bank) : State := s.setCluster cl { c with banks := c.banks.insert bank b }
      match c.banks.find bank with
      | none => exec (.bankRetEntry cl bank) s = .next s ∧ exec (.proofingComplete cl bank) s = .next s
      | some b =>
        let claimed : Prop := ∃ x ∈ s.cores, x.1 / 16 = cl ∧ ∃ t ∈ x.2.tileq, ∃ g ∈ t.claims, ∃ k < 8, c.bankOf (64 * g + 8 * k) = some bank
        let idle : Prop := c.tidle ≠ 0 ∧ 4 * c.tidle ≤ 9 * (s.clock.time - b.touch) ∧
          (∃ r, c.groups.find (bank / 8) = some r ∧ ∀ g ∈ stripeSet r (bank / 8), s.groupHeld cl g = false) ∧ ¬claimed
        (b.st = .on → idle → exec (.bankRetEntry cl bank) s = .next (put { b with st := .entering })) ∧
        (b.st = .on → ¬idle → exec (.bankRetEntry cl bank) s = .next s) ∧
        let held : Prop := (∃ r, c.groups.find (bank / 8) = some r ∧ ∃ g ∈ stripeSet r (bank / 8), s.groupHeld cl g = true) ∨ claimed
        (b.st = .entering → held → exec (.bankRetEntry cl bank) s = .next (put { b with st := .proofing })) ∧
        (b.st = .entering → ¬held → (c.groups.find (bank / 8)).isSome = true → exec (.bankRetEntry cl bank) s = .next (put { b with st := .ret })) ∧
        (b.st = .ret ∨ b.st = .proofing → exec (.bankRetEntry cl bank) s = .next s) ∧
        (b.st ≠ .proofing → exec (.proofingComplete cl bank) s = .next s) ∧
        (b.st = .proofing → (∀ x ∈ c.latent, c.bankOf (8 * x.1) = some bank → x.1 ∈ c.poison) →
          exec (.proofingComplete cl bank) s = .next (put ⟨.on, s.clock.time⟩))
  )

/-- A fence waits for the strand's stores and its side log, publishes or empties the data cache by its level, where merged stores of the strand
that go into the side log are waited for, and ends read-ahead; fence.w is no acquire, with the time lock or without (R235, R259, R266, R199,
R273). That merged stores of a page gone far stay in their line while the log has no room is the model's choice (log 47). -/
def Obligations.FencesWaitAndPublish : Prop :=
  ∀ (s : State) (f : Plain), s.ready ⟨f.h, [], none⟩ = true →
    let core := coreOf s.cur
    let ends (i : Instr) (t : State) : Prop := exec i s = .next
      (t.retires ⟨f.h, [], none⟩ { t.me with streams := t.me.streams.map fun x => { x with ahead := [] } })
    let waits (i : Instr) (w : Wait) : Prop := exec i s = .next (s.setMe { s.me with phase := .blocked w })
    let home := s.writeThrough core
    let sent := s.sendOwn s.cur
    let sends (i : Instr) : Prop := exec i s = .next (sent.setMe { sent.me with phase := .blocked .merged })
    let unsent : Prop := (∃ l ∈ s.myCore.dcache, l.far = true ∧ l.holdsOf (s.me.ctx :: s.me.debts) = true) ∨
      ∃ c ∈ s.cores, c.1 ≠ core ∧ ∃ l ∈ c.2.dcache, l.holdsOf s.me.debts = true
    (s.drained = false → waits (.fenceC f) .drained ∧ waits (.fenceK f) .drained ∧ waits (.fenceD f) .drained ∧
      waits (.fenceP f) .drained ∧ waits (.fenceY f) .drained ∧ (s.clock.lock = false → waits (.fenceW f) .drained)) ∧
    (s.drained = true → ends (.fenceC f) s) ∧
    (s.drained = true → unsent → sends (.fenceK f) ∧ sends (.fenceD f) ∧ sends (.fenceP f) ∧ sends (.fenceY f) ∧ sends (.fenceW f)) ∧
    (s.drained = true → ¬unsent → ends (.fenceK f) home ∧ ends (.fenceD f) home ∧
      ends (.fenceP f) (home.acquire core) ∧ ends (.fenceY f) (home.acquire core) ∧
      (s.clock.lock = false → ends (.fenceW f) home) ∧
      (∀ l ∈ ((home.acquire core).core core).dcache, l.stuck = true) ∧ ∀ l ∈ (home.core core).dcache, l.isDirty = true → l.far = true) ∧
    (s.clock.lock = true → s.ownLog s.cur ≠ [] → waits (.fenceW f) .sideLog) ∧
    (s.clock.lock = true → s.ownLog s.cur = [] → ∀ e, (s.ownEntries s.cur).find? (fun e => decide (s.clock.time < e.due)) = some e →
      waits (.fenceW f) (.window e.due)) ∧
    (s.clock.lock = true → s.ownLog s.cur = [] → (∀ e ∈ s.ownEntries s.cur, e.due ≤ s.clock.time) → ¬unsent → ends (.fenceW f) home)

/-- The oldest entry that is not held leaves the store buffer, a wide store as a whole or word by word, and writes exactly its bytes, once
nothing of its place stops it; a strl sends merged stores home first and waits for those that go into the side log, a reduction and a cell form act on what is there, and a store to
another die merges in a cached line (R253, R256, R258, R260, R268, R230, R311, R220, R257, R261, R237, R239, R274, R275). -/
def Obligations.StoresLeaveTheBuffer : Prop :=
  ∀ (s : State) (core : Nat), s.memoriesOk = true →
    let c := s.core core
    (c.nextOut = none → exec (.storeBufferDrain core) s = .next s) ∧
    (∀ k e, c.nextOut = some (k, e) →
      (c.sb[k]? = some e ∧ c.held e = false ∧ (∀ j x, j < k → c.sb[j]? = some x → c.held x = true) ∧
        ∀ x, c.sb.head? = some x → x.kind = .strl → c.held x = false) ∧
      ∀ now later, e.leaving s.tick = (now, later) →
      let cl := s.cluster e.cl
      let plain := e.kind = .store ∨ e.kind = .push ∨ e.kind = .vector
      let asleep := e.ranges.flatMap fun r => cl.asleep r.1 r.2
      let leaves (t : State) : Prop := t.slots = s.slots ∧ match later with
        | none => (t.core core).sb = c.sb.eraseIdx k
        | some r => (t.core core).sb = setAt c.sb k r
      let next (t : State) : Prop := exec (.storeBufferDrain core) s = .next t
      let put (j : Nat) (old : Byte) : Byte := ((now.bytes[j]?).join).getD old
      let cleanCache : Prop := ∀ j ∈ s.strandCores core e, ∀ l ∈ (s.core j).dcache, l.isDirty = false
      (later = none → now = e) ∧
      (∀ r, later = some r → plain ∧ ∃ w, now.addr = e.addr ∧ r.addr = e.addr ∧ r.pas = e.pas ∧ r.seq = e.seq ∧ r.ctx = e.ctx ∧ r.kind = e.kind ∧
        ∀ j, j < e.bytes.length →
          (now.bytes[j]?).join = (if (e.addr + j) / 8 = w then (e.bytes[j]?).join else none) ∧
          (r.bytes[j]?).join = (if (e.addr + j) / 8 = w then none else (e.bytes[j]?).join)) ∧
      (e.sp ≠ .g → (∃ r ∈ e.ranges, s.claimedRange e.cl r.1 r.2 = true) → next s) ∧
      (e.sp ≠ .g → (∀ r ∈ e.ranges, s.claimedRange e.cl r.1 r.2 = false) → asleep ≠ [] → next (s.setCluster e.cl (cl.proofBanks asleep))) ∧
      (e.sp ≠ .g → (∀ r ∈ e.ranges, s.claimedRange e.cl r.1 r.2 = false) → asleep = [] →
        (plain ∨ e.kind = .stlf → ∃ t, next t ∧ leaves t ∧ t.mem = s.mem ∧ (∀ j, j ≠ e.cl → t.cluster j = s.cluster j) ∧
          (∀ x, (t.cluster e.cl).mem.read x = if x < e.addr then cl.mem.read x else put (x - e.addr) (cl.mem.read x)) ∧
          (∀ w, w ∈ (t.cluster e.cl).full ↔ w ∈ cl.full ∨ (e.kind = .stlf ∧ w = e.addr / 8))) ∧
        (∀ rs, e.kind = .empty rs → ∃ t, next t ∧ leaves t ∧ t.mem = s.mem ∧ (t.cluster e.cl).mem = cl.mem ∧
          (∀ w, w ∈ (t.cluster e.cl).full ↔ w ∈ cl.full ∧ ∀ r ∈ rs, w ∉ wordsOf r.1 r.2)) ∧
        (∀ bf v, e.kind = .faddx bf v → ∃ t, next t ∧ leaves t ∧ t.mem = s.mem ∧ (t.cluster e.cl).full = cl.full ∧
          (t.cluster e.cl).poison = cl.poison ∧
          let sum := cellAdd (cl.mem.readN e.addr 64) (cellOperand bf v)
          ∀ x, (t.cluster e.cl).mem.read x = if x < e.addr then cl.mem.read x else (sum[x - e.addr]?).getD (cl.mem.read x))) ∧
      (e.sp = .g → e.pas = none → next s) ∧
      (∀ pas, e.sp = .g → e.pas = some pas → (∃ pa ∈ pas, 2 ^ 40 ≤ pa) → c.dcFind e.asid (e.addr / 64 * 64) = none →
        next (s.setCore core { c with sb := setAt c.sb k { e with pas := none } })) ∧
      (∀ pas, e.sp = .g → e.pas = some pas → pas.length = e.bytes.length → pas.Nodup → (∀ pa ∈ pas, pa < 2 ^ 40) →
        let others (t : State) : Prop := leaves t ∧ t.clusters = s.clusters ∧ ∀ a, a ∉ pas → t.mem.read a = s.mem.read a
        (plain → (e.addr / 2 ^ 50 % 4 = core / 512 ∨ Config.freeBit (s.tick + 1) = false) →
          (∀ j ∈ s.strandCores core e, ∀ x, (e.addr ≤ x ∧ x < e.addr + pas.length) ∨ x = e.addr ∨ x = e.addr + pas.length - 1 →
            (s.core j).dcFind e.asid (x / 64 * 64) = none) →
          ∃ t, next t ∧ others t ∧ ∀ (j p : Nat), pas[j]? = some p → t.mem.read p = put j (s.mem.read p)) ∧
        (∀ l, plain → e.addr / 2 ^ 50 % 4 ≠ core / 512 → (s.slot e.sid).ctx = e.ctx → c.dcFind e.asid (e.addr / 64 * 64) = some l → e.addr % 64 + e.bytes.length ≤ 64 →
          l.data.length = 64 → l.dirty.length = 64 → ∃ t l', next t ∧ leaves t ∧ t.mem = s.mem ∧
            (t.core core).dcFind e.asid (e.addr / 64 * 64) = some l' ∧ l'.pa = l.pa ∧
            ∀ j, j < e.bytes.length → l'.data[e.addr % 64 + j]? = (l.data[e.addr % 64 + j]?).map (put j) ∧
              (((now.bytes[j]?).join).isSome → l'.dirty[e.addr % 64 + j]? = some true)) ∧
        let sent := s.writeThrough core
        let stays : Prop := (sent.core core).held e = true ∨ ∃ l ∈ (sent.core core).dcache, l.far = true ∧ l.holdsOf [e.ctx] = true
        (e.kind = .strl → stays → next sent) ∧
        (e.kind = .strl → ¬stays → ∃ t, next t ∧ leaves t ∧ (∀ l ∈ (t.core core).dcache, l.isDirty = true → l.far = true) ∧
          (cleanCache → others t ∧ ∀ (j p : Nat), pas[j]? = some p → t.mem.read p = put j (s.mem.read p))) ∧
        (∀ op n v, e.kind = .reduction op n v → n = pas.length → cleanCache → ∃ t, next t ∧ others t ∧ t.hbmPoison = s.hbmPoison ∧
          let sum := toBytes n (atomicNew op n (ofBytes (pas.map s.mem.read)) v 0)
          ∀ (j p : Nat), pas[j]? = some p → t.mem.read p = (sum[j]?).getD (s.mem.read p)) ∧
        (∀ bf v, e.kind = .faddx bf v → cleanCache → ∃ t, next t ∧ others t ∧ t.hbmPoison = s.hbmPoison ∧
          let sum := cellAdd (pas.map s.mem.read) (cellOperand bf v)
          ∀ (j p : Nat), pas[j]? = some p → t.mem.read p = (sum[j]?).getD (s.mem.read p))))

/-- A probe gives a buffered store its translation or moves it to the side log, whose entries are discarded and rearmed by
strand (R273, R274, R359, R262, R264). -/
def Obligations.ProbesSideLogAndWindows : Prop :=
  (∀ (s : State) (core k : Nat) (e : SbEntry),
    let c := s.core core
    c.sb[k]? = some e → c.held e = false → e.loggable = true → e.pas = none →
    (∀ j x, j < k → c.sb[j]? = some x → c.held x = true ∨ x.loggable = false ∨ x.pas ≠ none) →
    let cell : Prop := (∃ bf v, e.kind = .faddx bf v) ∨ ∃ op n v, e.kind = .reduction op n v
    (∀ l, c.dcFind e.asid (e.addr / 64 * 64) = some l → l.w = true → ¬cell → e.addr % 64 + e.bytes.length ≤ 64 →
      exec (.translationProbe core) s = .next (s.setCore core { c with
        sb := setAt c.sb k { e with pas := some ((List.range e.bytes.length).map (l.pa + e.addr % 64 + ·)) } })) ∧
    (c.dcFind e.asid (e.addr / 64 * 64) = none →
    (∀ pas s1, s.xlatBytes e.asid e.addr e.bytes.length e.access e.mode true = (.ok pas, s1) →
      exec (.translationProbe core) s =
        .next (s1.setCore core { s1.core core with sb := setAt c.sb k { e with pas := some pas } })) ∧
    (∀ pa a s1, s.xlatBytes e.asid e.addr e.bytes.length e.access e.mode true = (.error (.busy pa, a), s1) →
      exec (.translationProbe core) s = .next s1) ∧
    (∀ r l a s1 i rest, s.xlatBytes e.asid e.addr e.bytes.length e.access e.mode true = (.error (.fail r l, a), s1) →
      e.bytes.length ≤ 32 → (s1.core core).logRoom = i :: rest → s1.core core = c → ∃ t, exec (.translationProbe core) s = .next t ∧
        (t.core core).log.find i = some ⟨{ e with pas := none }, 0, ownerDie e.addr, r, 0, false⟩ ∧
        (t.core core).sb.take k = c.sb.take k ∧ ∀ x ∈ (t.core core).sb, x ∈ c.sb) ∧
    (∀ r l a s1 i j rest, s.xlatBytes e.asid e.addr e.bytes.length e.access e.mode true = (.error (.fail r l, a), s1) →
      32 < e.bytes.length → (∀ bf v, e.kind ≠ .faddx bf v) → (s1.core core).logRoom = i :: j :: rest → s1.core core = c → i ≠ j →
      ∃ t, exec (.translationProbe core) s = .next t ∧
        (t.core core).log.find i = some ⟨{ e with bytes := e.bytes.take 32, pas := none }, 1, ownerDie e.addr, r, 0, false⟩ ∧
        (t.core core).log.find j = some ⟨{ e with addr := e.addr + 32, bytes := e.bytes.drop 32, pas := none }, 2, ownerDie e.addr, r, 0, false⟩))) ∧
  (∀ (s : State) (core : Nat) (e : SbEntry), (s.core core).held e = true ↔
    ∃ x ∈ (s.core core).log, x.2.entry.ctx = e.ctx ∧ x.2.entry.seq < e.seq) ∧
  (∀ (s : State) (sid : Nat),
    let c := s.myCore
    exec (.logDiscard sid) s = .next (s.setCore (coreOf s.cur) { c with log := c.log.filter fun x => x.2.entry.sid != sid }) ∧
    exec (.logRearm sid) s = .next (s.setCore (coreOf s.cur) { c with
      log := c.log.map fun x => if x.2.entry.sid = sid then (x.1, { x.2 with retry := 0, persist := false }) else x })) ∧
  (∀ (s : State) (core : Nat), (s.core core).sb = [] →
    let t := s.writeThrough core
    let w := 2 ^ s.clock.k
    exec (.windowBoundary core) s = .next (t.setCore core { t.core core with
      dcache := (t.core core).dcache.filter fun x => decide (s.clock.time / w * w ≤ x.filled + w) || x.stuck }))

/-- A copy command checks its operands, waits for handle, queue and stores, and is queued with its L destination empty
(R242, R243, R244, R245, R246, R63, R220, R270). That the length is checked before the ranges is the model's reading (log 73). -/
def Obligations.CopyCommandsAreChecked : Prop :=
  ∀ (s : State),
    let traps (i : Instr) (cause : Nat) (tval : Word) : Prop := exec i s = .next (takeTrap { cause := cause, tval := tval } s)
    let inside (code : BitVec 2) (a n : Nat) : Prop :=
      n = 0 ∨ (code = 0 ∧ a + n ≤ 0x200000) ∨ (code = 1 ∧ a < 0x4000000 ∧ a % 0x200000 + n ≤ 0x200000) ∨
      (code = 2 ∧ gFault s.me.mode a 1 1 = none ∧ gFault s.me.mode (a + n - 1) 1 1 = none ∧ supervisor a = supervisor (a + n - 1)) ∨ code = 3
    let even (code : BitVec 2) (a n : Nat) : Prop := n = 0 ∨ 2 ≤ code.toNat ∨ (a % 8 = 0 ∧ n % 8 = 0)
    let home (code : BitVec 2) (a : Nat) : Nat := if code = 0 then clusterOf s.cur else dieOf s.cur * 32 + a / 0x200000
    let word (a n w : Nat) : Prop := a < 8 * w + 8 ∧ 8 * w < a + n
    let accepts (i : Instr) (sh : Shape) (hd : BitVec 3) (x : Slot) (kind : CopyKind) (dest : Nat → Nat → Prop) : Prop :=
      s.issues i hd s.myCore.copyq.length .copyQueue (
        ∃ (t : State) (y : Slot), exec i s = .next (t.retires sh y) ∧
          (s.awaiting x hd).notes y (fun w => dest (clusterOf s.cur) w) ∧
          t = { s.withOp hd with cores := t.cores, clusters := t.clusters } ∧
          t.core (coreOf s.cur) = { s.myCore with copyq := s.myCore.copyq ++
            [⟨s.cur, s.me.ctx, s.nextOp, s.me.ctl.asid.toNat % 65536, s.me.mode, s.me.nspec, kind, [], false, [], 0, 0, none⟩] } ∧
          (∀ c, c ≠ coreOf s.cur → t.core c = s.core c) ∧ s.clears t y dest)
    let clear (code : BitVec 2) (a n : Nat) (go : Prop) (i : Instr) : Prop :=
      match (if code = 0 then s.templateHit (clusterOf s.cur) a n else none) with
      | some x => traps i 0x23 (BitVec.ofNat 64 x)
      | none => go
    let destFaults (i : Instr) (code : BitVec 2) (a n : Word) : Prop := n ≠ 0 → n.toNat ≤ 2 ^ 32 →
      (code = 0 → if 0x200000 < a.toNat + n.toNat then traps i 0x16 a
        else if a.toNat % 8 ≠ 0 then traps i 0x10 a
        else n.toNat % 8 ≠ 0 → traps i 0x10 n) ∧
      (code = 2 → ∀ cause tval, gFault s.me.mode a.toNat 1 1 = some (cause, tval) → traps i cause tval)
    (∀ f : CopyOp,
      let sh : Shape := ⟨f.h, engSrcs [f.dst, f.src, f.len, f.dev], none⟩
      s.ready sh = true →
      let a := (s.me.regs.getG f.dst.n).toNat
      let b := (s.me.regs.getG f.src.n).toNat
      let len := s.me.regs.getG f.len.n
      let n := len.toNat
      (2 ^ 32 < n → traps (.cpy f) 0x16 len) ∧ destFaults (.cpy f) f.dsp (s.me.regs.getG f.dst.n) len ∧
      (n ≤ 2 ^ 32 → inside f.dsp a n → inside f.ssp b n → even f.dsp a n → clear f.dsp a n (
        if n = 0 then s.completesAtOnce (.cpy f) sh f.hd
        else accepts (.cpy f) sh f.hd s.me (.cpy f.dsp.toNat f.ssp.toNat a b n ((s.me.regs.getG f.dev.n).toNat % 65536))
          fun k w => f.dsp.toNat < 2 ∧ k = home f.dsp a ∧ word (a % 0x200000) n w) (.cpy f))) ∧
    (∀ f : CopyMulti,
      let sh : Shape := ⟨f.h, engSrcs [f.off, f.src, f.len], none⟩
      s.ready sh = true →
      let off := s.me.regs.getG f.off.n
      let o := off.toNat
      let b := (s.me.regs.getG f.src.n).toNat
      let len := s.me.regs.getG f.len.n
      let n := len.toNat
      if 2 ^ 32 < n then traps (.cpym f) 0x16 len
      else if 0x40000 ≤ o ∨ 0x40000 < o + n then traps (.cpym f) 0x16 off
      else if n ≠ 0 ∧ o % 8 ≠ 0 then traps (.cpym f) 0x10 off
      else if n % 8 ≠ 0 then traps (.cpym f) 0x10 len
      else inside f.ssp b n →
        (∀ c, c < 8 → f.cmask.getLsbD c = true → s.templateHit (clusterOf s.cur) (0x40000 * c + o) n = none) →
        if n = 0 then s.completesAtOnce (.cpym f) sh f.hd
        else accepts (.cpym f) sh f.hd s.me (.cpym o b n f.cmask f.ssp.toNat)
          fun k w => k = clusterOf s.cur ∧ ∃ c, c < 8 ∧ f.cmask.getLsbD c = true ∧ word (0x40000 * c + o) n w) ∧
    (∀ f : CopyFill,
      let sh : Shape := ⟨f.h, engSrcs [f.dst, f.val, f.len], none⟩
      s.ready sh = true →
      let a := (s.me.regs.getG f.dst.n).toNat
      let len := s.me.regs.getG f.len.n
      let n := len.toNat
      (2 ^ 32 < n → traps (.cpyf f) 0x16 len) ∧ destFaults (.cpyf f) f.dsp (s.me.regs.getG f.dst.n) len ∧
      (n ≤ 2 ^ 32 → inside f.dsp a n → even f.dsp a n → if n % 2 ^ f.es.toNat ≠ 0 then traps (.cpyf f) 0x10 len
      else clear f.dsp a n (
        if n = 0 then s.completesAtOnce (.cpyf f) sh f.hd
        else accepts (.cpyf f) sh f.hd s.me (.cpyf f.dsp.toNat a (s.me.regs.getG f.val.n) n (2 ^ f.es.toNat))
          fun k w => f.dsp.toNat < 2 ∧ k = home f.dsp a ∧ word (a % 0x200000) n w) (.cpyf f))) ∧
    (∀ f : CopyConv,
      let sh : Shape := ⟨f.h, engSrcs [f.row, f.src, f.rows, f.stride], none⟩
      s.ready sh = true →
      let row := (s.me.regs.getG f.row.n).toNat
      let b := (s.me.regs.getG f.src.n).toNat
      let k := (s.me.regs.getG f.rows.n).toNat
      let stride := (s.me.regs.getG f.stride.n).toNat
      let l8 := f.fmt = 13
      match s.myCluster.tslots.find f.dslot.toNat with
      | none => traps (.cpyc f) 0x31 (f.dslot.setWidth 64)
      | some ds => match (if l8 then s.myCluster.tslots.find f.sslot.toNat else some ds) with
        | none => traps (.cpyc f) 0x31 (f.sslot.setWidth 64)
        | some ss =>
          let d := TSlot.ofRecord ds
          let t := TSlot.ofRecord ss
          let names := BitVec.ofNat 64 (f.dslot.toNat + (if l8 then f.sslot.toNat * 256 else 0))
          if d.isPL = false ∨ (l8 ∧ (t.isL8 = false ∨ d.p ≠ 4)) ∨ d.sparse = true then traps (.cpyc f) 0x32 names
          else if d.rows < row + k ∨ (l8 ∧ t.rows < row + k) then traps (.cpyc f) 0x16 (BitVec.ofNat 64 (row + k))
          else
            let width := if f.fmt = 0 then 4 else if f.fmt = 2 then 2 else 1
            let dests := (List.range k).flatMap fun r => d.rowRanges 0 (row + r) d.chunks d.blocks
            (k = 0 ∨ l8 ∨ inside f.ssp b ((k - 1) * stride + d.kext * width)) →
            (∀ r ∈ dests, s.templateHit (clusterOf s.cur) r.1 r.2 = none) →
            if k = 0 then s.completesAtOnce (.cpyc f) sh f.hd
            else
              let code := if f.rnd = 7 then s.me.rm else f.rnd.toNat
              let x := if code = 4 ∧ ¬l8 then s.me.withSeed (seedDraws (k * d.kext) (s.me.ctl.seed.setWidth 32)) else s.me
              accepts (.cpyc f) sh f.hd x (.cpyc row b k stride ds ss f.fmt.toNat code f.ssp.toNat s.me.ctl.seed)
                fun c w => c = clusterOf s.cur ∧ ∃ r ∈ dests, w ∈ wordsOf r.1 r.2)

/-- A copy, tile or gather command completes only when its work is done, leaves its queue, and its handle holds the status; a cpyc whose
source is read writes planes and scale words of the converted or decoded rows (R242, R247, R268, R307, R317, R347, R245, R70, R71, R73, R63).
That an L8 row writes zeros in the blocks past the source's KEXT is the model's choice (log 89). -/
def Obligations.CommandsCompleteInTheirHandles : Prop :=
  ∀ (s : State) (core : Nat),
    let done (i : Instr) (op : Nat) (fail : Option Word) (flags : BitVec 5) (after : Core) : Prop :=
      let w : Word := (fail.getD 0) ||| BitVec.ofNat 64 (flags.toNat * 256)
      ∃ t : State, exec i s = .next t ∧ t.mem = s.mem ∧ t.clusters = s.clusters ∧ t.clock = s.clock ∧
        (∀ o sid h, s.ops.find op = some o → o.holder = .slot sid h → t.core core = after ∧ (∀ c, c ≠ core → t.core c = s.core c) ∧
          ((s.slot sid).handle h = .pending op → t.slot sid = (s.slot sid).setHandle h (.complete op w)))
    (match (s.core core).copyq with
    | [] => exec (.copyCommandComplete core) s = .next s
    | c :: rest =>
      let packet : Prop := c.fail = none ∧ ∃ b d n, c.kind = .xsend b d n
      if c.begun = false ∨ c.todo ≠ [] then exec (.copyCommandComplete core) s = .next s
      else (packet → exec (.copyCommandComplete core) s = .next s) ∧
        (¬packet → done (.copyCommandComplete core) c.op c.fail c.flags { s.core core with copyq := rest })) ∧
    (match (s.core core).tileq with
    | [] => exec (.tileCommandComplete core) s = .next s
    | c :: rest =>
      let drain : Prop := c.code = 0xED ∨ c.code = 0xEE
      let ended : Prop := (drain ∧ c.begun = true ∧ c.todo = []) ∨ (¬drain ∧ (c.fail ≠ none ∨ (c.begun = true ∧ c.total ≤ c.done)))
      let acc := (s.core core).acc c.acc
      let after : Core := if drain ∧ c.fail = none then
          (s.core core).setAcc c.acc ⟨if c.free then none else acc.owner, if c.zero then [] else acc.els⟩ else s.core core
      (¬ended → exec (.tileCommandComplete core) s = .next s) ∧
      (ended → done (.tileCommandComplete core) c.op c.fail c.flags { after with tileq := rest })) ∧
    (∀ k : Nat, match (s.core core).dge[k]? with
    | none => exec (.dgeCommandComplete core k) s = .next s
    | some c =>
      let ended : Prop := c.fail ≠ none ∨ (c.todo = [] ∧ if c.scatter then c.order.length * c.perRow ≤ c.next else c.idx.length ≤ c.next)
      (¬ended → exec (.dgeCommandComplete core k) s = .next s) ∧
      (ended → done (.dgeCommandComplete core k) c.op c.fail c.flags { s.core core with dge := (s.core core).dge.eraseIdx k })) ∧
    -- cpyc: the words that are to be written, once its source is read
    (∀ c others row src rows stride ds ss fmt code ssp seed k, (s.core core).copyq = c :: others → c.begun = false →
      c.pieces[c.got.length]? = none → c.kind = .cpyc row src rows stride ds ss fmt code ssp seed →
      let d := TSlot.ofRecord ds
      let t := TSlot.ofRecord ss
      let cl := clusterOf c.sid
      let dest := (List.range rows).flatMap fun r => d.rowRanges 0 (row + r) d.chunks d.blocks
      let data (r : Nat) : List Byte := (rowsRead c.pieces c.got rows (if fmt = 0xD ∧ t.table ≠ 0 then 64 else 0))[r]?.getD []
      let writes (mant : Nat → List Int) (scale : Nat → Nat → Nat) : Prop := ∃ (ws : List EngWrite) (fl : BitVec 5),
        exec (.engineWordWrite core .copy k) s =
          .next (s.setCore core { s.core core with copyq := { c with begun := true, todo := ws, flags := fl, fail := none } :: others }) ∧
        writesOnly ws cl dest ∧ ∀ r, r < rows →
          (∀ ch j, ch < d.chunks → j < d.p → writesPlane ws cl (d.planeAt 0 ch j (row + r)) j (((mant r).drop (256 * ch)).take 256)) ∧
          ∀ b, b < d.blocks → writesAll ws cl (d.scaleAt 0 (row + r) b) (toBytes 4 (scale r b))
      d.sparse = false → 0 < d.kext → apart dest →
      (fmt ≠ 0xD → (∀ r, r < rows → (data r).length = d.kext * cpycBytes fmt) →
        let block (r b : Nat) : Nat × List Int × BitVec 5 :=
          let xs := ((rowValues c.nspec fmt (data r)).drop (32 * b)).take 32
          convertBlock d.p ((List.range xs.length).map fun i => if code = 4
            then .rstoch (seedDraws (r * d.kext + 32 * b + i + 1) (field seed 0 32)).toNat else Rnd.ofRM code) xs
        writes (fun r => (List.range d.blocks).flatMap fun b => (block r b).2.1) fun r b => (block r b).1) ∧
      (fmt = 0xD →
        let chunks := ceilDiv (Nat.min d.kext t.kext) 256
        let blocks := ceilDiv (Nat.min d.kext t.kext) 32
        let scale (r b : Nat) : Nat := numAt (data r) (64 * chunks + 4 * b) 4
        let entry (j : Nat) : Nat := if t.table = 0 then (255 - j) * 256 + j else numAt (c.got.take 64).flatten (2 * j) 2
        let weight (r i : Nat) : Int :=
          let index := numAt (data r) (2 * (i / 8)) 2
          (if index / 2 ^ (i % 8) % 2 = 1 then -1 else 1) * (2 * ((entry (index / 256) / 4 ^ (i % 8) % 4 : Nat) : Int) + 1)
        (∀ r b, r < rows → b < blocks → Scale.ofWord (scale r b) ≠ .bad) →
        writes (fun r => (List.range (32 * d.blocks)).map fun i => if i < 32 * blocks then weight r i else 0)
          fun r b => if b < blocks then scale r b else 0))

/-- fwait, ftest, fcancel, fexp and fimp act on EMPTY, PENDING and COMPLETE handles as R248 to R250 state (R242, R247, R248,
R249, R250, R259). -/
def Obligations.HandlesWaitTestCancelAndMove : Prop :=
  ∀ (s : State),
    let invalid (i : Instr) (tval : Word) : Prop := exec i s = .next (takeTrap { cause := 0x40, tval := tval } s)
    let waits (i : Instr) (h : BitVec 3) (t : State) : Prop := exec i s = .next (waitState (.handle h.toNat) false t)
    let u := s.acquire (coreOf s.cur)
    (∀ f : HandleRead,
      let sh : Shape := ⟨f.h, [], some (.g, f.rd)⟩
      s.ready sh = true → match s.me.handle f.hs.toNat with
        | .empty => invalid (.fwait f) (f.hs.setWidth 64)
        | .pending _ => waits (.fwait f) f.hs s
        | .complete _ w => u.writable .g f.rd = true → exec (.fwait f) s = .next (u.retires sh (u.me.withG f.rd w))) ∧
    (∀ f : HandleRead,
      let sh : Shape := ⟨f.h, [], some (.p, f.rd)⟩
      s.ready sh = true → match s.me.handle f.hs.toNat with
        | .empty => invalid (.ftest f) (f.hs.setWidth 64)
        | .pending _ => exec (.ftest f) s = .next (s.retires sh (s.me.withP f.rd 0))
        | .complete _ _ => u.writable .p f.rd = true → exec (.ftest f) s = .next (u.retires sh (u.me.withP f.rd (BitVec.allOnes 64)))) ∧
    (∀ f : HandleOnly,
      let sh : Shape := ⟨f.h, [], none⟩
      s.ready sh = true → match s.me.handle f.hs.toNat with
        | .empty => invalid (.fcancel f) (f.hs.setWidth 64)
        | .complete _ _ => exec (.fcancel f) s = .next (s.retires sh s.me)
        | .pending op =>
          let t := s.cancelOp op
          (if (t.me.handle f.hs.toNat).isPending then waits (.fcancel f) f.hs t else exec (.fcancel f) s = .next (t.retires sh t.me)) ∧
          (∀ core o, s.cores.find? (fun x => x.2.runs op) = some (core, s.core core) → s.ops.find op = some o → o.holder = .slot s.cur f.hs.toNat →
            let queued (q : Core) (w : Word) : Prop := ∃ t : State, exec (.fcancel f) s = .next t ∧ t.core core = q ∧ t.mem = s.mem ∧
              t.clusters = s.clusters ∧ t.me.handle f.hs.toNat = .complete op w
            let k := s.core core
            (∀ c rest, k.copyq = c :: rest → c.op ≠ op → (∃ x ∈ rest, x.op = op) → (∀ x ∈ k.tileq, x.op ≠ op) → (∀ x ∈ k.dge, x.op ≠ op) →
              queued { k with copyq := c :: rest.filter fun x => x.op != op } 0x2041) ∧
            (∀ c rest x, k.tileq = c :: rest → c.op ≠ op → (rest.find? fun y => y.op == op) = some x → (∀ x ∈ k.copyq, x.op ≠ op) → (∀ x ∈ k.dge, x.op ≠ op) →
              queued { k with tileq := c :: rest.filter fun x => x.op != op }
                (BitVec.ofNat 64 (0x2041 + x.flags.toNat * 256 + x.done * (if x.code = 0xEC then 512 else 256) % 2 ^ 48 * 65536))))) ∧
    (∀ f : HandleRead,
      let sh : Shape := ⟨f.h, [], some (.g, f.rd)⟩
      let moves (op : Nat) (status : Option Word) : Prop :=
        let token := BitVec.ofNat 64 (s.cur % 65536 + f.hs.toNat * 65536 + op % 65536 * 2 ^ 32)
        let t := { s with ops := s.ops.insert op ⟨.token, some token, false, true, status⟩ }.setMe (s.me.setHandle f.hs.toNat .empty)
        t.writable .g f.rd = true → exec (.fexp f) s = .next (t.retires sh (t.me.withG f.rd token))
      s.ready sh = true → match s.me.handle f.hs.toNat with
        | .empty => invalid (.fexp f) (f.hs.setWidth 64)
        | .pending op => moves op none
        | .complete op w => moves op (some w)) ∧
    (∀ f : HandleImport,
      let sh : Shape := ⟨f.h, [(1, .g, f.a)], none⟩
      let token := s.me.regs.getG f.a.n
      s.ready sh = true → match s.ops.find? (fun x => x.2.token == some token && !x.2.imported) with
        | none => invalid (.fimp f) token
        | some (n, o) =>
          if (s.me.handle f.hd.toNat).isPending then waits (.fimp f) f.hd s
          else match o.status with
            | none => exec (.fimp f) s =
                .next ({ s with ops := s.ops.insert n { o with holder := .slot s.cur f.hd.toNat, imported := true } }.retires sh
                  (s.me.setHandle f.hd.toNat (.pending n)))
            | some w => exec (.fimp f) s = .next ({ s with ops := s.ops.erase n }.retires sh (s.me.setHandle f.hd.toNat (.complete n w))))

/-- Tile forms make the checks of R308 in order, and an accepted command claims its granules and empties its destination
(R299, R301, R306, R307, R308, R310, R312, R313, R317, R320, R246). -/
def Obligations.TileFormsCheckAndQueue : Prop :=
  ∀ (s : State),
    let cl := clusterOf s.cur
    let core := coreOf s.cur
    let traps (i : Instr) (cause : Nat) (tval : Word) : Prop := exec i s = .next (takeTrap { cause := cause, tval := tval } s)
    let num (n : Nat) : Word := BitVec.ofNat 64 n
    let blank (code acc : Nat) : TileCmd :=
      ⟨s.cur, s.nextOp, code, acc, [], 0, 0, 0, 0, 0, s.me.nspec, false, false, 0, false, [], 0, 0, none, []⟩
    let accepts (i : Instr) (sh : Shape) (hd : BitVec 3) (k : Core) (c : TileCmd) (dest : List (Nat × Nat)) : Prop :=
      s.issues i hd s.myCore.tileq.length .tileQueue (
        ∃ (t : State) (y : Slot), exec i s = .next (t.retires sh y) ∧
          (s.awaiting s.me hd).notes y (fun w => ∃ r ∈ dest, w ∈ wordsOf r.1 r.2) ∧
          t = { s.withOp hd with cores := t.cores, clusters := t.clusters } ∧
          t.core core = { k with tileq := s.myCore.tileq ++ [{ c with claims := granulesOf (c.readsFrom 0) }] } ∧
          (∀ n, n ≠ core → t.core n = s.core n) ∧ s.clears t y fun n w => n = cl ∧ ∃ r ∈ dest, w ∈ wordsOf r.1 r.2)
    let initialises (i : Instr) (sh : Shape) (hd acc : BitVec 3) (c : TileCmd) : Prop :=
      let a := s.myCore.acc acc.toNat
      match a.owner with
      | some o =>
        if o ≠ s.cur then traps i 0x41 (num (acc.toNat + s.ownerSid o * 65536))
        else accepts i sh hd (s.myCore.setAcc acc.toNat { a with owner := some s.cur }) c []
      | none => accepts i sh hd (s.myCore.setAcc acc.toNat { a with owner := some s.cur }) c []
    let owns (i : Instr) (acc : BitVec 3) (go : Prop) : Prop :=
      match (s.myCore.acc acc.toNat).owner with
      | some o => if o ≠ s.cur then traps i 0x41 (num (acc.toNat + s.ownerSid o * 65536)) else go
      | none => traps i 0x41 (num (acc.toNat + 256))
    let versions (v : Reg) (k : Nat) : Nat := (s.me.regs.getG v.n).toNat / 8 ^ k % 8
    let invalid (i : Instr) (n : BitVec 6) (sub : Nat) : Prop := traps i 0x31 (num (n.toNat + sub * 256))
    let one (i : Instr) (n : BitVec 6) (v : Reg) (go : BitVec 512 → Prop) : Prop :=
      match s.myCluster.tslots.find n.toNat with
      | none => invalid i n 0
      | some a => if (TSlot.ofRecord a).nver < versions v 0 then invalid i n 9 else go a
    let two (i : Instr) (n m : BitVec 6) (v : Reg) (go : BitVec 512 → BitVec 512 → Prop) : Prop :=
      match s.myCluster.tslots.find n.toNat, s.myCluster.tslots.find m.toNat with
      | none, _ => invalid i n 0
      | some _, none => invalid i m 0
      | some a, some b =>
        if (TSlot.ofRecord a).nver < versions v 0 then invalid i n 9
        else if (TSlot.ofRecord b).nver < versions v 1 then invalid i m 9
        else go a b
    let hits (rs : List (Nat × Nat)) (x : Nat) : Prop := ∃ r ∈ rs, s.templateHit cl (r.1 / 8 * 8) (8 * (wordsOf r.1 r.2).length) = some x
    let noTemplate (rs : List (Nat × Nat)) : Prop := ∀ x, ¬hits rs x
    let broken (r : BitVec 512) (n : Nat) : Prop :=
      let u8 (k : Nat) : Nat := (r.extractLsb' (8 * k) 8).toNat
      let u32 (k : Nat) : Nat := (r.extractLsb' (8 * k) 32).toNat
      let fmt := u8 0 % 16
      let sparse := r.getLsbD 4 = true
      let p := u8 1
      let rows := u8 2
      let nver := u8 3 % 8
      let kext := (r.extractLsb' 32 16).toNat
      let pl := fmt = 0xC
      let l8 := fmt = 0xD
      let width := if fmt = 0 then 4 else if fmt = 2 then 2 else 1
      let element := fmt = 0 ∨ fmt = 2 ∨ fmt = 4
      let rowBytes := 8 * ((kext * width + 7) / 8)
      let chunks := if r.getLsbD 4 then (kext + 511) / 512 else (kext + 255) / 256
      let blocks := (kext + 31) / 32
      let last := (kext + 3) / 4 - 1
      match n with
      | 1 => ¬(element ∨ pl ∨ l8)
      | 2 => (pl ∧ (p = 0 ∨ 16 < p)) ∨ (¬pl ∧ p ≠ 0)
      | 3 => rows = 0 ∨ 32 < rows ∨ kext = 0 ∨ 16384 < kext ∨ (element ∧ 32 < kext)
      | 4 => sparse ∧ ¬pl
      | 5 => (pl ∧ (u32 8 % 32 ≠ 0 ∨ u32 12 % 32 ≠ 0 ∨ u32 16 % 32 ≠ 0)) ∨ (l8 ∧ (u32 8 % 64 ≠ 0 ∨ u32 16 % 64 ≠ 0)) ∨
          (element ∧ (u32 8 % 8 ≠ 0 ∨ u32 12 % 8 ≠ 0)) ∨ u32 20 % 4 ≠ 0 ∨ u32 24 % 4 ≠ 0 ∨ u32 28 % 64 ≠ 0 ∨ u32 32 % 64 ≠ 0 ∨
          u32 36 % 64 ≠ 0 ∨ u32 40 % 64 ≠ 0
      | 6 => (pl ∧ (u32 12 < 32 * rows ∨ u32 16 < p * u32 12)) ∨ (l8 ∧ u32 16 < 64 * rows) ∨ (element ∧ u32 12 < rowBytes) ∨
          ((pl ∨ l8) ∧ u32 24 < 4 * blocks) ∨ (sparse ∧ u32 32 < 64 * ((kext + 511) / 512))
      | 7 => ∃ v, v ≤ nver ∧
          let at_ (base : Nat) : Nat := base + v * u32 40
          ((element ∧ 0x200000 < at_ (u32 8) + (rows - 1) * u32 12 + rowBytes) ∨
           (pl ∧ 0x200000 < at_ (u32 8) + (chunks - 1) * u32 16 + (p - 1) * u32 12 + 32 * rows) ∨
           (l8 ∧ (0x200000 < at_ (u32 8) + (chunks - 1) * u32 16 + 64 * rows ∨ (u32 36 ≠ 0 ∧ 0x200000 < u32 36 + 512))) ∨
           ((pl ∨ l8) ∧ 0x200000 < at_ (u32 20) + (rows - 1) * u32 24 + 4 * blocks) ∨
           (sparse ∧ 0x200000 < at_ (u32 28) + (rows - 1) * u32 32 + 64 * (last / 128) + last % 128 / 2 + 1))
      | 8 => (r.extractLsb' 5 2).toNat ≠ 0 ∨ u8 3 / 8 ≠ 0 ∨ (r.extractLsb' 48 16).toNat ≠ 0 ∨ (r.extractLsb' 352 160).toNat ≠ 0 ∨
          (l8 ∧ u32 12 ≠ 0) ∨ (element ∧ (u32 16 ≠ 0 ∨ u32 20 ≠ 0 ∨ u32 24 ≠ 0)) ∨ (¬sparse ∧ (u32 28 ≠ 0 ∨ u32 32 ≠ 0)) ∨
          (¬l8 ∧ u32 36 ≠ 0) ∨ (nver = 0 ∧ u32 40 ≠ 0)
      | _ => False
    (∀ f : TslotOp,
      let sh : Shape := ⟨f.h, [(1, .g, f.a)], none⟩
      let a := (s.me.regs.getG f.a.n).toNat
      let t := s.touched cl a 64
      let r := lineOfBytes ((t.cluster cl).mem.readN a 64)
      let puts (slots : NMap (BitVec 512)) : Prop :=
        let u := { t with nextOp := t.nextOp + 1, clusters := (t.setCluster cl { t.cluster cl with tslots := slots }).clusters }
        exec (.tslot f) s = .next (u.retires sh (t.me.setHandle f.hd.toNat (.complete s.nextOp 0)))
      s.ready sh = true →
      if (s.me.handle f.hd.toNat).isPending then exec (.tslot f) s = .next (waitState (.handle f.hd.toNat) false s)
      else if 0x200000 < a + 64 then traps (.tslot f) 0x16 (num a)
      else if a % 64 ≠ 0 then traps (.tslot f) 0x10 (num a)
      else isManagement core = false → s.me.item = none → (s.cluster cl).check a 64 = .ok → (t.cluster cl).flawed a 64 = none →
        (t.cluster cl).poisoned a 64 = none → (∀ e ∈ s.ownEntries s.cur, e.overlaps .l cl 0 a 64 = false ∧ e.isReduction = false) →
        if r.getLsbD 7 = false then puts ((t.cluster cl).tslots.erase f.n.toNat)
        else (∀ n, broken r n → (∀ k, k < n → ¬broken r k) → invalid (.tslot f) f.n n) ∧
          ((∀ n, ¬broken r n) → puts ((t.cluster cl).tslots.insert f.n.toNat r))) ∧
    (∀ f : AccOnly, s.ready ⟨f.h, [], none⟩ = true → initialises (.tzero f) ⟨f.h, [], none⟩ f.hd f.acc (blank 0xE9 f.acc.toNat)) ∧
    (∀ f : AccLoad,
      let sh : Shape := ⟨f.h, [(2, .g, f.a)], none⟩
      let a := s.me.regs.getG f.a.n
      s.ready sh = true →
      if 0x200000 < a.toNat + 4096 then traps (.tldacc f) 0x16 a
      else if a.toNat % 64 ≠ 0 then traps (.tldacc f) 0x10 a
      else if s.myCluster.presentAll a.toNat 4096 = false then traps (.tldacc f) 0x17 a
      else initialises (.tldacc f) sh f.hd f.acc { blank 0xEA f.acc.toNat with addr := a.toNat }) ∧
    (∀ f : AccMul,
      let sh : Shape := ⟨f.h, [(2, .g, f.k0), (3, .g, f.klen), (4, .g, f.v)], none⟩
      let k0 := s.me.regs.getG f.k0.n
      let klen := s.me.regs.getG f.klen.n
      let names := num (f.tsA.toNat + f.tsB.toNat * 256)
      let mul (i : Instr) (code span : Nat) (fits : TSlot → TSlot → Prop) : Prop :=
        two i f.tsA f.tsB f.v fun a b =>
          (¬fits (TSlot.ofRecord a) (TSlot.ofRecord b) → traps i 0x32 names) ∧
          (fits (TSlot.ofRecord a) (TSlot.ofRecord b) →
            if k0.toNat % span ≠ 0 then traps i 0x10 k0
            else if klen.toNat % span ≠ 0 then traps i 0x10 klen
            else if 16384 < k0.toNat + klen.toNat then traps i 0x16 (k0 + klen)
            else owns i f.acc (
              if klen = 0 then s.completesAtOnce i sh f.hd
              else accepts i sh f.hd s.myCore { blank code f.acc.toNat with
                slots := [a, b], k0 := k0.toNat, klen := klen.toNat, va := versions f.v 0, vb := versions f.v 1 } []))
      s.ready sh = true →
      mul (.tmma f) 0xEB 256 (fun a b => a.fmt = b.fmt ∧ (a.fmt = 0xC ∨ a.fmt = 0xD) ∧ a.p = b.p ∧ a.sparse = false ∧ b.sparse = false) ∧
      mul (.tmmas f) 0xEC 512 (fun a b => a.fmt = 0xC ∧ b.fmt = 0xC ∧ a.p = b.p ∧ a.sparse = true ∧ b.sparse = false)) ∧
    (∀ f : AccDrain,
      let sh : Shape := ⟨f.h, [(2, .g, f.v)], none⟩
      let fits (r : BitVec 512) : Prop :=
        let t := TSlot.ofRecord r
        (t.fmt = 0xC ∧ t.sparse = false) ∨ t.fmt = 0 ∨ t.fmt = 2 ∨ t.fmt = 4
      let drain (i : Instr) (code : Nat) (slots : List (BitVec 512)) (names : Word) : Prop :=
        let c : TileCmd := { blank code f.acc.toNat with
          slots := slots, va := versions f.v 0, vb := versions f.v 1, free := f.free, zero := f.zero }
        (¬(∀ r ∈ slots, fits r) → traps i 0x32 names) ∧
        ((∀ r ∈ slots, fits r) → owns i f.acc (
          (noTemplate c.drainDest → accepts i sh f.hd s.myCore c c.drainDest) ∧
          (¬noTemplate c.drainDest → ∃ x, traps i 0x23 (num x) ∧ hits c.drainDest x ∧ ∀ y, hits c.drainDest y → x ≤ y)))
      s.ready sh = true →
      one (.tdrain f) f.ts f.v (fun a => drain (.tdrain f) 0xED [a] (num f.ts.toNat)) ∧
      two (.tdraint f) f.ts f.tsT f.v (fun a b => drain (.tdraint f) 0xEE [a, b] (num (f.ts.toNat + f.tsT.toNat * 256))))

/-- Copies and drains move one word in one action, a multiplication adds one chunk to its accumulator block by block, a drain writes each row
rounded or converted, claims end where no read remains, and tqry reads the queue at one instant (R229, R243, R246, R249, R268, R310, R311,
R320, R306, R321, R314, R315, R318, R319, R81, R222, R308, R309). -/
def Obligations.EnginesMoveWordsAndKeepClaims : Prop :=
  (
    ∀ (s : State) (core k : Nat), s.memoriesOk = true →
      let n (w : EngWrite) : Nat := w.bytes.length
      let moved (sid cl : Nat) (t : State) (words : List Nat) : Prop :=
        t = { s with cores := t.cores, clusters := t.clusters, slots := t.slots } ∧ (∀ x, x ≠ core → t.core x = s.core x) ∧
        (∀ x, x ≠ sid → t.slot x = s.slot x) ∧ (clusterOf sid ≠ cl → t.slot sid = s.slot sid) ∧
        (clusterOf sid = cl → (s.slot sid).notes (t.slot sid) fun x => x ∈ words)
      let reaches (sid : Nat) (i : Instr) (w : EngWrite) (done : Core) (failed : Nat → Nat → Core) : Prop :=
        let c := s.cluster w.cl
        match (if w.sp = .c then s.templateHit w.cl w.addr (n w) else none) with
        | some x => exec i s = .next (s.setCore core (failed 0x23 (x - w.addr)))
        | none =>
          if s.claimedRange w.cl w.addr (n w) = true then exec i s = .next (s.setCore core (s.core core))
          else match c.check w.addr (n w) with
            | .off x => exec i s = .next (s.setCore core (failed 0x17 (w.byteFrom (x - w.addr))))
            | .proof banks => exec i s = .next ((s.setCluster w.cl (c.proofBanks banks)).setCore core (s.core core))
            | .ok => match c.narrowed w.addr w.bytes with
              | some x => exec i s = .next (s.setCore core (failed 0x7F (w.byteFrom (8 * x - w.addr))))
              | none => ∃ t : State, exec i s = .next t ∧ moved sid w.cl t (wordsOf w.addr (n w)) ∧
                t.core core = done ∧ (∀ x, x ≠ w.cl → t.cluster x = s.cluster x) ∧
                (∀ x, (t.cluster w.cl).mem.read x =
                  if w.addr ≤ x then match (w.bytes[x - w.addr]?).join with
                    | some b => b
                    | none => c.mem.read x
                  else c.mem.read x) ∧
                ∀ x, x ∈ (t.cluster w.cl).full ↔ x ∈ c.full ∨ x ∈ wordsOf w.addr (n w)
      let i := Instr.engineWordWrite core .copy k
      let d := Instr.engineWordWrite core .tile k
      (match (s.core core).copyq with
      | [] => exec i s = .next s
      | c :: rest =>
        let put (x : CopyCmd) : Core := { s.core core with copyq := x :: rest }
        (∀ p, c.begun = false → c.pieces[c.got.length]? = some p → p.far = false → p.sp ≠ .g →
          (s.cluster p.cl).check p.addr p.n = .ok → (s.cluster p.cl).flawed p.addr p.n = none → (s.cluster p.cl).poisoned p.addr p.n = none →
          ∃ t : State, exec i s = .next t ∧ moved c.sid p.cl t (wordsOf p.addr p.n) ∧
            t.core core = put { c with got := c.got ++ [(s.cluster p.cl).mem.readN p.addr p.n] } ∧
            ∀ x, (t.cluster x).mem = (s.cluster x).mem ∧ (t.cluster x).full = (s.cluster x).full) ∧
        (∀ w ws, c.begun = true → c.kind.ordered = true → c.kind.farDest = false → c.todo = w :: ws → w.sp ≠ .g →
          reaches c.sid i w (put { c with todo := ws, written := c.written + w.bytes.countP Option.isSome })
            fun code off => put { c with todo := [], fail := some (c.fail.getD (statusWord code 1 (w.pos + off) 0 false)) })) ∧
      (match (s.core core).tileq with
      | [] => exec d s = .next s
      | c :: rest =>
        let put (x : TileCmd) : Core := { s.core core with tileq := x :: rest }
        (¬((c.code = 0xED ∨ c.code = 0xEE) ∧ c.begun = true) → exec d s = .next s) ∧
        let begun := c.begunWords
        let nexts := if begun = [] then c.todo else begun
        (∀ w, w ∈ begun ↔ w ∈ c.todo ∧ ∃ v, v / 8 = w.addr / 64 ∧ (∃ r ∈ c.drainDest, v ∈ wordsOf r.1 r.2) ∧ ∀ x ∈ c.todo, x.addr / 8 ≠ v) ∧
        (∀ w, (c.code = 0xED ∨ c.code = 0xEE) → c.begun = true → nexts[k % nexts.length]? = some w →
          let wait := s.claimedRange w.cl w.addr (n w)
          (wait = false → (s.cluster w.cl).asleep w.addr (n w) = [] →
            reaches c.sid d w (put { c with todo := c.todo.filter fun x => x != w, written := c.written + w.bytes.countP Option.isSome })
              fun code off => put { c with todo := begun.filter (fun x => x != w), fail := some (c.fail.getD (statusWord code 1 (w.addr + off) 0 false)) }) ∧
          (wait = true → w.sp = .l → exec d s = .next s)))
  ) ∧ (
    ∀ (s : State) (core : Nat) (c : TileCmd) (rest : List TileCmd), (s.core core).tileq = c :: rest →
      let cl := s.cluster (core / 16)
      let turn := s.takeTurn exec (.tileStep core)
      -- tmma and tmmas: the next chunk
      (c.code = 0xEB ∨ c.code = 0xEC → c.begun = true → c.fail = none → c.done < c.total →
        let A := c.tslot 0
        let B := c.tslot 1
        let span := if c.code = 0xEC then 512 else 256
        let q := c.chunkNo c.done
        let rows := c.liveRows cl.mem q
        let nibble (r g : Nat) : Nat := (cl.mem.read (A.metaAt c.va r (128 * q + g))).toNat / (if (128 * q + g) % 2 = 0 then 1 else 16) % 16
        let stored (r : Nat) : List (Nat × Nat) := if c.code = 0xEC then (List.range 128).flatMap fun g =>
            [(4 * g + nibble r g % 4, 2 * g), (4 * g + nibble r g / 4, 2 * g + 1)]
          else (List.range 256).map fun o => (o, o)
        let live (r b : Nat) : List (Nat × Nat) := (stored r).filter fun p =>
          decide (q * span + p.1 < Nat.min (Nat.min A.kext B.kext) (c.k0 + c.klen)) && p.1 / 32 == b
        let scale (t : TSlot) (v r b : Nat) : Scale := Scale.ofWord (ofBytes (cl.mem.readN (t.scaleAt v r (q * (span / 32) + b)) 4))
        let product (i j : Nat) (p : Nat × Nat) : Int :=
          ((A.rowMants cl.mem c.va q i)[p.2]?.getD 0) * ((B.rowMants cl.mem c.vb ((q * span + p.1) / 256) j)[p.1 % 256]?.getD 0)
        let added (i j x b : Nat) : Nat :=
          if live i b = [] then x
          else
            let d := ((live i b).map (product i j)).sum
            match scale A c.va i b, scale B c.vb j b with
            | .zero, _ => x
            | _, .zero => x
            | .fin ma ea, .fin mb eb =>
              (FFmt.fp32.add .rne (FFmt.fp32.read x)
                (FFmt.fp32.read (FFmt.fp32.round .rne (decide (d < 0)) (d.natAbs * ma * mb) 1 (ea + eb)).1)).1 % 2 ^ 32
            | _, _ => 0x7FC00000
        (∀ r ∈ c.chunkReads q rows, cl.sound r.2.1 r.2.2) → (∀ a ∈ c.scaleReads q rows, Scale.ofWord (ofBytes (cl.mem.readN a 4)) ≠ .bad) →
        B.rows ≤ 32 →
        ∃ (t : State) (fl : BitVec 5), turn = .next t ∧ t.mem = s.mem ∧ t.slots = s.slots ∧
          (t.core core).tileq = { c with done := c.done + 1, flags := fl } :: rest ∧
          (∀ k, k ≠ c.acc → (t.core core).acc k = (s.core core).acc k) ∧
          ((t.core core).acc c.acc).owner = ((s.core core).acc c.acc).owner ∧
          ∀ i j, i < 32 → j < 32 →
            let x := ((s.core core).acc c.acc).el (32 * i + j)
            ((t.core core).acc c.acc).el (32 * i + j) =
              if i < A.rows ∧ j < B.rows then (List.range (span / 32)).foldl (added i j) x else x) ∧
      -- tdrain and tdraint: the words that are to be written
      (c.code = 0xED ∨ c.code = 0xEE → c.begun = false → apart c.drainDest →
        let ts := if c.code = 0xEE then [0, 1] else [0]
        (∀ k ∈ ts, (c.tslot k).drainable = true ∧ 0 < (c.tslot k).kext) →
        let el := ((s.core core).acc c.acc).el
        ∃ (ws : List EngWrite) (fl : BitVec 5),
          turn = .next (s.setCore core { s.core core with tileq := { c with begun := true, todo := ws, flags := fl } :: rest }) ∧
          writesOnly ws (core / 16) c.drainDest ∧
          ∀ k ∈ ts, ∀ r, r < (c.tslot k).rows →
            let t := c.tslot k
            let v := c.version k
            let n := Nat.min t.kext 32
            let xs := (List.range n).map fun j => FFmt.fp32.read (if k = 0 then el (32 * r + j) else el (32 * j + r))
            if t.isPL then
              let block := convertBlock t.p (xs.map fun _ => .rne) xs
              (∀ j, j < t.p → writesPlane ws (core / 16) (t.planeAt v 0 j r) j block.2.1) ∧
              writesAll ws (core / 16) (t.scaleAt v r 0) (toBytes 4 block.1)
            else
              let F := (floatFmt c.nspec (BitVec.ofNat 4 t.fmt)).getD .fp32
              writesAll ws (core / 16) (t.elemAt v r 0) (xs.flatMap fun x => toBytes t.elemBytes (F.convert .rne x).1) ∧
              ∀ b, n * t.elemBytes ≤ b → b < 8 * ceilDiv (t.kext * t.elemBytes) 8 → writesTo ws (core / 16) (t.elemAt v r 0 + b) 0)
  ) ∧ (
    ∀ (s : State),
      (∀ f : Query,
        let sh : Shape := ⟨f.h, [], some (.g, f.rd)⟩
        let q := s.myCore.tileq
        s.ready sh = true →
        (f.sel = 0 →
          let mine := if q.any (fun t => t.sid == s.cur) then 4 else 0
          let head := match q with
            | [] => 0
            | t :: _ => t.code * 2 ^ 8 + t.total * 2 ^ 16 + t.done * 2 ^ 32 + s.ownerSid t.sid * 2 ^ 48
          exec (.tqry f) s = .next (s.retires sh (s.me.withG f.rd (BitVec.ofNat 64 (q.length + mine + head))))) ∧
        (f.sel = 1 → ∃ w : Word, exec (.tqry f) s = .next (s.retires sh (s.me.withG f.rd w)) ∧ w.extractLsb' 32 32 = 0 ∧
          ∀ k, k < 8 →
            w.getLsbD k = (s.myCore.acc k).owner.isSome ∧ w.getLsbD (8 + k) = decide ((s.myCore.acc k).owner = some s.cur) ∧
            w.getLsbD (16 + k) = q.any (fun t => t.acc == k) ∧
            w.getLsbD (24 + k) = match s.me.sched.ckptAt.bind fun a => s.ckpts.find a with
              | some p => (p.accs.find k).isSome
              | none => false)) ∧
      (∀ cl gran : Nat, ∃ t : State, exec (.granuleClaimEnd cl gran) s = .next t ∧ t = { s with cores := t.cores } ∧
        ∀ core, { t.core core with tileq := [] } = { s.core core with tileq := [] } ∧
          (t.core core).tileq = if core / 16 = cl then
            (s.core core).tileq.map fun c => if gran ∈ c.needs then c else { c with claims := c.claims.filter fun g => g != gran }
          else (s.core core).tileq)
  )

/-- gather and scatadd check their operands in order and are queued with descriptor and indices as read at acceptance and noted in an
idempotent region; a gather fetches each row once and writes it at every position that names it, a scatter-add adds the sum of the source
elements of an index, in ascending position, to the element of its row (R328, R329, R347, R348, R349, R350, R351, R270, R246, R220). -/
def Obligations.GatherAndScatterAddForms : Prop :=
  ∀ (s : State),
    let cl := clusterOf s.cur
    let core := coreOf s.cur
    let traps (i : Instr) (cause : Nat) (tval : Word) : Prop := exec i s = .next (takeTrap { cause := cause, tval := tval } s)
    let operand (i : Instr) (a : Word) (n al : Nat) (go : Prop) : Prop :=
      if 0x200000 < a.toNat + n then traps i 0x16 a
      else if a.toNat % al ≠ 0 then traps i 0x10 a
      else if s.myCluster.presentAll a.toNat n = false then traps i 0x17 a
      else go
    let clean (a n : Nat) : Prop := s.myCluster.check a n = .ok ∧ s.myCluster.flawed a n = none ∧ s.myCluster.poisoned a n = none
    let bytes (a n : Nat) : List Byte := s.myCluster.mem.readN a n
    let noted (x : Slot) : Slot := if x.idem.active then { x with idem := { x.idem with dge := s.nextOp :: x.idem.dge } } else x
    let form (i : Instr) (scatter : Bool) (f : Eng4) (go : State → List Byte → List Nat → Prop) : Prop :=
      let tab := s.me.regs.getG f.a.n
      let ix := s.me.regs.getG f.b.n
      let n := (s.me.regs.getG f.c.n).toNat
      let sh : Shape := ⟨f.h, engSrcs [f.a, f.b, f.c, f.d], none⟩
      if n < 1 ∨ 4096 < n then traps i 0x16 (s.me.regs.getG f.c.n)
      else operand i tab 64 64 (operand i ix (4 * n) 4 (
        if (s.me.handle f.hd.toNat).isPending then exec i s = .next (waitState (.handle f.hd.toNat) false s)
        else if 4 ≤ s.myCore.dge.length then exec i s = .next (waitState .dgeQueue false s)
        else if s.drained = false then exec i s = .next (waitState .drained false s)
        else clean tab.toNat 64 → clean ix.toNat (4 * n) →
          let t := (s.touched cl tab.toNat 64).touched cl ix.toNat (4 * n)
          let desc := bytes tab.toNat 64
          if gatherMalformed scatter desc = true then
            exec i s = .next ({ t with nextOp := t.nextOp + 1 }.retires sh ((noted t.me).setHandle f.hd.toNat (.complete s.nextOp 0xA0041)))
          else go t desc ((List.range n).map fun k => numAt (bytes ix.toNat (4 * n)) (4 * k) 4)))
    let accepts (i : Instr) (f : Eng4) (t0 : State) (scatter : Bool) (desc : List Byte) (idx : List Nat) (src : List Byte) (a : Nat)
        (dest : Nat → Prop) : Prop :=
      ∃ (t : State) (y : Slot), exec i s = .next (t.retires ⟨f.h, engSrcs [f.a, f.b, f.c, f.d], none⟩ y) ∧
        (t0.awaiting (noted t0.me) f.hd).notes y dest ∧ t = { t0.withOp f.hd with cores := t.cores, clusters := t.clusters } ∧
        t.core core = { s.myCore with dge := s.myCore.dge ++ [⟨s.cur, s.nextOp, s.me.ctl.asid.toNat % 65536, s.me.mode, scatter, desc, idx, src,
          a, false, [], 0, [], 0, 0, none⟩] } ∧
        (∀ c, c ≠ core → t.core c = s.core c) ∧ t0.clears t y fun c w => c = cl ∧ dest w
    (∀ f : Eng4,
      let dst := s.me.regs.getG f.d.n
      s.ready ⟨f.h, engSrcs [f.a, f.b, f.c, f.d], none⟩ = true →
      form (.gather f) false f fun t desc idx =>
        let n := idx.length * numAt desc 8 4
        operand (.gather f) dst n 8 (match s.templateHit cl dst.toNat n with
          | some x => traps (.gather f) 0x23 (BitVec.ofNat 64 x)
          | none => accepts (.gather f) f t false desc idx [] dst.toNat fun w => w ∈ wordsOf dst.toNat n)) ∧
    (∀ f : Eng4,
      let src := s.me.regs.getG f.d.n
      s.ready ⟨f.h, engSrcs [f.a, f.b, f.c, f.d], none⟩ = true →
      if s.me.idem.active = true then traps (.scatadd f) 0x51 0
      else form (.scatadd f) true f fun t desc idx =>
        let n := idx.length * numAt desc 8 4
        operand (.scatadd f) src n 1 (clean src.toNat n →
          accepts (.scatadd f) f (t.touched cl src.toNat n) true desc idx (bytes src.toNat n) src.toNat fun _ => False)) ∧
    (∀ f : Plain, s.ready ⟨f.h, [], none⟩ = true →
      exec (.idemb f) s = .next (s.retires ⟨f.h, [], none⟩ { s.me with idem := ⟨true, s.me.pc, s.me.loops.depth, []⟩ }) ∧
      exec (.ideme f) s = .next (s.retires ⟨f.h, [], none⟩ { s.me with idem := { s.me.idem with active := false } })) ∧
    -- the steps of a command that has begun, or may begin
    (∀ (n core : Nat) (c : DgeCmd),
      let j := n % 4
      (s.core core).dge[j]? = some c → c.fail = none → (∀ i x, i < j → (s.core core).dge[i]? = some x → x.begun = true) →
      let d := c.table
      let i := Instr.engineWordWrite core .dge n
      let home := clusterOf c.sid
      let put (t : State) (x : DgeCmd) : State := t.setCore core { t.core core with dge := setAt (t.core core).dge j { x with begun := true } }
      let ends (code side pos : Nat) : Prop := exec i s = .next (put s { c with fail := some (statusWord code side pos 0 false) })
      let read (acc : Access) (a m : Nat) (pas : List Nat) : Prop := s.xlatBytes c.asid a m acc c.mode true = (.ok pas, s)
      (c.scatter = false → c.todo = [] → c.next < c.idx.length →
        let x := c.idx[c.next]?.getD 0
        let got := (c.rows.find x).getD []
        let at_ := c.laddr + c.next * d.rowb
        let places (row : List Byte) : Prop := ∃ ws, exec i s = .next (put s { c with todo := ws, next := c.next + 1 }) ∧
          writesAll ws home at_ row ∧ writesOnly ws home [(at_, row.length)]
        if d.sent = true ∧ x = 2 ^ 32 - 1 then places (List.replicate d.rowb 0)
        else if d.nrows ≠ 0 ∧ d.nrows ≤ x then ends 0x18 3 (4 * c.next)
        else if d.rowb ≤ got.length then places got
        else
          let a := d.tbase + x * d.rstride + got.length
          let m := Nat.min (8 - a % 8) (d.rowb - got.length)
          ∀ pas, got = [] ∨ a % 8 = 0 → gFault c.mode a m 1 = none → read .read a m pas → (∀ k, k < m → (pas[k]?.getD 0) / 8 ∉ s.hbmPoison) →
            exec i s = .next (put s { c with rows := c.rows.insert x (got ++ pas.map s.mem.read) })) ∧
      (c.scatter = false → ∀ w, c.todo[n / 4 % c.todo.length]? = some w → w.sp = .l → s.claimedRange w.cl w.addr w.bytes.length = false →
        (s.cluster w.cl).check w.addr w.bytes.length = .ok → (s.cluster w.cl).narrowed w.addr w.bytes = none → (s.cluster w.cl).mem.wf = true →
        ∃ t : State, exec i s = .next t ∧ t.mem = s.mem ∧
          (t.core core).dge[j]? = some { c with begun := true, todo := c.todo.eraseIdx (n / 4 % c.todo.length), written := c.written + w.bytes.length } ∧
          (∀ x, (t.cluster w.cl).mem.read x = if x < w.addr then (s.cluster w.cl).mem.read x
            else ((w.bytes[x - w.addr]?).join).getD ((s.cluster w.cl).mem.read x)) ∧
          ∀ x, x ∈ (t.cluster w.cl).full ↔ x ∈ (s.cluster w.cl).full ∨ x ∈ wordsOf w.addr w.bytes.length) ∧
      (c.scatter = true → c.next < c.order.length * c.perRow → ∀ x, c.order[c.next / c.perRow]? = some x →
        let width := if d.fmt = 2 then 2 else 4
        let e := c.next % c.perRow
        let row := d.tbase + x * d.rstride
        let a := row + e * width
        let at_ := (List.range c.idx.length).filter fun p => decide (c.idx[p]?.getD 0 = x) && !(d.sent && x == 2 ^ 32 - 1)
        if d.nrows ≠ 0 ∧ d.nrows ≤ x then ends 0x18 3 (4 * at_.headD 0)
        else ∀ pas ps, (e = 0 → gFault c.mode row 1 1 = none ∧ gFault c.mode (row + d.rowb - 1) 1 1 = none ∧ read .rmw row d.rowb ps) →
          gFault c.mode a width 1 = none → read .read a width pas → read .write a width pas →
          (∀ k, k < width → (pas[k]?.getD 0) / 8 ∉ s.hbmPoison) →
          let vals := at_.map fun p => numAt c.src (p * d.rowb + e * width) width * (if d.fmt = 2 then 2 ^ 16 else 1)
          let sum := (vals.drop 1).foldl (fun x y => (FFmt.fp32.add .rne (FFmt.fp32.read x) (FFmt.fp32.read y)).1) (vals.headD 0)
          let old := ofBytes (pas.map s.mem.read)
          let new := if d.fmt = 5 then (old + vals.sum) % 2 ^ 32
            else if d.fmt = 2 then (FFmt.bf16.add .rne (FFmt.bf16.read old) (FFmt.fp32.read sum)).1
            else (FFmt.fp32.add .rne (FFmt.fp32.read old) (FFmt.fp32.read sum)).1
          ∃ fl, exec i s = .next (put (s.storePhys pas ((toBytes width new).map some))
            { c with next := c.next + 1, written := c.written + width, flags := fl })))

/-- xinbox declares, xsend queues a packet or is refused, the packet arrives in the ring or is dropped, and xrecv takes the
head; the payload is read when the command is accepted (R343, R344, R346, R84, R328, R329, R259, R345, R247, R311). That SPACE_RANGE and ALIGN of
xinbox's base come before ALIGN of its size, and BANK_OFF last, is the model's reading (log 51), and so is which packets no inbox has
counted (log 98). -/
def Obligations.ExchangeSendsAndReceives : Prop :=
  (
    ∀ (s : State), s.memoriesOk = true →
      let cl := clusterOf s.cur
      let core := coreOf s.cur
      let traps (i : Instr) (cause : Nat) (tval : Word) : Prop := exec i s = .next (takeTrap { cause := cause, tval := tval } s)
      let operand (i : Instr) (a : Word) (n al : Nat) (go : Prop) : Prop :=
        if 0x200000 < a.toNat + n then traps i 0x16 a
        else if a.toNat % al ≠ 0 then traps i 0x10 a
        else if s.myCluster.presentAll a.toNat n = false then traps i 0x17 a
        else go
      let waits (i : Instr) (hd : BitVec 3) (go : Prop) : Prop :=
        if (s.me.handle hd.toNat).isPending then exec i s = .next (waitState (.handle hd.toNat) false s)
        else if s.drained = false then exec i s = .next (waitState .drained false s)
        else go
      let ends (i : Instr) (sh : Shape) (hd : BitVec 3) (t : State) (w : Word) : Prop :=
        exec i s = .next ({ t with nextOp := s.nextOp + 1 }.retires sh (t.me.setHandle hd.toNat (.complete s.nextOp w)))
      let box := s.myCluster.inbox
      (∀ f : Eng2,
        let sh : Shape := ⟨f.h, engSrcs [f.a, f.b], none⟩
        let base := s.me.regs.getG f.a.n
        let size := s.me.regs.getG f.b.n
        let n := size.toNat
        s.ready sh = true →
        if 0x200000 < base.toNat + n then traps (.xinbox f) 0x16 base
        else if base.toNat % 64 ≠ 0 then traps (.xinbox f) 0x10 base
        else if n ≠ 0 ∧ (n % 64 ≠ 0 ∨ n < 4160 ∨ 0x100000 < n) then traps (.xinbox f) 0x10 size
        else operand (.xinbox f) base n 64 (waits (.xinbox f) f.hd (
          if box.packets ≠ [] ∨ box.taken ≠ box.expect then ends (.xinbox f) sh f.hd s 0x90041
          else ends (.xinbox f) sh f.hd (s.setCluster cl { s.myCluster with inbox := ⟨base.toNat, n, 0, [], 0, 0, false⟩ }) 0))) ∧
      (∀ f : XsendOp,
        let sh : Shape := ⟨f.h, engSrcs [f.bit, f.src, f.len], none⟩
        let b := (s.me.regs.getG f.bit.n).toNat
        let src := s.me.regs.getG f.src.n
        let len := s.me.regs.getG f.len.n
        let n := len.toNat
        let level := s.me.ctl.dmem.toNat / 2 ^ 40 % 8
        s.ready sh = true →
        if n < 1 ∨ 4096 < n then traps (.xsend f) 0x16 len
        else operand (.xsend f) src n 1 (
          if level < 2 ∨ 4 < level ∨ s.me.ctl.dmem.getLsbD 44 = false ∨ 32 ≤ b ∨ s.me.domain.pattern.getLsbD b = false then
            waits (.xsend f) f.hd (ends (.xsend f) sh f.hd s 0x80041)
          else s.issues (.xsend f) f.hd s.myCore.copyq.length .copyQueue (if s.unsent s.cur = true then exec (.xsend f) s = .next (waitState .merged false s) else
            s.myCluster.check src.toNat n = .ok → s.myCluster.flawed src.toNat n = none →
            match s.myCluster.poisoned src.toNat n with
            | some w => ends (.xsend f) sh f.hd ((s.writeThrough core).touched cl src.toNat n)
                (BitVec.ofNat 64 (0x807F + (8 * w - src.toNat) % 2 ^ 48 * 65536))
            | none =>
              let u := (s.writeThrough core).touched cl src.toNat n
              let c : CopyCmd := ⟨s.cur, s.me.ctx, s.nextOp, s.me.ctl.asid.toNat % 65536, s.me.mode, s.me.nspec,
                .xsend (dieOf s.cur * 32 + b) (s.myCluster.mem.readN src.toNat n) f.narrow, [], false, [], 0, 0, none⟩
              exec (.xsend f) s = .next (((u.withOp f.hd).setCore core { u.myCore with copyq := u.myCore.copyq ++ [c] }).retires sh
                (u.awaiting u.me f.hd))))) ∧
      (∀ f : XrecvOp,
        let sh : Shape := ⟨f.h, engSrcs [f.dst], none⟩
        let dst := s.me.regs.getG f.dst.n
        let a := dst.toNat
        s.ready sh = true → waits (.xrecv f) f.hd (match box.packets with
          | [] =>
            if f.nb = true ∨ box.taken = box.expect then ends (.xrecv f) sh f.hd s 0
            else exec (.xrecv f) s = .next (waitState .xrecv true s)
          | p :: rest =>
            let n := p.data.length
            if box.missed = true ∧ box.taken = box.expect then ends (.xrecv f) sh f.hd s 0
            else if p.narrow = true ∧ p.nspec ≠ s.me.nspec then traps (.xrecv f) 0x33 (if p.nspec then 1 else 0)
            else operand (.xrecv f) dst n 1 (match s.templateHit cl a n with
              | some x => traps (.xrecv f) 0x23 (BitVec.ofNat 64 x)
              | none =>
                n ≠ 0 → s.myCluster.mem.readN (box.base + p.off + 64) n = p.data →
                if s.claimedRange cl a n = true then exec (.xrecv f) s = .next (waitState (.claims a n) false s)
                else s.myCluster.check a n = .ok → s.myCluster.narrowed a (p.data.map some) = none →
                  ∃ t : State, exec (.xrecv f) s = .next t ∧ (s.myCore.dcache = [] → t.mem = s.mem) ∧ (∀ l ∈ (t.core core).dcache, l.stuck = true) ∧
                    (∀ x, x ≠ cl → t.cluster x = s.cluster x) ∧
                    (t.cluster cl).inbox = { box with packets := rest, taken := box.taken + 1 } ∧ (t.cluster cl).full = s.myCluster.full ∧
                    (∀ x, (t.cluster cl).mem.read x = if a ≤ x ∧ x < a + n then p.data[x - a]?.getD 0 else s.myCluster.mem.read x) ∧
                    (t.slot s.cur).regs = (s.me.releaseMarks sh).regs ∧
                    (t.slot s.cur).handle f.hd.toNat = .complete s.nextOp (BitVec.ofNat 64 ((p.src * 65536 + n) % 2 ^ 48 * 65536)))))
  ) ∧ (
    ∀ (s : State) (core : Nat), s.memoriesOk = true →
      match (s.core core).copyq with
      | [] => exec (.packetArrival core) s = .next s
      | c :: rest =>
        ((c.begun = false ∨ c.fail ≠ none ∨ ¬∃ b data n, c.kind = .xsend b data n) → exec (.packetArrival core) s = .next s) ∧
        (∀ b data narrow, c.kind = .xsend b data narrow → c.begun = true → c.fail = none →
          let n := data.length
          let cl := s.cluster b
          let need := 64 + 64 * ((n + 63) / 64)
          let ends (t : State) (w : Word) : Prop :=
            exec (.packetArrival core) s = .next t ∧ t.mem = s.mem ∧ (∀ k, k ≠ b → t.cluster k = s.cluster k) ∧
            ∀ o sid h, s.ops.find c.op = some o → o.holder = .slot sid h →
              (t.core core).copyq = rest ∧ ((s.slot sid).handle h = .pending c.op → (t.slot sid).handle h = .complete c.op w)
          let counts (t : State) (sid : Nat) : NMap Nat := (t.slot sid).domain.counts
          let more (m : NMap Nat) : NMap Nat := m.insert (b % 32) ((m.find (b % 32)).getD 0 + 1)
          if s.sentBefore core c b = true then exec (.packetArrival core) s = .next s
          else match (if cl.inbox.size = 0 then none else cl.inbox.place need) with
          | none => ∃ t, ends t 0x52 ∧ t.cluster b = cl ∧ ∀ sid, counts t sid = counts s sid
          | some off =>
            let a := cl.inbox.base + off
            if s.claimedRange b a (64 + n) = true then exec (.packetArrival core) s = .next s
            else match cl.check a (64 + n) with
            | .off _ => ∃ t, ends t 0x17 ∧ t.cluster b = cl ∧ ∀ sid, counts t sid = counts s sid
            | .proof banks => exec (.packetArrival core) s = .next (s.setCluster b (cl.proofBanks banks))
            | .ok => ∃ t : State, ends t 0 ∧
                (t.cluster b).inbox = { cl.inbox with
                  tail := off + need, packets := cl.inbox.packets ++ [⟨off, s.ownerSid c.sid % 65536, c.nspec, narrow, data⟩] } ∧
                (∀ x,
                  (a + 64 ≤ x → x < a + 64 + n → (t.cluster b).mem.read x = data[x - (a + 64)]?.getD 0) ∧
                  (x < a ∨ a + 64 + n ≤ x → (t.cluster b).mem.read x = cl.mem.read x)) ∧
                (∀ sid, (s.slots.find sid).isSome = true →
                  counts t sid = if (s.slot sid).ctx = c.ctx then more (counts s sid) else counts s sid) ∧
                ∀ sid v, s.saved.find sid = some v → v.ctx = c.ctx →
                  (t.saved.find sid).map (fun x => x.domain.counts) = some (more v.domain.counts))
  )

/-- Task forms check, release and send the command to the unit named, and deq takes the record visible at the head into L
behind the strand's earlier commands to the unit (R328, R330, R334, R335, R324, R270, R259, R329, R331, R333, R84, R222). -/
def Obligations.TaskFormsAndDeq : Prop :=
  (
    ∀ (s : State),
      let cl := clusterOf s.cur
      let core := coreOf s.cur
      let traps (i : Instr) (cause : Nat) (tval : Word) : Prop := exec i s = .next (takeTrap { cause := cause, tval := tval } s)
      let operand (i : Instr) (a : Word) (go : Prop) : Prop :=
        if 0x200000 < a.toNat + 64 then traps i 0x16 a
        else if a.toNat % 64 ≠ 0 then traps i 0x10 a
        else if s.myCluster.presentAll a.toNat 64 = false then traps i 0x17 a
        else go
      let waits (i : Instr) (hd : BitVec 3) (go : Prop) : Prop :=
        if (s.me.handle hd.toNat).isPending then exec i s = .next (waitState (.handle hd.toNat) false s)
        else if s.drained = false then exec i s = .next (waitState .drained false s)
        else go
      let releases (i : Instr) (hd : BitVec 3) (go : Prop) : Prop :=
        waits i hd (if s.unsent s.cur = true then exec i s = .next (waitState .merged false s) else go)
      let clean (a : Nat) : Prop := s.myCluster.check a 64 = .ok ∧ s.myCluster.flawed a 64 = none ∧ s.myCluster.poisoned a 64 = none
      let bytes (a : Nat) : List Byte := s.myCluster.mem.readN a 64
      let sends (i : Instr) (h : Hdr) (hd : BitVec 3) (rs : List Reg) (t : State) (u : Nat) (what : UnitOp) : Prop :=
        let n := u % 8
        exec i s = .next (((t.withOp hd).setUnit n
          { t.unit n with cmds := (t.unit n).cmds ++ [⟨s.cur, s.me.ctx, s.me.mode, what, .op s.nextOp, false⟩] }).retires ⟨h, engSrcs rs, none⟩ (t.awaiting t.me hd))
      let g (r : Reg) : Word := s.me.regs.getG r.n
      let u := s.writeThrough core
      (∀ f : Eng2, s.ready ⟨f.h, engSrcs [f.a, f.b], none⟩ = true →
        let q := (g f.a).toNat
        let r := (g f.b).toNat
        operand (.enq f) (g f.b) (releases (.enq f) f.hd (clean r →
          sends (.enq f) f.h f.hd [f.a, f.b] (u.touched cl r 64) (q / 128) (.enq q (bytes r)))) ∧
        releases (.dcadd f) f.hd (sends (.dcadd f) f.h f.hd [f.a, f.b] u (q / 2 ^ 15) (.dcadd q (g f.b).toInt))) ∧
      (∀ f : Eng1, s.ready ⟨f.h, engSrcs [f.a], none⟩ = true →
        let q := (g f.a).toNat
        let open_ := Config.tensorUnit (dieOf s.cur) (q % 65536)
        waits (.enqres f) f.hd (sends (.enqres f) f.h f.hd [f.a] s (q / 128) (.enqres q)) ∧
        releases (.dcdec f) f.hd (sends (.dcdec f) f.h f.hd [f.a] u (q / 2 ^ 15) (.dcadd q (-1))) ∧
        releases (.taskdepReg f) f.hd (sends (.taskdepReg f) f.h f.hd [f.a] u open_ (.reg (g f.a))) ∧
        releases (.taskdepUnreg f) f.hd (sends (.taskdepUnreg f) f.h f.hd [f.a] u open_ (.unreg (g f.a)))) ∧
      (∀ f : Eng3, s.ready ⟨f.h, engSrcs [f.a, f.b, f.c], none⟩ = true →
        let q := (g f.a).toNat
        let r := (g f.b).toNat
        let d := (g f.c).toNat
        operand (.enqpub f) (g f.c) (releases (.enqpub f) f.hd (clean d →
          sends (.enqpub f) f.h f.hd [f.a, f.b, f.c] (u.touched cl d 64) (q / 128) (.enqpub q r (bytes d)))) ∧
        operand (.taskdep f) (g f.b) (operand (.taskdep f) (g f.c) (releases (.taskdep f) f.hd (clean r → clean d →
          sends (.taskdep f) f.h f.hd [f.a, f.b, f.c] ((u.touched cl r 64).touched cl d 64) (q / 128) (.taskdep q (bytes r) (bytes d)))))) ∧
      (∀ f : Eng4, s.ready ⟨f.h, engSrcs [f.a, f.b, f.c, f.d], none⟩ = true →
        let c := (g f.a).toNat
        let r := (g f.c).toNat
        operand (.dcnew f) (g f.c) (releases (.dcnew f) f.hd (clean r →
          sends (.dcnew f) f.h f.hd [f.a, f.b, f.c, f.d] (u.touched cl r 64) (c / 2 ^ 15) (.dcnew c (g f.b).toNat (bytes r) (g f.d).toNat))))
  ) ∧ (
    ∀ (s : State) (f : DeqOp), s.memoriesOk = true →
      let i := Instr.deq f
      let cl := clusterOf s.cur
      let sh : Shape := ⟨f.h, engSrcs [f.q, f.dst], none⟩
      let dst := s.me.regs.getG f.dst.n
      let a := dst.toNat
      let qn := (s.me.regs.getG f.q.n).toNat
      let q := s.queue qn
      let traps (cause : Nat) (tval : Word) : Prop := exec i s = .next (takeTrap { cause := cause, tval := tval } s)
      let ends (w : Word) : Prop := exec i s = .next ({ s with nextOp := s.nextOp + 1 }.retires sh (s.me.setHandle f.hd.toNat (.complete s.nextOp w)))
      s.ready sh = true →
      if 0x200000 < a + 64 then traps 0x16 dst
      else if a % 64 ≠ 0 then traps 0x10 dst
      else if s.myCluster.presentAll a 64 = false then traps 0x17 dst
      else match s.templateHit cl a 64 with
        | some x => traps 0x23 (BitVec.ofNat 64 x)
        | none =>
          if (s.me.handle f.hd.toNat).isPending then exec i s = .next (waitState (.handle f.hd.toNat) false s)
          else if s.drained = false then exec i s = .next (waitState .drained false s)
          else if s.onWay s.cur (qn / 128) = true then exec i s = .next (waitState (.unit (qn / 128)) false s)
          else if 1024 ≤ qn ∨ q.ctl.getLsbD 15 = false then ends 0x10041
          else if s.me.mode = .u ∧ q.ctl.getLsbD 14 = false then ends 0x20041
          else match q.visible with
            | none => if f.nb = true then ends 0 else exec i s = .next (waitState (.deq qn) true s)
            | some r =>
              let hdr := numAt r.bytes 16 2
              if hdr / 8 % 2 = 1 ∧ (hdr / 4 % 2 = 1 ↔ s.me.nspec = false) then traps 0x33 (BitVec.ofNat 64 (hdr / 4 % 2))
              else
                (∀ code off s1, s.ringRead (q.slotAt q.head) 64 = .fail code off s1 →
                  exec i s = .next ({ s1 with nextOp := s1.nextOp + 1 }.retires sh
                    (s1.me.setHandle f.hd.toNat (.complete s1.nextOp (BitVec.ofNat 64 (code % 256 + 0x8000 + off % 2 ^ 48 * 65536)))))) ∧
                (∀ s1 pa s2, s.ringRead (q.slotAt q.head) 64 = .wait s1 → s.translate 0 (q.slotAt q.head) .read .s true = (.busy pa, s2) →
                  exec i s = .next (waitState (.swapBusy pa) false s)) ∧
                ∀ s1, r.bytes.length = 64 → s.ringRead (q.slotAt q.head) 64 = .ok r.bytes s1 →
                if s.claimedRange cl a 64 = true then exec i s = .next (waitState (.claims a 64) false s)
                else s.myCluster.check a 64 = .ok →
                  ∃ t : State, exec i s = .next t ∧ (∀ x, x ≠ cl → t.cluster x = s.cluster x) ∧
                    (∀ x, (t.cluster cl).mem.read x = if a ≤ x ∧ x < a + 64 then r.bytes[x - a]?.getD 0 else s.myCluster.mem.read x) ∧
                    (t.cluster cl).full = s.myCluster.full ∧
                    (t.slot s.cur).handle f.hd.toNat = .complete s.nextOp 0x400000 ∧
                    (r.dep = none → t.queue qn = ({ q with head := q.head + 1, slots := q.slots.drop 1 } : Queue).settle)
  )

/-- A task unit performs, refuses or holds back the one command that it may take next (R329, R330, R332, R334, R335, R336, R363,
R381). What a publication that fails leaves of its counter or task, and that one without a handle waits, is the model's choice (log 74); that a
unit of a failed die does nothing is its reading (log 83). -/
def Obligations.TaskUnitsPerformCommands : Prop :=
  ∀ (s : State) (u : Nat),
    let x := s.unit u
    ((s.die (u / 2)).absent = true → exec (.taskUnitCommandComplete u) s = .next s) ∧
    ((∀ k, k < x.cmds.length → x.mayTake k = false) → exec (.taskUnitCommandComplete u) s = .next s) ∧
    (∀ k c, (s.die (u / 2)).absent = false → x.cmds[k]? = some c → (∀ j, j < x.cmds.length → (x.mayTake j = true ↔ j = k)) →
      let s1 := { s with tick := s.tick + 1 }
      let out := s1.setUnit u { x with cmds := x.cmds.eraseIdx k }
      let ends (t : State) : Prop := exec (.taskUnitCommandComplete u) s = .next t
      let gives (t : State) (w : Word) : Prop := ends (t.answer c.ans w)
      let refuse (r : Nat) : Prop := gives out (BitVec.ofNat 64 (0x41 + r * 65536))
      let held : Prop := if c.arrived = true then ends s1 else ends (out.setUnit u { x with cmds := x.cmds.eraseIdx k ++ [{ c with arrived := true }] })
      let serves (q : Nat) (go : Prop) : Prop :=
        if (s.queue q).room = true ∧ (c.arrived = true ∨ s.queued q = false) then go else held
      let uses (q : Nat) (go : Prop) : Prop :=
        if 1024 ≤ q ∨ (s.queue q).ctl.getLsbD 15 = false then refuse 1
        else if c.mode = .u ∧ (s.queue q).ctl.getLsbD 14 = false then refuse 2
        else go
      let bad (bs : List Byte) : Prop := 16 ≤ numAt bs 16 2
      let fresh (bs : List Byte) : RecInfo := ⟨bs.take 18 ++ toBytes 2 c.sid ++ bs.drop 20, c.mode, c.sid, none, 0⟩
      let puts (q n : Nat) (slots : List QSlot) (r : RecInfo) (done : State → Prop) (failed : Nat → State → Prop) : Prop :=
        let y := s.queue q
        match out.ringWrite (y.slotAt n) r.bytes with
        | .ok _ t => done (t.setQueue q ({ y with slots := slots } : Queue).settle)
        | .wait _ => held
        | .fail code off t => failed (code % 256 + 0x4000 + off % 2 ^ 48 * 65536) t
      let tail (q : Nat) (r : RecInfo) (done : State → Prop) (failed : Nat → State → Prop) : Prop :=
        let y := s.queue q
        puts q (y.head + y.slots.length) (y.slots ++ [.record r]) r done failed
      -- a record of a counter or of the table: at the tail, or behind those that wait for the ring
      let publishes (t : State) (q : Nat) (r : RecInfo) (done : State → Prop) (failed : Nat → State → Prop) : Prop :=
        let y := t.queue q
        let later (t : State) : State := t.setUnit (q / 128) { t.unit (q / 128) with
          cmds := (t.unit (q / 128)).cmds ++ [⟨0, 0, r.mode, .publish q r, .nobody, true⟩] }
        if y.room = true ∧ t.queued q = false then
          match t.ringWrite (y.slotAt (y.head + y.slots.length)) r.bytes with
          | .ok _ t1 => done (t1.setQueue q ({ y with slots := y.slots ++ [.record r] } : Queue).settle)
          | .wait t1 => done (later t1)
          | .fail code off t1 => failed (code % 256 + 0x4000 + off % 2 ^ 48 * 65536) t1
        else done (later t)
      let answers (t : State) : Prop := gives t 0
      let fails (w : Nat) (t : State) : Prop := gives t (BitVec.ofNat 64 w)
      match c.what with
      | .enq q bs => q / 128 = u → uses q (if bad bs then refuse 6 else serves q (tail q (fresh bs) answers fails))
      | .enqres q => q / 128 = u → uses q (serves q (
          let y := s.queue q
          gives (out.setQueue q { y with slots := y.slots ++ [.reserved c.ctx] }) (BitVec.ofNat 64 ((y.head + y.slots.length) % 2 ^ 32 * 65536))))
      | .enqpub q t bs => q / 128 = u → uses q (if bad bs then refuse 6 else
          let y := s.queue q
          (¬(∃ j, y.slots[j]? = some (.reserved c.ctx) ∧ (y.head + j) % 2 ^ 32 = t) → refuse 7) ∧
          (∀ j, y.slots[j]? = some (.reserved c.ctx) → (y.head + j) % 2 ^ 32 = t →
            (∀ i, i < j → y.slots[i]? = some (.reserved c.ctx) → (y.head + i) % 2 ^ 32 ≠ t) →
            puts q (y.head + j) (setAt y.slots j (.record (fresh bs))) (fresh bs) answers fails))
      | .dcnew n q bs count =>
        if 2 ^ 18 ≤ n ∨ q / 128 ≠ n / 2 ^ 15 then refuse 1
        else q / 128 = u → uses q (
          if (x.counters.find n).isSome = true then refuse 3
          else if 2 ^ 31 - 1 < count then refuse 5
          else if bad bs then refuse 6
          else if count = 0 then publishes out q (fresh bs) answers fails
          else gives (out.setUnit u { out.unit u with counters := x.counters.insert n ⟨count, q, fresh bs⟩ }) 0)
      | .dcadd n a =>
        if 2 ^ 18 ≤ n then refuse 1
        else n / 2 ^ 15 = u → match x.counters.find n with
          | none => refuse 4
          | some y =>
            let new := (y.count : Int) + a
            let with_ (m : NMap Counter) : State := out.setUnit u { out.unit u with counters := m }
            if c.mode = .u ∧ (s.queue y.queue).ctl.getLsbD 14 = false then refuse 2
            else if new < 0 ∨ 2 ^ 31 - 1 < new then refuse 5
            else if new = 0 then publishes (with_ (x.counters.erase n)) y.queue y.held answers fun w t =>
              if c.ans = .nobody then ends (t.setUnit (y.queue / 128) { t.unit (y.queue / 128) with
                cmds := (t.unit (y.queue / 128)).cmds ++ [⟨0, 0, y.held.mode, .publish y.queue y.held, .nobody, true⟩] })
              else gives (t.setUnit u (out.unit u)) (BitVec.ofNat 64 w)
            else gives (with_ (x.counters.insert n { y with count := new.toNat })) 0
      | .reg w =>
        let n := w.toNat % 65536
        if w.toNat / 2 ^ 43 ≠ 0 ∨ (x.tensors.find n).isSome = true ∨ 1024 ≤ x.tensors.length then refuse 6
        else gives (out.setUnit u { out.unit u with
          tensors := x.tensors.insert n ⟨w.toNat / 2 ^ 16 % 4096, w.toNat / 2 ^ 28 % 4096, w.toNat / 2 ^ 40 % 8, 0⟩ }) 0
      | .unreg w =>
        let n := w.toNat % 65536
        if w.toNat / 2 ^ 43 ≠ 0 ∨ (∃ d ∈ x.deps, ∃ y ∈ d.2.tiles, y.tensor = n) then refuse 6
        else gives (out.setUnit u { out.unit u with tensors := x.tensors.erase n }) 0
      | .taskdep q bs desc => q / 128 = u → uses q (if bad bs then refuse 6 else match depTiles x desc with
          | none => refuse 6
          | some ts => match x.freeDep with
            | none => held
            | some e =>
              let (bound, tensors) := bindTiles x.tensors ts
              let r : RecInfo := ⟨(fresh bs).bytes, c.mode, c.sid, some e, versionWord bound⟩
              let t : DepTask := ⟨x.depSeq, q, bound, some r⟩
              let with_ (d : DepTask) : State := out.setUnit u { out.unit u with depSeq := x.depSeq + 1, deps := x.deps.insert e d, tensors := tensors }
              (∀ y ∈ x.deps, y.2.seq < x.depSeq) →
              let conflicts : Prop := ∃ y ∈ x.deps, tilesConflict y.2.tiles bound = true
              (conflicts → gives (with_ t) 0) ∧ (¬conflicts → publishes (with_ { t with held := none }) q r answers fun w t =>
                gives (t.setUnit u (out.unit u)) (BitVec.ofNat 64 w)))
      | .publish q r => q / 128 = u → if (s.queue q).room = true ∧ (c.arrived = true ∨ s.queued q = false) then tail q r ends (fun _ _ => held) else held) ∧
    (∀ q, q / 128 = u →
      let waiting (c : UnitCmd) : Prop := c.arrived = true ∧ (∃ bs, c.what = .enq q bs) ∨ c.arrived = true ∧ c.what = .enqres q ∨
        c.arrived = true ∧ ∃ r, c.what = .publish q r
      ((∀ c ∈ x.cmds, ¬waiting c) → exec (.queueSlotFreed q) s = .next s) ∧
      (∀ k c bs, x.cmds[k]? = some c → c.what = .enq q bs → c.arrived = true → (∀ j d, j < k → x.cmds[j]? = some d → ¬waiting d) →
        q < 1024 → (s.queue q).ctl.getLsbD 15 = true → (c.mode = .u → (s.queue q).ctl.getLsbD 14 = true) → numAt bs 16 2 < 16 →
        let y := s.queue q
        let r : RecInfo := ⟨bs.take 18 ++ toBytes 2 c.sid ++ bs.drop 20, c.mode, c.sid, none, 0⟩
        if y.room = true then match (s.setUnit u { x with cmds := x.cmds.eraseIdx k }).ringWrite (y.slotAt (y.head + y.slots.length)) r.bytes with
          | .ok _ t => exec (.queueSlotFreed q) s =
              .next ((t.setQueue q ({ y with slots := y.slots ++ [.record r] } : Queue).settle).answer c.ans 0)
          | .wait _ => exec (.queueSlotFreed q) s = .next s
          | .fail code off t => exec (.queueSlotFreed q) s =
              .next (t.answer c.ans (BitVec.ofNat 64 (code % 256 + 0x4000 + off % 2 ^ 48 * 65536)))
        else exec (.queueSlotFreed q) s = .next s))

/-- Queue operations read, configure or empty a queue and re-admit a core, or set ERR and change nothing else (R325, R332,
R342, R324). A BASE is mapped when its walk ends at a leaf; ERR for the re-admission of a core that does not exist is the model's choice
(log 75). -/
def Obligations.QueueOperationsOfQsel : Prop :=
  ∀ (s : State) (v : Word),
    let n := v.toNat % 1024
    let q := s.queue n
    let p := s.me.ports
    let good : Word := v &&& ~~~0x2000
    let bad : Word := v ||| 0x2000
    let ports (t : State) (f : SlotPorts) : State := t.setMe { t.me with ports := f }
    let other (t : State) : Prop := ∀ k, k ≠ n → t.queue k = s.queue k
    (∃ w : Word, exec (.queueRead v) s = .next (ports s { p with qring := q.ring, qctl := w, qwdog := q.wdog, qsel := good }) ∧
      w &&& 0xFFFF00000000FFFF = q.ctl &&& 0xFFFF00000000FFFF ∧
      (w.extractLsb' 16 16).toNat = q.slots.countP QSlot.isReserved % 65536 ∧
      (w.extractLsb' 32 16).toNat = (q.slots.length - q.slots.countP QSlot.isReserved) % 65536) ∧
     (let base := p.qring.toNat / 65536 * 65536
      let mapped : Prop := match s.walk (base / 2 ^ 50 % 4) 0 base .read .s with
        | .fail reason _ => reason = 4 ∨ reason = 5
        | _ => True
      let t1 := p.qwdog.toNat % 65536
      let t2 := p.qwdog.toNat / 2 ^ 16 % 65536
      let t3 := p.qwdog.toNat / 2 ^ 32 % 65536
      let rising := (t1 = 0 ∨ t2 = 0 ∨ t1 < t2) ∧ (t2 = 0 ∨ t3 = 0 ∨ t2 < t3) ∧ (t1 = 0 ∨ t3 = 0 ∨ t1 < t3)
      let refused := (p.qring ≠ q.ring ∧ q.slots ≠ []) ∨ base / 2 ^ 52 ≠ 0xFFF ∨ base / 2 ^ 50 % 4 ≠ n / 256 ∨ ¬mapped ∨ ¬rising
      (refused → exec (.queueWrite v) s = .next (ports s { p with qsel := bad })) ∧
      (¬refused →
        let x := { q with ring := p.qring, ctl := p.qctl &&& 0xFFFF00000000FF30, wdog := p.qwdog }
        let t := s.setQueue n x
        exec (.queueWrite v) s = .next (ports t { p with qsel := good }) ∧ t = { s with units := t.units } ∧ t.queue n = x ∧ other t)) ∧
    (∃ t : State, exec (.queueEmpty v) s = .next t ∧ other t ∧ t.me.ports = { p with qsel := good } ∧
      t = { s with units := t.units, slots := t.slots } ∧
      t.queue n = { q with head := q.head + q.slots.length, slots := [] }) ∧
    (let c := v.toNat / 2 ^ 32 % 2048
     exec (.coreReadmit v) s = .next (if coreExists c = true then ports (s.setCore c { s.core c with fenced := false }) { p with qsel := good }
        else ports s { p with qsel := bad }))

/-- work and done WAIT in the dispenser, a record is taken in the order of R339, sent to its strand and delivered, and due watchdog stages act
(R326, R327, R338, R339, R340, R341, R342, R370, R22, R383). The reserved bits of DMEM and its LEVEL 7 are stored as a write stores them; that a
record whose ring cannot be read stays in its queue is the model's choice (log 74); that a later stage waits for an enabled earlier one (log 61)
and that a dispenser of a failed die takes nothing (log 83) is its reading. -/
def Obligations.RecordsAreServedAndWatched : Prop :=
  (
    ∀ (s : State),
      (∀ f : Plain, s.ready ⟨f.h, [], none⟩ = true →
        let d := s.cur / 1024 % 16
        let joins (t : State) : State := waitState .work true (t.setDisp d { t.disp d with waiting := (t.disp d).waiting.filter (· != t.cur) ++ [t.cur] })
        let waits (i : Instr) (go : Prop) : Prop := if s.me.anyPending = true then exec i s = .next (waitState .handles false s) else go
        waits (.work f) (exec (.work f) s = .next (joins s)) ∧
        waits (.done f) (
          if s.me.record = none then exec (.done f) s = .next (joins s)
          else if s.drained = false then exec (.done f) s = .next (waitState .drained false s)
          else if s.unsent s.cur = true then exec (.done f) s = .next (waitState .merged false s)
          else exec (.done f) s = .next (joins ((s.writeThrough (coreOf s.cur)).endRecord s.cur s.me.ctx s.me.mode s.me.record)))) ∧
      (∀ d : Nat, d < 16 →
        let x := s.disp d
        let home (c : Nat × Queue × RecInfo) : Nat := c.2.1.ctl.toNat / 2 ^ 10 % 4
        let quadrant (c : Nat × Queue × RecInfo) : Nat := c.2.1.ctl.toNat / 2 ^ 8 % 4
        let prio (c : Nat × Queue × RecInfo) : Nat := c.2.1.ctl.toNat / 2 ^ 4 % 4
        let turn (c : Nat × Queue × RecInfo) : Nat := (quadrant c + 4 - d % 4) % 4
        let place (c : Nat × Queue × RecInfo) : Nat :=
          if home c = d / 4 then turn c
          else if home c = (d / 4 + 1) % 4 then 4 + turn c
          else if home c = (d / 4 + 3) % 4 then 8 + turn c
          else 12 + turn c
        let rank (c : Nat × Queue × RecInfo) : Nat :=
          if place c = 0 then (c.1 + 1023 - (x.served.find (prio c)).getD 1023) % 1024 else c.1
        let open_ (c : Nat × Queue × RecInfo) : Prop := c ∈ s.servable ∧ (place c = 0 ∨ c.2.1.ctl.getLsbD 12 = false)
        let earlier (a b : Nat × Queue × RecInfo) : Prop :=
          place a < place b ∨ (place a = place b ∧ (prio b < prio a ∨ (prio a = prio b ∧ rank a < rank b)))
        let fenced (sid : Nat) : Prop := (s.core (coreOf sid)).fenced = true
        let hot (sid : Nat) : Prop :=
          let p := (s.die (dieOf sid)).power
          isManagement (coreOf sid) = false ∧
            (p.hot.getLsbD (clusterOf sid % 32 / 2) = true ∨ p.overBudget.getLsbD (clusterOf sid % 32 / 2) = true)
        let held (u : State) : Option Taken := (u.disp d).held
        let barred : Prop := (∀ z ∈ x.waiting, fenced z ∨ hot z) ∧ ∃ z ∈ x.waiting, ¬fenced z
        let sends (i : Instr) (t : Taken) (sid : Nat) : Prop := ∃ u : State, exec i s = .next u ∧
          held u = some { t with dest := some sid, withheld := none } ∧ u.slots = s.slots ∧ u.cores = s.cores ∧ (u.disp d).waiting = x.waiting ∧
          u.mesh = s.mesh ++ [⟨0x1000 + 64 * (d / 4) + 32 + d % 4, d / 4, 32 + d % 4, dieOf sid, routerOf sid, .record d sid⟩]
        (∀ c ∈ s.servable, c.2.1.ctl.getLsbD 15 = true ∧ c.2.1.ctl.getLsbD 13 = true ∧ c.2.1.slots.head? = some (.record c.2.2)) ∧
        (∀ c, s.nextRecord d = some c → open_ c ∧ ∀ b, open_ b → ¬earlier b c) ∧
        (s.nextRecord d = none → ∀ c, ¬open_ c) ∧
        (x.held ≠ none ∨ x.waiting = [] ∨ (s.die (d / 4)).absent = true ∨ s.nextRecord d = none → exec (.dispenserTake d) s = .next s) ∧
        (∀ q y r, x.held = none → x.waiting ≠ [] → (s.die (d / 4)).absent = false → s.nextRecord d = some (q, y, r) →
          let z := s.queue q
          match s.ringRead (z.slotAt z.head) 64 with
          | .wait s1 => exec (.dispenserTake d) s = .next s1
          | .fail _ _ s1 => exec (.dispenserTake d) s = .next s1
          | .ok ring _ => ∃ (t : State) (r1 : RecInfo) (w : Option Nat), exec (.dispenserTake d) s = .next t ∧
            held t = some ⟨q, r1, s.clock.time, none, w⟩ ∧ (barred → w = some s.clock.time) ∧ (¬barred → w = none) ∧
            (t.disp d).waiting = x.waiting ∧ r1 = { r with bytes := r1.bytes } ∧ (ring = r.bytes → r1 = r) ∧
            (y.home = d → (t.disp d).served.find y.prio = some q) ∧
            t.queue q = ({ z with head := z.head + 1, slots := z.slots.drop 1 } : Queue).settle) ∧
        (s.meshFind (fun m => m.body.isRecord d) = none →
          (x.held = none → exec (.recordDelivery d) s = .next s) ∧
          (∀ t, x.held = some t → t.dest ≠ none → exec (.recordDelivery d) s = .next s) ∧
          (∀ t before sid after, x.held = some t → t.dest = none → x.waiting = before ++ sid :: after → ¬fenced sid → ¬hot sid →
            (∀ z ∈ before, fenced z ∨ hot z) → sends (.recordDelivery d) t sid) ∧
          (∀ t, x.held = some t → t.dest = none → barred → t.withheld = none → ∃ u, exec (.recordDelivery d) s = .next u ∧
            held u = some { t with withheld := some s.clock.time } ∧ u = { s with dispensers := u.dispensers }) ∧
          (∀ t, x.held = some t → t.dest = none → (∀ z ∈ x.waiting, fenced z ∨ hot z) → (t.withheld ≠ none ∨ ∀ z ∈ x.waiting, fenced z) →
            exec (.recordDelivery d) s = .next s)) ∧
        (∀ i m s1 sid, s.meshFind (fun m => m.body.isRecord d) = some i → s.meshTake i = some (m, s1) → m.body = .record d sid →
          (s1 = { s with mesh := s.mesh.eraseIdx i }) ∧
          (x.held = none → exec (.recordDelivery d) s = .next s1) ∧
          (∀ t, x.held = some t → sid ∉ x.waiting ∨ fenced sid → ∃ u t1, exec (.recordDelivery d) s = .next u ∧ held u = some t1 ∧ t1.queue = t.queue ∧
            t1.r = t.r ∧ t1.dest = none ∧ u.slots = s.slots ∧ (u.disp d).waiting = x.waiting) ∧
          (∀ t, x.held = some t → sid ∈ x.waiting → ¬fenced sid → ∃ u : State, exec (.recordDelivery d) s = .next u ∧ held u = none ∧
            (u.disp d).waiting = x.waiting.filter (· != sid) ∧ (u.core (coreOf sid)).issue.paused = false ∧
            (∀ l ∈ (u.core (coreOf sid)).dcache, l.stuck = true) ∧
            let y := u.slot sid
            let o := s.slot sid
            let hdr := numAt t.r.bytes 16 2
            let given : Word := BitVec.ofNat 64 (numAt t.r.bytes 8 8) &&& 0xFFFF07FFFFFFFFFF
            let tag : Word := BitVec.ofNat 64 (t.queue % 1024 + t.r.src % 65536 * 65536 + match t.r.dep with
              | some k => 2 ^ 32 + k % 8192 * 2 ^ 33
              | none => 0)
            y.phase = .ready ∧ y.pc = BitVec.ofNat 64 (numAt t.r.bytes 0 8) ∧ y.sched.checked = true ∧ y.regs = Regs.none ∧ y.windows = [] ∧
              y.ctl.fflags = 0 ∧ y.ctl.ix = 0 ∧ y.ctl.nx = 0 ∧ y.ctl.bwphase = 0 ∧ y.loops.state = 0 ∧ y.rep.state = 0 ∧ y.rep.mode = .off ∧
              y.handles = Vector.replicate 8 .empty ∧ y.streams = Vector.replicate 4 Stream.none ∧ y.idem.active = false ∧
              y.domain.pattern = o.domain.pattern ∧ y.mode = o.mode ∧ y.ie = o.ie ∧ y.rm = o.rm ∧ y.ctl.seed = o.ctl.seed ∧ y.ctl.asid = o.ctl.asid ∧ y.sTrap = o.sTrap ∧
              y.nspec = decide (hdr / 4 % 2 = 1) ∧ y.prio = (if hdr % 4 = 3 ∧ o.mode = .u then 2 else hdr % 4) ∧
              y.ctl.dmem = (if t.r.mode = .u then 0 else if given.toNat / 2 ^ 40 % 8 = 7 then given &&& 0xFFFFF8FFFFFFFFFF else given) ∧
              (∀ k, k < 5 → y.ctl.mbox[k]? = some (BitVec.ofNat 64 (numAt t.r.bytes (24 + 8 * k) 8))) ∧
              y.ctl.mbox[5]? = some tag ∧ y.ctl.mbox[6]? = some (BitVec.ofNat 64 (numAt t.r.bytes 20 4)) ∧ y.ctl.mbox[7]? = some t.r.vers ∧
              (∃ r, y.record = some r ∧ r.tag = tag ∧ r.dcdone = numAt t.r.bytes 20 4 ∧ r.dep = t.r.dep ∧ r.since = s.clock.time ∧
                r.stages = 0))) ∧
        (∀ t, x.held = some t →
          (∀ before sid after since, t.withheld = some since → since + 4000 ≤ s.clock.time → (∀ z ∈ x.waiting, fenced z ∨ hot z) →
            x.waiting = before ++ sid :: after → ¬fenced sid → (∀ z ∈ before, fenced z) → sends (.withholdTimeout d) t sid) ∧
          (t.withheld = none ∨ (∃ since, t.withheld = some since ∧ s.clock.time < since + 4000) ∨ ¬barred →
            exec (.withholdTimeout d) s = .next s)) ∧
        (x.held = none → exec (.withholdTimeout d) s = .next s))
  ) ∧ (
    ∀ (s : State),
      let watches (n core sid : Nat) (r : Record) (halt kill : State → State) : Prop :=
        let stages := [(Instr.watchdogPreempt n, 1, 0x60), (Instr.watchdogKill n, 2, 0x61), (Instr.watchdogFence n, 3, 0x61)]
        let q := r.tag.toNat % 1024
        let w := (s.queue q).wdog.toNat
        let time (k : Nat) : Nat := w / 2 ^ (16 * (k - 1)) % 65536
        let due (k : Nat) : Prop := time k ≠ 0 ∧ r.stages < k ∧ r.since + 1000 * time k ≤ s.clock.time ∧
          ∀ j, r.stages < j → j < k → time j = 0
        (∀ e ∈ stages, ¬due e.2.1 → exec e.1 s = .next s) ∧
        (∀ e ∈ stages, due e.2.1 →
          let owner := (s.queue q).ctl.toNat / 2 ^ 48
          let to_ := if sidExists owner = true then owner else 0x1000 * dieOf sid + 0x78
          let payload := BitVec.ofNat 64 (sid + q * 2 ^ 16 + e.2.1 * 2 ^ 26 + e.2.2 * 2 ^ 32)
          let t := (s.noteStage r.id e.2.1).sendMsg (q / 128 / 2) (38 + q / 128 % 2) to_ 4 payload
          (e.2.1 = 1 → exec e.1 s = .next (halt t)) ∧
          (e.2.1 = 2 → exec e.1 s = .next (kill t)) ∧
          (e.2.1 = 3 → exec e.1 s = .next (if (t.slot sid).phase = .free then t else t.setCore core { t.core core with fenced := true })))
      (∀ n, n < 65536 → (s.slot n).record = none →
        exec (.watchdogPreempt n) s = .next s ∧ exec (.watchdogKill n) s = .next s ∧ exec (.watchdogFence n) s = .next s) ∧
      (∀ n r, n < 65536 → (s.slot n).record = some r → watches n (coreOf n) n r
        (fun t => if (t.slot n).phase.isSuspended = true then t
          else (t.setSlot n { t.slot n with sched := { (t.slot n).sched with halt := true } }).unpause (coreOf n))
        (fun t => t.killSlot n)) ∧
      (∀ (t : State) (n : Nat), ((t.killSlot n).slot n).phase = .free) ∧
      (∀ core k x r, k < 8 → s.starter core k = some x → x.ctx.record = some r →
        watches (65536 + 8 * core + k) core (8 * core + x.slot) r (fun t => t.haltStarter core k) (fun t => t.killStarter core k))
  )

/-- sync, sync.x and votes contribute once, WAIT, and take the result of the epoch; alone or as an item they take their own
word, and every sync is a release before and an acquire after (R34, R35, R40, R41, R45, R216, R240, R241, R259, R289, R345). What a member that
waits takes from a tree laid anew is the model's choice (log 77); that its contribution bears the EPOCH of the entry at its router is its
reading (log 31). -/
def Obligations.DomainFormsContributeAndTakeResults : Prop :=
  ∀ (s : State),
    let x := s.me
    let core := coreOf s.cur
    let cl := clusterOf s.cur
    let level := x.ctl.dmem.toNat / 2 ^ 40 % 8
    let exchange := x.ctl.dmem.getLsbD 44
    let home := s.writeThrough core
    let fenced := (if level < 5 then home else home.acquire core).acquire core
    let before := if level < 5 then home else home.acquire core
    let after := s.acquire core
    let quiet (y : Slot) : Slot := { y with streams := y.streams.map fun t => { t with ahead := [] } }
    let settled : Slot := { x with domain := { x.domain with sent := none, result := none } }
    let turn (y : Slot) : Slot :=
      { y with ctl := { y.ctl with dmem := y.ctl.dmem ^^^ BitVec.twoPow 64 44 }, domain := { y.domain with counts := [] } }
    let contributes (i : Instr) (t : State) (kind : TreeKind) (code : Nat) (op : TreeOp) (w : Word) (vec : NMap Nat) : Prop :=
      let d := dieOf s.cur
      let r := routerOf s.cur
      let domid := x.ctl.dmem.toNat / 2 ^ 24 % 65536
      let epoch := match t.entryOf d r domid with
        | some (_, e) => e.epoch
        | none => 0
      let m : MeshMsg := ⟨core, d, r, d, r, .contrib ⟨domid, epoch, kind, op, w, w, vec, false, false, s.cur⟩⟩
      exec i s = .next (waitState .sync true (({ t with mesh := t.mesh ++ [m] } : State).setMe
        { t.me with domain := { t.me.domain with sent := some (epoch, code), entered := Config.package % 256 * 256 + d % 4 * 64 + r % 64 } }))
    let faults (i : Instr) (tv : Word) : Prop := exec i s = .next (takeTrap { cause := 0x53, tval := tv } (s.setMe settled))
    let waits (i : Instr) (sync : Bool) (go : Prop) : Prop :=
      if sync = true ∧ exchange = true ∧ s.sending = true then exec i s = .next (waitState .copyQueue false s)
      else if s.drained = false then exec i s = .next (waitState .drained false s)
      else if s.unsent s.cur = true then exec i s = .next (waitState .merged false s)
      else go
    (∀ f : Plain,
      let sh : Shape := ⟨f.h, [], none⟩
      let i := Instr.sync f
      s.ready sh = true →
      if x.inTree = false then waits i true (
        let n := if exchange = true ∧ x.domain.pattern.getLsbD (cl % 32) = true then (x.domain.counts.find (cl % 32)).getD 0 else 0
        let vec := if exchange then x.domain.counts.filter fun c => x.domain.pattern.getLsbD c.1 else []
        exec i s = .next (((fenced.expectMore cl n).missWords (dieOf s.cur) vec fun k => k == cl % 32).retires sh (turn (quiet x))))
      else match s.heard s.cur with
        | some (_, false, _) => exec i s = .next (after.retires sh (turn (quiet settled)))
        | some (_, true, tv) => faults i tv
        | none =>
          if x.domain.sent.isSome = true then exec i s = .next (waitState .sync true s)
          else waits i true (contributes i (before.setMe (quiet x)) .sync 0 .and (BitVec.allOnes 64)
            (if exchange then x.domain.counts.filter fun c => x.domain.pattern.getLsbD c.1 else []))) ∧
    (∀ f : Un,
      let i := Instr.syncX f
      let a := x.regs.getG f.a.n
      let ends (t : State) (v : Word) : Prop := t.writable .g f.rd = true →
        let y := turn (t.me.withG f.rd v)
        exec i s = .next (t.retires (unShape f) { y with domain := { y.domain with pattern := v } })
      s.ready (unShape f) = true →
      if x.inTree = false then waits i false (ends (fenced.setMe (quiet x)) a)
      else match s.heard s.cur with
        | some (v, false, _) => ends (after.setMe (quiet settled)) v
        | some (_, true, tv) => faults i tv
        | none =>
          if x.domain.sent.isSome = true then exec i s = .next (waitState .sync true s)
          else waits i false (contributes i (before.setMe (quiet x)) .syncX 1 .and a [])) ∧
    (∀ (f : Un), ∀ e ∈ [(Instr.voteAnd f, TreeOp.and), (.voteOr f, .or), (.voteAdd f, .add), (.voteMax f, .max)],
      let a := x.regs.getG f.a.n
      s.ready (unShape f) = true →
      if x.inTree = false then exec e.1 s = .next (s.retires (unShape f) (if x.item.isSome then turn (x.withG f.rd a) else x.withG f.rd a))
      else match s.heard s.cur with
        | some (v, false, _) =>
          let t := s.setMe settled
          t.writable .g f.rd = true → exec e.1 s = .next (t.retires (unShape f) (t.me.withG f.rd v))
        | some (_, true, tv) => faults e.1 tv
        | none =>
          if x.domain.sent.isSome = true then exec e.1 s = .next (waitState .sync true s)
          else contributes e.1 s .vote 2 e.2 a [])

/-- A combining entry gathers one epoch, sends one word up or delivers the result, counts the retired, and lets a waiting write take effect;
messages move by R17, in order between two units and by class, and leave for other packages (R17, R38, R39, R40, R41, R42, R43, R168, R345).
That LAST stays at EXCHANGE_PATTERN is the model's choice (log 76), and so is from when an entry combines (log 91); that RETIRED saturates at 127 is its reading (log 31). -/
def Obligations.TheTreeCombinesAndDelivers : Prop :=
  ∀ (s : State) (i : Nat),
    let all := [Instr.treeContribution i, .syncResultDelivery i, .doneArrival i]
    (∀ e ∈ all, (s.mesh[i]? = none ∨ ∃ m, s.mesh[i]? = some m ∧ (m.arrived = false ∨ s.mayMove i m = false)) → exec e s = .next s) ∧
    (s.mesh[i]? = none → exec (.meshMessageForward i) s = .next s) ∧
    (∀ m, s.mesh[i]? = some m → m.arrived = true → exec (.meshMessageForward i) s =
      .next (if m.body = .time then { s with mesh := s.mesh.eraseIdx i } else s)) ∧
    (∀ m, s.mesh[i]? = some m →
      (s.mayMove i m = true ↔ ∀ j x, j < i → s.mesh[j]? = some x → x.die = m.die → x.router = m.router → x.src = m.src →
        x.body.cls = m.body.cls → x.body.unit x.ddie x.drouter ≠ m.body.unit m.ddie m.drouter) ∧
      (s.linkFree m = true ↔ ∀ x ∈ s.mesh, x.die = m.die → x.router = m.router → ¬(x.die = x.ddie ∧ x.router = x.drouter) →
        nextHop x.die x.router x.ddie x.drouter = nextHop m.die m.router m.ddie m.drouter → m.body.cls ≤ x.body.cls)) ∧
    (∀ (t : State) (src die router place : Nat) (b : MeshBody), t.sendPlace src die router place b =
      if 48 ≤ place % 64 then t
      else if place / 256 % 256 ≠ Config.package % 256 then { t with fabric := t.fabric ++ [(place, b)] }
      else { t with mesh := t.mesh ++ [⟨src, die, router, place / 64 % 4, place % 64, b⟩] }) ∧
    (∀ m, s.mesh[i]? = some m → s.mayMove i m = true →
      let d := m.die
      let r := m.router
      let unit_ := 0x1000 + 64 * d + r
      let here := Config.package % 256 * 256 + d % 4 * 64 + r % 64
      let s1 : State := { s with mesh := s.mesh.eraseIdx i }
      let entry (t : State) (key : Nat) : Option TreeEntry := (t.die d).tree.find key
      let known (e : TreeEntry) (child : Bool) (src : Nat) : TreeEntry :=
        if child = true ∧ src / 256 % 256 ≠ Config.package % 256 then { e with foreign := setInsert e.foreign src } else e
      let delivers (ev : Instr) (key : Nat) (e : TreeEntry) (w : Word) (fault : Bool) (tv : Word) (vec : NMap Nat) (missed : Nat → Prop) : Prop :=
        let answer : MeshBody := .result e.domid e.epoch w fault tv vec
        ∃ t : State, exec ev s = .next t ∧
          entry t key = some { e with
            epoch := (e.epoch + 1) % 65536
            last := if fault then e.last else w
            got := e.got.filter fun c => c.epoch != e.epoch } ∧
          (∀ sid, t.slot sid =
            let x := s.slot sid
            if dieOf sid = d ∧ routerOf sid = r ∧ x.domid = e.domid ∧ x.inTree = true ∧ x.domain.sent.map (·.1) = some e.epoch then
              { x with domain := { x.domain with result := some (w, fault, tv) } } else x) ∧
          (∀ k, (t.cluster k).inbox.expect = (s.cluster k).inbox.expect +
            if r < 32 ∧ k = d * 32 + r ∧ e.loc ≠ 0 ∧ fault = false then (vec.find r).getD 0 else 0) ∧
          (∀ k, (t.cluster k).inbox.missed = true ↔ (s.cluster k).inbox.missed = true ∨ missed k) ∧
          (∀ x ∈ s.dies, x.1 < 4 → ∀ k ∈ x.2.tree, k.2.domid = e.domid → k.2.parent = here → here ≠ 0xFFFF → k.1 / 16 < 48 →
            (⟨unit_, d, r, x.1, k.1 / 16, answer⟩ : MeshMsg) ∈ t.mesh) ∧
          (∀ k ∈ e.foreign, k % 64 < 48 → k / 256 % 256 ≠ Config.package % 256 → (k, answer) ∈ t.fabric) ∧
          t.mem = s.mem ∧ t.cores = s.cores
      m.arrived = true →
      (∀ c, m.body = .contrib c →
        let ev := Instr.treeContribution i
        match s.entryOf d r c.domid with
        | none => exec ev s = .next s1
        | some (key, e0) =>
          let e : TreeEntry := { known e0 c.child c.src with got := e0.got ++ [c] }
          (e.complete = false → exec ev s = .next (s1.setEntry d key e)) ∧
          (∀ w, e.complete = true → Contrib.mergeAll e.now = some w →
            (∀ ws x, e.writes = ws ++ [x] → ∃ t, exec ev s = .next t ∧ entry t key = some x.2.2.entry ∧
              ∀ y ∈ e.writes, y.1 < 65536 →
                (⟨unit_, d, r, dieOf y.1, routerOf y.1, .mtReply y.1 y.2.1 none⟩ : MeshMsg) ∈ t.mesh) ∧
            (e.writes = [] →
              (e.parent ≠ 0xFFFF → exec ev s = .next
                ((s1.setEntry d key { e with got := e.got.filter fun c => c.epoch != e.epoch }).sendPlace unit_ d r e.parent
                  (.contrib { w with child := true, src := here }))) ∧
              (e.parent = 0xFFFF →
                if w.bad = true then delivers ev key e 0 true 0 [] fun _ => False
                else if w.kind = .syncX ∧ w.w ≠ w.w2 then delivers ev key e 0 true (w.w ^^^ w.w2) [] fun _ => False
                else delivers ev key e w.w false 0 w.vec fun k => ∃ x ∈ w.vec, x.2 ≠ 0 ∧ x.1 < 32 ∧ k = d * 32 + x.1 ∧
                  ∀ y, s.entryOf d x.1 e.domid = some y → y.2.loc = 0)))) ∧
      (∀ domid epoch w fault tv vec, m.body = .result domid epoch w fault tv vec →
        match s.entryOf d r domid with
        | none => exec (.syncResultDelivery i) s = .next s1
        | some (key, e) =>
          if e.epoch ≠ epoch then exec (.syncResultDelivery i) s = .next s1
          else delivers (.syncResultDelivery i) key e w fault tv vec fun _ => False) ∧
      (∀ domid child src, m.body = .done domid child src →
        let ev := Instr.doneArrival i
        match s.entryOf d r domid with
        | none => exec ev s = .next s1
        | some (key, e) =>
          let e1 : TreeEntry := if child then { known e true src with doneChildren := e.doneChildren + 1 } else { e with retired := Nat.min 127 (e.retired + 1) }
          let gone (e : TreeEntry) : Prop := e.loc ≤ e.retired ∧ e.child ≤ e.doneChildren
          e1.complete = false →
          (¬gone e1 ∨ gone e → exec ev s = .next (s1.setEntry d key e1)) ∧
          (gone e1 → ¬gone e →
            (e.parent = 0xFFFF → exec ev s = .next
              ((s1.setEntry d key e1).sendMsg d r e.owner 2 (BitVec.ofNat 64 (domid + e.epoch * 65536)))) ∧
            (e.parent ≠ 0xFFFF → exec ev s = .next
              ((s1.setEntry d key e1).sendPlace unit_ d r e.parent (.done domid true here)))))) ∧
    (∀ m, s.mesh[i]? = some m → m.arrived = false →
      let grid (a b : Nat) : Nat :=
        if a % 8 < b % 8 then a + 1 else if b % 8 < a % 8 then a - 1 else if a / 8 < b / 8 then a + 8 else if b / 8 < a / 8 then a - 8 else a
      let out := if (m.ddie + 4 - m.die) % 4 = 3 then 46 else 45
      let hop := if m.die = m.ddie then (m.die, grid m.router m.drouter)
        else if m.router = out then (if out = 45 then ((m.die + 1) % 4, 46) else ((m.die + 3) % 4, 45))
        else (m.die, grid m.router out)
      exec (.meshMessageForward i) s = .next (if s.mayMove i m = true ∧ s.linkFree m = true then
        { s with mesh := setAt s.mesh i { m with die := hop.1, router := hop.2 } } else s))

/-- GO starts an exchange, its completion swaps two frames and their leaf entries or restores them, data-cache lines follow
their pages, and a line fill checks parity (R361, R362, R87, R89, R163). That the oldest of 512 lines leaves on a fill is the model's choice
(log 69). -/
def Obligations.SwapsExchangeFramesAndLinesFill : Prop :=
  ∀ (s : State), s.memoriesOk = true →
    (let x := s.me
     let n := pteFrame (s.read8 x.ctl.swptea.toNat)
     let d := n / 2 ^ 37 % 4
     let t := s.setMe { x with ports := { x.ports with swcmd := x.ports.swcmd ||| 8 } }
     exec .swapGo s = .next (if x.ports.swcmd.getLsbD 3 = true then s else
       t.setDie d { t.die d with
         swaps := (t.die d).swaps ++ [⟨s.cur, x.ctl.swptea.toNat, x.ctl.swpteb.toNat, n / 2 ^ 36 % 2, false⟩] })) ∧
    (∀ (d k : Nat) (farOk : Bool),
      let i := Instr.swapExchangeComplete d k farOk
      match (s.die d).swaps[k]? with
      | none => exec i s = .next s
      | some w =>
        let ea := s.read8 w.pa
        let eb := s.read8 w.pb
        let n := pteFrame ea
        let f := pteFrame eb
        let entry (a b : Nat) : Prop := b ≤ a ∧ a < b + 8
        let frame (a b : Nat) : Prop := b ≤ a ∧ a < b + 65536
        (w.begun = false ∨ s.frameBusy n = true → exec i s = .next s) ∧
        (w.begun = true → s.frameBusy n = false → (w.pa + 8 ≤ w.pb ∨ w.pb + 8 ≤ w.pa) →
          ∃ t : State, exec i s = .next t ∧ (t.die d).swaps = (s.die d).swaps.eraseIdx k ∧
            (t.slot w.sid).ports.swcmd = (if farOk then 0 else 0x40) ∧
            (farOk = false → t.read8 w.pa = ea &&& ~~~0x400 ∧ t.read8 w.pb = eb &&& ~~~0x400 ∧
              ∀ a, ¬entry a w.pa → ¬entry a w.pb → t.mem.read a = s.mem.read a) ∧
            (farOk = true → n ≠ f → (w.pa + 8 ≤ n ∨ n + 65536 ≤ w.pa) → (w.pa + 8 ≤ f ∨ f + 65536 ≤ w.pa) →
              (w.pb + 8 ≤ n ∨ n + 65536 ≤ w.pb) → (w.pb + 8 ≤ f ∨ f + 65536 ≤ w.pb) →
              (∀ c, t.core c = { s.core c with dcache := (s.core c).dcache.map fun l => { l with
                pa := if l.pa / 65536 = n / 65536 then f + l.pa % 65536 else if l.pa / 65536 = f / 65536 then n + l.pa % 65536 else l.pa } }) ∧
              (∀ j, j < 65536 → t.mem.read (n + j) = s.mem.read (f + j) ∧ t.mem.read (f + j) = s.mem.read (n + j)) ∧
              t.read8 w.pa = (ea &&& ~~~0x0000FFFFFFFF0600 ||| 0x200 ||| BitVec.ofNat 64 f) ∧
              t.read8 w.pb = (eb &&& ~~~0x0000FFFFFFFF0600 ||| BitVec.ofNat 64 n) ∧
              ∀ a, ¬entry a w.pa → ¬entry a w.pb → ¬frame a n → ¬frame a f → t.mem.read a = s.mem.read a))) ∧
    (∀ (sid : Nat) (line : Word),
      let i := Instr.icacheFill sid line
      let x := s.slot sid
      let core := coreOf sid
      let va := line &&& ~~~63
      let asid := effAsid x.ctl.asid.toNat va.toNat
      let hit (l : ICLine) : Bool := l.asid == asid && l.va == va.toNat && (l.user || x.mode != .u)
      (sidExists sid = false → exec i s = .next s) ∧
      (sidExists sid = true → canonical va.toNat = true → (x.mode = .u → supervisor va.toNat = false) →
        (∀ l ∈ (s.core core).icache, hit l = true → exec i s = .next s) ∧
        (∀ (pa : Nat) (t : State), (∀ l ∈ (s.core core).icache, hit l = false) → s.translate x.ctl.asid.toNat va.toNat .fetch x.mode true = (.ok pa, t) →
          let pas := (List.range 64).map (pa / 64 * 64 + ·)
          let bits := lineOfBytes (pas.map t.mem.read)
          t.physPoisoned pas = false →
          (lineParityOk bits = true → (t.core core).glitch = false → ∃ u, exec i s = .next
            (t.setCore core { t.core core with
              icache := (⟨asid, va.toNat, u, bits⟩ :: (t.core core).icache.filter fun y => !(y.asid == asid && y.va == va.toNat)).take 512 })) ∧
          (lineParityOk bits = false →
            if x.phase = .ready ∧ x.pc &&& ~~~63 = va ∧ x.sched.vecFetch = false ∧ x.rep.mode = .off then
              ∃ u : State, exec i s = .next (u.trapAt sid { cause := 0x04, tval := va }) ∧ u.slots = t.slots ∧ u.mem = t.mem ∧ u.cores = t.cores
            else exec i s = .next s))))

/-- Events of the issue counters, of TIME and its lock, and of core clocks set exactly the fields that R28, R29, R378 and
R383 name; TIME passes to the next window start at most, where lines filled before the previous window leave (R264, R28, R29, R267, R378, R383, R385, R386).
That PTP_SYNC does not move TIME and that TIME stops at window starts is the model's reading (log 23); that router 47 of die 0 sends the offset
to the other dies is its choice (log 84). -/
def Obligations.TimeSelectorAndClockEvents : Prop :=
  ∀ (s : State),
    let issue (core : Nat) (f : Issue → Issue) : State := s.setCore core { s.core core with issue := f (s.core core).issue }
    let c := s.clock
    (∀ sid : Nat, let x := s.slot sid
      exec (.agePromotion sid) s = .next (if x.sched.age = 1023 then s.setSlot sid { x with sched := { x.sched with age := 1024 } } else s)) ∧
    (∀ core : Nat,
      let i := (s.core core).issue
      let ready : Prop := ∃ k, k < slotCount core ∧ (s.slot (8 * core + k)).phase = .ready
      exec (.p3PeriodStart core) s = .next (issue core fun x => { x with used := 0 }) ∧
      exec (.p3BudgetExhausted core) s = .next (if i.used + 1 = i.limit then issue core (fun x => { x with used := i.limit }) else s) ∧
      (ready ∨ (s.core core).copyq ≠ [] ∨ (s.core core).tileq ≠ [] → exec (.clockPause core) s = .next s) ∧
      (¬ready → (s.core core).copyq = [] → (s.core core).tileq = [] →
        exec (.clockPause core) s = .next (issue core fun x => { x with paused := true })) ∧
      exec (.clockRestart core) s = .next (if i.paused = true then issue core (fun x => { x with paused := false }) else s) ∧
      (∀ percent, exec (.supplyDroop core percent) s = .next (issue core fun x => { x with droop := decide (0 < percent) })) ∧
      exec (.ballastStart core) s = .next (if isCompute core = true then issue core (fun x => { x with ballast := true }) else s) ∧
      exec (.ballastEnd core) s = .next (if isCompute core = true then issue core (fun x => { x with ballast := false }) else s)) ∧
    exec .timestatKApply s = .next { s with clock := { c with k := c.pendingK.getD c.k, pendingK := none } } ∧
    (∀ offset : Int, ∃ t, exec (.ptpSync offset) s = .next t ∧ t = { s with
        clock := t.clock
        mesh := s.mesh ++ [1, 2, 3].map fun k => (⟨0x1000 + 47, 0, 47, k, 47, .time⟩ : MeshMsg) } ∧ t.clock.time = c.time ∧ t.clock.k = c.k ∧
      t.clock.offset = offset ∧ t.clock.lastSync = c.time ∧
      t.clock.lock = (if offset.natAbs ≤ 100 then true else if 200 < offset.natAbs then false else c.lock) ∧
      t.clock.lost = (c.lost || (decide (200 < offset.natAbs) && c.lock))) ∧
    exec .timeLockLost s = .next (if 200 < c.offset.natAbs ∨ c.lastSync + 10000000 ≤ c.time then
      { s with clock := { c with lock := false, lost := c.lost || c.lock } } else s) ∧
    (∀ d : Nat,
      let p := (s.die d).power
      (∃ t : State, exec (.currentRampHold d) s = .next t ∧ t = { s with cores := t.cores, tick := t.tick } ∧
        ∀ core, { t.core core with issue := { (t.core core).issue with paused := (s.core core).issue.paused } } = s.core core ∧
          ((s.core core).issue.paused = true → (t.core core).issue.paused = true) ∧ (core / 512 ≠ d → t.core core = s.core core)) ∧
      (∀ region temp, region < 16 → ∃ t : State, exec (.regionHot d region temp) s = .next t ∧ t = { s with dies := t.dies } ∧
        (∀ r, r < 16 → (t.die d).power.hot.getLsbD r = if r = region ∧ p.thot ≤ temp then true
          else if r = region ∧ temp + p.hyst ≤ p.thot then false else p.hot.getLsbD r) ∧
        { t.die d with power := { (t.die d).power with hot := p.hot } } = s.die d ∧ ∀ k, k ≠ d → t.die k = s.die k) ∧
      (∃ t : State, exec (.overBudgetStretch d) s = .next t ∧ t = { s with cores := t.cores } ∧
        ∀ core, t.core core = if core / 512 = d ∧ coreExists core = true then
          { s.core core with issue := { (s.core core).issue with
            stretched := !isManagement core && decide (p.held < p.draw) && (p.overSince.any fun u => decide (u + 2000 ≤ c.time)) &&
              p.overBudget.getLsbD (core / 16 % 32 / 2) } } else s.core core)) ∧
    (∀ ns : Nat, let w := 2 ^ c.k
      let done (n : Nat) : Prop := ∀ x ∈ s.host.sessions, n < x.2.lastRx + 1000000000
      ∃ t : State, s.takeTurn exec (.tickTime ns) = .next t ∧ c.time ≤ t.clock.time ∧ t.clock.time ≤ c.time + ns ∧
        t.clock.time ≤ (c.time / w + 1) * w ∧
        (c.time + ns < (c.time / w + 1) * w → (c.pendingK = none ∨ c.time + ns < (c.time / 4096 + 1) * 4096) →
          (c.lock = false ∨ c.offset.natAbs ≤ 200 ∧ c.time + ns < c.lastSync + 10000000) → done (c.time + ns) →
          t = { s with clock := { c with time := c.time + ns } }) ∧
        ((∀ core, (s.core core).sb = []) → (c.time / w + 1) * w ≤ c.time + ns → c.pendingK = none →
          (c.lock = false ∨ c.offset.natAbs ≤ 200 ∧ (c.time / w + 1) * w < c.lastSync + 10000000) → done ((c.time / w + 1) * w) →
          t.clock.time = (c.time / w + 1) * w) ∧
        (0 < ns → c.pendingK = none → t.clock.time % w = 0 →
          ∀ core, ∀ l ∈ (t.core core).dcache, l.stuck = true ∨ t.clock.time ≤ l.filled + w) ∧
        (∀ k, c.pendingK = some k → c.time < t.clock.time → t.clock.time % 4096 = 0 → t.clock.k = k ∧ t.clock.pendingK = none))

/-- The token passes the dies that take part in ring order; a die gives up what exceeds its draw and 5 % and takes up to its deficit from the free
units, so that the holdings and the free units sum to PKG, and the regions over budget follow (R384, R385). How a fraction of a unit falls, and
that a failed die is passed over, are the model's choices (log 41, log 83). -/
def Obligations.TokenKeepsTheBudget : Prop :=
  ∀ (s : State) (d draw : Nat) (regions : List Nat),
    let ev := Instr.powerTokenPass d ⟨draw, regions⟩
    let total := (s.die 0).power.held + (s.die 1).power.held + (s.die 2).power.held + (s.die 3).power.held
    let here (i : Nat) : Prop := ∃ m, s.mesh[i]? = some m ∧ m.body = .token ∧ m.die = d ∧ m.arrived = true ∧ s.mayMove i m = true
    ((∀ i, ¬here i) → exec ev s = .next s) ∧
    (∀ i, d < 4 → here i → (∀ j, j < i → ¬here j) →
      ∃ e, e < 4 ∧ ((s.die ((d + 1) % 4)).absent = false → e = (d + 1) % 4) ∧
      let mesh := s.mesh.eraseIdx i ++ [⟨0x1000 + 64 * d + 40, d, 40, e, 40, .token⟩]
      ((s.die d).absent = true → exec ev s = .next { s with mesh := mesh }) ∧
      ((s.die d).absent = false → ∃ t : State, exec ev s = .next t ∧
        t = { s with dies := t.dies, budget := t.budget, tick := t.tick, mesh := mesh } ∧
        t.budget.pkg = s.budget.pkg ∧
        (t.die 0).power.held + (t.die 1).power.held + (t.die 2).power.held + (t.die 3).power.held + t.budget.free = s.budget.pkg ∧
        (t.die d).power.draw = draw ∧
        (∃ need, draw * 105 < 100 * need + 100 ∧ 100 * need < draw * 105 + 100 ∧ (t.die d).power.held ≤ need ∧
          ((t.die d).power.held < need → t.budget.free = 0)) ∧
        (∀ k, k < 4 → k ≠ d → let h := (s.die k).power.held
          (total ≤ s.budget.pkg → (t.die k).power.held = h) ∧
          (s.budget.pkg < total → h * s.budget.pkg / total ≤ (t.die k).power.held ∧ (t.die k).power.held ≤ h * s.budget.pkg / total + 1)) ∧
        ∀ k, k < 4 → let p := (t.die k).power
          (∀ r, r < 16 → (p.overBudget.getLsbD r = true ↔ p.held < p.draw ∧ p.held < 16 * (p.regions.find r).getD 0)) ∧
          (p.overSince.isSome = true ↔ p.held < p.draw) ∧
          (k = d → ∀ r, r < 16 → p.regions.find r = some (regions[r]?.getD 0))))

/-- Host datagrams are checked, numbered and acknowledged, and what the device sends has the header of R372; HELLO opens sessions (log 39);
LAUNCH, MEMWRITE and MEMREAD act and answer; a silent session ends (R371, R372, R373, R374, R375, R376). Where die 0 has failed, no datagram
arrives and no session opens: the model's reading (log 83). -/
def Obligations.HostMessagesArePerformed : Prop :=
  ∀ (s : State),
    let out (t : State) (ms : List Kht) : State := { t with host := { t.host with out := t.host.out ++ ms.map Kht.bytes } }
    let now := s.clock.time
    let up := (s.die 0).absent = false
    (∀ m : Kht, m.ver < 65536 → m.ty < 65536 → m.flags < 65536 → m.session < 2 ^ 32 → m.seq < 2 ^ 32 → m.ack < 2 ^ 32 →
      m.status < 2 ^ 32 → m.payload.length ≤ 8192 →
      let bs := m.bytes
      bs.length = 32 + m.payload.length ∧ bs.drop 32 = m.payload ∧ numAt bs 0 2 = 0x4B48 ∧ numAt bs 2 1 = m.ver / 256 ∧ numAt bs 3 1 = m.ver % 256 ∧
        numAt bs 4 2 = m.ty ∧ numAt bs 6 2 = m.flags ∧ numAt bs 8 4 = m.session ∧ numAt bs 12 4 = m.seq ∧ numAt bs 16 4 = m.ack ∧
        numAt bs 20 4 = m.payload.length ∧ numAt bs 24 4 = m.status ∧ numAt bs 28 4 = crc32 (bs.take 28 ++ toBytes 4 0 ++ m.payload) ∧
        khtParse bs = some m) ∧
    (∀ f : EthFrame,
      let i := Instr.ethernetFrame f
      (¬up ∨ 9216 < f.size ∨ f.kht = false ∨ khtParse f.payload = none → exec i s = .next s) ∧
      (∀ m, up → f.size ≤ 9216 → f.kht = true → khtParse f.payload = some m →
        (m.ty = 0x01 → exec i s = .next { s with host := { s.host with hellos := s.host.hellos ++ [m] } }) ∧
        (m.ty ≠ 0x01 → s.host.sessions.find m.session = none → exec i s = .next s) ∧
        (∀ x, m.ty ≠ 0x01 → s.host.sessions.find m.session = some x → x.rx = [] → x.unacked = [] → x.later = [] → m.flags % 2 = 0 →
          now < x.lastRx + 1000000000 →
          (m.seq = x.rxNext → x.rxNext < 2 ^ 32 → m.ver = x.ver → (m.ty = 0x10 ∨ m.ty = 0x20 ∨ m.ty = 0x21 ∨ m.ty = 0x30) →
            exec i s = .next (s.putSession m.session { x with lastRx := now, rx := [m], rxNext := (x.rxNext + 1) % 2 ^ 32, ackDue := true })) ∧
          (seqBefore m.seq x.rxNext = true → exec i s = .next (s.putSession m.session { x with lastRx := now, ackDue := true }))) ∧
        (∀ x, m.ty ≠ 0x01 → s.host.sessions.find m.session = some x → x.lastRx + 1000000000 ≤ now →
          ∃ t : State, exec (.khtSessionTimeout m.session) s = .next t ∧ (t.host.sessions.find m.session = none → exec i s = .next t)))) ∧
    (¬up → ∀ k : Nat, exec (.hello k) s = .next s) ∧
    (up → ∀ k : Nat, match s.host.hellos[k]? with
      | none => exec (.hello k) s = .next s
      | some m =>
        let t : State := { s with host := { s.host with hellos := s.host.hellos.eraseIdx k } }
        let lo := numAt m.payload 0 1 * 256 + numAt m.payload 1 1
        let hi := numAt m.payload 2 1 * 256 + numAt m.payload 3 1
        let common (v : Nat) : Prop := lo ≤ v ∧ v ≤ hi ∧ (v = 0x100 ∨ v = 0x101 ∨ v = 0x102)
        (m.payload.length ≠ 4 → exec (.hello k) s = .next t) ∧
        (m.payload.length = 4 →
          (∀ v, common v → 64 ≤ s.host.sessions.length → exec (.hello k) s = .next t) ∧
          (∀ v, common v → (∀ w, common w → w ≤ v) → s.host.sessions.length < 64 →
            let n := s.host.nextSession
            exec (.hello k) s = .next (out { t with host := { t.host with
              sessions := t.host.sessions.insert n ⟨v, 0, 0, [], [], [], false, [], none, now⟩, nextSession := n + 1 } } [⟨0x02, 0, n, 0, 0, 0, v, []⟩])) ∧
          ((∀ v, ¬common v) → ∃ v, exec (.hello k) s = .next (out { t with tick := s.tick + 1 } [⟨0x02, 0, 0, 0, 0, 1, v, [1, 0, 1, 2]⟩])))) ∧
    (∀ n : Nat,
      let t := s.settled n
      (t.host.sessions.find n = none → exec (.ack n) s = .next t) ∧
      (∀ x, t.host.sessions.find n = some x → exec (.ack n) s = .next (if x.ackDue then
        out (t.putSession n { x with ackDue := false }) [⟨0x03, 1, n, 0, x.rxNext, 0, x.ver, []⟩] else t)) ∧
      (t.readyMsg n 0x10 = none → exec (.launch n) s = .next t) ∧
      (t.readyMsg n 0x20 = none → exec (.memwrite n) s = .next t) ∧
      (t.readyMsg n 0x21 = none → exec (.memread n) s = .next t) ∧
      (∀ m, t.readyMsg n 0x10 = some m →
        let bytes := m.payload
        let count := (bytes.length - 8) / 64
        let good := bytes.length = 8 + 64 * count ∧ 1 ≤ count ∧ count ≤ 16 ∧ (m.ver = 0x100 → count = 1) ∧ zeroBytes bytes 2 8 = true
        (¬good → exec (.launch n) s = .next ((t.popRx n).khtSend n 0x11 4 [])) ∧
        (∀ x, good → (t.popRx n).host.sessions.find n = some x →
          let q := numAt bytes 0 2
          let u := if q < 1024 then q / 128 else 0
          exec (.launch n) s = .next (((t.popRx n).putSession n { x with launch := List.replicate count none }).setUnit u
            { t.unit u with cmds := (t.unit u).cmds ++ (List.range count).map fun k =>
              ⟨0xFFFF, 0, .s, .enq q ((bytes.drop (8 + 64 * k)).take 64), .launch n k, false⟩ }))) ∧
      (∀ m, t.readyMsg n 0x20 = some m →
        let bad := m.payload.length < 16 ∨ zeroBytes m.payload 2 8 = false
        (bad → exec (.memwrite n) s = .next ((t.popRx n).khtSend n 0x03 4 [])) ∧
        (¬bad → match t.hostWrites (numAt m.payload 0 2) (dataWrites .g 0 (numAt m.payload 8 8) (m.payload.drop 16) 0) with
          | .ok _ u => exec (.memwrite n) s = .next (u.popRx n)
          | .fail code _ u => exec (.memwrite n) s = .next ((u.popRx n).khtSend n 0x03 code [])
          | .wait _ => exec (.memwrite n) s = .next t)) ∧
      (∀ m, t.readyMsg n 0x21 = some m →
        let len := ofBytes (m.payload.drop 16)
        let bad := m.payload.length ≤ 16 ∨ 8176 < len ∨ zeroBytes m.payload 2 8 = false
        (bad → exec (.memread n) s = .next ((t.popRx n).khtSend n 0x22 4 [])) ∧
        (¬bad → match t.engReads none (numAt m.payload 0 2) .s .g 0 (wordPieces (numAt m.payload 8 8) len) with
          | .ok bs u => exec (.memread n) s = .next ((u.popRx n).khtSend n 0x22 0 bs)
          | .fail code _ u => exec (.memread n) s = .next ((u.popRx n).khtSend n 0x22 code [])
          | .wait _ => exec (.memread n) s = .next t)) ∧
      (s.host.sessions.find n = none → exec (.khtResend n) s = .next s ∧ exec (.khtSessionTimeout n) s = .next s) ∧
      (∀ x, s.host.sessions.find n = some x →
        ((∀ u ∈ x.unacked, now < u.due) → exec (.khtResend n) s = .next s) ∧
        (∀ before u after, x.unacked = before ++ u :: after → (∀ y ∈ before, now < y.due) → u.due ≤ now →
          let gap := Nat.min 1600000 (2 * u.gap)
          exec (.khtResend n) s = .next (out (s.putSession n { x with unacked := before ++ ⟨u.m, now + gap, gap⟩ :: after }) [{ u.m with ack := x.rxNext }])) ∧
        (now < x.lastRx + 1000000000 → exec (.khtSessionTimeout n) s = .next s) ∧
        (x.lastRx + 1000000000 ≤ now → ∃ t : State, exec (.khtSessionTimeout n) s = .next t ∧ t = { s with host := t.host, units := t.units } ∧
          t.host = { s.host with sessions := s.host.sessions.erase n } ∧
          ∀ k, (t.unit k).queues = (s.unit k).queues ∧ (t.unit k).cmds = (s.unit k).cmds.filter fun c => match c.ans with
            | .launch m _ => m != n
            | _ => true)))

/-- LOAD gathers and negotiates an image, forwarding and role start follow the boot tree, reset restarts all, and OL ports
train (R124, R125, R377, R379, R380, R381, R382). That a failed die trains no port and starts no strand is the model's reading
(log 83); the order of the refusal codes (log 92) and an entry of the boot tree whose TO is not covered (log 93) are its choices. -/
def Obligations.ImagesLoadStartAndLinksTrain : Prop :=
  ∀ (s : State),
    (∀ n : Nat,
      let t := s.settled n
      (t.readyMsg n 0x30 = none → exec (.load n) s = .next t) ∧
      (∀ m x, t.readyMsg n 0x30 = some m → t.host.sessions.find n = some x →
        let off := numAt m.payload 8 8
        let mask := if off = 0 then numAt m.payload 0 1 else (x.image.getD (0, [])).1
        let had := if off = 0 then [] else (x.image.getD (0, [])).2
        let bad := m.payload.length < 16 ∨ zeroBytes m.payload 1 8 = false ∨ off ≠ had.length
        let whole := had ++ m.payload.drop 16
        let part := whole.length < 64 ∨ whole.length < numAt whole 56 8
        (bad → exec (.load n) s = .next ((t.popRx n).khtSend n 0x31 4 [])) ∧
        (¬bad → part → exec (.load n) s = .next ((t.putSession n { x with image := some (mask, whole) }).popRx n)) ∧
        (∀ code, ¬bad → ¬part → negotiate whole = .error code →
          exec (.load n) s = .next (((t.putSession n { x with image := none }).popRx n).khtSend n 0x31 code [])) ∧
        (∀ features u, ¬bad → ¬part → negotiate whole = .ok features →
          ((t.putSession n { x with image := none }).popRx n).loadAccepted n mask whole = some u → exec (.load n) s = .next u) ∧
        (∀ features, ¬bad → ¬part → negotiate whole = .ok features →
          ((t.putSession n { x with image := none }).popRx n).loadAccepted n mask whole = none → exec (.load n) s = .next t))) ∧
    (∀ (i : Nat) (ok : Bool),
      let ev := Instr.roleImageForward i ok
      (s.mesh[i]? = none → exec ev s = .next s) ∧
      (∀ m, s.mesh[i]? = some m →
        (m.arrived = false ∨ s.mayMove i m = false ∨ (∀ id a c r last, m.body ≠ .image id a c r last) → exec ev s = .next s) ∧
        (∀ id a c r last, m.body = .image id a c r last → m.arrived = true → s.mayMove i m = true →
          let s1 : State := { s with mesh := s.mesh.eraseIdx i }
          (ok = true → last = false → exec ev s = .next s1) ∧
          (∀ b, s.boot id = some b → (ok = true → last = true) →
            let held : List (Nat × Nat) := if ok then (c, r) :: b.holds else b.holds
            ∃ t : State, exec ev s = .next t ∧ t.mem = s.mem ∧ t.slots = s.slots ∧ t.clusters = s.clusters ∧
              (∀ k, t.core k = if ok = true ∧ k = c ∧ Image.roleOf b.image c = some r then
                { s.core k with image := some ((Image.text b.image r).1, (Image.text b.image r).1 + (Image.text b.image r).2.2) } else s.core k) ∧
              (∀ b', t.boot id = some b' → b'.holds = held ∧ (ok = false → b'.failed = true) ∧ ∀ e ∈ b'.edges, (e.1, e.2.2) ∉ held) ∧
              (b.edges = [] → b.sent = [(a, c, r)] →
                (ok = false ∨ b.failed = true ∨ (∃ x ∈ b.starts, x ∉ held) → ∃ u : State, t = u.khtSend b.session 0x31 7 [] ∧
                  u.host.sessions = s.host.sessions ∧ u.clock = s.clock) ∧
                (∀ f, ok = true → b.failed = false → (∀ x ∈ b.starts, x ∈ held) → negotiate b.image = .ok f →
                  ∃ u : State, t = u.khtSend b.session 0x31 0 (toBytes 8 f) ∧ u.host.sessions = s.host.sessions ∧ u.clock = s.clock)))))) ∧
    (∀ core : Nat,
      let mine (b : Boot) : Bool := b.edges.isEmpty && b.sent.isEmpty && b.starts.any fun x => x.1 == core
      let sid := 8 * core + (if isManagement core then 1 else 0)
      ((∀ b ∈ s.host.boots, mine b = false) → exec (.roleStart core) s = .next s) ∧
      (∀ b r, s.host.boots.find? mine = some b → b.starts.find? (fun x => x.1 == core) = some (core, r) →
        (b.scratched = false → exec (.roleStart core) s = exec (.roleStart core) ((s.loadScratches b).setBoot { b with scratched := true })) ∧
        (b.scratched = true →
          let left := b.starts.erase (core, r)
          let t := if left = [] then s.dropBoot b.id else s.setBoot { b with starts := left }
          let entry := BitVec.ofNat 64 (Image.entry b.image r 0)
          (∀ code, t.startStatus (BitVec.ofNat 64 sid) entry (Image.startBlock b.image r) = some code → exec (.roleStart core) s = .next t) ∧
          (t.startStatus (BitVec.ofNat 64 sid) entry (Image.startBlock b.image r) = none → ∃ u : State, exec (.roleStart core) s = .next u ∧
            (u.slot sid).phase = .ready ∧ (u.slot sid).pc = entry ∧ (u.slot sid).sched.checked = true ∧
            (u.slot sid).ctl.asid = (s.slot (0x1000 * (core / 512) + 0x78)).ctl.asid ∧
            (u.slot sid).mode = privOf (BitVec.ofNat 64 (numAt (Image.startBlock b.image r) 8 8)))))) ∧
    (∃ t : State, exec .powerOnReset s = .next t ∧ (∀ sid, sid % 0x1000 ≠ 0x78 ∨ 0x4000 ≤ sid → (t.slot sid).phase = .free) ∧
      (∀ d, d < 4 → let y := t.slot (0x1000 * d + 0x78)
        y.mode = .m ∧ y.phase = if (t.die d).absent then .suspended true else .ready) ∧
      t.mem = [] ∧ t.cores = [] ∧ t.mesh = [⟨0x1000 + 40, 0, 40, 0, 40, .token⟩] ∧ t.fabric = [] ∧ t.saved = [] ∧ t.host.boots = [] ∧ t.host.sessions = [] ∧ t.clock = State.reset.clock ∧ t.budget = State.reset.budget ∧
      ∀ c, (t.cluster c).mem = [] ∧ (t.cluster c).groups = [] ∧ (t.cluster c).banks = []) ∧
    (∀ p : Nat,
      let d := p / 16 % 4
      let port (t : State) : Option OlPort := (t.die d).ports.find (p % 16)
      let frame (t : State) : Prop := t.mem = s.mem ∧ t.slots = s.slots ∧ t.clusters = s.clusters
      let common (lo hi v : Nat) : Prop := v ∈ Config.linkVersions ∧ lo ≤ v ∧ v ≤ hi
      let failed (t : State) : Prop := frame t ∧ (t.die d).ports = (s.die d).ports.erase (p % 16) ∧
        ((s.die d).errs.length < 64 → (t.die d).errs = (s.die d).errs ++ [⟨8, 0, 0xF000 + p % 64, s.clock.time / 1000 % 2 ^ 32, 0⟩])
      (∀ lanes lo hi reach, let ev := Instr.olLinkTraining p ⟨lanes, lo, hi, reach⟩
        ((s.die d).absent = true → exec ev s = .next s) ∧
        (∀ v, (s.die d).absent = false → lanes = 1 ∨ lanes = 2 ∨ lanes = 4 → common lo hi v → (∀ w, common lo hi w → w ≤ v) →
          ∃ t : State, exec ev s = .next t ∧ frame t ∧ port t = some ⟨lanes, v, reach, [], []⟩) ∧
        ((s.die d).absent = false → (lanes ≠ 1 ∧ lanes ≠ 2 ∧ lanes ≠ 4) ∨ (∀ v, ¬common lo hi v) → ∃ t : State, exec ev s = .next t ∧ failed t)) ∧
      (port s = none → (∀ vc n data ok, exec (.olFlitReceive p ⟨vc, n, data, ok⟩) s = .next s) ∧ exec (.olLinkDown p) s = .next s) ∧
      (∀ x, port s = some x →
        (∀ vc n data ok, let ev := Instr.olFlitReceive p ⟨vc, n, data, ok⟩
          let due := (x.next.find vc).getD 0
          (ok = false ∨ n ≠ due ∨ data.length ≠ 256 → exec ev s = .next s) ∧
          (data.length = 256 → ∃ t : State, exec (.olFlitReceive p ⟨vc, due, data, true⟩) s = .next t ∧ frame t ∧
            port t = some { x with next := x.next.insert vc (due + 1), rx := x.rx.insert vc ((x.rx.find vc).getD [] ++ [data]) })) ∧
        (∃ t : State, exec (.olLinkDown p) s = .next t ∧ failed t)))

/-- What reset leaves: one READY firmware strand in M on each die, empty memories, and the reset values the tables give
(R381, R20, R25, R29, R228, R247, R326, R356, R359, R384, R385, R388). -/
def Obligations.ResetLeavesTheMachine : Prop :=
  (∀ sid : Nat, (State.reset.slot sid).phase = if sid % 0x1000 = 0x78 ∧ sid < 0x4000 then .ready else .free) ∧
    (∀ d, d < 4 → (State.reset.slot (0x1000 * d + 0x78)).mode = .m) ∧
    State.reset.mem = [] ∧ State.reset.memoriesOk = true ∧
    (∀ c : Nat, let k := State.reset.cluster c
      k.mem = [] ∧ k.groups = [] ∧ k.banks = [] ∧ k.tidle = 0x1000 ∧ ∀ j : Fin 4, k.user[j] = BitVec.allOnes 64) ∧
    (∀ c : Nat, let k := State.reset.core c
      (∀ j : Fin 4, k.issue.pos[j] = 7) ∧ k.issue.limit = 0x2000 ∧ k.issue.used = 0 ∧ k.sb = [] ∧ k.log = [] ∧
        k.logctl = BitVec.ofNat 64 ((0x1000 * (c / 512) + 0x78) * 2 ^ 48)) ∧
    (∀ d : Nat, let k := State.reset.die d
      k.ptgen = 0 ∧ k.errs = [] ∧ k.ovf = 0 ∧ k.errTarget = BitVec.ofNat 64 (0x1000 * d + 0x78) ∧
        k.power.held = 550 ∧ k.power.thot = 95 ∧ k.power.hyst = 5 ∧ k.power.hot = 0 ∧ k.power.overBudget = 0) ∧
    (∀ sid h : Nat, (State.reset.slot sid).handle h = .empty) ∧
    State.reset.clock.k = 10 ∧ State.reset.budget.pkg = 2200 ∧ State.reset.budget.free = 0

/-- Words that the spec writes out decode to the instructions it names, and words that are no instruction are refused (R94,
R113, R134, R143, R203, R231, R277, R328, R110, R112). -/
def Obligations.WordsOfTheSpecDecode : Prop :=
  decode 0x010200106090000000000064 0 = .ok (.add ⟨⟨0, 2⟩, 3, ⟨4, true⟩, .imm 100⟩) ∧
    decode 0x010080108080000000000000 0x100000000 = .ok (.add ⟨⟨0, 0⟩, 4, ⟨4, false⟩, .lit 0x100000000⟩) ∧
    decode 0x260000A00000000000001234 0 = .ok (.li ⟨⟨0, 0⟩, 5, 0x1234⟩) ∧
    decode 0x580000608000000000000011 0 = .ok (.beq ⟨⟨0, 0⟩, ⟨3, false⟩, ⟨4, false⟩, ⟨2, 1⟩⟩) ∧
    decode 0x832B000484A4C4E000000000 0 = .ok (.vfma ⟨⟨2, 11⟩, 0, 4, ⟨5, false⟩, .reg ⟨6, false⟩, ⟨7, false⟩⟩) ∧
    decode 0x7F0000000120000000000312 0 = .ok (.rep ⟨⟨0, 0⟩, 9, 2, 1, 3⟩) ∧
    decode 0xC020010A0C0E480000000040 0 = .ok (.ldl ⟨⟨2, 0⟩, true, 2, 5, ⟨⟨6, false⟩, ⟨7, false⟩, 2, 64⟩⟩) ∧
    decode 0x700000A0C0000F000000000A 0 = .ok (.freeze ⟨⟨0, 0⟩, ⟨5, false⟩, ⟨6, false⟩, 0x0F, ⟨1, 2⟩⟩) ∧
    decode 0xEB0000C4D614160000000185 0 = .ok (.tmma ⟨⟨0, 0⟩, 2, 3, ⟨10, false⟩, ⟨11, false⟩, ⟨0, false⟩, 5, 6⟩) ∧
    decode 0xF00002C4080A0C0000000000 0 = .ok (.enqpub ⟨⟨0, 0⟩, 2, ⟨4, false⟩, ⟨5, false⟩, ⟨6, false⟩⟩) ∧
    decode 0xFF0000000000000000000000 0 = .error (.illegal 0xFF) ∧
    decode 0x000000000000000000000100 0 = .error (.reserved 8) ∧
    decode 0x011000002040600000000000 0 = .error (.reserved 84) ∧
    decode 0xC00000000000140000000000 0 = .error (.reserved 42)

/-- Decoding the encoding of a well-formed instruction gives it back, and what decodes is well-formed and encodes to the
same slots (R94, R95, R96, R97, R98, R99, R100, R101, R102, R110, R113). -/
def Obligations.EncodingsAndInstructionsAgree : Prop :=
  (∀ i : Instr, i.wf = true → i = .nop ∨ i.hdr?.isSome = true →
    decode ((encode i).headD 0) (((encode i)[1]?).getD 0) = .ok i ∧
    (encode i).length = (if isLitForm ((encode i).headD 0) then 2 else 1)) ∧
  (∀ (w lit : SlotBits) (i : Instr), decode w lit = .ok i →
    i.wf = true ∧ (i = .nop ∨ i.hdr?.isSome = true) ∧ encode i = if isLitForm w then [w, lit] else [w])

/-- Every step keeps every memory of the package in its canonical form (R211, R217, R256, R268). -/
def Obligations.EveryStepKeepsMemoriesCanonical : Prop :=
  ∀ s t : State, s.memoriesOk = true → step s = .next t → t.memoriesOk = true

/-- A turn of a core settles its strands, chooses one, fetches at its pc, checks and decodes the line's slot, and runs exactly that
instruction, and the second of a pair after it; a strand whose next instruction cannot issue is made to wait and issues nothing, and another is
chosen (R20, R21, R25, R27, R28, R85, R87, R88, R91, R93, R110, R111, R155; the turns: log 1, log 85; whether a pair issues together: log 42; an
entry checked before its line: log 57; a failed fetch at TVEC: log 24; past the last line of the address space: log 68; an unoccupied slot: log
21; of several line faults the lowest: log 94). -/
def Obligations.StepRunsTheDecodedInstruction : Prop :=
  (∀ (s : State) (t : Turn) (rest : List Turn), s.agenda = t :: rest → step s = State.takeTurn { s with agenda := rest } exec t) ∧
  (∀ s : State, s.agenda = [] → step s = State.takeTurn { s with tick := s.tick + 1 } exec (freeTurn s.tick)) ∧
  (∀ (s : State) (i : Instr), s.takeTurn exec (.event i) = if i.autonomous then exec i s else .next s) ∧
  (∀ (s : State) (core : Nat), coreExists core = true →
    let s0 := (slotsOf core).foldl State.boundary s
    s.takeTurn exec (.cycle core) = State.issueOne exec core 8
      (if (s0.core core).issue.paused then s0 else (slotsOf core).foldl (State.settle exec) (s0.beginCycle core))) ∧
  (∀ (s : State) (core n : Nat),
    let issues := State.issueOne exec core (n + 1) s
    let again (sid : Nat) := State.issueOne exec core n (State.settle exec s sid)
    ((s.core core).issue.paused = true → issues = .next s) ∧
    ((s.core core).issue.paused = false →
      (s.choose core = none → issues = .next ((slotsOf core).foldl (fun t sid => t.ageSlot none sid) s)) ∧
      (∀ ch, s.choose core = some ch →
        let s2 : State := { s.account core ch with cur := ch.1 }
        (∀ t, s2.nextIssue = .idle t → issues = if t.holding ch.1 = true ∨ t.slipped s ch.1 = true then again ch.1 else .next t) ∧
        (∀ i s3 t, s2.nextIssue = .issue i s3 → exec i s3 = .next t →
          let u := State.issued exec i s3 t
          (u.holding ch.1 = true → issues = again ch.1) ∧
          (u.holding ch.1 = false →
            (∀ v, s3.pairOf u = .idle v → issues = .next v) ∧
            (∀ j v w, s3.pairOf u = .issue j v → exec j v = .next w →
              let x := State.issued exec j v w
              issues = .next (if x.holding x.cur then u else x))))))) ∧
  (∀ (s : State) (sid : Nat),
    let q := (s.slot sid).sched
    let back (t : State) : State := { t with cur := s.cur, line := s.line }
    ((s.slot sid).phase ≠ .ready → State.settle exec s sid = s) ∧
    ((s.slot sid).phase = .ready → ∀ i t u, State.nextIssue { s with cur := sid } = .issue i t → exec i t = .next u →
      (q.waited = false → q.redo = false → State.settle exec s sid = if u.holding sid then back u else s) ∧
      (q.waited = true ∨ q.redo = true →
        let v := back (State.issued exec i t u)
        let w := v.setSlot sid { v.slot sid with sched := { (v.slot sid).sched with waited := false, redo := false, was := .none } }
        (w.slot sid).phase ≠ .ready → State.settle exec s sid = w)) ∧
    (∀ t, (s.slot sid).phase = .ready → q.waited = false → q.redo = false → State.nextIssue { s with cur := sid } = .idle t → t.holding sid = true →
      State.settle exec s sid = back t)) ∧
  (∀ s t : State,
    let x := t.me
    let k := slotOf s.me.pc
    (∀ j v, s.pairOf t = .issue j v → linePair s.line k = true ∧ s.me.rep.mode = .off ∧ s.me.loops.endsAt s.me.pc = false ∧ x.phase = .ready ∧
      x.sched.vecFetch = false ∧ x.pc = (lineOf s.me.pc ||| BitVec.ofNat 64 (k + 1)) ∧ v = { t with tick := t.tick + 1 } ∧
      decodeOn (coreOf t.cur) (field s.line (96 * (k + 1)) 96) (literalAt s.line (k + 1)) = .ok j)) ∧
  (∀ (i : Instr) (s t : State), t.me.windows = [] →
    State.issued exec i s t = t.setMe { t.me with sched := if t.holding t.cur then t.me.sched else { t.me.sched with early := [] } }) ∧
  (∀ s : State,
    let x := s.me
    let code := fun (t : State) (w lit : SlotBits) => match decodeOn (coreOf t.cur) w lit with
      | .ok i => Prepared.issue i t
      | .error tr => .idle (takeTrap tr t)
    (x.sched.beyond = true → x.sched.vecFetch = false → s.nextIssue = .idle (takeTrap { cause := 0x11, tval := 0 } s)) ∧
    (x.sched.beyond = false →
      (∀ w lit, x.rep.mode = .running → x.rep.current = some (w, lit) → s.nextIssue = code s w lit) ∧
      (x.rep.mode = .off →
        (∀ tr t, s.fetch s.cur x.pc = (.trap tr, t) → t.me.sched.vecFetch = false → s.nextIssue = .idle (takeTrap tr t)) ∧
        (∀ tr t, s.fetch s.cur x.pc = (.trap tr, t) → t.me.sched.vecFetch = true → t.me.mode = .s →
          s.nextIssue = .idle (takeTrap { cause := 0x7F, tval := t.me.pc, xinfo := tr.xinfo } t)) ∧
        (∀ b t, s.fetch s.cur x.pc = (.line b, t) →
          let y := t.me
          let u : State := { t.setMe { y with sched := { y.sched with vecFetch := false, checked := false } } with line := b }
          (y.sched.checked = true → lineTmask b (slotOf y.pc) = false →
            s.nextIssue = .idle (takeTrap { cause := 0x03, tval := y.pc } u)) ∧
          (y.sched.checked = false ∨ lineTmask b (slotOf y.pc) = true →
            (∀ sub, lineFault b = some sub → s.nextIssue = .idle (takeTrap { cause := 0x02, tval := lineOf y.pc ||| BitVec.ofNat 64 sub } u)) ∧
            (lineFault b = none → firstSlot b (slotOf y.pc) = none →
              let next := lineOf y.pc + 64
              s.nextIssue = .idle (u.setMe { u.me with pc := next, sched := { u.me.sched with beyond := next == 0 } })) ∧
            (lineFault b = none → firstSlot b (slotOf y.pc) = some (slotOf y.pc) → y.pc = lineOf y.pc ||| BitVec.ofNat 64 (slotOf y.pc) →
              s.nextIssue = code u (field b (96 * slotOf y.pc) 96) (if slotOf y.pc < 4 then field b (96 * (slotOf y.pc + 1)) 96 else 0)))))))

/-- An instruction guarded off changes nothing but the pc of its strand and the valid bits that last-read marks release; an invalid guard
and an invalid source raise INVALID_REG with their specifier and position, the guard before the mode and the sources; inside a lookahead
window a read gives the prior or the new value, the new one from then on; a broken promise touches the destination alone (R103, R104, R105,
R106, R107, R108, R109, R111, R171; a guarded-off rep: RepetitionsStartStepAndEnd; which of the values: log 12, log 53). -/
def Obligations.GuardedOffChangesOnlyMarksAndPc : Prop :=
  (∀ s : State, s.me.steady = true →
    let off (i : Instr) : Prop := ∃ x : Slot, exec i s = .next (s.setMe x) ∧
      x = { s.me.goOn (nextOf s.line s.me.pc) with regs := x.regs } ∧
      x.regs.g = s.me.regs.g ∧ x.regs.v = s.me.regs.v ∧ x.regs.p = s.me.regs.p ∧
      x.regs.gv &&& ~~~s.me.regs.gv = 0 ∧ x.regs.vv &&& ~~~s.me.regs.vv = 0 ∧ x.regs.pv &&& ~~~s.me.regs.pv = 0
    let idle (h : Hdr) (w : Nat) : Prop := s.me.regs.validP (guardReg h) = true ∧ ∀ j, j < 64 / w → (s.me.lanes h).getLsbD (w * j) = false
    (∀ (i : Instr) (h : Hdr), i.hdr? = some h → (∀ f, i ≠ .rep f) →
      let op := natField ((encode i).headD 0) 88 8
      let byLane := (0x80 ≤ op ∧ op ≤ 0xBF) ∨ (0xC4 ≤ op ∧ op ≤ 0xC7) ∨ op = 0xD2 ∨ op = 0xD3
      (if byLane then s.me.regs.validP (guardReg h) = true ∧ s.me.lanes h = 0 else s.me.guardedOff h = true) → off i) ∧
    (∀ f : VBin, idle f.h (fmtBytes f.fmt) → off (.vadd f) ∧ off (.vsub f) ∧ off (.vmul f) ∧ off (.vmin f) ∧ off (.vmax f) ∧ off (.vand f) ∧
      off (.vor f) ∧ off (.vxor f) ∧ off (.vandn f) ∧ off (.vshl f) ∧ off (.vshr f) ∧ off (.vsra f)) ∧
    (∀ f : VUn, idle f.h (fmtBytes f.fmt) → off (.vneg f) ∧ off (.vabs f) ∧ off (.vrcpe f) ∧ off (.vrsqe f) ∧ off (.vmov f)) ∧
    (∀ f : VTri, idle f.h (fmtBytes f.fmt) → off (.vfma f) ∧ off (.vfms f))) ∧
    (∀ (s s1 : State) (f : RepOp) (b : List BodySlot), s.me.windows = [] → s.me.rep.mode ≠ .running → nextOf s.line s.me.pc ≠ 0 →
      collectBody 40 f.len.toNat (nextOf s.line s.me.pc) s = .ok (b, s1) → s1.me.windows = [] → s1.me.regs.validP (guardReg f.h) = false →
      exec (.rep f) s = .next (takeTrap { cause := 0x05, tval := BitVec.ofNat 64 ((dstOf .p (guardReg f.h)).toNat + 7 * 256) } s)) ∧
    (∀ (s : State) (i : Instr) (h : Hdr), i.hdr? = some h → (∀ f, i ≠ .rep f) → s.me.windows = [] → s.me.regs.validP (guardReg h) = false →
      exec i s = .next (takeTrap { cause := 0x05, tval := BitVec.ofNat 64 ((dstOf .p (guardReg h)).toNat + 7 * 256) } s)) ∧
    (∀ (s : State) (pos : Nat) (c : Cls) (r : Reg) (i : Instr) (h : Hdr), s.me.steady = true → s.me.executes h = true →
      (c = .v ∨ r.n ≠ 0) → s.me.boundTo c r.n = none → (s.me.regs.peek c r.n).2 = false →
      ((∃ f : IntBin, h = f.h ∧ (i = .add f ∨ i = .sub f ∨ i = .and f) ∧
          (pos = 1 ∧ c = .g ∧ r = f.a ∨ pos = 2 ∧ c = .g ∧ f.b = .reg r ∧ s.me.readable .g f.a.n = true)) ∨
        (∃ f : Load, h = f.h ∧ (i = .ldl f ∨ i = .ldg f) ∧
          (pos = 1 ∧ c = .g ∧ r = f.ad.base ∨ pos = 2 ∧ c = .g ∧ r = f.ad.index ∧ s.me.readable .g f.ad.base.n = true)) ∨
        (∃ f : Store, h = f.h ∧ (i = .stl f ∨ i = .stg f) ∧ pos = 0 ∧ c = .g ∧ r = f.src ∧ s.me.readable .g f.ad.base.n = true ∧
          s.me.readable .g f.ad.index.n = true)) →
      exec i s = .next (takeTrap { cause := 0x05, tval := BitVec.ofNat 64 (specWord c r + pos * 256) } s)) ∧
    (∀ (s : State) (w : Window), s.me.windows = [w] → w.cls = .g → s.me.loops.depth = 0 → s.me.rep.mode = .off →
      let n := BitVec.ofNat 5 w.num
      w.num < 32 → n ≠ 0 → s.me.boundTo .g n = none → s.me.regs.own .g n = true → w.priorValid = true →
      (∀ (f : IntBin) (k : Word), f.a = ⟨n, false⟩ → f.b = .lit k → f.h.la = 0 → f.rd ≠ 0 → f.rd ≠ n → s.me.boundTo .g f.rd = none →
        s.me.regs.own .g f.rd = true → (∀ x ∈ w.srcs, x.names .g f.rd = false) →
        s.me.executes f.h = true →
        ∃ (new : Bool) (t : State), exec (.add f) s = .next t ∧ t = { s with slots := t.slots, tick := t.tick } ∧
          t.me.regs.getG f.rd = (if new then s.me.regs.getG n else BitVec.ofNat 64 w.prior) + k ∧ t.me.pc = nextOf s.line s.me.pc ∧
          (w.seen = true → new = true) ∧
          t.me.windows = if w.left ≤ 1 then [] else [{ w with left := w.left - 1, seen := new }]) ∧
      (∀ f : LoadImm, f.h.la = 0 → s.me.executes f.h = true →
        (f.rd = n → ∃ (kept : Bool) (t : State), exec (.li f) s = .next t ∧ t = { s with slots := t.slots, tick := t.tick } ∧
          t.me.regs.getG n = (if kept then s.me.regs.getG n else f.imm) ∧ t.me.pc = nextOf s.line s.me.pc ∧ t.me.windows = []) ∧
        (f.rd ≠ 0 → f.rd ≠ n → s.me.boundTo .g f.rd = none → s.me.regs.own .g f.rd = true →
          ∃ t : State, exec (.li f) s = .next t ∧ t.me.regs.getG f.rd = f.imm ∧
            t.me.windows = if w.left ≤ 1 then [] else [{ w with
              left := w.left - 1
              srcs := w.srcs.map fun x => if x.names .g f.rd then { x with hit := true } else x }]))) ∧
    (∀ (s t : State) (i : Instr),
      let u := State.issued exec i s t
      let broken (c : Cls) (n : BitVec 5) : Prop := ∃ w ∈ t.me.windows, w.cls = c ∧ (BitVec.ofNat 5 w.num = n ∨ c = .p ∧ w.num % 8 = n.toNat % 8) ∧ ∃ x ∈ w.srcs, x.hit = true
      u = { t with slots := u.slots, tick := u.tick } ∧ (∀ sid, sid ≠ t.cur → u.slot sid = t.slot sid) ∧
      (∃ ws early, u.me = { t.me with regs := u.me.regs, windows := ws, sched := { t.me.sched with early := early } }) ∧ ∀ c n, ¬broken c n → u.me.regs.peek c n = t.me.regs.peek c n) ∧
    ∀ (t : State) (w : Window) (f : IntBin) (k v : Word), w.ins = some (.add f) → w.cls = .g → w.num = f.rd.toNat → f.b = .lit k →
      w.srcs = [⟨.g, f.a.n.toNat, v.toNat, true⟩] → w.popped = [] → f.a.n ≠ 0 → f.rd ≠ 0 → t.me.phase = .ready → t.me.sched.vecFetch = false →
      t.me.loops.depth = 0 → (f.h.gd = 0) → t.me.boundTo .g f.a.n = none → t.me.boundTo .g f.rd = none → t.me.regs.own .g f.a.n = true →
      t.me.regs.own .g f.rd = true →
      ∃ new : Bool, (State.reread exec t w).me.regs.getG f.rd = if new then t.me.regs.getG f.a.n + k else t.me.regs.getG f.rd

/-- The forms of S and M executed in U raise PRIVILEGE before any source is looked at (R111, R150, R156, R163, R164, R165,
R166, R167, R360, R368). -/
def Obligations.PrivilegedFormsTrapInU : Prop :=
  ∀ s : State, s.me.mode = .u → s.me.windows = [] →
    let refused (i : Instr) : Prop := ∀ h, i.hdr? = some h → s.me.executes h = true →
      exec i s = .next (takeTrap { cause := 0x06, tval := 0 } s)
    (∀ f, refused (.eret f)) ∧ (∀ f, refused (.ipi f)) ∧ (∀ f, refused (.tlbinv f)) ∧ (∀ f, refused (.ptsync f)) ∧
    (∀ f, refused (.logreplay f)) ∧ (∀ f, refused (.ctxsave f)) ∧ (∀ f, refused (.ctxload f)) ∧
    (∀ f, refused (.preemptHalt f)) ∧ (∀ f, refused (.strandnew f)) ∧ (∀ f, refused (.strandkill f))

/-- No instruction changes the mode of its strand but eret and a trap entry, which fetches at the trap vector (R150). -/
def Obligations.ModeChangesOnlyByTrapAndEret : Prop :=
  ∀ (s t : State) (i : Instr), s.me.phase = .ready → i = .nop ∨ i.hdr?.isSome = true → exec i s = .next t →
    let y := t.slot s.cur
    y.phase ≠ .free → y.mode ≠ s.me.mode →
      (∃ f, i = .eret f) ∨
      (y.sched.vecFetch = true ∧ (y.mode = .s ∧ y.pc = y.sTrap.tvec ∧ y.sTrap.status = s.me.ctl.status ∨
        y.mode = .m ∧ y.pc = y.mTrap.tvec ∧ y.mTrap.status = s.me.ctl.status))
end

