-- ==== Sys2Proof/Laws/Maps.lean ====
section
/-! SUPPORT. The laws of the sparse maps and of the memory: lookup after insertion and removal, and the canonical form, which
every memory operation keeps. -/

namespace Sys2Proof.Machine

/-! ### Lookup -/

@[simp] theorem NMap.find_nil {β : Type} (k : Nat) : NMap.find ([] : NMap β) k = none := rfl

/-- A key just inserted is found. -/
@[simp] theorem NMap.find_insert_self {β : Type} (m : NMap β) (k : Nat) (v : β) : NMap.find (NMap.insert m k v) k = some v := by
  induction m with
  | nil => simp [NMap.insert, NMap.find]
  | cons p m ih =>
    obtain ⟨j, w⟩ := p
    simp only [NMap.insert]
    split
    · simp [NMap.find]
    · split
      · simp [NMap.find]
      · rename_i h
        simp [NMap.find, Ne.symm h, ih]

/-- Insertion of a key leaves every other key alone. -/
theorem NMap.find_insert_ne {β : Type} (m : NMap β) {k j : Nat} (v : β) (h : j ≠ k) :
    NMap.find (NMap.insert m k v) j = NMap.find m j := by
  induction m with
  | nil => simp [NMap.insert, NMap.find, Ne.symm h]
  | cons p m ih =>
    obtain ⟨i, w⟩ := p
    simp only [NMap.insert]
    split
    · simp [NMap.find, Ne.symm h]
    · split
      · rename_i e
        subst e
        simp [NMap.find, Ne.symm h]
      · simp [NMap.find, ih]

/-- The second of two insertions at one key counts. -/
@[simp] theorem NMap.insert_insert {β : Type} (m : NMap β) (k : Nat) (a b : β) :
    NMap.insert (NMap.insert m k a) k b = NMap.insert m k b := by
  induction m with
  | nil => simp [NMap.insert]
  | cons p m ih =>
    obtain ⟨j, w⟩ := p
    by_cases h1 : k < j
    · simp [NMap.insert, h1]
    · by_cases h2 : k = j
      · simp [NMap.insert, h2]
      · simp [NMap.insert, h1, h2, ih]

/-- Every entry of a map after an insertion is the new one or an old one. -/
theorem NMap.mem_insert {β : Type} {m : NMap β} {k : Nat} {v : β} {p : Nat × β} (h : p ∈ NMap.insert m k v) :
    p = (k, v) ∨ p ∈ m := by
  induction m with
  | nil => simpa [NMap.insert] using h
  | cons q m ih =>
    obtain ⟨j, w⟩ := q
    simp only [NMap.insert] at h
    split at h
    · simpa using h
    · split at h
      · simp only [List.mem_cons] at h ⊢
        tauto
      · simp only [List.mem_cons] at h ⊢
        rcases h with h | h
        · tauto
        · rcases ih h with h | h <;> tauto

/-- Every entry of a map after a removal is an old one. -/
theorem NMap.mem_erase {β : Type} {m : NMap β} {k : Nat} {p : Nat × β} (h : p ∈ NMap.erase m k) : p ∈ m := by
  induction m with
  | nil => simp [NMap.erase] at h
  | cons q m ih =>
    obtain ⟨j, w⟩ := q
    simp only [NMap.erase] at h
    split at h
    · exact List.mem_cons_of_mem _ h
    · simp only [List.mem_cons] at h ⊢
      rcases h with h | h
      · exact .inl h
      · exact .inr (ih h)

/-- A value found under a key stands in the map. -/
theorem NMap.mem_of_find {β : Type} {m : NMap β} {k : Nat} {v : β} (h : NMap.find m k = some v) : (k, v) ∈ m := by
  induction m with
  | nil => simp at h
  | cons p m ih =>
    obtain ⟨j, w⟩ := p
    simp only [NMap.find] at h
    split at h
    · rename_i e
      simp at h
      simp [e, h]
    · exact List.mem_cons_of_mem _ (ih h)

/-! ### Rising keys -/

theorem NMap.risingFrom_mono {β : Type} {m : NMap β} {a b : Nat} (hab : a ≤ b) (h : NMap.risingFrom b m = true) :
    NMap.risingFrom a m = true := by
  cases m with
  | nil => rfl
  | cons p m =>
    obtain ⟨j, w⟩ := p
    simp only [NMap.risingFrom, Bool.and_eq_true, decide_eq_true_eq] at h ⊢
    exact ⟨by omega, h.2⟩

theorem NMap.risingFrom_insert {β : Type} {m : NMap β} {a k : Nat} (v : β) (hk : a ≤ k) (h : NMap.risingFrom a m = true) :
    NMap.risingFrom a (NMap.insert m k v) = true := by
  induction m generalizing a with
  | nil => simp [NMap.insert, NMap.risingFrom, hk]
  | cons p m ih =>
    obtain ⟨j, w⟩ := p
    simp only [NMap.risingFrom, Bool.and_eq_true, decide_eq_true_eq] at h
    simp only [NMap.insert]
    split
    · simp only [NMap.risingFrom, Bool.and_eq_true, decide_eq_true_eq]
      exact ⟨hk, by omega, h.2⟩
    · split
      · rename_i e
        subst e
        simp only [NMap.risingFrom, Bool.and_eq_true, decide_eq_true_eq]
        exact ⟨hk, h.2⟩
      · simp only [NMap.risingFrom, Bool.and_eq_true, decide_eq_true_eq]
        exact ⟨h.1, ih (by omega) h.2⟩

theorem NMap.risingFrom_erase {β : Type} {m : NMap β} {a k : Nat} (h : NMap.risingFrom a m = true) :
    NMap.risingFrom a (NMap.erase m k) = true := by
  induction m generalizing a with
  | nil => rfl
  | cons p m ih =>
    obtain ⟨j, w⟩ := p
    simp only [NMap.risingFrom, Bool.and_eq_true, decide_eq_true_eq] at h
    simp only [NMap.erase]
    split
    · exact NMap.risingFrom_mono (by omega) h.2
    · simp only [NMap.risingFrom, Bool.and_eq_true, decide_eq_true_eq]
      exact ⟨h.1, ih h.2⟩

theorem NMap.risingFrom_filter {β : Type} {m : NMap β} {a : Nat} (f : Nat × β → Bool) (h : NMap.risingFrom a m = true) :
    NMap.risingFrom a (m.filter f) = true := by
  induction m generalizing a with
  | nil => rfl
  | cons p m ih =>
    obtain ⟨j, w⟩ := p
    simp only [NMap.risingFrom, Bool.and_eq_true, decide_eq_true_eq] at h
    simp only [List.filter]
    split
    · simp only [NMap.risingFrom, Bool.and_eq_true, decide_eq_true_eq]
      exact ⟨h.1, ih h.2⟩
    · exact NMap.risingFrom_mono (by omega) (ih h.2)

/-- A removed key is not found in a map with rising keys. -/
theorem NMap.find_of_rising_lt {β : Type} {m : NMap β} {a k : Nat} (h : NMap.risingFrom a m = true) (hk : k < a) :
    NMap.find m k = none := by
  induction m generalizing a with
  | nil => rfl
  | cons p m ih =>
    obtain ⟨j, w⟩ := p
    simp only [NMap.risingFrom, Bool.and_eq_true, decide_eq_true_eq] at h
    simp only [NMap.find]
    rw [if_neg (by omega)]
    exact ih h.2 (by omega)

theorem NMap.find_erase_self {β : Type} {m : NMap β} {a k : Nat} (h : NMap.risingFrom a m = true) :
    NMap.find (NMap.erase m k) k = none := by
  induction m generalizing a with
  | nil => rfl
  | cons p m ih =>
    obtain ⟨j, w⟩ := p
    simp only [NMap.risingFrom, Bool.and_eq_true, decide_eq_true_eq] at h
    simp only [NMap.erase]
    split
    · rename_i e
      exact NMap.find_of_rising_lt h.2 (by omega)
    · rename_i e
      simp [NMap.find, e, ih h.2]

theorem NMap.find_erase_ne {β : Type} (m : NMap β) {k j : Nat} (h : j ≠ k) :
    NMap.find (NMap.erase m k) j = NMap.find m j := by
  induction m with
  | nil => rfl
  | cons p m ih =>
    obtain ⟨i, w⟩ := p
    simp only [NMap.erase]
    split
    · rename_i e
      subst e
      simp [NMap.find, Ne.symm h]
    · simp [NMap.find, ih]

/-! ### The canonical form of a memory -/

@[simp] theorem Memory.wf_nil : Memory.wf [] = true := rfl

theorem Memory.wf_iff (m : Memory) :
    m.wf = true ↔ NMap.rising m = true ∧ ∀ c ∈ m, c.2 ≠ Memory.default := by
  simp [Memory.wf, List.all_eq_true]

/-- A write keeps the canonical form. -/
theorem Memory.wf_write {m : Memory} (h : m.wf = true) (a : Nat) (b : Byte) : (m.write a b).wf = true := by
  rw [Memory.wf_iff] at h ⊢
  unfold Memory.write
  split
  · exact ⟨NMap.risingFrom_erase h.1, fun c hc => h.2 c (NMap.mem_erase hc)⟩
  · rename_i hb
    refine ⟨NMap.risingFrom_insert b (Nat.zero_le _) h.1, fun c hc => ?_⟩
    rcases NMap.mem_insert hc with rfl | hc
    · exact hb
    · exact h.2 c hc

theorem Memory.wf_writeN {m : Memory} (h : m.wf = true) (a : Nat) (bs : List Byte) : (m.writeN a bs).wf = true := by
  induction bs generalizing m a with
  | nil => exact h
  | cons b bs ih => exact ih (Memory.wf_write h a b) (a + 1)

theorem Memory.wf_writeMask {m : Memory} (h : m.wf = true) (a : Nat) (bs : List (Option Byte)) : (m.writeMask a bs).wf = true := by
  induction bs generalizing m a with
  | nil => exact h
  | cons b bs ih =>
    cases b with
    | none => exact ih h (a + 1)
    | some b => exact ih (Memory.wf_write h a b) (a + 1)

/-- Entries taken out keep the canonical form. -/
theorem Memory.wf_filter {m : Memory} (h : m.wf = true) (f : Host.Cell → Bool) : Memory.wf (List.filter f m) = true := by
  rw [Memory.wf_iff] at h ⊢
  exact ⟨NMap.risingFrom_filter f h.1, fun c hc => h.2 c (List.mem_filter.mp hc).1⟩

/-- Bytes written one after another keep the canonical form. -/
theorem Memory.wf_foldl {m : Memory} (h : m.wf = true) (ps : List (Nat × Byte)) :
    Memory.wf (ps.foldl (fun (m : Memory) x => m.write x.1 x.2) m) = true := by
  induction ps generalizing m with
  | nil => exact h
  | cons p ps ih => exact ih (Memory.wf_write h p.1 p.2)

/-! ### Reading after writing -/

/-- A byte just written reads back. -/
theorem Memory.read_write_self {m : Memory} (h : m.wf = true) (a : Nat) (b : Byte) : (m.write a b).read a = b := by
  rw [Memory.wf_iff] at h
  unfold Memory.write Memory.read
  split
  · rename_i e
    rw [NMap.find_erase_self h.1]
    simp [e]
  · simp

/-- A write leaves every other byte alone. -/
theorem Memory.read_write_ne (m : Memory) {a c : Nat} (b : Byte) (h : c ≠ a) : (m.write a b).read c = m.read c := by
  unfold Memory.write Memory.read
  split
  · rw [NMap.find_erase_ne m h]
  · rw [NMap.find_insert_ne m b h]

/-- A write of several bytes leaves the bytes outside alone. -/
theorem Memory.read_writeN_outside (m : Memory) (a : Nat) (bs : List Byte) (c : Nat) (h : c < a ∨ a + bs.length ≤ c) :
    (m.writeN a bs).read c = m.read c := by
  induction bs generalizing m a with
  | nil => rfl
  | cons b bs ih =>
    simp only [List.length_cons] at h
    rw [Memory.writeN, ih (m.write a b) (a + 1) (by omega), Memory.read_write_ne m b (by omega)]

/-- A masked write leaves the bytes outside alone. -/
theorem Memory.read_writeMask_outside (m : Memory) (a : Nat) (bs : List (Option Byte)) (c : Nat) (h : c < a ∨ a + bs.length ≤ c) :
    (m.writeMask a bs).read c = m.read c := by
  induction bs generalizing m a with
  | nil => rfl
  | cons b bs ih =>
    simp only [List.length_cons] at h
    cases b with
    | none => rw [Memory.writeMask, ih m (a + 1) (by omega)]
    | some b => rw [Memory.writeMask, ih (m.write a b) (a + 1) (by omega), Memory.read_write_ne m b (by omega)]

/-- Bytes just written read back. -/
theorem Memory.read_writeN_inside {m : Memory} (h : m.wf = true) (a : Nat) (bs : List Byte) (k : Nat) (hk : k < bs.length) :
    (m.writeN a bs).read (a + k) = bs[k] := by
  induction bs generalizing m a k with
  | nil => simp at hk
  | cons b bs ih =>
    cases k with
    | zero =>
      rw [Memory.writeN, Memory.read_writeN_outside _ _ _ _ (by omega), Nat.add_zero, Memory.read_write_self h]
      rfl
    | succ k =>
      simp only [List.length_cons] at hk
      have := ih (Memory.wf_write h a b) (a + 1) k (by omega)
      rw [Memory.writeN, show a + (k + 1) = a + 1 + k by omega, this]
      rfl

/-- The bytes present in a masked write read back, and an absent byte keeps what it was. -/
theorem Memory.read_writeMask_inside {m : Memory} (h : m.wf = true) (a : Nat) (bs : List (Option Byte)) (k : Nat) (hk : k < bs.length) :
    (m.writeMask a bs).read (a + k) = (bs[k]).getD (m.read (a + k)) := by
  induction bs generalizing m a k with
  | nil => simp at hk
  | cons b bs ih =>
    cases k with
    | zero =>
      cases b with
      | none => rw [Memory.writeMask, Memory.read_writeMask_outside _ _ _ _ (by omega)]; rfl
      | some b =>
        rw [Memory.writeMask, Memory.read_writeMask_outside _ _ _ _ (by omega), Nat.add_zero, Memory.read_write_self h]
        rfl
    | succ k =>
      simp only [List.length_cons] at hk
      rw [show a + (k + 1) = a + 1 + k by omega]
      cases b with
      | none => rw [Memory.writeMask, ih h (a + 1) k (by omega)]; rfl
      | some b =>
        rw [Memory.writeMask, ih (Memory.wf_write h a b) (a + 1) k (by omega), Memory.read_write_ne m b (by omega)]
        rfl

@[simp] theorem Memory.length_readN (m : Memory) (a n : Nat) : (m.readN a n).length = n := by
  induction n generalizing a with
  | zero => rfl
  | succ n ih => simp [Memory.readN, ih]

theorem Memory.readN_writeN_self {m : Memory} (h : m.wf = true) (a : Nat) (bs : List Byte) : (m.writeN a bs).readN a bs.length = bs := by
  have key : ∀ (n c : Nat) (m' : Memory) (xs : List Byte), xs.length = n → (∀ k (hk : k < xs.length), m'.read (c + k) = xs[k]) → m'.readN c n = xs := by
    intro n
    induction n with
    | zero =>
      intro c m' xs hx _
      simp [List.length_eq_zero_iff.mp hx, Memory.readN]
    | succ n ih =>
      intro c m' xs hx hr
      cases xs with
      | nil => simp at hx
      | cons x xs =>
        simp only [List.length_cons, Nat.add_right_cancel_iff] at hx
        rw [Memory.readN]
        congr 1
        · exact hr 0 (by simp)
        · refine ih (c + 1) m' xs hx (fun k hk => ?_)
          have := hr (k + 1) (by simpa using hk)
          rw [show c + 1 + k = c + (k + 1) by omega, this]
          rfl
  exact key bs.length a _ bs rfl (fun k hk => Memory.read_writeN_inside h a bs k hk)

end Sys2Proof.Machine
end

