-- ==== Sys2Proof/Laws/State.lean ====
section
/-! SUPPORT. The laws of the state: what each update of a part of the package leaves as it was, one lemma per field per update,
and what the accessors read after an update. -/

namespace Sys2Proof.Machine

/-! ### `setSlot` -/

@[simp] theorem State.setSlot_cur (s : State) (sid : Nat) (x : Slot) : (s.setSlot sid x).cur = s.cur := rfl
@[simp] theorem State.setSlot_line (s : State) (sid : Nat) (x : Slot) : (s.setSlot sid x).line = s.line := rfl
@[simp] theorem State.setSlot_agenda (s : State) (sid : Nat) (x : Slot) : (s.setSlot sid x).agenda = s.agenda := rfl
@[simp] theorem State.setSlot_tick (s : State) (sid : Nat) (x : Slot) : (s.setSlot sid x).tick = s.tick := rfl
@[simp] theorem State.setSlot_cores (s : State) (sid : Nat) (x : Slot) : (s.setSlot sid x).cores = s.cores := rfl
@[simp] theorem State.setSlot_clusters (s : State) (sid : Nat) (x : Slot) : (s.setSlot sid x).clusters = s.clusters := rfl
@[simp] theorem State.setSlot_dies (s : State) (sid : Nat) (x : Slot) : (s.setSlot sid x).dies = s.dies := rfl
@[simp] theorem State.setSlot_units (s : State) (sid : Nat) (x : Slot) : (s.setSlot sid x).units = s.units := rfl
@[simp] theorem State.setSlot_dispensers (s : State) (sid : Nat) (x : Slot) : (s.setSlot sid x).dispensers = s.dispensers := rfl
@[simp] theorem State.setSlot_mem (s : State) (sid : Nat) (x : Slot) : (s.setSlot sid x).mem = s.mem := rfl
@[simp] theorem State.setSlot_hbmPoison (s : State) (sid : Nat) (x : Slot) : (s.setSlot sid x).hbmPoison = s.hbmPoison := rfl
@[simp] theorem State.setSlot_mesh (s : State) (sid : Nat) (x : Slot) : (s.setSlot sid x).mesh = s.mesh := rfl
@[simp] theorem State.setSlot_fabric (s : State) (sid : Nat) (x : Slot) : (s.setSlot sid x).fabric = s.fabric := rfl
@[simp] theorem State.setSlot_ops (s : State) (sid : Nat) (x : Slot) : (s.setSlot sid x).ops = s.ops := rfl
@[simp] theorem State.setSlot_nextOp (s : State) (sid : Nat) (x : Slot) : (s.setSlot sid x).nextOp = s.nextOp := rfl
@[simp] theorem State.setSlot_nextCtx (s : State) (sid : Nat) (x : Slot) : (s.setSlot sid x).nextCtx = s.nextCtx := rfl
@[simp] theorem State.setSlot_ckpts (s : State) (sid : Nat) (x : Slot) : (s.setSlot sid x).ckpts = s.ckpts := rfl
@[simp] theorem State.setSlot_saved (s : State) (sid : Nat) (x : Slot) : (s.setSlot sid x).saved = s.saved := rfl
@[simp] theorem State.setSlot_clock (s : State) (sid : Nat) (x : Slot) : (s.setSlot sid x).clock = s.clock := rfl
@[simp] theorem State.setSlot_budget (s : State) (sid : Nat) (x : Slot) : (s.setSlot sid x).budget = s.budget := rfl
@[simp] theorem State.setSlot_host (s : State) (sid : Nat) (x : Slot) : (s.setSlot sid x).host = s.host := rfl

@[simp] theorem State.slot_setSlot_self (s : State) (sid : Nat) (x : Slot) : (s.setSlot sid x).slot sid = x := by
  simp [State.slot, State.setSlot]
theorem State.slot_setSlot_ne (s : State) {sid j : Nat} (x : Slot) (h : j ≠ sid) : (s.setSlot sid x).slot j = s.slot j := by
  simp [State.slot, State.setSlot, NMap.find_insert_ne _ _ h]
@[simp] theorem State.setSlot_setSlot (s : State) (sid : Nat) (x y : Slot) : (s.setSlot sid x).setSlot sid y = s.setSlot sid y := by
  simp [State.setSlot]
@[simp] theorem State.core_setSlot (s : State) (sid n : Nat) (x : Slot) : (s.setSlot sid x).core n = s.core n := rfl
@[simp] theorem State.cluster_setSlot (s : State) (sid n : Nat) (x : Slot) : (s.setSlot sid x).cluster n = s.cluster n := rfl
@[simp] theorem State.die_setSlot (s : State) (sid n : Nat) (x : Slot) : (s.setSlot sid x).die n = s.die n := rfl
@[simp] theorem State.unit_setSlot (s : State) (sid n : Nat) (x : Slot) : (s.setSlot sid x).unit n = s.unit n := rfl
@[simp] theorem State.disp_setSlot (s : State) (sid n : Nat) (x : Slot) : (s.setSlot sid x).disp n = s.disp n := rfl

/-! ### `setCore` -/

@[simp] theorem State.setCore_cur (s : State) (c : Nat) (x : Core) : (s.setCore c x).cur = s.cur := rfl
@[simp] theorem State.setCore_line (s : State) (c : Nat) (x : Core) : (s.setCore c x).line = s.line := rfl
@[simp] theorem State.setCore_agenda (s : State) (c : Nat) (x : Core) : (s.setCore c x).agenda = s.agenda := rfl
@[simp] theorem State.setCore_tick (s : State) (c : Nat) (x : Core) : (s.setCore c x).tick = s.tick := rfl
@[simp] theorem State.setCore_slots (s : State) (c : Nat) (x : Core) : (s.setCore c x).slots = s.slots := rfl
@[simp] theorem State.setCore_clusters (s : State) (c : Nat) (x : Core) : (s.setCore c x).clusters = s.clusters := rfl
@[simp] theorem State.setCore_dies (s : State) (c : Nat) (x : Core) : (s.setCore c x).dies = s.dies := rfl
@[simp] theorem State.setCore_units (s : State) (c : Nat) (x : Core) : (s.setCore c x).units = s.units := rfl
@[simp] theorem State.setCore_dispensers (s : State) (c : Nat) (x : Core) : (s.setCore c x).dispensers = s.dispensers := rfl
@[simp] theorem State.setCore_mem (s : State) (c : Nat) (x : Core) : (s.setCore c x).mem = s.mem := rfl
@[simp] theorem State.setCore_hbmPoison (s : State) (c : Nat) (x : Core) : (s.setCore c x).hbmPoison = s.hbmPoison := rfl
@[simp] theorem State.setCore_mesh (s : State) (c : Nat) (x : Core) : (s.setCore c x).mesh = s.mesh := rfl
@[simp] theorem State.setCore_fabric (s : State) (c : Nat) (x : Core) : (s.setCore c x).fabric = s.fabric := rfl
@[simp] theorem State.setCore_ops (s : State) (c : Nat) (x : Core) : (s.setCore c x).ops = s.ops := rfl
@[simp] theorem State.setCore_nextOp (s : State) (c : Nat) (x : Core) : (s.setCore c x).nextOp = s.nextOp := rfl
@[simp] theorem State.setCore_nextCtx (s : State) (c : Nat) (x : Core) : (s.setCore c x).nextCtx = s.nextCtx := rfl
@[simp] theorem State.setCore_ckpts (s : State) (c : Nat) (x : Core) : (s.setCore c x).ckpts = s.ckpts := rfl
@[simp] theorem State.setCore_saved (s : State) (c : Nat) (x : Core) : (s.setCore c x).saved = s.saved := rfl
@[simp] theorem State.setCore_clock (s : State) (c : Nat) (x : Core) : (s.setCore c x).clock = s.clock := rfl
@[simp] theorem State.setCore_budget (s : State) (c : Nat) (x : Core) : (s.setCore c x).budget = s.budget := rfl
@[simp] theorem State.setCore_host (s : State) (c : Nat) (x : Core) : (s.setCore c x).host = s.host := rfl

@[simp] theorem State.core_setCore_self (s : State) (c : Nat) (x : Core) : (s.setCore c x).core c = x := by
  simp [State.core, State.setCore]
theorem State.core_setCore_ne (s : State) {c j : Nat} (x : Core) (h : j ≠ c) : (s.setCore c x).core j = s.core j := by
  simp [State.core, State.setCore, NMap.find_insert_ne _ _ h]
@[simp] theorem State.setCore_setCore (s : State) (c : Nat) (x y : Core) : (s.setCore c x).setCore c y = s.setCore c y := by
  simp [State.setCore]
@[simp] theorem State.slot_setCore (s : State) (c n : Nat) (x : Core) : (s.setCore c x).slot n = s.slot n := rfl
@[simp] theorem State.cluster_setCore (s : State) (c n : Nat) (x : Core) : (s.setCore c x).cluster n = s.cluster n := rfl
@[simp] theorem State.die_setCore (s : State) (c n : Nat) (x : Core) : (s.setCore c x).die n = s.die n := rfl
@[simp] theorem State.unit_setCore (s : State) (c n : Nat) (x : Core) : (s.setCore c x).unit n = s.unit n := rfl
@[simp] theorem State.disp_setCore (s : State) (c n : Nat) (x : Core) : (s.setCore c x).disp n = s.disp n := rfl

/-! ### `setCluster` -/

@[simp] theorem State.setCluster_cur (s : State) (c : Nat) (x : Cluster) : (s.setCluster c x).cur = s.cur := rfl
@[simp] theorem State.setCluster_line (s : State) (c : Nat) (x : Cluster) : (s.setCluster c x).line = s.line := rfl
@[simp] theorem State.setCluster_agenda (s : State) (c : Nat) (x : Cluster) : (s.setCluster c x).agenda = s.agenda := rfl
@[simp] theorem State.setCluster_tick (s : State) (c : Nat) (x : Cluster) : (s.setCluster c x).tick = s.tick := rfl
@[simp] theorem State.setCluster_slots (s : State) (c : Nat) (x : Cluster) : (s.setCluster c x).slots = s.slots := rfl
@[simp] theorem State.setCluster_cores (s : State) (c : Nat) (x : Cluster) : (s.setCluster c x).cores = s.cores := rfl
@[simp] theorem State.setCluster_dies (s : State) (c : Nat) (x : Cluster) : (s.setCluster c x).dies = s.dies := rfl
@[simp] theorem State.setCluster_units (s : State) (c : Nat) (x : Cluster) : (s.setCluster c x).units = s.units := rfl
@[simp] theorem State.setCluster_dispensers (s : State) (c : Nat) (x : Cluster) : (s.setCluster c x).dispensers = s.dispensers := rfl
@[simp] theorem State.setCluster_mem (s : State) (c : Nat) (x : Cluster) : (s.setCluster c x).mem = s.mem := rfl
@[simp] theorem State.setCluster_hbmPoison (s : State) (c : Nat) (x : Cluster) : (s.setCluster c x).hbmPoison = s.hbmPoison := rfl
@[simp] theorem State.setCluster_mesh (s : State) (c : Nat) (x : Cluster) : (s.setCluster c x).mesh = s.mesh := rfl
@[simp] theorem State.setCluster_fabric (s : State) (c : Nat) (x : Cluster) : (s.setCluster c x).fabric = s.fabric := rfl
@[simp] theorem State.setCluster_ops (s : State) (c : Nat) (x : Cluster) : (s.setCluster c x).ops = s.ops := rfl
@[simp] theorem State.setCluster_nextOp (s : State) (c : Nat) (x : Cluster) : (s.setCluster c x).nextOp = s.nextOp := rfl
@[simp] theorem State.setCluster_nextCtx (s : State) (c : Nat) (x : Cluster) : (s.setCluster c x).nextCtx = s.nextCtx := rfl
@[simp] theorem State.setCluster_ckpts (s : State) (c : Nat) (x : Cluster) : (s.setCluster c x).ckpts = s.ckpts := rfl
@[simp] theorem State.setCluster_saved (s : State) (c : Nat) (x : Cluster) : (s.setCluster c x).saved = s.saved := rfl
@[simp] theorem State.setCluster_clock (s : State) (c : Nat) (x : Cluster) : (s.setCluster c x).clock = s.clock := rfl
@[simp] theorem State.setCluster_budget (s : State) (c : Nat) (x : Cluster) : (s.setCluster c x).budget = s.budget := rfl
@[simp] theorem State.setCluster_host (s : State) (c : Nat) (x : Cluster) : (s.setCluster c x).host = s.host := rfl

@[simp] theorem State.cluster_setCluster_self (s : State) (c : Nat) (x : Cluster) : (s.setCluster c x).cluster c = x := by
  simp [State.cluster, State.setCluster]
theorem State.cluster_setCluster_ne (s : State) {c j : Nat} (x : Cluster) (h : j ≠ c) : (s.setCluster c x).cluster j = s.cluster j := by
  simp [State.cluster, State.setCluster, NMap.find_insert_ne _ _ h]
@[simp] theorem State.setCluster_setCluster (s : State) (c : Nat) (x y : Cluster) : (s.setCluster c x).setCluster c y = s.setCluster c y := by
  simp [State.setCluster]
@[simp] theorem State.slot_setCluster (s : State) (c n : Nat) (x : Cluster) : (s.setCluster c x).slot n = s.slot n := rfl
@[simp] theorem State.core_setCluster (s : State) (c n : Nat) (x : Cluster) : (s.setCluster c x).core n = s.core n := rfl
@[simp] theorem State.die_setCluster (s : State) (c n : Nat) (x : Cluster) : (s.setCluster c x).die n = s.die n := rfl
@[simp] theorem State.unit_setCluster (s : State) (c n : Nat) (x : Cluster) : (s.setCluster c x).unit n = s.unit n := rfl
@[simp] theorem State.disp_setCluster (s : State) (c n : Nat) (x : Cluster) : (s.setCluster c x).disp n = s.disp n := rfl

/-! ### `setDie` -/

@[simp] theorem State.setDie_cur (s : State) (d : Nat) (x : Die) : (s.setDie d x).cur = s.cur := rfl
@[simp] theorem State.setDie_line (s : State) (d : Nat) (x : Die) : (s.setDie d x).line = s.line := rfl
@[simp] theorem State.setDie_agenda (s : State) (d : Nat) (x : Die) : (s.setDie d x).agenda = s.agenda := rfl
@[simp] theorem State.setDie_tick (s : State) (d : Nat) (x : Die) : (s.setDie d x).tick = s.tick := rfl
@[simp] theorem State.setDie_slots (s : State) (d : Nat) (x : Die) : (s.setDie d x).slots = s.slots := rfl
@[simp] theorem State.setDie_cores (s : State) (d : Nat) (x : Die) : (s.setDie d x).cores = s.cores := rfl
@[simp] theorem State.setDie_clusters (s : State) (d : Nat) (x : Die) : (s.setDie d x).clusters = s.clusters := rfl
@[simp] theorem State.setDie_units (s : State) (d : Nat) (x : Die) : (s.setDie d x).units = s.units := rfl
@[simp] theorem State.setDie_dispensers (s : State) (d : Nat) (x : Die) : (s.setDie d x).dispensers = s.dispensers := rfl
@[simp] theorem State.setDie_mem (s : State) (d : Nat) (x : Die) : (s.setDie d x).mem = s.mem := rfl
@[simp] theorem State.setDie_hbmPoison (s : State) (d : Nat) (x : Die) : (s.setDie d x).hbmPoison = s.hbmPoison := rfl
@[simp] theorem State.setDie_mesh (s : State) (d : Nat) (x : Die) : (s.setDie d x).mesh = s.mesh := rfl
@[simp] theorem State.setDie_fabric (s : State) (d : Nat) (x : Die) : (s.setDie d x).fabric = s.fabric := rfl
@[simp] theorem State.setDie_ops (s : State) (d : Nat) (x : Die) : (s.setDie d x).ops = s.ops := rfl
@[simp] theorem State.setDie_nextOp (s : State) (d : Nat) (x : Die) : (s.setDie d x).nextOp = s.nextOp := rfl
@[simp] theorem State.setDie_nextCtx (s : State) (d : Nat) (x : Die) : (s.setDie d x).nextCtx = s.nextCtx := rfl
@[simp] theorem State.setDie_ckpts (s : State) (d : Nat) (x : Die) : (s.setDie d x).ckpts = s.ckpts := rfl
@[simp] theorem State.setDie_saved (s : State) (d : Nat) (x : Die) : (s.setDie d x).saved = s.saved := rfl
@[simp] theorem State.setDie_clock (s : State) (d : Nat) (x : Die) : (s.setDie d x).clock = s.clock := rfl
@[simp] theorem State.setDie_budget (s : State) (d : Nat) (x : Die) : (s.setDie d x).budget = s.budget := rfl
@[simp] theorem State.setDie_host (s : State) (d : Nat) (x : Die) : (s.setDie d x).host = s.host := rfl

@[simp] theorem State.die_setDie_self (s : State) (d : Nat) (x : Die) : (s.setDie d x).die d = x := by
  simp [State.die, State.setDie]
theorem State.die_setDie_ne (s : State) {d j : Nat} (x : Die) (h : j ≠ d) : (s.setDie d x).die j = s.die j := by
  simp [State.die, State.setDie, NMap.find_insert_ne _ _ h]
@[simp] theorem State.setDie_setDie (s : State) (d : Nat) (x y : Die) : (s.setDie d x).setDie d y = s.setDie d y := by
  simp [State.setDie]
@[simp] theorem State.slot_setDie (s : State) (d n : Nat) (x : Die) : (s.setDie d x).slot n = s.slot n := rfl
@[simp] theorem State.core_setDie (s : State) (d n : Nat) (x : Die) : (s.setDie d x).core n = s.core n := rfl
@[simp] theorem State.cluster_setDie (s : State) (d n : Nat) (x : Die) : (s.setDie d x).cluster n = s.cluster n := rfl
@[simp] theorem State.unit_setDie (s : State) (d n : Nat) (x : Die) : (s.setDie d x).unit n = s.unit n := rfl
@[simp] theorem State.disp_setDie (s : State) (d n : Nat) (x : Die) : (s.setDie d x).disp n = s.disp n := rfl

/-! ### `setUnit` -/

@[simp] theorem State.setUnit_cur (s : State) (u : Nat) (x : TaskUnit) : (s.setUnit u x).cur = s.cur := rfl
@[simp] theorem State.setUnit_line (s : State) (u : Nat) (x : TaskUnit) : (s.setUnit u x).line = s.line := rfl
@[simp] theorem State.setUnit_agenda (s : State) (u : Nat) (x : TaskUnit) : (s.setUnit u x).agenda = s.agenda := rfl
@[simp] theorem State.setUnit_tick (s : State) (u : Nat) (x : TaskUnit) : (s.setUnit u x).tick = s.tick := rfl
@[simp] theorem State.setUnit_slots (s : State) (u : Nat) (x : TaskUnit) : (s.setUnit u x).slots = s.slots := rfl
@[simp] theorem State.setUnit_cores (s : State) (u : Nat) (x : TaskUnit) : (s.setUnit u x).cores = s.cores := rfl
@[simp] theorem State.setUnit_clusters (s : State) (u : Nat) (x : TaskUnit) : (s.setUnit u x).clusters = s.clusters := rfl
@[simp] theorem State.setUnit_dies (s : State) (u : Nat) (x : TaskUnit) : (s.setUnit u x).dies = s.dies := rfl
@[simp] theorem State.setUnit_dispensers (s : State) (u : Nat) (x : TaskUnit) : (s.setUnit u x).dispensers = s.dispensers := rfl
@[simp] theorem State.setUnit_mem (s : State) (u : Nat) (x : TaskUnit) : (s.setUnit u x).mem = s.mem := rfl
@[simp] theorem State.setUnit_hbmPoison (s : State) (u : Nat) (x : TaskUnit) : (s.setUnit u x).hbmPoison = s.hbmPoison := rfl
@[simp] theorem State.setUnit_mesh (s : State) (u : Nat) (x : TaskUnit) : (s.setUnit u x).mesh = s.mesh := rfl
@[simp] theorem State.setUnit_fabric (s : State) (u : Nat) (x : TaskUnit) : (s.setUnit u x).fabric = s.fabric := rfl
@[simp] theorem State.setUnit_ops (s : State) (u : Nat) (x : TaskUnit) : (s.setUnit u x).ops = s.ops := rfl
@[simp] theorem State.setUnit_nextOp (s : State) (u : Nat) (x : TaskUnit) : (s.setUnit u x).nextOp = s.nextOp := rfl
@[simp] theorem State.setUnit_nextCtx (s : State) (u : Nat) (x : TaskUnit) : (s.setUnit u x).nextCtx = s.nextCtx := rfl
@[simp] theorem State.setUnit_ckpts (s : State) (u : Nat) (x : TaskUnit) : (s.setUnit u x).ckpts = s.ckpts := rfl
@[simp] theorem State.setUnit_saved (s : State) (u : Nat) (x : TaskUnit) : (s.setUnit u x).saved = s.saved := rfl
@[simp] theorem State.setUnit_clock (s : State) (u : Nat) (x : TaskUnit) : (s.setUnit u x).clock = s.clock := rfl
@[simp] theorem State.setUnit_budget (s : State) (u : Nat) (x : TaskUnit) : (s.setUnit u x).budget = s.budget := rfl
@[simp] theorem State.setUnit_host (s : State) (u : Nat) (x : TaskUnit) : (s.setUnit u x).host = s.host := rfl

@[simp] theorem State.unit_setUnit_self (s : State) (u : Nat) (x : TaskUnit) : (s.setUnit u x).unit u = x := by
  simp [State.unit, State.setUnit]
theorem State.unit_setUnit_ne (s : State) {u j : Nat} (x : TaskUnit) (h : j ≠ u) : (s.setUnit u x).unit j = s.unit j := by
  simp [State.unit, State.setUnit, NMap.find_insert_ne _ _ h]
@[simp] theorem State.setUnit_setUnit (s : State) (u : Nat) (x y : TaskUnit) : (s.setUnit u x).setUnit u y = s.setUnit u y := by
  simp [State.setUnit]
@[simp] theorem State.slot_setUnit (s : State) (u n : Nat) (x : TaskUnit) : (s.setUnit u x).slot n = s.slot n := rfl
@[simp] theorem State.core_setUnit (s : State) (u n : Nat) (x : TaskUnit) : (s.setUnit u x).core n = s.core n := rfl
@[simp] theorem State.cluster_setUnit (s : State) (u n : Nat) (x : TaskUnit) : (s.setUnit u x).cluster n = s.cluster n := rfl
@[simp] theorem State.die_setUnit (s : State) (u n : Nat) (x : TaskUnit) : (s.setUnit u x).die n = s.die n := rfl
@[simp] theorem State.disp_setUnit (s : State) (u n : Nat) (x : TaskUnit) : (s.setUnit u x).disp n = s.disp n := rfl

/-! ### `setDisp` -/

@[simp] theorem State.setDisp_cur (s : State) (d : Nat) (x : Dispenser) : (s.setDisp d x).cur = s.cur := rfl
@[simp] theorem State.setDisp_line (s : State) (d : Nat) (x : Dispenser) : (s.setDisp d x).line = s.line := rfl
@[simp] theorem State.setDisp_agenda (s : State) (d : Nat) (x : Dispenser) : (s.setDisp d x).agenda = s.agenda := rfl
@[simp] theorem State.setDisp_tick (s : State) (d : Nat) (x : Dispenser) : (s.setDisp d x).tick = s.tick := rfl
@[simp] theorem State.setDisp_slots (s : State) (d : Nat) (x : Dispenser) : (s.setDisp d x).slots = s.slots := rfl
@[simp] theorem State.setDisp_cores (s : State) (d : Nat) (x : Dispenser) : (s.setDisp d x).cores = s.cores := rfl
@[simp] theorem State.setDisp_clusters (s : State) (d : Nat) (x : Dispenser) : (s.setDisp d x).clusters = s.clusters := rfl
@[simp] theorem State.setDisp_dies (s : State) (d : Nat) (x : Dispenser) : (s.setDisp d x).dies = s.dies := rfl
@[simp] theorem State.setDisp_units (s : State) (d : Nat) (x : Dispenser) : (s.setDisp d x).units = s.units := rfl
@[simp] theorem State.setDisp_mem (s : State) (d : Nat) (x : Dispenser) : (s.setDisp d x).mem = s.mem := rfl
@[simp] theorem State.setDisp_hbmPoison (s : State) (d : Nat) (x : Dispenser) : (s.setDisp d x).hbmPoison = s.hbmPoison := rfl
@[simp] theorem State.setDisp_mesh (s : State) (d : Nat) (x : Dispenser) : (s.setDisp d x).mesh = s.mesh := rfl
@[simp] theorem State.setDisp_fabric (s : State) (d : Nat) (x : Dispenser) : (s.setDisp d x).fabric = s.fabric := rfl
@[simp] theorem State.setDisp_ops (s : State) (d : Nat) (x : Dispenser) : (s.setDisp d x).ops = s.ops := rfl
@[simp] theorem State.setDisp_nextOp (s : State) (d : Nat) (x : Dispenser) : (s.setDisp d x).nextOp = s.nextOp := rfl
@[simp] theorem State.setDisp_nextCtx (s : State) (d : Nat) (x : Dispenser) : (s.setDisp d x).nextCtx = s.nextCtx := rfl
@[simp] theorem State.setDisp_ckpts (s : State) (d : Nat) (x : Dispenser) : (s.setDisp d x).ckpts = s.ckpts := rfl
@[simp] theorem State.setDisp_saved (s : State) (d : Nat) (x : Dispenser) : (s.setDisp d x).saved = s.saved := rfl
@[simp] theorem State.setDisp_clock (s : State) (d : Nat) (x : Dispenser) : (s.setDisp d x).clock = s.clock := rfl
@[simp] theorem State.setDisp_budget (s : State) (d : Nat) (x : Dispenser) : (s.setDisp d x).budget = s.budget := rfl
@[simp] theorem State.setDisp_host (s : State) (d : Nat) (x : Dispenser) : (s.setDisp d x).host = s.host := rfl

@[simp] theorem State.disp_setDisp_self (s : State) (d : Nat) (x : Dispenser) : (s.setDisp d x).disp d = x := by
  simp [State.disp, State.setDisp]
theorem State.disp_setDisp_ne (s : State) {d j : Nat} (x : Dispenser) (h : j ≠ d) : (s.setDisp d x).disp j = s.disp j := by
  simp [State.disp, State.setDisp, NMap.find_insert_ne _ _ h]
@[simp] theorem State.setDisp_setDisp (s : State) (d : Nat) (x y : Dispenser) : (s.setDisp d x).setDisp d y = s.setDisp d y := by
  simp [State.setDisp]
@[simp] theorem State.slot_setDisp (s : State) (d n : Nat) (x : Dispenser) : (s.setDisp d x).slot n = s.slot n := rfl
@[simp] theorem State.core_setDisp (s : State) (d n : Nat) (x : Dispenser) : (s.setDisp d x).core n = s.core n := rfl
@[simp] theorem State.cluster_setDisp (s : State) (d n : Nat) (x : Dispenser) : (s.setDisp d x).cluster n = s.cluster n := rfl
@[simp] theorem State.die_setDisp (s : State) (d n : Nat) (x : Dispenser) : (s.setDisp d x).die n = s.die n := rfl
@[simp] theorem State.unit_setDisp (s : State) (d n : Nat) (x : Dispenser) : (s.setDisp d x).unit n = s.unit n := rfl

/-! ### The strand that issues -/

@[simp] theorem State.me_setMe (s : State) (x : Slot) : (s.setMe x).me = x := by
  simp [State.me, State.setMe]
@[simp] theorem State.setMe_setMe (s : State) (x y : Slot) : (s.setMe x).setMe y = s.setMe y := by
  simp [State.setMe]

@[simp] theorem State.setMe_cur (s : State) (x : Slot) : (s.setMe x).cur = s.cur := rfl
@[simp] theorem State.setMe_line (s : State) (x : Slot) : (s.setMe x).line = s.line := rfl
@[simp] theorem State.setMe_agenda (s : State) (x : Slot) : (s.setMe x).agenda = s.agenda := rfl
@[simp] theorem State.setMe_tick (s : State) (x : Slot) : (s.setMe x).tick = s.tick := rfl
@[simp] theorem State.setMe_cores (s : State) (x : Slot) : (s.setMe x).cores = s.cores := rfl
@[simp] theorem State.setMe_clusters (s : State) (x : Slot) : (s.setMe x).clusters = s.clusters := rfl
@[simp] theorem State.setMe_dies (s : State) (x : Slot) : (s.setMe x).dies = s.dies := rfl
@[simp] theorem State.setMe_units (s : State) (x : Slot) : (s.setMe x).units = s.units := rfl
@[simp] theorem State.setMe_dispensers (s : State) (x : Slot) : (s.setMe x).dispensers = s.dispensers := rfl
@[simp] theorem State.setMe_mem (s : State) (x : Slot) : (s.setMe x).mem = s.mem := rfl
@[simp] theorem State.setMe_hbmPoison (s : State) (x : Slot) : (s.setMe x).hbmPoison = s.hbmPoison := rfl
@[simp] theorem State.setMe_mesh (s : State) (x : Slot) : (s.setMe x).mesh = s.mesh := rfl
@[simp] theorem State.setMe_fabric (s : State) (x : Slot) : (s.setMe x).fabric = s.fabric := rfl
@[simp] theorem State.setMe_ops (s : State) (x : Slot) : (s.setMe x).ops = s.ops := rfl
@[simp] theorem State.setMe_nextOp (s : State) (x : Slot) : (s.setMe x).nextOp = s.nextOp := rfl
@[simp] theorem State.setMe_nextCtx (s : State) (x : Slot) : (s.setMe x).nextCtx = s.nextCtx := rfl
@[simp] theorem State.setMe_ckpts (s : State) (x : Slot) : (s.setMe x).ckpts = s.ckpts := rfl
@[simp] theorem State.setMe_saved (s : State) (x : Slot) : (s.setMe x).saved = s.saved := rfl
@[simp] theorem State.setMe_clock (s : State) (x : Slot) : (s.setMe x).clock = s.clock := rfl
@[simp] theorem State.setMe_budget (s : State) (x : Slot) : (s.setMe x).budget = s.budget := rfl
@[simp] theorem State.setMe_host (s : State) (x : Slot) : (s.setMe x).host = s.host := rfl
@[simp] theorem State.core_setMe (s : State) (n : Nat) (x : Slot) : (s.setMe x).core n = s.core n := rfl
@[simp] theorem State.me_setCore (s : State) (n : Nat) (x : Core) : (s.setCore n x).me = s.me := rfl
@[simp] theorem State.cluster_setMe (s : State) (n : Nat) (x : Slot) : (s.setMe x).cluster n = s.cluster n := rfl
@[simp] theorem State.me_setCluster (s : State) (n : Nat) (x : Cluster) : (s.setCluster n x).me = s.me := rfl
@[simp] theorem State.die_setMe (s : State) (n : Nat) (x : Slot) : (s.setMe x).die n = s.die n := rfl
@[simp] theorem State.me_setDie (s : State) (n : Nat) (x : Die) : (s.setDie n x).me = s.me := rfl
@[simp] theorem State.unit_setMe (s : State) (n : Nat) (x : Slot) : (s.setMe x).unit n = s.unit n := rfl
@[simp] theorem State.me_setUnit (s : State) (n : Nat) (x : TaskUnit) : (s.setUnit n x).me = s.me := rfl
@[simp] theorem State.disp_setMe (s : State) (n : Nat) (x : Slot) : (s.setMe x).disp n = s.disp n := rfl
@[simp] theorem State.me_setDisp (s : State) (n : Nat) (x : Dispenser) : (s.setDisp n x).me = s.me := rfl
@[simp] theorem State.myCore_setMe (s : State) (x : Slot) : (s.setMe x).myCore = s.myCore := rfl
@[simp] theorem State.myCluster_setMe (s : State) (x : Slot) : (s.setMe x).myCluster = s.myCluster := rfl
theorem State.slot_setMe_ne (s : State) {sid : Nat} (x : Slot) (h : sid ≠ s.cur) : (s.setMe x).slot sid = s.slot sid :=
  State.slot_setSlot_ne s x h
@[simp] theorem State.slot_setMe_self (s : State) (x : Slot) : (s.setMe x).slot s.cur = x :=
  State.slot_setSlot_self s s.cur x

/-! ### Trap entry and return (R153, R156) -/

@[simp] theorem Slot.enter_phase (x : Slot) (t : Trap) : (x.enter t).phase = x.phase := rfl
@[simp] theorem Slot.enter_regs (x : Slot) (t : Trap) : (x.enter t).regs = x.regs := rfl
@[simp] theorem Slot.enter_loops (x : Slot) (t : Trap) : (x.enter t).loops = x.loops := rfl
@[simp] theorem Slot.enter_msgs (x : Slot) (t : Trap) : (x.enter t).msgs = x.msgs := rfl
@[simp] theorem Slot.enter_handles (x : Slot) (t : Trap) : (x.enter t).handles = x.handles := rfl
@[simp] theorem Slot.enter_domain (x : Slot) (t : Trap) : (x.enter t).domain = x.domain := rfl
@[simp] theorem Slot.enter_record (x : Slot) (t : Trap) : (x.enter t).record = x.record := rfl
@[simp] theorem Slot.enter_item (x : Slot) (t : Trap) : (x.enter t).item = x.item := rfl
@[simp] theorem Slot.enter_idem (x : Slot) (t : Trap) : (x.enter t).idem = x.idem := rfl
@[simp] theorem Slot.enter_ctx (x : Slot) (t : Trap) : (x.enter t).ctx = x.ctx := rfl
@[simp] theorem Slot.enter_debts (x : Slot) (t : Trap) : (x.enter t).debts = x.debts := rfl
@[simp] theorem Slot.leave_phase (x : Slot) : x.leave.phase = x.phase := rfl
@[simp] theorem Slot.leave_regs (x : Slot) : x.leave.regs = x.regs := rfl
@[simp] theorem Slot.leave_loops (x : Slot) : x.leave.loops = x.loops := rfl
@[simp] theorem Slot.leave_msgs (x : Slot) : x.leave.msgs = x.msgs := rfl
@[simp] theorem Slot.leave_handles (x : Slot) : x.leave.handles = x.handles := rfl
@[simp] theorem Slot.leave_domain (x : Slot) : x.leave.domain = x.domain := rfl
@[simp] theorem Slot.leave_record (x : Slot) : x.leave.record = x.record := rfl
@[simp] theorem Slot.leave_item (x : Slot) : x.leave.item = x.item := rfl
@[simp] theorem Slot.leave_idem (x : Slot) : x.leave.idem = x.idem := rfl
@[simp] theorem Slot.leave_ctx (x : Slot) : x.leave.ctx = x.ctx := rfl
@[simp] theorem Slot.leave_debts (x : Slot) : x.leave.debts = x.debts := rfl
@[simp] theorem Slot.leave_windows (x : Slot) : x.leave.windows = x.windows := rfl
@[simp] theorem Slot.leave_streams (x : Slot) : x.leave.streams = x.streams := rfl
@[simp] theorem Slot.leave_ports (x : Slot) : x.leave.ports = x.ports := rfl
@[simp] theorem Slot.leave_sTrap (x : Slot) : x.leave.sTrap = x.sTrap := rfl
@[simp] theorem Slot.leave_mTrap (x : Slot) : x.leave.mTrap = x.mTrap := rfl

/-- A trap taken touches the slot of the strand and nothing else. -/
theorem takeTrap_eq (t : Trap) (s : State) : takeTrap t s = s.setMe (s.me.enter t) := rfl

@[simp] theorem takeTrap_cur (t : Trap) (s : State) : (takeTrap t s).cur = s.cur := rfl
@[simp] theorem takeTrap_line (t : Trap) (s : State) : (takeTrap t s).line = s.line := rfl
@[simp] theorem takeTrap_agenda (t : Trap) (s : State) : (takeTrap t s).agenda = s.agenda := rfl
@[simp] theorem takeTrap_tick (t : Trap) (s : State) : (takeTrap t s).tick = s.tick := rfl
@[simp] theorem takeTrap_cores (t : Trap) (s : State) : (takeTrap t s).cores = s.cores := rfl
@[simp] theorem takeTrap_clusters (t : Trap) (s : State) : (takeTrap t s).clusters = s.clusters := rfl
@[simp] theorem takeTrap_dies (t : Trap) (s : State) : (takeTrap t s).dies = s.dies := rfl
@[simp] theorem takeTrap_units (t : Trap) (s : State) : (takeTrap t s).units = s.units := rfl
@[simp] theorem takeTrap_dispensers (t : Trap) (s : State) : (takeTrap t s).dispensers = s.dispensers := rfl
@[simp] theorem takeTrap_mem (t : Trap) (s : State) : (takeTrap t s).mem = s.mem := rfl
@[simp] theorem takeTrap_hbmPoison (t : Trap) (s : State) : (takeTrap t s).hbmPoison = s.hbmPoison := rfl
@[simp] theorem takeTrap_mesh (t : Trap) (s : State) : (takeTrap t s).mesh = s.mesh := rfl
@[simp] theorem takeTrap_fabric (t : Trap) (s : State) : (takeTrap t s).fabric = s.fabric := rfl
@[simp] theorem takeTrap_ops (t : Trap) (s : State) : (takeTrap t s).ops = s.ops := rfl
@[simp] theorem takeTrap_nextOp (t : Trap) (s : State) : (takeTrap t s).nextOp = s.nextOp := rfl
@[simp] theorem takeTrap_nextCtx (t : Trap) (s : State) : (takeTrap t s).nextCtx = s.nextCtx := rfl
@[simp] theorem takeTrap_ckpts (t : Trap) (s : State) : (takeTrap t s).ckpts = s.ckpts := rfl
@[simp] theorem takeTrap_saved (t : Trap) (s : State) : (takeTrap t s).saved = s.saved := rfl
@[simp] theorem takeTrap_clock (t : Trap) (s : State) : (takeTrap t s).clock = s.clock := rfl
@[simp] theorem takeTrap_budget (t : Trap) (s : State) : (takeTrap t s).budget = s.budget := rfl
@[simp] theorem takeTrap_host (t : Trap) (s : State) : (takeTrap t s).host = s.host := rfl
@[simp] theorem takeTrap_me (t : Trap) (s : State) : (takeTrap t s).me = s.me.enter t := by simp [takeTrap]

/-! ### Registers -/

@[simp] theorem Regs.getG_zero (r : Regs) : r.getG 0 = 0 := rfl
@[simp] theorem Regs.getP_zero (r : Regs) : r.getP 0 = BitVec.allOnes 64 := rfl
@[simp] theorem Regs.validG_zero (r : Regs) : r.validG 0 = true := rfl
@[simp] theorem Regs.validP_zero (r : Regs) : r.validP 0 = true := rfl
@[simp] theorem Regs.putG_zero (r : Regs) (x : Word) : r.putG 0 x = r := rfl
@[simp] theorem Regs.putP_zero (r : Regs) (x : Word) : r.putP 0 x = r := rfl

@[simp] theorem Regs.putG_v (r : Regs) (n : BitVec 5) (x : Word) : (r.putG n x).v = r.v := by
  unfold Regs.putG; split <;> rfl
@[simp] theorem Regs.putG_p (r : Regs) (n : BitVec 5) (x : Word) : (r.putG n x).p = r.p := by
  unfold Regs.putG; split <;> rfl
@[simp] theorem Regs.putG_vv (r : Regs) (n : BitVec 5) (x : Word) : (r.putG n x).vv = r.vv := by
  unfold Regs.putG; split <;> rfl
@[simp] theorem Regs.putG_pv (r : Regs) (n : BitVec 5) (x : Word) : (r.putG n x).pv = r.pv := by
  unfold Regs.putG; split <;> rfl
@[simp] theorem Regs.putG_vs (r : Regs) (n : BitVec 5) (x : Word) : (r.putG n x).vs = r.vs := by
  unfold Regs.putG; split <;> rfl
@[simp] theorem Regs.putG_ps (r : Regs) (n : BitVec 5) (x : Word) : (r.putG n x).ps = r.ps := by
  unfold Regs.putG; split <;> rfl
@[simp] theorem Regs.putV_g (r : Regs) (n : BitVec 5) (x : Vec) : (r.putV n x).g = r.g := rfl
@[simp] theorem Regs.putV_p (r : Regs) (n : BitVec 5) (x : Vec) : (r.putV n x).p = r.p := rfl
@[simp] theorem Regs.putV_gv (r : Regs) (n : BitVec 5) (x : Vec) : (r.putV n x).gv = r.gv := rfl
@[simp] theorem Regs.putV_pv (r : Regs) (n : BitVec 5) (x : Vec) : (r.putV n x).pv = r.pv := rfl
@[simp] theorem Regs.putV_gs (r : Regs) (n : BitVec 5) (x : Vec) : (r.putV n x).gs = r.gs := rfl
@[simp] theorem Regs.putV_ps (r : Regs) (n : BitVec 5) (x : Vec) : (r.putV n x).ps = r.ps := rfl
@[simp] theorem Regs.putP_g (r : Regs) (n : BitVec 5) (x : Word) : (r.putP n x).g = r.g := by
  unfold Regs.putP; split <;> rfl
@[simp] theorem Regs.putP_v (r : Regs) (n : BitVec 5) (x : Word) : (r.putP n x).v = r.v := by
  unfold Regs.putP; split <;> rfl
@[simp] theorem Regs.putP_gv (r : Regs) (n : BitVec 5) (x : Word) : (r.putP n x).gv = r.gv := by
  unfold Regs.putP; split <;> rfl
@[simp] theorem Regs.putP_vv (r : Regs) (n : BitVec 5) (x : Word) : (r.putP n x).vv = r.vv := by
  unfold Regs.putP; split <;> rfl
@[simp] theorem Regs.putP_gs (r : Regs) (n : BitVec 5) (x : Word) : (r.putP n x).gs = r.gs := by
  unfold Regs.putP; split <;> rfl
@[simp] theorem Regs.putP_vs (r : Regs) (n : BitVec 5) (x : Word) : (r.putP n x).vs = r.vs := by
  unfold Regs.putP; split <;> rfl

/-- A g register but g0 holds what was written. -/
theorem Regs.getG_putG_self (r : Regs) {n : BitVec 5} (x : Word) (h : n ≠ 0) : (r.putG n x).getG n = x := by
  unfold Regs.putG Regs.getG
  rw [if_neg h, if_neg h]
  simp
theorem Regs.getG_putG_ne (r : Regs) {n m : BitVec 5} (x : Word) (h : m ≠ n) : (r.putG n x).getG m = r.getG m := by
  have hn : n.toNat ≠ m.toNat := fun e => h (BitVec.eq_of_toNat_eq e.symm)
  simp only [Regs.putG, Regs.getG]
  split
  · rfl
  · split
    · rfl
    · simp [hn]
theorem Regs.getV_putV_self (r : Regs) (n : BitVec 5) (x : Vec) : (r.putV n x).getV n = x := by
  simp [Regs.putV, Regs.getV]
theorem Regs.getV_putV_ne (r : Regs) {n m : BitVec 5} (x : Vec) (h : m ≠ n) : (r.putV n x).getV m = r.getV m := by
  have hn : n.toNat ≠ m.toNat := fun e => h (BitVec.eq_of_toNat_eq e.symm)
  simp [Regs.putV, Regs.getV, hn]

end Sys2Proof.Machine
end

