-- ==== Sys2Proof/Laws/Operands.lean ====
section
/-! SUPPORT. What the shared operations of Operands do: one lemma per operation, and what an instruction of a shape comes to
when it executes in order, when its guard is off, and when a source is invalid. -/

namespace Sys2Proof.Machine

/-! ### Running the monad -/

theorem M.bind_ok {α β : Type} {x : M α} {f : α → M β} {s s' : State} {a : α} (h : x s = .ok (a, s')) :
    (x >>= f) s = f a s' := by
  show (x s >>= fun p => f p.1 p.2) = _
  rw [h]; rfl
theorem M.bind_error {α β : Type} {x : M α} {f : α → M β} {s : State} {e : Stop} (h : x s = .error e) :
    (x >>= f) s = .error e := by
  show (x s >>= fun p => f p.1 p.2) = _
  rw [h]; rfl
@[simp] theorem M.pure_run {α : Type} (a : α) (s : State) : (pure a : M α) s = .ok (a, s) := rfl
@[simp] theorem M.get_run (s : State) : (get : M State) s = .ok (s, s) := rfl
@[simp] theorem M.modify_run (f : State → State) (s : State) : (modify f : M Unit) s = .ok ((), f s) := rfl
@[simp] theorem getMe_run (s : State) : getMe s = .ok (s.me, s) := rfl
@[simp] theorem modMe_run (f : Slot → Slot) (s : State) : modMe f s = .ok ((), s.setMe (f s.me)) := rfl
@[simp] theorem trap_run {α : Type} (cause : Nat) (tval : Word) (s : State) :
    (trap cause tval : M α) s = .error (.trap { cause := cause, tval := tval }) := rfl
@[simp] theorem block_run {α : Type} (w : Wait) (s : State) : (block w : M α) s = .error (.wait w false) := rfl

theorem outcome_ok {act : M Unit} {s t : State} (h : act s = .ok ((), t)) : outcome act s = .next t := by
  simp [outcome, h]
theorem outcome_trap {act : M Unit} {s : State} {t : Trap} (h : act s = .error (.trap t)) : outcome act s = .next (takeTrap t s) := by
  simp [outcome, h]
theorem outcome_wait {act : M Unit} {s : State} {w : Wait} {b : Bool} (h : act s = .error (.wait w b)) :
    outcome act s = .next (waitState w b s) := by
  simp [outcome, h]
/-- An instruction always has an effect: a next state. -/
theorem outcome_next (act : M Unit) (s : State) : ∃ t, outcome act s = .next t := by
  unfold outcome
  split <;> exact ⟨_, rfl⟩

/-! ### Reading -/

theorem Slot.steady_windows {x : Slot} (h : x.steady = true) : x.windows = [] := by
  simp only [Slot.steady, Bool.and_eq_true, List.isEmpty_iff] at h
  exact h.1.1
theorem Slot.steady_rep {x : Slot} (h : x.steady = true) : x.rep.mode ≠ .running := by
  simp only [Slot.steady, Bool.and_eq_true, decide_eq_true_eq] at h
  exact h.1.2

/-- With no window open, a register reads as its content (R106). -/
theorem peekReg_run {s : State} (h : s.me.windows = []) (c : Cls) (n : BitVec 5) : peekReg c n s = .ok (s.me.regs.peek c n, s) := by
  unfold peekReg
  rw [M.bind_ok (getMe_run s)]
  simp [h]

theorem readG_run {s : State} (hw : s.me.windows = []) (pos : Nat) (r : Reg) (h : s.me.readable .g r.n = true) :
    readG pos r s = .ok (s.me.regs.getG r.n, s) := by
  unfold readG
  rw [M.bind_ok (getMe_run s)]
  by_cases h0 : r.n = 0
  · simp only [h0, if_true]
    rfl
  · simp only [h0, if_false]
    simp only [Slot.readable, Bool.or_eq_true, Bool.and_eq_true, Option.isNone_iff_eq_none, beq_iff_eq, h0, and_false, false_or] at h
    simp only [h.1]
    rw [M.bind_ok (peekReg_run hw .g r.n)]
    have hv : s.me.regs.validG r.n = true := h.2
    simp [Regs.peek, hv, word]

theorem readV_run {s : State} (hw : s.me.windows = []) (pos : Nat) (r : Reg) (h : s.me.readable .v r.n = true) :
    readV pos r s = .ok (s.me.regs.getV r.n, s) := by
  unfold readV
  rw [M.bind_ok (getMe_run s)]
  simp only [Slot.readable, ne_eq, not_true_eq_false, decide_false, Bool.false_and, Bool.false_or, Bool.and_eq_true,
    Option.isNone_iff_eq_none] at h
  simp only [h.1]
  rw [M.bind_ok (peekReg_run hw .v r.n)]
  have hv : s.me.regs.validV r.n = true := h.2
  simp [Regs.peek, hv]

theorem readP_run {s : State} (hw : s.me.windows = []) (pos : Nat) (r : Reg) (h : s.me.readable .p r.n = true) :
    readP pos r s = .ok (s.me.regs.getP r.n, s) := by
  unfold readP
  by_cases h0 : r.n = 0
  · simp only [h0, if_true]
    rfl
  · simp only [h0, if_false]
    simp only [Slot.readable, Bool.or_eq_true, Bool.and_eq_true, Option.isNone_iff_eq_none, beq_iff_eq, h0, and_false, false_or] at h
    rw [M.bind_ok (peekReg_run hw .p r.n)]
    have hv : s.me.regs.validP r.n = true := h.2
    simp [Regs.peek, hv, word]

/-- The second operand of R130: a register that is readable, or a constant. -/
theorem readOpnd_run {s : State} (hw : s.me.windows = []) (pos : Nat) (b : Opnd)
    (h : ∀ r, b = .reg r → s.me.readable .g r.n = true) : readOpnd pos b s = .ok (s.me.opnd b, s) := by
  cases b with
  | reg r => exact readG_run hw pos r (h r rfl)
  | imm v => rfl
  | lit v => rfl

/-! ### Writing -/

theorem breach_run {s : State} (h : s.me.windows = []) (c : Cls) (n : BitVec 5) : breach c n s = .ok (true, s) := by
  unfold breach
  rw [M.bind_ok (getMe_run s)]
  simp [h]

theorem needPhysical_run {s : State} (c : Cls) (n : BitVec 5) (held : Bool)
    (h : (held || s.poolFree (coreOf s.cur) c) = true) : needPhysical c n held s = .ok ((), s) := by
  unfold needPhysical
  cases held
  · simp only [Bool.false_or] at h
    simp only [Bool.false_eq_true, if_false]
    rw [M.bind_ok (M.get_run s)]
    simp [h]
  · simp

/-- `t` is `s` with the slot of its strand as `y`, but for what a write of the same slot would do to the map of slots. -/
structure State.IsAt (t s : State) (y : Slot) : Prop where
  me : t.me = y
  rest : ∀ x, t.setMe x = s.setMe x

theorem State.IsAt.refl (s : State) : s.IsAt s s.me := ⟨rfl, fun _ => rfl⟩
theorem State.isAt_setMe (s : State) (y : Slot) : (s.setMe y).IsAt s y := ⟨s.me_setMe y, fun x => s.setMe_setMe y x⟩
theorem State.IsAt.cur {t s : State} {y : Slot} (h : t.IsAt s y) : t.cur = s.cur := by
  have := congrArg State.cur (h.rest y)
  simpa using this
theorem State.IsAt.line {t s : State} {y : Slot} (h : t.IsAt s y) : t.line = s.line := by
  have := congrArg State.line (h.rest y)
  simpa using this
theorem State.IsAt.setMe {t s : State} {y : Slot} (h : t.IsAt s y) (x : Slot) : (t.setMe x).IsAt s x :=
  ⟨t.me_setMe x, fun z => by rw [t.setMe_setMe, h.rest z]⟩

/-- A write of a g register that is no stream's and has a physical register. -/
theorem writeG_run {s : State} (hw : s.me.windows = []) (n : BitVec 5) (v : Word) (h : s.writable .g n = true) :
    ∃ t, writeG n v s = .ok ((), t) ∧ t.IsAt s (s.me.withG n v) := by
  unfold writeG
  by_cases h0 : n = 0
  · subst h0
    exact ⟨s, rfl, State.IsAt.refl s⟩
  · simp only [State.writable, Bool.or_eq_true, Bool.and_eq_true, Option.isNone_iff_eq_none, beq_iff_eq, h0, and_false, false_or,
      Regs.own] at h
    simp only [h0, if_false]
    rw [M.bind_ok (getMe_run s)]
    simp only [h.1]
    rw [M.bind_ok (needPhysical_run .g n _ (by simpa using h.2)), M.bind_ok (breach_run hw .g n)]
    exact ⟨_, rfl, s.isAt_setMe _⟩

theorem writeV_run {s : State} (hw : s.me.windows = []) (mask : Word) (n : BitVec 5) (v : Vec) (h : s.writable .v n = true) :
    ∃ t, writeV mask n v s = .ok ((), t) ∧ t.IsAt s (s.me.withV n v) := by
  unfold writeV
  simp only [State.writable, ne_eq, not_true_eq_false, decide_false, Bool.false_and, Bool.false_or, Bool.and_eq_true,
    Option.isNone_iff_eq_none, Regs.own] at h
  rw [M.bind_ok (getMe_run s)]
  simp only [h.1]
  rw [M.bind_ok (needPhysical_run .v n _ (by simpa using h.2)), M.bind_ok (breach_run hw .v n)]
  exact ⟨_, rfl, s.isAt_setMe _⟩

theorem writeP_run {s : State} (hw : s.me.windows = []) (n : BitVec 5) (v : Word) (h : s.writable .p n = true) :
    ∃ t, writeP n v s = .ok ((), t) ∧ t.IsAt s (s.me.withP n v) := by
  unfold writeP
  by_cases h0 : n = 0
  · subst h0
    exact ⟨s, rfl, State.IsAt.refl s⟩
  · simp only [State.writable, Bool.or_eq_true, Bool.and_eq_true, Option.isNone_iff_eq_none, beq_iff_eq, h0, and_false, false_or,
      Regs.own] at h
    simp only [h0, if_false]
    rw [M.bind_ok (getMe_run s), M.bind_ok (needPhysical_run .p n _ (by simpa using h.2)), M.bind_ok (breach_run hw .p n)]
    exact ⟨_, rfl, s.isAt_setMe _⟩

/-! ### Guards -/

theorem guardPred_run {s : State} (hw : s.me.windows = []) (h : Hdr) (hv : s.me.regs.validP (guardReg h) = true) :
    guardPred h s = .ok (s.me.regs.getP (guardReg h), s) := by
  unfold guardPred
  by_cases h0 : guardReg h = 0
  · have e : (BitVec.setWidth 5 (field h.gd 0 3)) = 0 := h0
    simp only [e, if_true, h0]
    rfl
  · have e : ¬ (BitVec.setWidth 5 (field h.gd 0 3)) = 0 := h0
    simp only [e, if_false]
    rw [M.bind_ok (peekReg_run hw .p _)]
    have hv' : s.me.regs.validP (BitVec.setWidth 5 (field h.gd 0 3)) = true := hv
    simp [Regs.peek, hv', word, guardReg]

theorem guardOn_run {s : State} (hw : s.me.windows = []) (h : Hdr) (hv : s.me.regs.validP (guardReg h) = true) :
    guardOn h s = .ok ((s.me.regs.getP (guardReg h)).getLsbD 0 != h.gd.getLsbD 3, s) := by
  unfold guardOn
  rw [M.bind_ok (guardPred_run hw h hv)]
  rfl

theorem laneMask_run {s : State} (hw : s.me.windows = []) (h : Hdr) (hv : s.me.regs.validP (guardReg h) = true) :
    laneMask h s = .ok (s.me.lanes h, s) := by
  unfold laneMask
  rw [M.bind_ok (guardPred_run hw h hv)]
  rfl

/-! ### The checks of the sources -/

theorem checkSource_run {s : State} (hw : s.me.windows = []) (src : Src) (h : s.me.readable src.2.1 src.2.2.n = true) :
    checkSource src s = .ok ((), s) := by
  obtain ⟨pos, c, r⟩ := src
  unfold checkSource
  dsimp only at h ⊢
  rw [M.bind_ok (getMe_run s)]
  by_cases h0 : c ≠ .v ∧ r.n = 0
  · simp [h0]
  · simp only [h0, if_false]
    have hb : (s.me.boundTo c r.n) = none ∧ (s.me.regs.peek c r.n).2 = true := by
      simp only [Slot.readable, Bool.or_eq_true, Bool.and_eq_true, Option.isNone_iff_eq_none, beq_iff_eq, decide_eq_true_eq] at h
      rcases h with h | h
      · exact absurd h h0
      · exact h
    simp [hb.1, hb.2, hw]

theorem checkSources_run {s : State} (hw : s.me.windows = []) (srcs : List Src)
    (h : (srcs.all fun m => s.me.readable m.2.1 m.2.2.n) = true) : checkSources srcs s = .ok ((), s) := by
  induction srcs with
  | nil => rfl
  | cons a as ih =>
    simp only [List.all_cons, Bool.and_eq_true] at h
    unfold checkSources
    rw [M.bind_ok (checkSource_run hw a h.1)]
    exact ih h.2

/-- An invalid source that is bound to no stream is INVALID_REG at its position (R108). -/
theorem checkSource_invalid {s : State} (hw : s.me.windows = []) (pos : Nat) (c : Cls) (r : Reg)
    (h0 : ¬ (c ≠ .v ∧ r.n = 0)) (hb : s.me.boundTo c r.n = none) (hv : (s.me.regs.peek c r.n).2 = false) :
    checkSource (pos, c, r) s = .error (.trap { cause := cInvalidReg, tval := word (specWord c r + 256 * pos) }) := by
  unfold checkSource
  dsimp only
  rw [M.bind_ok (getMe_run s)]
  simp only [h0, if_false, hb, hv, Bool.false_and, Bool.false_eq_true]
  rw [M.bind_ok (peekReg_run hw c r.n)]
  simp [hv, invalidReg]

theorem priorOf_run (sh : Shape) (s : State) : priorOf sh s = .ok (sh.prior s.me, s) := by
  obtain ⟨h, srcs, dst⟩ := sh
  cases dst with
  | none => rfl
  | some cn => rfl

/-! ### Retirement -/

theorem release1_keeps (dst : Option (Cls × BitVec 5)) (x : Slot) (c : Cls) (r : Reg) :
    (release1 dst x c r).pc = x.pc ∧ (release1 dst x c r).rep = x.rep ∧ (release1 dst x c r).loops = x.loops ∧
    (release1 dst x c r).ctl = x.ctl ∧ (x.windows = [] → (release1 dst x c r).windows = []) := by
  unfold release1
  split
  · refine ⟨rfl, rfl, rfl, rfl, fun h => ?_⟩
    simp [h]
  · exact ⟨rfl, rfl, rfl, rfl, id⟩

/-- Last-read marks touch the registers only. -/
theorem Slot.releaseMarks_keeps (x : Slot) (sh : Shape) :
    (x.releaseMarks sh).pc = x.pc ∧ (x.releaseMarks sh).rep = x.rep ∧ (x.releaseMarks sh).loops = x.loops ∧
    (x.releaseMarks sh).ctl = x.ctl ∧ (x.windows = [] → (x.releaseMarks sh).windows = []) := by
  unfold Slot.releaseMarks
  generalize sh.srcs = l
  induction l generalizing x with
  | nil => exact ⟨rfl, rfl, rfl, rfl, id⟩
  | cons a as ih =>
    simp only [List.foldl_cons]
    obtain ⟨h1, h2, h3, h4, h5⟩ := ih (release1 sh.dst x a.2.1 a.2.2)
    obtain ⟨k1, k2, k3, k4, k5⟩ := release1_keeps sh.dst x a.2.1 a.2.2
    exact ⟨h1.trans k1, h2.trans k2, h3.trans k3, h4.trans k4, fun h => h5 (k5 h)⟩

/-- Without marks nothing is released. -/
theorem Slot.releaseMarks_none (x : Slot) (sh : Shape) (h : (sh.srcs.all fun m => !m.2.2.mark) = true) : x.releaseMarks sh = x := by
  unfold Slot.releaseMarks
  revert h
  generalize sh.srcs = l
  intro h
  induction l with
  | nil => rfl
  | cons a as ih =>
    simp only [List.all_cons, Bool.and_eq_true, Bool.not_eq_true'] at h
    simp only [List.foldl_cons]
    have : release1 sh.dst x a.2.1 a.2.2 = x := by simp [release1, h.1]
    rw [this]
    exact ih h.2

/-- LA = 0 opens no window. -/
theorem Slot.openWindow_zero (x : Slot) (sh : Shape) (prior : Nat × Bool) (h : sh.h.la = 0) : x.openWindow sh prior = x := by
  unfold Slot.openWindow
  split
  · simp [h]
  · rfl

theorem Slot.tickWindows_nil {x : Slot} (h : x.windows = []) : x.tickWindows = x := by
  unfold Slot.tickWindows
  simp only [h, List.filter_nil, List.map_nil]
  cases x
  simp_all

/-- A transfer retires at its target. -/
theorem retireAt_jump {t s : State} {y : Slot} (ht : t.IsAt s y) (hw : y.windows = []) (sh : Shape) (prior : Nat × Bool) (a : Word) :
    retireAt sh prior (some a) t = .ok ((), s.setMe (y.finish sh prior a)) := by
  unfold retireAt
  rw [M.bind_ok (modMe_run _ t), M.bind_ok (getMe_run _)]
  dsimp only
  rw [M.bind_ok (modMe_run _ _)]
  simp only [modMe_run, State.me_setMe, State.setMe_setMe, ht.me, ht.rest]
  rw [Slot.tickWindows_nil (by simpa using (y.releaseMarks_keeps sh).2.2.2.2 hw)]
  rfl

/-- Any other instruction retires at the next instruction. -/
theorem retireAt_next {t s : State} {y : Slot} (ht : t.IsAt s y) (hs : y.steady = true) (sh : Shape) (prior : Nat × Bool) :
    retireAt sh prior none t = .ok ((), s.setMe (y.pass sh prior (nextOf s.line y.pc))) := by
  have hw := Slot.steady_windows hs
  obtain ⟨k1, k2, k3, k4, k5⟩ := y.releaseMarks_keeps sh
  unfold retireAt
  rw [M.bind_ok (modMe_run _ t), M.bind_ok (getMe_run _)]
  simp only [State.me_setMe, ht.me, k2]
  have hrep := Slot.steady_rep hs
  have hnext : nextPc (t.setMe (y.releaseMarks sh)) = .ok (nextOf s.line y.pc, t.setMe (y.releaseMarks sh)) := by
    unfold nextPc
    rw [M.bind_ok (M.get_run _)]
    simp only [State.me_setMe, k2, k1, State.setMe_line, ht.line]
    rfl
  have hback : backEdge (y.releaseMarks sh).pc (t.setMe (y.releaseMarks sh)) = .ok (none, t.setMe (y.releaseMarks sh)) := by
    unfold backEdge
    rw [M.bind_ok (getMe_run _)]
    simp only [State.me_setMe, k3, k1]
    simp only [Slot.steady, Bool.and_eq_true, Bool.or_eq_true, decide_eq_true_eq] at hs
    rcases hs.2 with h | h
    · simp [h]
    · simp [h]
  have tail : ∀ a, (do modMe fun y => y.goOn a; modMe fun y => (y.tickWindows).openWindow sh prior : M Unit)
      (t.setMe (y.releaseMarks sh)) = .ok ((), s.setMe (y.pass sh prior a)) := by
    intro a
    rw [M.bind_ok (modMe_run _ _)]
    simp only [modMe_run, State.me_setMe, State.setMe_setMe, ht.rest]
    rw [Slot.tickWindows_nil (show ((y.releaseMarks sh).goOn a).windows = [] from k5 hw)]
    rfl
  have key : (do
      let next ← nextPc
      match ← backEdge (y.releaseMarks sh).pc with
      | some t => modMe fun y => { y with pc := t }
      | none => modMe fun y => y.goOn next
      modMe fun y => (y.tickWindows).openWindow sh prior : M Unit) (t.setMe (y.releaseMarks sh)) =
      .ok ((), s.setMe (y.pass sh prior (nextOf s.line y.pc))) := by
    rw [M.bind_ok hnext, M.bind_ok hback]
    exact tail _
  revert hrep
  generalize y.rep.mode = mode
  intro hrep
  cases mode with
  | running => exact absurd rfl hrep
  | off => exact key
  | reload => exact key

/-! ### The run of one instruction -/

theorem State.ready_parts {s : State} {sh : Shape} (h : s.ready sh = true) :
    s.me.steady = true ∧ s.me.executes sh.h = true ∧ s.me.readableAll sh = true ∧ s.dstOk sh = true := by
  simp only [State.ready, Bool.and_eq_true] at h
  exact ⟨h.1.1.1, h.1.1.2, h.1.2, h.2⟩

/-- An instruction whose guard is on, whose sources are readable, and whose body leaves the strand in order, retires at the next
instruction with what the body did. -/
theorem privInstr_run {s t t' : State} {y : Slot} {sh : Shape} {allowed : M Unit} {body : M (Option Word)}
    (hs : s.me.steady = true) (hg : s.me.executes sh.h = true) (hr : s.me.readableAll sh = true)
    (ha : allowed s = .ok ((), s)) (hb : body s = .ok (none, t')) (ht : t'.IsAt t y) (hy : y.steady = true) :
    privInstr sh allowed body s = .next (t.setMe (y.pass sh (sh.prior s.me) (nextOf t.line y.pc))) := by
  have hw := Slot.steady_windows hs
  simp only [Slot.executes, Bool.and_eq_true] at hg
  refine outcome_ok ?_
  rw [M.bind_ok (guardOn_run hw sh.h hg.1)]
  simp only [hg.2, if_true]
  rw [M.bind_ok ha, M.bind_ok (checkSources_run hw sh.srcs hr), M.bind_ok (priorOf_run sh s), M.bind_ok hb]
  exact retireAt_next ht hy sh _

/-- The same with a transfer taken. -/
theorem privInstr_jump {s t t' : State} {y : Slot} {sh : Shape} {allowed : M Unit} {body : M (Option Word)} {a : Word}
    (hs : s.me.steady = true) (hg : s.me.executes sh.h = true) (hr : s.me.readableAll sh = true)
    (ha : allowed s = .ok ((), s)) (hb : body s = .ok (some a, t')) (ht : t'.IsAt t y) (hy : y.windows = []) :
    privInstr sh allowed body s = .next (t.setMe (y.finish sh (sh.prior s.me) a)) := by
  have hw := Slot.steady_windows hs
  simp only [Slot.executes, Bool.and_eq_true] at hg
  refine outcome_ok ?_
  rw [M.bind_ok (guardOn_run hw sh.h hg.1)]
  simp only [hg.2, if_true]
  rw [M.bind_ok ha, M.bind_ok (checkSources_run hw sh.srcs hr), M.bind_ok (priorOf_run sh s), M.bind_ok hb]
  exact retireAt_jump ht hy sh _ a

/-- A body that only leaves the slot as `y`. -/
theorem plainInstr_run {s t' : State} {y : Slot} {sh : Shape} {body : M Unit}
    (h : s.me.steady = true) (hg : s.me.executes sh.h = true) (hr : s.me.readableAll sh = true)
    (hb : body s = .ok ((), t')) (ht : t'.IsAt s y) (hy : y.steady = true) (hp : y.pc = s.me.pc) :
    plainInstr sh body s = .next (s.retires sh y) := by
  have := privInstr_run (allowed := pure ()) (body := do body; return none) h hg hr rfl (by rw [M.bind_ok hb]; rfl) ht hy
  rw [hp] at this
  exact this

/-- A guarded-off instruction changes nothing but its marked registers and the program counter (R104). -/
theorem privInstr_off {s : State} {sh : Shape} {allowed : M Unit} {body : M (Option Word)}
    (hs : s.me.steady = true) (hg : s.me.guardedOff sh.h = true) :
    privInstr sh allowed body s =
      .next (s.setMe ((s.me.releaseMarks { sh with h := { sh.h with la := 0 }, dst := none }).goOn (nextOf s.line s.me.pc))) := by
  have hw := Slot.steady_windows hs
  simp only [Slot.guardedOff, Bool.and_eq_true, beq_iff_eq] at hg
  refine outcome_ok ?_
  rw [M.bind_ok (guardOn_run hw sh.h hg.1)]
  simp only [hg.2, bne_self_eq_false, Bool.false_eq_true, if_false]
  unfold retireOff
  rw [retireAt_next (State.IsAt.refl s) hs]
  rfl

/-- An instruction that the mode may not execute takes its trap before its sources are looked at (R111). -/
theorem privInstr_refused {s : State} {sh : Shape} {allowed : M Unit} {body : M (Option Word)} {t : Trap}
    (hw : s.me.windows = []) (hg : s.me.executes sh.h = true) (ha : allowed s = .error (.trap t)) :
    privInstr sh allowed body s = .next (takeTrap t s) := by
  simp only [Slot.executes, Bool.and_eq_true] at hg
  refine outcome_trap ?_
  rw [M.bind_ok (guardOn_run hw sh.h hg.1)]
  simp only [hg.2, if_true]
  rw [M.bind_error ha]

/-- A body that traps takes its trap. -/
theorem privInstr_trap {s : State} {sh : Shape} {allowed : M Unit} {body : M (Option Word)} {t : Trap}
    (hw : s.me.windows = []) (hg : s.me.executes sh.h = true) (hr : s.me.readableAll sh = true)
    (ha : allowed s = .ok ((), s)) (hb : body s = .error (.trap t)) :
    privInstr sh allowed body s = .next (takeTrap t s) := by
  simp only [Slot.executes, Bool.and_eq_true] at hg
  refine outcome_trap ?_
  rw [M.bind_ok (guardOn_run hw sh.h hg.1)]
  simp only [hg.2, if_true]
  rw [M.bind_ok ha, M.bind_ok (checkSources_run hw sh.srcs hr), M.bind_ok (priorOf_run sh s), M.bind_error hb]

/-- A vector-group instruction with an active element. -/
theorem vecInstr_run {s t t' : State} {y : Slot} {sh : Shape} {active : Word → Bool} {body : Word → M Unit}
    (hs : s.me.steady = true) (hg : s.me.regs.validP (guardReg sh.h) = true) (hl : active (s.me.lanes sh.h) = true)
    (hr : s.me.readableAll sh = true) (hb : body (s.me.lanes sh.h) s = .ok ((), t')) (ht : t'.IsAt t y) (hy : y.steady = true) :
    vecInstr sh active body s = .next (t.setMe (y.pass sh (sh.prior s.me) (nextOf t.line y.pc))) := by
  have hw := Slot.steady_windows hs
  refine outcome_ok ?_
  rw [M.bind_ok (laneMask_run hw sh.h hg)]
  simp only [hl, if_true]
  rw [M.bind_ok (checkSources_run hw sh.srcs hr), M.bind_ok (priorOf_run sh s), M.bind_ok hb]
  exact retireAt_next ht hy sh _

/-- A vector-group instruction without an active element is guarded off as a whole (R171). -/
theorem vecInstr_off {s : State} {sh : Shape} {active : Word → Bool} {body : Word → M Unit}
    (hs : s.me.steady = true) (hg : s.me.regs.validP (guardReg sh.h) = true) (hl : active (s.me.lanes sh.h) = false) :
    vecInstr sh active body s =
      .next (s.setMe ((s.me.releaseMarks { sh with h := { sh.h with la := 0 }, dst := none }).goOn (nextOf s.line s.me.pc))) := by
  have hw := Slot.steady_windows hs
  refine outcome_ok ?_
  rw [M.bind_ok (laneMask_run hw sh.h hg)]
  simp only [hl, Bool.false_eq_true, if_false]
  unfold retireOff
  rw [retireAt_next (State.IsAt.refl s) hs]
  rfl

/-! ### Writes keep a strand in order -/

@[simp] theorem Slot.steady_withG (x : Slot) (n : BitVec 5) (v : Word) : (x.withG n v).steady = x.steady := rfl
@[simp] theorem Slot.steady_withV (x : Slot) (n : BitVec 5) (v : Vec) : (x.withV n v).steady = x.steady := rfl
@[simp] theorem Slot.steady_withP (x : Slot) (n : BitVec 5) (v : Word) : (x.withP n v).steady = x.steady := rfl
@[simp] theorem Slot.steady_withFlags (x : Slot) (f : BitVec 5) : (x.withFlags f).steady = x.steady := rfl
@[simp] theorem Slot.withG_pc (x : Slot) (n : BitVec 5) (v : Word) : (x.withG n v).pc = x.pc := rfl
@[simp] theorem Slot.withV_pc (x : Slot) (n : BitVec 5) (v : Vec) : (x.withV n v).pc = x.pc := rfl
@[simp] theorem Slot.withP_pc (x : Slot) (n : BitVec 5) (v : Word) : (x.withP n v).pc = x.pc := rfl
@[simp] theorem Slot.withFlags_pc (x : Slot) (f : BitVec 5) : (x.withFlags f).pc = x.pc := rfl

@[simp] theorem orFlags_run (f : BitVec 5) (s : State) : orFlags f s = .ok ((), s.setMe (s.me.withFlags f)) := rfl

end Sys2Proof.Machine
end

