-- ==== Sys2Proof/Laws/Integer.lean ====
section
/-! SUPPORT. What the shared operations of the integer group come to when an instruction is ready. -/

namespace Sys2Proof.Machine

/-- A body that only writes a g register. -/
theorem plainInstr_writeG {s : State} {h : Hdr} {srcs : List Src} {rd : BitVec 5} {v : Word} {body : M Unit}
    (hr : s.ready ⟨h, srcs, some (.g, rd)⟩ = true) (hb : body s = writeG rd v s) :
    plainInstr ⟨h, srcs, some (.g, rd)⟩ body s = .next (s.retires ⟨h, srcs, some (.g, rd)⟩ (s.me.withG rd v)) := by
  obtain ⟨hs, hg, hsrc, hd⟩ := State.ready_parts hr
  obtain ⟨t, ht, hat⟩ := writeG_run (Slot.steady_windows hs) rd v hd
  exact plainInstr_run hs hg hsrc (hb.trans ht) hat hs rfl
/-- A body that only writes a p register. -/
theorem plainInstr_writeP {s : State} {h : Hdr} {srcs : List Src} {rd : BitVec 5} {v : Word} {body : M Unit}
    (hr : s.ready ⟨h, srcs, some (.p, rd)⟩ = true) (hb : body s = writeP rd v s) :
    plainInstr ⟨h, srcs, some (.p, rd)⟩ body s = .next (s.retires ⟨h, srcs, some (.p, rd)⟩ (s.me.withP rd v)) := by
  obtain ⟨hs, hg, hsrc, hd⟩ := State.ready_parts hr
  obtain ⟨t, ht, hat⟩ := writeP_run (Slot.steady_windows hs) rd v hd
  exact plainInstr_run hs hg hsrc (hb.trans ht) hat hs rfl

/-- The second operand of a ready instruction is readable. -/
theorem opndSrc_readable {x : Slot} {pos : Nat} {b : Opnd} (h : ((opndSrc pos b).all fun m => x.readable m.2.1 m.2.2.n) = true) :
    ∀ r, b = .reg r → x.readable .g r.n = true := by
  rintro r rfl
  simpa [opndSrc] using h

theorem intBinary_run {s : State} (fn : Word → Word → Word) (f : IntBin) (hr : s.ready (intBinShape f) = true) :
    intBinary fn f s = .next (s.retires (intBinShape f) (s.me.withG f.rd (fn (s.me.regs.getG f.a.n) (s.me.opnd f.b)))) := by
  obtain ⟨hs, _, hsrc, _⟩ := State.ready_parts hr
  have hw := Slot.steady_windows hs
  simp only [intBinShape, Slot.readableAll, List.all_cons, Bool.and_eq_true] at hsrc
  refine plainInstr_writeG hr ?_
  rw [M.bind_ok (readG_run hw 1 f.a hsrc.1), M.bind_ok (readOpnd_run hw 2 f.b (opndSrc_readable hsrc.2))]
theorem intTernary_run {s : State} (fn : Word → Word → Word → Word) (f : IntTri) (hr : s.ready (intTriShape f) = true) :
    intTernary fn f s = .next (s.retires (intTriShape f)
      (s.me.withG f.rd (fn (s.me.regs.getG f.a.n) (s.me.opnd f.b) (s.me.regs.getG f.c.n)))) := by
  obtain ⟨hs, _, hsrc, _⟩ := State.ready_parts hr
  have hw := Slot.steady_windows hs
  simp only [intTriShape, Slot.readableAll, List.all_cons, List.all_append, List.all_nil, Bool.and_eq_true, Bool.and_true] at hsrc
  refine plainInstr_writeG hr ?_
  rw [M.bind_ok (readG_run hw 1 f.a hsrc.1), M.bind_ok (readOpnd_run hw 2 f.b (opndSrc_readable hsrc.2.1)),
    M.bind_ok (readG_run hw 3 f.c hsrc.2.2)]
theorem intUnary_run {s : State} (fn : Word → Word) (f : Un) (hr : s.ready (unShape f) = true) :
    intUnary fn f s = .next (s.retires (unShape f) (s.me.withG f.rd (fn (s.me.regs.getG f.a.n)))) := by
  obtain ⟨hs, _, hsrc, _⟩ := State.ready_parts hr
  simp only [unShape, Slot.readableAll, List.all_cons, List.all_nil, Bool.and_true] at hsrc
  refine plainInstr_writeG hr ?_
  rw [M.bind_ok (readG_run (Slot.steady_windows hs) 1 f.a hsrc)]
/-- BASE and INDEX read. -/
theorem readAddr_run {s : State} (hw : s.me.windows = []) (ad : Addr) (hb : s.me.readable .g ad.base.n = true)
    (hi : s.me.readable .g ad.index.n = true) :
    readAddr ad s = .ok (effAddr (s.me.regs.getG ad.base.n) (s.me.regs.getG ad.index.n) ad.scale ad.disp, s) := by
  unfold readAddr
  rw [M.bind_ok (readG_run hw 1 ad.base hb), M.bind_ok (readG_run hw 2 ad.index hi)]
  rfl

end Sys2Proof.Machine
end

