-- ==== Sys2Proof/Tests/Slice0.lean ====
section
/-! SUPPORT. Tests: terms that WellFormed refuses, words of the spec that decode, witnesses that meet the hypotheses of the
statements, and single steps with results that the spec states. -/

set_option maxRecDepth 100000

namespace Sys2Proof.Tests
open Sys2Proof.Machine

/-- Every register valid and the strand's own: g(n) as listed, v(n) all `v`, p(n) all ones. -/
def regs (g : List (Nat × Word)) (v : Vec) : Regs :=
  g.foldl (fun r x => r.putG (BitVec.ofNat 5 x.1) x.2)
    { Regs.none with
      v := Vector.replicate 32 v, p := Vector.replicate 8 (BitVec.allOnes 64)
      gv := BitVec.allOnes 32, vv := BitVec.allOnes 32, pv := BitVec.allOnes 8 }

/-- A strand that is READY at slot 0 of the line at 0x1000. -/
def slot (status : Word) (g : List (Nat × Word)) (v : Vec) : Slot :=
  { Slot.none with
    phase := .ready, pc := 0x1000, regs := regs g v
    ctl := { Ctl.none with status := status, seed := 1 }
    sTrap := { (default : TrapBank) with tvec := 0x5000 }
    mTrap := { (default : TrapBank) with tvec := 0x6000 } }

/-- Groups 0 and 1 of the cluster, allocated and ON, with some bytes. -/
def cluster : Cluster :=
  { Cluster.initial with
    banks := (List.range 16).map fun k => (k, ⟨.on, 0⟩)
    groups := [(0, ⟨0, 1, 0⟩), (1, ⟨1, 1, 0⟩)]
    mem := [(64, 0xF1), (65, 0x02), (67, 0x80)], full := [8] }

/-- The page of G at 0 stands at physical 0x10000, for every access in every mode. -/
def die : Die := { Die.initial 0 with tlb := [⟨0, 0, 1, 0x100EF, 0, 0⟩] }

/-- STRANDID 0 issues from a line of five slots; STATUS and g registers as given. -/
def base (status : Word) (g : List (Nat × Word)) (v : Vec) : State :=
  { State.reset with
    cur := 0, line := setField 0 489 3 5
    slots := (0, slot status g v) :: State.reset.slots
    clusters := [(0, cluster)], dies := [(0, die)], mem := [(0x10040, 0x7F)] }
/-- The same in U, with every v register 0. -/
def st (g : List (Nat × Word)) : State := base 0 g 0
/-- The slot of the issuing strand changed. -/
def my (s : State) (f : Slot → Slot) : State := s.setMe (f s.me)
/-- Core 0 changed. -/
def core0 (s : State) (f : Core → Core) : State := s.setCore 0 (f (s.core 0))
/-- Cluster 0 changed. -/
def cl0 (s : State) (f : Cluster → Cluster) : State := s.setCluster 0 (f (s.cluster 0))
/-- LA 0, GD 0. -/
def h0 : Hdr := ⟨0, 0⟩
/-- A register without a mark. -/
def r (n : BitVec 5) : Reg := ⟨n, false⟩


/-! ### Words that decode -/

/-- Words of the integer forms, laid out from R97 to R101, R113, R130 to R135. -/
theorem test_decode_integer_1 :
    decode 0x010000002050600000000000 0 = .ok (.add ⟨⟨0, 0⟩, 1, ⟨2, true⟩, .reg ⟨3, false⟩⟩) ∧
    decode 0x02000010E100000080000001 0 = .ok (.sub ⟨⟨0, 0⟩, 7, ⟨8, false⟩, .imm 0x80000001⟩) ∧
    decode 0x03008013E120000000000000 0xFEDCBA9876543210 = .ok (.mul ⟨⟨0, 0⟩, 31, ⟨9, false⟩, .lit 0xFEDCBA9876543210⟩) ∧
    decode 0x040300008050600000000000 0 = .ok (.mulh ⟨⟨0, 3⟩, 4, ⟨2, true⟩, .reg ⟨3, false⟩⟩) ∧
    decode 0x05000010E100000080000004 0 = .ok (.mulhn ⟨⟨0, 0⟩, 7, ⟨8, false⟩, .imm 0x80000004⟩) ∧
    decode 0x06008013E120000000000000 0xFEDCBA9876543210 = .ok (.div ⟨⟨0, 0⟩, 31, ⟨9, false⟩, .lit 0xFEDCBA9876543210⟩) ∧
    decode 0x07060000E050600000000000 0 = .ok (.divn ⟨⟨0, 6⟩, 7, ⟨2, true⟩, .reg ⟨3, false⟩⟩) ∧
    decode 0x08000010E100000080000007 0 = .ok (.rem ⟨⟨0, 0⟩, 7, ⟨8, false⟩, .imm 0x80000007⟩) ∧
    decode 0x09008013E120000000000000 0xFEDCBA9876543210 = .ok (.remn ⟨⟨0, 0⟩, 31, ⟨9, false⟩, .lit 0xFEDCBA9876543210⟩) ∧
    decode 0x0A0100014050600000000000 0 = .ok (.and ⟨⟨0, 1⟩, 10, ⟨2, true⟩, .reg ⟨3, false⟩⟩) ∧
    decode 0x0B000010E10000008000000A 0 = .ok (.or ⟨⟨0, 0⟩, 7, ⟨8, false⟩, .imm 0x8000000A⟩) ∧
    decode 0x0C008013E120000000000000 0xFEDCBA9876543210 = .ok (.xor ⟨⟨0, 0⟩, 31, ⟨9, false⟩, .lit 0xFEDCBA9876543210⟩) ∧
    decode 0x0D040001A050600000000000 0 = .ok (.andn ⟨⟨0, 4⟩, 13, ⟨2, true⟩, .reg ⟨3, false⟩⟩) ∧
    decode 0x0E000010E10000008000000D 0 = .ok (.orn ⟨⟨0, 0⟩, 7, ⟨8, false⟩, .imm 0x8000000D⟩) ∧
    decode 0x0F008013E120000000000000 0xFEDCBA9876543210 = .ok (.shl ⟨⟨0, 0⟩, 31, ⟨9, false⟩, .lit 0xFEDCBA9876543210⟩) ∧
    decode 0x100700020050600000000000 0 = .ok (.shr ⟨⟨0, 7⟩, 16, ⟨2, true⟩, .reg ⟨3, false⟩⟩) := by
  decide

/-- Words of the integer forms, laid out from R97 to R101, R113, R130 to R135. -/
theorem test_decode_integer_2 :
    decode 0x11000010E100000080000010 0 = .ok (.sra ⟨⟨0, 0⟩, 7, ⟨8, false⟩, .imm 0x80000010⟩) ∧
    decode 0x12008013E120000000000000 0xFEDCBA9876543210 = .ok (.rol ⟨⟨0, 0⟩, 31, ⟨9, false⟩, .lit 0xFEDCBA9876543210⟩) ∧
    decode 0x130200026050600000000000 0 = .ok (.ror ⟨⟨0, 2⟩, 19, ⟨2, true⟩, .reg ⟨3, false⟩⟩) ∧
    decode 0x14090000A0D0000000000000 0 = .ok (.clz ⟨⟨0, 9⟩, 5, ⟨6, true⟩⟩) ∧
    decode 0x15090000A0D0000000000000 0 = .ok (.ctz ⟨⟨0, 9⟩, 5, ⟨6, true⟩⟩) ∧
    decode 0x16090000A0D0000000000000 0 = .ok (.popc ⟨⟨0, 9⟩, 5, ⟨6, true⟩⟩) ∧
    decode 0x19090000A0D0000000000000 0 = .ok (.bswap ⟨⟨0, 9⟩, 5, ⟨6, true⟩⟩) ∧
    decode 0x1A090000A0D0000000000000 0 = .ok (.abs ⟨⟨0, 9⟩, 5, ⟨6, true⟩⟩) ∧
    decode 0x28090000A0D0000000000000 0 = .ok (.mov ⟨⟨0, 9⟩, 5, ⟨6, true⟩⟩) ∧
    decode 0x17000010A0C0000000000808 0 = .ok (.bext ⟨⟨0, 0⟩, 5, ⟨6, false⟩, .imm 0x808⟩) ∧
    decode 0x18000000A0C0E11000000000 0 = .ok (.bins ⟨⟨0, 0⟩, 5, ⟨6, false⟩, .reg ⟨7, false⟩, ⟨8, true⟩⟩) ∧
    decode 0x1B0000014161900000000000 0 = .ok (.min ⟨⟨0, 0⟩, 10, ⟨11, false⟩, .reg ⟨12, true⟩⟩) ∧
    decode 0x1C0000014161900000000000 0 = .ok (.max ⟨⟨0, 0⟩, 10, ⟨11, false⟩, .reg ⟨12, true⟩⟩) ∧
    decode 0x1D0000014161900000000000 0 = .ok (.minn ⟨⟨0, 0⟩, 10, ⟨11, false⟩, .reg ⟨12, true⟩⟩) ∧
    decode 0x1E0000014161900000000000 0 = .ok (.maxn ⟨⟨0, 0⟩, 10, ⟨11, false⟩, .reg ⟨12, true⟩⟩) ∧
    decode 0x1F0000014161900000000000 0 = .ok (.seq ⟨⟨0, 0⟩, 10, ⟨11, false⟩, .reg ⟨12, true⟩⟩) := by
  decide

/-- Words of the integer forms, laid out from R97 to R101, R113, R130 to R135. -/
theorem test_decode_integer_3 :
    decode 0x200000014161900000000000 0 = .ok (.sne ⟨⟨0, 0⟩, 10, ⟨11, false⟩, .reg ⟨12, true⟩⟩) ∧
    decode 0x210000014161900000000000 0 = .ok (.slt ⟨⟨0, 0⟩, 10, ⟨11, false⟩, .reg ⟨12, true⟩⟩) ∧
    decode 0x220000014161900000000000 0 = .ok (.sltn ⟨⟨0, 0⟩, 10, ⟨11, false⟩, .reg ⟨12, true⟩⟩) ∧
    decode 0x230000014161900000000000 0 = .ok (.sle ⟨⟨0, 0⟩, 10, ⟨11, false⟩, .reg ⟨12, true⟩⟩) ∧
    decode 0x240000014161900000000000 0 = .ok (.slen ⟨⟨0, 0⟩, 10, ⟨11, false⟩, .reg ⟨12, true⟩⟩) ∧
    decode 0x25000010A0C0010000000003 0 = .ok (.sel ⟨⟨0, 0⟩, 5, ⟨6, false⟩, .imm 3, ⟨8, false⟩⟩) ∧
    decode 0x260003C08000000000000001 0 = .ok (.li ⟨⟨0, 0⟩, 30, 0x8000000000000001⟩) ∧
    decode 0x270000080A0DE0FFFFFFFFFF 0 = .ok (.lea ⟨⟨0, 0⟩, 4, ⟨⟨5, false⟩, ⟨6, true⟩, 7, 0xFFFFFFFFFF⟩⟩) ∧
    decode 0x010200106090000000000064 0 = .ok (.add ⟨⟨0, 2⟩, 3, ⟨4, true⟩, .imm 100⟩) ∧
    decode 0x000000000000000000000000 0 = .ok (.nop) := by
  decide

/-- Words of the float forms, laid out from R113, R136 to R142. -/
theorem test_decode_float_1 :
    decode 0x403000002050600000000000 0 = .ok (.fadd ⟨⟨3, 0⟩, 1, ⟨2, true⟩, ⟨3, false⟩⟩) ∧
    decode 0x413000002050600000000000 0 = .ok (.fsub ⟨⟨3, 0⟩, 1, ⟨2, true⟩, ⟨3, false⟩⟩) ∧
    decode 0x423000002050600000000000 0 = .ok (.fmul ⟨⟨3, 0⟩, 1, ⟨2, true⟩, ⟨3, false⟩⟩) ∧
    decode 0x443000002050600000000000 0 = .ok (.fdiv ⟨⟨3, 0⟩, 1, ⟨2, true⟩, ⟨3, false⟩⟩) ∧
    decode 0x480000002040600000000000 0 = .ok (.fmin ⟨⟨0, 0⟩, 1, ⟨2, false⟩, ⟨3, false⟩⟩) ∧
    decode 0x490000002040600000000000 0 = .ok (.fmax ⟨⟨0, 0⟩, 1, ⟨2, false⟩, ⟨3, false⟩⟩) ∧
    decode 0x43F000002040609000000000 0 = .ok (.ffma ⟨⟨15, 0⟩, 1, ⟨2, false⟩, ⟨3, false⟩, ⟨4, true⟩⟩) ∧
    decode 0x450000002040000000000000 0 = .ok (.fsqrt ⟨⟨0, 0⟩, 1, ⟨2, false⟩⟩) ∧
    decode 0x460000002040000000000000 0 = .ok (.frsqe ⟨⟨0, 0⟩, 1, ⟨2, false⟩⟩) ∧
    decode 0x470000002040000000000000 0 = .ok (.frcpe ⟨⟨0, 0⟩, 1, ⟨2, false⟩⟩) ∧
    decode 0x4C0000002040000000000000 0 = .ok (.fclass ⟨⟨0, 0⟩, 1, ⟨2, false⟩⟩) ∧
    decode 0x4D0000002040000000000000 0 = .ok (.fabs ⟨⟨0, 0⟩, 1, ⟨2, false⟩⟩) ∧
    decode 0x4E0000002040000000000000 0 = .ok (.fneg ⟨⟨0, 0⟩, 1, ⟨2, false⟩⟩) ∧
    decode 0x4A0000A02040600000000000 0 = .ok (.fcmp ⟨⟨0, 0⟩, 10, 1, ⟨2, false⟩, ⟨3, false⟩⟩) ∧
    decode 0x4B0025702040000000000000 0 = .ok (.fcvt ⟨⟨0, 0⟩, 2, 5, 7, 1, ⟨2, false⟩⟩) ∧
    decode 0x500000482040600000000000 0 = .ok (.pcmp ⟨⟨0, 0⟩, 4, 1, ⟨2, false⟩, .reg ⟨3, false⟩⟩) := by
  decide

/-- Words of the float forms, laid out from R113, R136 to R142. -/
theorem test_decode_float_2 :
    decode 0x500001982040000000000005 0 = .ok (.pcmp ⟨⟨0, 0⟩, 9, 1, ⟨2, false⟩, .imm 5⟩) ∧
    decode 0x51000008E848700000000000 0 = .ok (.pand ⟨⟨0, 0⟩, 7, ⟨2, false⟩, ⟨3, true⟩⟩) ∧
    decode 0x52000008E848700000000000 0 = .ok (.por ⟨⟨0, 0⟩, 7, ⟨2, false⟩, ⟨3, true⟩⟩) ∧
    decode 0x53000008E848700000000000 0 = .ok (.pxor ⟨⟨0, 0⟩, 7, ⟨2, false⟩, ⟨3, true⟩⟩) ∧
    decode 0x540000082840000000000000 0 = .ok (.pnot ⟨⟨0, 0⟩, 1, ⟨2, false⟩⟩) ∧
    decode 0x550000082040000000000000 0 = .ok (.pset ⟨⟨0, 0⟩, 1, ⟨2, false⟩⟩) ∧
    decode 0x560000002840000000000000 0 = .ok (.pget ⟨⟨0, 0⟩, 1, ⟨2, false⟩⟩) := by
  decide

/-- Words of the control forms, laid out from R93, R97, R113, R143 to R149. -/
theorem test_decode_control_1 :
    decode 0x57000000000000FFFFFFFFFC 0 = .ok (.br ⟨⟨0, 0⟩, ⟨0x1FFFFFFFFF, 4⟩⟩) ∧
    decode 0x57001860000000FFFFFFFFFC 0 = .ok (.brp ⟨⟨0, 0⟩, ⟨3, false⟩, ⟨0x1FFFFFFFFF, 4⟩⟩) ∧
    decode 0x57002060000000FFFFFFFFFC 0 = .ok (.brz ⟨⟨0, 0⟩, ⟨3, false⟩, ⟨0x1FFFFFFFFF, 4⟩⟩) ∧
    decode 0x57023070000000FFFFFFFFFC 0 = .ok (.brnz ⟨⟨0, 2⟩, ⟨3, true⟩, ⟨0x1FFFFFFFFF, 4⟩⟩) ∧
    decode 0x58000060900000000000002A 0 = .ok (.beq ⟨⟨0, 0⟩, ⟨3, false⟩, ⟨4, true⟩, ⟨5, 2⟩⟩) ∧
    decode 0x58001060900000000000002A 0 = .ok (.bne ⟨⟨0, 0⟩, ⟨3, false⟩, ⟨4, true⟩, ⟨5, 2⟩⟩) ∧
    decode 0x58002060900000000000002A 0 = .ok (.blt ⟨⟨0, 0⟩, ⟨3, false⟩, ⟨4, true⟩, ⟨5, 2⟩⟩) ∧
    decode 0x590000000000000000000028 0 = .ok (.call ⟨⟨0, 0⟩, ⟨5, 0⟩⟩) ∧
    decode 0x5A000003E0A0000000000000 0 = .ok (.callr ⟨⟨0, 0⟩, 31, ⟨5, false⟩⟩) ∧
    decode 0x5A00001000A0000000000000 0 = .ok (.jmpr ⟨⟨0, 0⟩, ⟨5, false⟩⟩) ∧
    decode 0x5A00002003E0000000000000 0 = .ok (.ret ⟨⟨0, 0⟩, ⟨31, false⟩⟩) ∧
    decode 0x5B0001200000000000000019 0 = .ok (.loop ⟨⟨0, 0⟩, ⟨9, false⟩, ⟨3, 1⟩⟩) ∧
    decode 0x5B001FFFFFFFF00000000019 0 = .ok (.loopi ⟨⟨0, 0⟩, 0xFFFFFFFF, ⟨3, 1⟩⟩) ∧
    decode 0x60000000A000000000000107 0 = .ok (.mfs ⟨⟨0, 0⟩, 5, 0x107⟩) ∧
    decode 0x6000001000A0000000000061 0 = .ok (.mts ⟨⟨0, 0⟩, 0x061, ⟨5, false⟩⟩) ∧
    decode 0x6000002080A0000000000001 0 = .ok (.mtsb ⟨⟨0, 0⟩, 4, 0x001, ⟨5, false⟩⟩) := by
  decide

/-- Words of the control forms, laid out from R93, R97, R113, R143 to R149. -/
theorem test_decode_control_2 :
    decode 0x6000003080A0000000000001 0 = .ok (.mtsc ⟨⟨0, 0⟩, 4, 0x001, ⟨5, false⟩⟩) := by
  decide

/-- Words of the system forms, laid out from R113, R156 to R167, R191 to R203, R277, R290. -/
theorem test_decode_system_1 :
    decode 0x6100000000000000FFFF0001 0 = .ok (.ecall ⟨⟨0, 0⟩, 0xFFFF0001⟩) ∧
    decode 0x610000100000000000000007 0 = .ok (.ebreak ⟨⟨0, 0⟩, 7⟩) ∧
    decode 0x610000200000000000000000 0 = .ok (.eret ⟨⟨0, 0⟩⟩) ∧
    decode 0x610000300000000000000000 0 = .ok (.wfi ⟨⟨0, 0⟩⟩) ∧
    decode 0x620000002040600000000000 0 = .ok (.ipi ⟨⟨0, 0⟩, 1, ⟨2, false⟩, ⟨3, false⟩⟩) ∧
    decode 0x630000000000000000000000 0 = .ok (.fenceI ⟨⟨0, 0⟩⟩) ∧
    decode 0x640000000040600000000000 0 = .ok (.tlbinv ⟨⟨0, 0⟩, ⟨2, false⟩, ⟨3, false⟩⟩) ∧
    decode 0x650000002040000000000000 0 = .ok (.ptsync ⟨⟨0, 0⟩, 1, ⟨2, false⟩⟩) ∧
    decode 0x660000002040000000000000 0 = .ok (.logreplay ⟨⟨0, 0⟩, 1, ⟨2, false⟩⟩) ∧
    decode 0x6B0000002040000000000000 0 = .ok (.strandkill ⟨⟨0, 0⟩, 1, ⟨2, false⟩⟩) ∧
    decode 0x670000002040600000000000 0 = .ok (.ctxsave ⟨⟨0, 0⟩, 1, ⟨2, false⟩, ⟨3, false⟩⟩) ∧
    decode 0x680000002040600000000000 0 = .ok (.ctxload ⟨⟨0, 0⟩, 1, ⟨2, false⟩, ⟨3, false⟩⟩) ∧
    decode 0x690000002040600000000000 0 = .ok (.preemptHalt ⟨⟨0, 0⟩, 1, ⟨2, false⟩, ⟨3, false⟩⟩) ∧
    decode 0x6A0000002040608000000000 0 = .ok (.strandnew ⟨⟨0, 0⟩, 1, ⟨2, false⟩, ⟨3, false⟩, ⟨4, false⟩⟩) ∧
    decode 0x700000A0C00080000000000A 0 = .ok (.freeze ⟨⟨0, 0⟩, ⟨5, false⟩, ⟨6, false⟩, 0x80, ⟨1, 2⟩⟩) ∧
    decode 0x710000000000000000000000 0 = .ok (.retire ⟨⟨0, 0⟩⟩) := by
  decide

/-- Words of the system forms, laid out from R113, R156 to R167, R191 to R203, R277, R290. -/
theorem test_decode_system_2 :
    decode 0x720000000000000000000000 0 = .ok (.yield ⟨⟨0, 0⟩⟩) ∧
    decode 0x73000000A000000000000005 0 = .ok (.itemq ⟨⟨0, 0⟩, 5, 5⟩) ∧
    decode 0x7800000E60B0000000000000 0 = .ok (.scfg ⟨⟨0, 0⟩, 3, ⟨5, true⟩⟩) ∧
    decode 0x7900000E60B0000000000000 0 = .ok (.scfgi ⟨⟨0, 0⟩, 3, ⟨5, true⟩⟩) ∧
    decode 0x7C00000E60B0000000000000 0 = .ok (.ssave ⟨⟨0, 0⟩, 3, ⟨5, true⟩⟩) ∧
    decode 0x7D00000E60B0000000000000 0 = .ok (.srest ⟨⟨0, 0⟩, 3, ⟨5, true⟩⟩) ∧
    decode 0x7A00000E4340000000000000 0 = .ok (.sbind ⟨⟨0, 0⟩, 2, false⟩) ∧
    decode 0x7A00000E6760000000000000 0 = .ok (.sbind ⟨⟨0, 0⟩, 3, true⟩) ∧
    decode 0x7B00000E2000000000000000 0 = .ok (.sunbind ⟨⟨0, 0⟩, 1⟩) ∧
    decode 0x7E00000E20A0000000000000 0 = .ok (.sseek ⟨⟨0, 0⟩, 1, ⟨5, false⟩⟩) ∧
    decode 0x7E000010AE40000000000000 0 = .ok (.sstat ⟨⟨0, 0⟩, 5, 2⟩) ∧
    decode 0x7F0000000120000000000312 0 = .ok (.rep ⟨⟨0, 0⟩, 9, 2, 1, 3⟩) ∧
    decode 0x700000A0C0000F000000000A 0 = .ok (.freeze ⟨⟨0, 0⟩, ⟨5, false⟩, ⟨6, false⟩, 0x0F, ⟨1, 2⟩⟩) := by
  decide

/-- Words of the vector forms, laid out from R113, R172 to R179, R188. -/
theorem test_decode_vector_1 :
    decode 0x801500242454600000000000 0 = .ok (.vadd ⟨⟨1, 5⟩, 2, 1, ⟨2, true⟩, .reg ⟨3, false⟩⟩) ∧
    decode 0x811500242454600000000000 0 = .ok (.vsub ⟨⟨1, 5⟩, 2, 1, ⟨2, true⟩, .reg ⟨3, false⟩⟩) ∧
    decode 0x821500242454600000000000 0 = .ok (.vmul ⟨⟨1, 5⟩, 2, 1, ⟨2, true⟩, .reg ⟨3, false⟩⟩) ∧
    decode 0x871500242454600000000000 0 = .ok (.vmin ⟨⟨1, 5⟩, 2, 1, ⟨2, true⟩, .reg ⟨3, false⟩⟩) ∧
    decode 0x881500242454600000000000 0 = .ok (.vmax ⟨⟨1, 5⟩, 2, 1, ⟨2, true⟩, .reg ⟨3, false⟩⟩) ∧
    decode 0x800001542440000000000009 0 = .ok (.vadd ⟨⟨0, 0⟩, 5, 1, ⟨2, false⟩, .imm 9⟩) ∧
    decode 0x8300000484A4C4E000000000 0 = .ok (.vfma ⟨⟨0, 0⟩, 0, 4, ⟨5, false⟩, .reg ⟨6, false⟩, ⟨7, false⟩⟩) ∧
    decode 0x8400000484A4C4E000000000 0 = .ok (.vfms ⟨⟨0, 0⟩, 0, 4, ⟨5, false⟩, .reg ⟨6, false⟩, ⟨7, false⟩⟩) ∧
    decode 0x850000742440000000000000 0 = .ok (.vneg ⟨⟨0, 0⟩, 7, 1, ⟨2, false⟩⟩) ∧
    decode 0x860000542440000000000000 0 = .ok (.vabs ⟨⟨0, 0⟩, 5, 1, ⟨2, false⟩⟩) ∧
    decode 0x890000042440000000000000 0 = .ok (.vrcpe ⟨⟨0, 0⟩, 0, 1, ⟨2, false⟩⟩) ∧
    decode 0x8A0000242440000000000000 0 = .ok (.vrsqe ⟨⟨0, 0⟩, 2, 1, ⟨2, false⟩⟩) ∧
    decode 0xA40000B42440000000000000 0 = .ok (.vmov ⟨⟨0, 0⟩, 11, 1, ⟨2, false⟩⟩) ∧
    decode 0xA00000942440000000000000 0 = .ok (.vcompress ⟨⟨0, 0⟩, 9, 1, ⟨2, false⟩⟩) ∧
    decode 0xA10000142440000000000000 0 = .ok (.vexpand ⟨⟨0, 0⟩, 1, 1, ⟨2, false⟩⟩) ∧
    decode 0x8B0000242440000000000003 0 = .ok (.vti ⟨⟨0, 0⟩, 2, 1, ⟨2, false⟩, 3⟩) := by
  decide

/-- Words of the vector forms, laid out from R113, R172 to R179, R188. -/
theorem test_decode_vector_2 :
    decode 0x8C0000000040000000000003 0 = .ok (.vtload ⟨⟨0, 0⟩, 3, ⟨2, false⟩⟩) := by
  decide

/-- Words of the vector forms, laid out from R113, R172, R175 to R187. -/
theorem test_decode_vector2_1 :
    decode 0x900001642440000000000009 0 = .ok (.vand ⟨⟨0, 0⟩, 6, 1, ⟨2, false⟩, .imm 9⟩) ∧
    decode 0x910001642440000000000009 0 = .ok (.vor ⟨⟨0, 0⟩, 6, 1, ⟨2, false⟩, .imm 9⟩) ∧
    decode 0x920001642440000000000009 0 = .ok (.vxor ⟨⟨0, 0⟩, 6, 1, ⟨2, false⟩, .imm 9⟩) ∧
    decode 0x930001642440000000000009 0 = .ok (.vandn ⟨⟨0, 0⟩, 6, 1, ⟨2, false⟩, .imm 9⟩) ∧
    decode 0x940001642440000000000009 0 = .ok (.vshl ⟨⟨0, 0⟩, 6, 1, ⟨2, false⟩, .imm 9⟩) ∧
    decode 0x950001642440000000000009 0 = .ok (.vshr ⟨⟨0, 0⟩, 6, 1, ⟨2, false⟩, .imm 9⟩) ∧
    decode 0x960001642440000000000009 0 = .ok (.vsra ⟨⟨0, 0⟩, 6, 1, ⟨2, false⟩, .imm 9⟩) ∧
    decode 0x970000742444648000000000 0 = .ok (.vdot4 ⟨⟨0, 0⟩, 7, 1, ⟨2, false⟩, ⟨3, false⟩, ⟨4, false⟩⟩) ∧
    decode 0x9E0000142444600000000000 0 = .ok (.vperm ⟨⟨0, 0⟩, 1, 1, ⟨2, false⟩, ⟨3, false⟩⟩) ∧
    decode 0xA20000542000000000000000 0 = .ok (.viota ⟨⟨0, 0⟩, 5, 1⟩) ∧
    decode 0xA30000702000000000000000 0 = .ok (.vpopc ⟨⟨0, 0⟩, 7, 1⟩) ∧
    decode 0x8E0004082444600000000000 0 = .ok (.vcmp ⟨⟨0, 0⟩, 4, 0, 1, ⟨2, false⟩, ⟨3, false⟩⟩) ∧
    decode 0x8F0000342444688000000000 0 = .ok (.vsel ⟨⟨0, 0⟩, 3, 1, ⟨2, false⟩, ⟨3, false⟩, ⟨4, false⟩⟩) ∧
    decode 0x8D0070242440000000000001 0 = .ok (.vcvt ⟨⟨0, 0⟩, 2, 0, 7, 1, 1, ⟨2, false⟩⟩) ∧
    decode 0x980000002448600000000000 0 = .ok (.vredAdd ⟨⟨0, 0⟩, 0, 1, ⟨2, false⟩, some ⟨3, false⟩⟩) ∧
    decode 0x990000B02440000000000000 0 = .ok (.vredMax ⟨⟨0, 0⟩, 11, 1, ⟨2, false⟩, none⟩) := by
  decide

/-- Words of the vector forms, laid out from R113, R172, R175 to R187. -/
theorem test_decode_vector2_2 :
    decode 0x9A0000202440000000000000 0 = .ok (.vredoAdd ⟨⟨0, 0⟩, 2, 1, ⟨2, false⟩, none⟩) ∧
    decode 0x9B0000242040000000000000 0 = .ok (.vbcast ⟨⟨0, 0⟩, 2, 1, .reg ⟨2, false⟩⟩) ∧
    decode 0x9B0080542000000000000000 0x7 = .ok (.vbcast ⟨⟨0, 0⟩, 5, 1, .lit 7⟩) ∧
    decode 0x9C0001902440000000000003 0 = .ok (.vext ⟨⟨0, 0⟩, 9, 1, ⟨2, false⟩, .imm 3⟩) ∧
    decode 0x9D0000942440608000000000 0 = .ok (.vins ⟨⟨0, 0⟩, 9, 1, ⟨2, false⟩, ⟨3, false⟩, .reg ⟨4, false⟩⟩) ∧
    decode 0x9F0000142444648000000000 0 = .ok (.vshuf ⟨⟨0, 0⟩, 1, 1, ⟨2, false⟩, ⟨3, false⟩, ⟨4, false⟩⟩) := by
  decide

/-- Words of the memory forms, laid out from R98, R113, R223 to R239, R260. -/
theorem test_decode_memory_1 :
    decode 0xC020010A0C0F640000000010 0 = .ok (.ldl ⟨⟨2, 0⟩, true, 1, 5, ⟨⟨6, false⟩, ⟨7, true⟩, 3, 0x10⟩⟩) ∧
    decode 0xC220010A0C0F640000000010 0 = .ok (.ldc ⟨⟨2, 0⟩, true, 1, 5, ⟨⟨6, false⟩, ⟨7, true⟩, 3, 0x10⟩⟩) ∧
    decode 0xD020010A0C0F640000000010 0 = .ok (.ldg ⟨⟨2, 0⟩, true, 1, 5, ⟨⟨6, false⟩, ⟨7, true⟩, 3, 0x10⟩⟩) ∧
    decode 0xC820010A0C0F640000000010 0 = .ok (.ldlf ⟨⟨2, 0⟩, true, 1, 5, ⟨⟨6, false⟩, ⟨7, true⟩, 3, 0x10⟩⟩) ∧
    decode 0xC920010A0C0F640000000010 0 = .ok (.ldlt ⟨⟨2, 0⟩, true, 1, 5, ⟨⟨6, false⟩, ⟨7, true⟩, 3, 0x10⟩⟩) ∧
    decode 0xDC20010A0C0F640000000010 0 = .ok (.ldaq ⟨⟨2, 0⟩, true, 1, 5, ⟨⟨6, false⟩, ⟨7, true⟩, 3, 0x10⟩⟩) ∧
    decode 0xC100000B0C0F6C0000000010 0 = .ok (.stl ⟨⟨0, 0⟩, 3, ⟨5, true⟩, ⟨⟨6, false⟩, ⟨7, true⟩, 3, 0x10⟩⟩) ∧
    decode 0xC300000B0C0F6C0000000010 0 = .ok (.stc ⟨⟨0, 0⟩, 3, ⟨5, true⟩, ⟨⟨6, false⟩, ⟨7, true⟩, 3, 0x10⟩⟩) ∧
    decode 0xD100000B0C0F6C0000000010 0 = .ok (.stg ⟨⟨0, 0⟩, 3, ⟨5, true⟩, ⟨⟨6, false⟩, ⟨7, true⟩, 3, 0x10⟩⟩) ∧
    decode 0xCA00000B0C0F6C0000000010 0 = .ok (.stlf ⟨⟨0, 0⟩, 3, ⟨5, true⟩, ⟨⟨6, false⟩, ⟨7, true⟩, 3, 0x10⟩⟩) ∧
    decode 0xDD00000B0C0F6C0000000010 0 = .ok (.strl ⟨⟨0, 0⟩, 3, ⟨5, true⟩, ⟨⟨6, false⟩, ⟨7, true⟩, 3, 0x10⟩⟩) ∧
    decode 0xC400054A0C0F700000000010 0 = .ok (.vldl ⟨⟨0, 0⟩, 5, ⟨5, false⟩, ⟨⟨6, false⟩, ⟨7, true⟩, 3, 0x10⟩⟩) ∧
    decode 0xC500054A0C0F700000000010 0 = .ok (.vstl ⟨⟨0, 0⟩, 5, ⟨5, false⟩, ⟨⟨6, false⟩, ⟨7, true⟩, 3, 0x10⟩⟩) ∧
    decode 0xD200054A0C0F700000000010 0 = .ok (.vldg ⟨⟨0, 0⟩, 5, ⟨5, false⟩, ⟨⟨6, false⟩, ⟨7, true⟩, 3, 0x10⟩⟩) ∧
    decode 0xD300054A0C0F700000000010 0 = .ok (.vstg ⟨⟨0, 0⟩, 5, ⟨5, false⟩, ⟨⟨6, false⟩, ⟨7, true⟩, 3, 0x10⟩⟩) ∧
    decode 0xC600004A0C4E100000000040 0 = .ok (.vgathl ⟨⟨0, 0⟩, 0, ⟨5, false⟩, ⟨⟨6, false⟩, ⟨7, false⟩, 0, 0x40⟩⟩) := by
  decide

/-- Words of the memory forms, laid out from R98, R113, R223 to R239, R260. -/
theorem test_decode_memory_2 :
    decode 0xC700004A0C4E100000000040 0 = .ok (.vscatl ⟨⟨0, 0⟩, 0, ⟨5, false⟩, ⟨⟨6, false⟩, ⟨7, false⟩, 0, 0x40⟩⟩) ∧
    decode 0xCB0000000040600000000000 0 = .ok (.empty ⟨⟨0, 0⟩, ⟨2, false⟩, ⟨3, false⟩⟩) ∧
    decode 0xCC0000002040600000000005 0 = .ok (.balloc ⟨⟨0, 0⟩, 1, ⟨2, false⟩, ⟨3, false⟩, 5⟩) ∧
    decode 0xCD0000002040600000000000 0 = .ok (.bfree ⟨⟨0, 0⟩, 1, ⟨2, false⟩, ⟨3, false⟩⟩) ∧
    decode 0xCE0000000040600000000000 0 = .ok (.bwake ⟨⟨0, 0⟩, ⟨2, false⟩, ⟨3, false⟩⟩) ∧
    decode 0xD40000000C0F600000000010 0 = .ok (.prefg ⟨⟨0, 0⟩, ⟨⟨6, false⟩, ⟨7, true⟩, 3, 0x10⟩⟩) ∧
    decode 0xD810060A0C0E0C0000000008 0 = .ok (.amol ⟨⟨1, 0⟩, 6, true, 5, ⟨6, false⟩, ⟨7, false⟩, 8⟩) ∧
    decode 0xD910060A0C0E0C0000000008 0 = .ok (.amog ⟨⟨1, 0⟩, 6, true, 5, ⟨6, false⟩, ⟨7, false⟩, 8⟩) ∧
    decode 0xDA00120A0C0F700000000010 0 = .ok (.faddx ⟨⟨0, 0⟩, true, true, ⟨5, false⟩, ⟨⟨6, false⟩, ⟨7, true⟩, 3, 0x10⟩⟩) ∧
    decode 0xDB00100A0C0F700000000010 0 = .ok (.rdx ⟨⟨0, 0⟩, true, 5, ⟨⟨6, false⟩, ⟨7, true⟩, 3, 0x10⟩⟩) ∧
    decode 0xDB0001000C0F700000000010 0 = .ok (.clrx ⟨⟨0, 0⟩, false, ⟨⟨6, false⟩, ⟨7, true⟩, 3, 0x10⟩⟩) ∧
    decode 0xDE0000000000000000000000 0 = .ok (.fenceC ⟨⟨0, 0⟩⟩) ∧
    decode 0xDE0000100000000000000000 0 = .ok (.fenceK ⟨⟨0, 0⟩⟩) ∧
    decode 0xDE0000200000000000000000 0 = .ok (.fenceD ⟨⟨0, 0⟩⟩) ∧
    decode 0xDE0000300000000000000000 0 = .ok (.fenceP ⟨⟨0, 0⟩⟩) ∧
    decode 0xDE0000400000000000000000 0 = .ok (.fenceY ⟨⟨0, 0⟩⟩) := by
  decide

/-- Words of the memory forms, laid out from R98, R113, R223 to R239, R260. -/
theorem test_decode_memory_3 :
    decode 0xDE0000500000000000000000 0 = .ok (.fenceW ⟨⟨0, 0⟩⟩) ∧
    decode 0xC00000000000140000000000 0 = .error (.reserved 42) := by
  decide

/-- Words of the engine forms, laid out from R99, R113, R240 to R249, R301, R312, R317, R321, R328, R338, R350. -/
theorem test_decode_engine_1 :
    decode 0xDF0000000000000000000000 0 = .ok (.sync ⟨⟨0, 0⟩⟩) ∧
    decode 0xDF0000102040000000000000 0 = .ok (.syncX ⟨⟨0, 0⟩, 1, ⟨2, false⟩⟩) ∧
    decode 0xDF0000202040000000000000 0 = .ok (.voteAnd ⟨⟨0, 0⟩, 1, ⟨2, false⟩⟩) ∧
    decode 0xDF0000302040000000000000 0 = .ok (.voteOr ⟨⟨0, 0⟩, 1, ⟨2, false⟩⟩) ∧
    decode 0xDF0000402040000000000000 0 = .ok (.voteAdd ⟨⟨0, 0⟩, 1, ⟨2, false⟩⟩) ∧
    decode 0xDF0000502040000000000000 0 = .ok (.voteMax ⟨⟨0, 0⟩, 1, ⟨2, false⟩⟩) ∧
    decode 0xE00000CE020406080000000E 0 = .ok (.cpy ⟨⟨0, 0⟩, 7, ⟨1, false⟩, ⟨2, false⟩, ⟨3, false⟩, ⟨4, false⟩, 2, 3⟩) ∧
    decode 0xE10000C22204140000000203 0 = .ok (.cpym ⟨⟨0, 0⟩, 1, ⟨17, false⟩, ⟨2, false⟩, ⟨10, false⟩, 3, 2⟩) ∧
    decode 0xE20000C202040608000F317F 0 = .ok (.cpyc ⟨⟨0, 0⟩, 1, ⟨1, false⟩, ⟨2, false⟩, ⟨3, false⟩, ⟨4, false⟩, 63, 5, 3, 7, 1⟩) ∧
    decode 0xE30000C2020406000000000E 0 = .ok (.cpyf ⟨⟨0, 0⟩, 1, ⟨1, false⟩, ⟨2, false⟩, ⟨3, false⟩, 2, 3⟩) ∧
    decode 0xE4000000AC60000000000000 0 = .ok (.fwait ⟨⟨0, 0⟩, 5, 3⟩) ∧
    decode 0xE5000008AC60000000000000 0 = .ok (.ftest ⟨⟨0, 0⟩, 5, 3⟩) ∧
    decode 0xE60000000C60000000000000 0 = .ok (.fcancel ⟨⟨0, 0⟩, 3⟩) ∧
    decode 0xE7000000AC60000000000000 0 = .ok (.fexp ⟨⟨0, 0⟩, 5, 3⟩) ∧
    decode 0xE700001C60A0000000000000 0 = .ok (.fimp ⟨⟨0, 0⟩, 3, ⟨5, false⟩⟩) ∧
    decode 0xE80000C40A0000000000003F 0 = .ok (.tslot ⟨⟨0, 0⟩, 2, ⟨5, false⟩, 63⟩) := by
  decide

/-- Words of the engine forms, laid out from R99, R113, R240 to R249, R301, R312, R317, R321, R328, R338, R350. -/
theorem test_decode_engine_2 :
    decode 0xE90000C4DE00000000000000 0 = .ok (.tzero ⟨⟨0, 0⟩, 2, 7⟩) ∧
    decode 0xEA0000C4DE0A000000000000 0 = .ok (.tldacc ⟨⟨0, 0⟩, 2, 7, ⟨5, false⟩⟩) ∧
    decode 0xEC0000C4D20A0C0E00000185 0 = .ok (.tmmas ⟨⟨0, 0⟩, 2, 1, ⟨5, false⟩, ⟨6, false⟩, ⟨7, false⟩, 5, 6⟩) ∧
    decode 0xED0000C4D20A000000001005 0 = .ok (.tdrain ⟨⟨0, 0⟩, 2, 1, ⟨5, false⟩, 5, 0, true, false⟩) ∧
    decode 0xEE0000C4D200000000002185 0 = .ok (.tdraint ⟨⟨0, 0⟩, 2, 1, ⟨0, false⟩, 5, 6, false, true⟩) ∧
    decode 0xEF000000A000000000000001 0 = .ok (.tqry ⟨⟨0, 0⟩, 5, 1⟩) ∧
    decode 0xF00000C4080A000000000000 0 = .ok (.enq ⟨⟨0, 0⟩, 2, ⟨4, false⟩, ⟨5, false⟩⟩) ∧
    decode 0xF00001C40800000000000000 0 = .ok (.enqres ⟨⟨0, 0⟩, 2, ⟨4, false⟩⟩) ∧
    decode 0xF00003C4080A000000000001 0 = .ok (.deq ⟨⟨0, 0⟩, 2, ⟨4, false⟩, ⟨5, false⟩, true⟩) ∧
    decode 0xF10000000000000000000000 0 = .ok (.work ⟨⟨0, 0⟩⟩) ∧
    decode 0xF20000C4080A0C0E00000000 0 = .ok (.dcnew ⟨⟨0, 0⟩, 2, ⟨4, false⟩, ⟨5, false⟩, ⟨6, false⟩, ⟨7, false⟩⟩) ∧
    decode 0xF20001C40800000000000000 0 = .ok (.dcdec ⟨⟨0, 0⟩, 2, ⟨4, false⟩⟩) ∧
    decode 0xF20002C4080A000000000000 0 = .ok (.dcadd ⟨⟨0, 0⟩, 2, ⟨4, false⟩, ⟨5, false⟩⟩) ∧
    decode 0xF30000C4080A0C0000000000 0 = .ok (.taskdep ⟨⟨0, 0⟩, 2, ⟨4, false⟩, ⟨5, false⟩, ⟨6, false⟩⟩) ∧
    decode 0xF30000C40800000000000001 0 = .ok (.taskdepReg ⟨⟨0, 0⟩, 2, ⟨4, false⟩⟩) ∧
    decode 0xF30000C40800000000000002 0 = .ok (.taskdepUnreg ⟨⟨0, 0⟩, 2, ⟨4, false⟩⟩) := by
  decide

/-- Words of the engine forms, laid out from R99, R113, R240 to R249, R301, R312, R317, R321, R328, R338, R350. -/
theorem test_decode_engine_3 :
    decode 0xF40000C4080A000000000000 0 = .ok (.xinbox ⟨⟨0, 0⟩, 2, ⟨4, false⟩, ⟨5, false⟩⟩) ∧
    decode 0xF40001C4080A0C0000000001 0 = .ok (.xsend ⟨⟨0, 0⟩, 2, ⟨4, false⟩, ⟨5, false⟩, ⟨6, false⟩, true⟩) ∧
    decode 0xF40002C40800000000000000 0 = .ok (.xrecv ⟨⟨0, 0⟩, 2, ⟨4, false⟩, false⟩) ∧
    decode 0xF50000C4080A0C0E00000000 0 = .ok (.gather ⟨⟨0, 0⟩, 2, ⟨4, false⟩, ⟨5, false⟩, ⟨6, false⟩, ⟨7, false⟩⟩) ∧
    decode 0xF50001C4080A0C0E00000000 0 = .ok (.scatadd ⟨⟨0, 0⟩, 2, ⟨4, false⟩, ⟨5, false⟩, ⟨6, false⟩, ⟨7, false⟩⟩) ∧
    decode 0xF60000000000000000000000 0 = .ok (.idemb ⟨⟨0, 0⟩⟩) ∧
    decode 0xF60000100000000000000000 0 = .ok (.ideme ⟨⟨0, 0⟩⟩) ∧
    decode 0xF70000000000000000000000 0 = .ok (.done ⟨⟨0, 0⟩⟩) ∧
    decode 0xEB0000C4D614160000000185 0 = .ok (.tmma ⟨⟨0, 0⟩, 2, 3, ⟨10, false⟩, ⟨11, false⟩, ⟨0, false⟩, 5, 6⟩) ∧
    decode 0xF00002C4080A0C0000000000 0 = .ok (.enqpub ⟨⟨0, 0⟩, 2, ⟨4, false⟩, ⟨5, false⟩, ⟨6, false⟩⟩) := by
  decide

/-! ### Terms that WellFormed refuses -/

theorem test_wf_header :
    (Instr.add ⟨⟨1, 0⟩, 3, r 4, .imm 0⟩).wf = false ∧ (Instr.add ⟨h0, 3, r 4, .imm 0⟩).wf = true ∧
    (Instr.mul ⟨⟨15, 0⟩, 3, r 4, .imm 0⟩).wf = true ∧ (Instr.stl ⟨⟨1, 0⟩, 2, r 3, ⟨r 5, r 0, 0, 0⟩⟩).wf = false ∧
    (Instr.work ⟨⟨0, 1⟩⟩).wf = false ∧ (Instr.done ⟨⟨0, 1⟩⟩).wf = false ∧ (Instr.idemb ⟨⟨0, 1⟩⟩).wf = false ∧
    (Instr.ideme ⟨⟨0, 1⟩⟩).wf = false ∧ (Instr.retire ⟨⟨0, 1⟩⟩).wf = true ∧ (Instr.timeLockLost).wf = false := by decide

theorem test_wf_registers :
    (Instr.add ⟨h0, 3, ⟨0, true⟩, .imm 0⟩).wf = false ∧ (Instr.add ⟨h0, 3, r 4, .reg ⟨0, true⟩⟩).wf = false ∧
    (Instr.sel ⟨h0, 3, r 4, .imm 0, ⟨0, true⟩⟩).wf = false ∧ (Instr.pand ⟨h0, 8, r 1, r 2⟩).wf = false ∧
    (Instr.pand ⟨h0, 1, r 8, r 2⟩).wf = false ∧ (Instr.pand ⟨h0, 1, r 1, ⟨0, true⟩⟩).wf = false ∧
    (Instr.pand ⟨h0, 7, r 7, ⟨7, true⟩⟩).wf = true ∧ (Instr.ftest ⟨h0, 8, 1⟩).wf = false ∧ (Instr.fwait ⟨h0, 8, 1⟩).wf = true ∧
    (Instr.vsel ⟨h0, 0, 3, r 4, r 5, r 8⟩).wf = false ∧ (Instr.vredAdd ⟨h0, 0, 3, r 4, some (r 8)⟩).wf = false ∧
    (Instr.vadd ⟨h0, 0, 3, ⟨0, true⟩, .reg ⟨0, true⟩⟩).wf = true ∧ (Instr.vins ⟨h0, 0, 3, r 4, ⟨0, true⟩, .imm 0⟩).wf = false ∧
    (Instr.vldl ⟨h0, 0, ⟨3, true⟩, ⟨r 5, r 0, 0, 0⟩⟩).wf = false ∧ (Instr.vstl ⟨h0, 0, ⟨3, true⟩, ⟨r 5, r 0, 0, 0⟩⟩).wf = true ∧
    (Instr.loop ⟨h0, ⟨9, true⟩, ⟨0, 1⟩⟩).wf = false ∧ (Instr.freeze ⟨h0, ⟨5, true⟩, r 6, 1, ⟨1, 0⟩⟩).wf = false := by decide

theorem test_wf_codes :
    (Instr.pcmp ⟨h0, 10, 1, r 2, .imm 0⟩).wf = false ∧ (Instr.pcmp ⟨h0, 9, 1, r 2, .imm 0⟩).wf = true ∧
    (Instr.fcmp ⟨h0, 6, 1, r 2, r 3⟩).wf = false ∧ (Instr.fcmp ⟨h0, 11, 1, r 2, r 3⟩).wf = true ∧
    (Instr.vcmp ⟨h0, 6, 0, 1, r 2, r 3⟩).wf = false ∧ (Instr.vcmp ⟨h0, 6, 5, 1, r 2, r 3⟩).wf = true ∧
    (Instr.fcvt ⟨h0, 0, 2, 5, 3, r 4⟩).wf = false ∧ (Instr.fcvt ⟨h0, 0, 2, 7, 3, r 4⟩).wf = true ∧ (Instr.fcvt ⟨h0, 8, 2, 0, 3, r 4⟩).wf = false ∧
    (Instr.vadd ⟨h0, 1, 3, r 4, .imm 0⟩).wf = false ∧ (Instr.vand ⟨h0, 0, 3, r 4, .imm 0⟩).wf = false ∧ (Instr.vneg ⟨h0, 9, 3, r 4⟩).wf = false ∧
    (Instr.vdot4 ⟨h0, 6, 3, r 4, r 5, r 6⟩).wf = false ∧ (Instr.vmov ⟨h0, 12, 3, r 4⟩).wf = false ∧
    (Instr.vcvt ⟨h0, 0, 2, 0, 2, 3, r 4⟩).wf = false ∧ (Instr.vcvt ⟨h0, 0, 2, 0, 1, 3, r 4⟩).wf = true ∧
    (Instr.mfs ⟨h0, 3, 0x025⟩).wf = false ∧ (Instr.mfs ⟨h0, 3, 0x024⟩).wf = true ∧ (Instr.itemq ⟨h0, 3, 6⟩).wf = false ∧
    (Instr.tqry ⟨h0, 3, 2⟩).wf = false ∧ (Instr.rep ⟨h0, 9, 0, 0, 0⟩).wf = false ∧ (Instr.rep ⟨h0, 9, 11, 0, 0⟩).wf = false ∧
    (Instr.br ⟨h0, ⟨0, 5⟩⟩).wf = false ∧ (Instr.br ⟨h0, ⟨0, 4⟩⟩).wf = true := by decide

theorem test_wf_memory :
    (Instr.ldl ⟨h0, true, 3, 3, ⟨r 5, r 0, 0, 0⟩⟩).wf = false ∧ (Instr.ldl ⟨h0, false, 3, 3, ⟨r 5, r 0, 0, 0⟩⟩).wf = true ∧
    (Instr.balloc ⟨h0, 3, r 4, r 5, 6⟩).wf = false ∧ (Instr.amol ⟨h0, 10, true, 3, r 4, r 5, 0⟩).wf = false ∧
    (Instr.amol ⟨h0, 9, true, 3, r 4, r 5, 0⟩).wf = true ∧ (Instr.cpy ⟨h0, 1, r 4, r 5, r 6, r 7, 3, 3⟩).wf = false ∧
    (Instr.cpym ⟨h0, 1, r 4, r 5, r 6, 0, 0⟩).wf = false ∧ (Instr.cpym ⟨h0, 1, r 4, r 5, r 6, 1, 3⟩).wf = false ∧
    (Instr.cpyc ⟨h0, 1, r 4, r 5, r 6, r 7, 2, 3, 5, 0, 0⟩).wf = false ∧ (Instr.cpyc ⟨h0, 1, r 4, r 5, r 6, r 0, 2, 3, 13, 0, 0⟩).wf = false ∧
    (Instr.cpyc ⟨h0, 1, r 4, r 0, r 6, r 0, 2, 3, 13, 0, 0⟩).wf = true ∧ (Instr.cpyc ⟨h0, 1, r 4, r 5, r 6, r 7, 2, 3, 0, 0, 3⟩).wf = false ∧
    (Instr.cpyf ⟨h0, 1, r 4, r 5, r 6, 3, 0⟩).wf = false ∧ (Instr.tdrain ⟨h0, 1, 2, r 4, 3, 1, true, false⟩).wf = false := by decide

/-! ### Single steps, with results that the rules state -/

/-- The instruction answers a next state with the property. -/
def gives (i : Instr) (s : State) (p : State → Bool) : Bool :=
  match exec i s with
  | .next t => p t
  | _ => false

/-- R130, R131: bins and bext of R132, abs of 2^63, ctz of 0, and the pc moves on. -/
theorem test_integer :
    gives (.add ⟨h0, 3, r 4, .imm 0xFFFFFFFF⟩) (st [(4, 5)]) (fun t => t.me.regs.getG 3 == 4 && t.me.pc == 0x1001) = true ∧
    gives (.abs ⟨h0, 3, r 4⟩) (st [(4, 0x8000000000000000)]) (fun t => t.me.regs.getG 3 == 0x8000000000000000) = true ∧
    gives (.ctz ⟨h0, 3, r 4⟩) (st []) (fun t => t.me.regs.getG 3 == 64) = true ∧
    gives (.bswap ⟨h0, 3, r 4⟩) (st [(4, 0x0102030405060708)]) (fun t => t.me.regs.getG 3 == 0x0807060504030201) = true ∧
    gives (.bins ⟨h0, 3, r 4, .imm 0x0708, r 5⟩) (st [(4, 0xFFFFFF), (5, 0x12)]) (fun t => t.me.regs.getG 3 == 0xFF12FF) = true ∧
    gives (.add ⟨h0, 0, r 4, .imm 1⟩) (st [(4, 5)]) (fun t => t.me.regs.getG 0 == 0) = true := by decide

/-- R137: the smaller of −0 and +0. R136: 1 + 2 is 3, exact. -/
theorem test_float :
    gives (.fmin ⟨h0, 3, r 4, r 5⟩) (st [(5, 0x80000000)]) (fun t => t.me.regs.getG 3 == 0x80000000) = true ∧
    gives (.fadd ⟨h0, 3, r 4, r 5⟩) (st [(4, 0x3F800000), (5, 0x40000000)]) (fun t => t.me.regs.getG 3 == 0x40400000 && t.me.ctl.fflags == 0) = true := by decide

/-- R174: bits of IMM32 above the element width are ignored; inactive elements are 0. -/
theorem test_vector :
    gives (.vadd ⟨h0, 11, 3, r 4, .imm 0x1FF⟩) (base 0 [] 2) (fun t => t.me.regs.getV 3 == BitVec.allOnes 512 - 0xFE) = true := by decide

/-- R150, R153: a service call in U saves pc and status, and goes to TVEC in S. -/
theorem test_trap :
    gives (.ecall ⟨h0, 7⟩) (st []) (fun t => t.me.sTrap.epc == 0x1000 && t.me.pc == 0x5000 && t.me.mode == .s) = true ∧
    gives (.eret ⟨h0⟩) (st []) (fun t => t.me.sTrap.cause == 6 && t.me.pc == 0x5000) = true := by decide

/-- R215: the byte at L 64 is 0xF1: `ldl.b` extends its sign, `.z` does not. -/
theorem test_loads :
    gives (.ldl ⟨h0, false, 0, 3, ⟨r 5, r 0, 0, 0⟩⟩) (st [(5, 64)]) (fun t => t.me.regs.getG 3 == 0xFFFFFFFFFFFFFFF1) = true ∧
    gives (.ldl ⟨h0, true, 1, 3, ⟨r 5, r 0, 0, 0⟩⟩) (st [(5, 64)]) (fun t => t.me.regs.getG 3 == 0x02F1) = true ∧
    gives (.ldl ⟨h0, true, 2, 3, ⟨r 5, r 0, 0, 0⟩⟩) (st [(5, 66)]) (fun t => t.me.sTrap.cause == 0x10 && t.me.sTrap.tval == 66) = true := by decide

/-- A word placed where strand 0 fetches runs in the next step: NOP, alone in its line, moves the pc to the next line (R90). -/
theorem test_first_step :
    (match step (State.reset.withFetchWord 96 0) with
      | .next t => (t.slot 0).pc == 64
      | _ => false) = true := by decide
/-! ### Witnesses of the hypotheses of the statements -/

theorem witness_IntegerTwoOperandResults :
    (st []).ready (intBinShape ⟨h0, 3, ⟨4, true⟩, .imm 0⟩) = true ∧ (st []).ready (intBinShape ⟨h0, 0, r 0, .lit 5⟩) = true ∧
    (st []).ready (intBinShape ⟨⟨15, 8 + 2⟩, 31, r 5, .reg (r 6)⟩) = false ∧
    (st []).ready (intBinShape ⟨⟨15, 2⟩, 31, r 5, .reg (r 6)⟩) = true := by decide

theorem witness_IntegerUnaryAndTernaryResults :
    (st []).ready (unShape ⟨h0, 31, r 5⟩) = true ∧ (st []).ready (intTriShape ⟨h0, 3, r 4, .imm 1, r 5⟩) = true ∧
    (st []).ready ⟨h0, [], some (.g, 3)⟩ = true ∧
    (st []).ready ⟨h0, addrSrc ⟨r 1, r 2, 7, 0x8000000000⟩, some (.g, 3)⟩ = true ∧ (st []).me.steady = true := by decide

theorem witness_ScalarFloatResults :
    (st []).ready (binShape ⟨h0, 3, r 4, r 5⟩) = true ∧ (st []).ready (unShape ⟨h0, 3, r 4⟩) = true ∧
    (st []).ready (triShape ⟨h0, 3, r 4, r 5, r 6⟩) = true ∧
    (st []).ready ⟨h0, [(1, .g, r 4), (2, .g, r 5)], some (.g, 3)⟩ = true ∧
    (st []).ready ⟨h0, [(1, .g, r 4)], some (.g, 3)⟩ = true ∧ (st []).me.regs.own .g 3 = true := by decide

theorem witness_PredicateResults :
    (st []).ready ⟨h0, (1, .g, r 4) :: vopndSrc .g 2 (.imm 7), some (.p, 1)⟩ = true ∧
    (st []).ready ⟨h0, [(1, .p, r 4), (2, .p, r 5)], some (.p, 7)⟩ = true ∧
    (st []).ready ⟨h0, [(1, .p, r 4)], some (.p, 0)⟩ = true ∧ (st []).ready ⟨h0, [(1, .g, r 4)], some (.p, 1)⟩ = true ∧
    (st []).ready ⟨h0, [(1, .p, r 4)], some (.g, 1)⟩ = true := by decide

/-- A state whose instruction cache holds the line of the target 0x1080 with an entry at slot 1. -/
def target (g : List (Nat × Word)) : State :=
  core0 (st g) fun c => { c with icache := [⟨0, 0x1080, true, setField (setField 0 489 3 2) 480 5 2⟩] }

theorem witness_TransfersGoToCheckedTargets :
    (target []).me.steady = true ∧ (target []).ready ⟨h0, [], none⟩ = true ∧ (target []).ready ⟨h0, [(1, .p, r 1)], none⟩ = true ∧
    (target []).ready ⟨h0, [(1, .g, r 1), (2, .g, r 2)], none⟩ = true ∧ (target []).ready ⟨h0, [], some (.g, 31)⟩ = true ∧
    (target []).ready (unShape ⟨h0, 31, r 1⟩) = true ∧
    (match (target []).fetch 0 0x1081 with
      | (.line b, s1) => b.getLsbD 481 && s1.dstOk ⟨h0, [], some (.g, 31)⟩
      | _ => false) = true := by decide

theorem witness_LoopsEnterAndSkip :
    (st [(9, 3)]).me.steady = true ∧ (st [(9, 3)]).ready ⟨h0, [(1, .g, r 9)], none⟩ = true ∧ (st [(9, 3)]).ready ⟨h0, [], none⟩ = true ∧
    ((0x1004 : Word) &&& ~~~63) = (st []).me.pc &&& ~~~63 := by decide

/-- A strand at the END of its innermost loop: depth, immediate forms, END and count registers as given. -/
def looping (state : Word) (fin count : Vector Word 4) (g : List (Nat × Word)) : State :=
  my (st g) fun x => { x with loops := ⟨state, Vector.replicate 4 0x1001, fin, count⟩ }

theorem witness_LoopPassEnds :
    let imm (c : Word) : State := looping 0x32 (#v[0x1000, 0x1000, 0, 0]) (#v[1, c, 0, 0]) []
    let reg (g : List (Nat × Word)) : State := looping 0x12 (#v[0x1000, 0x1000, 0, 0]) (#v[1, 9, 0, 0]) g
    let lone (g : List (Nat × Word)) : State := looping 1 (#v[0x1000, 0, 0, 0]) (#v[9, 0, 0, 0]) g
    (imm 2).me.windows = [] ∧ (imm 2).me.rep.mode ≠ .running ∧ (imm 2).me.loops.state.extractLsb' 0 3 = 2 ∧
    (imm 2).me.loops.fin[1] = (imm 2).me.pc ∧ (imm 2).me.loops.state.getLsbD 5 = true ∧ 1 < (imm 2).me.loops.count[1].toNat ∧
    (imm 1).me.loops.count[1].toNat ≤ 1 ∧ (imm 1).me.loops.fin[0] = (imm 1).me.loops.fin[1] ∧ (imm 1).me.loops.state.getLsbD 4 = true ∧
    (reg [(9, 2)]).me.loops.state.getLsbD 5 = false ∧ (reg []).me.regs.validG 9 = true ∧ (reg []).me.boundTo .g 9 = none ∧
    (reg []).me.regs.own .g 9 = true ∧ (my (reg []) fun x => { x with regs := Regs.none }).me.regs.validG 9 = false ∧
    (lone []).me.loops.fin[0] = (lone []).me.pc ∧ (lone []).me.loops.state.extractLsb' 0 3 = 1 := by decide

theorem witness_SystemRegisterReads :
    (st []).ready ⟨h0, [], some (.g, 3)⟩ = true ∧ (base 1 [] 0).ready ⟨h0, [], some (.g, 3)⟩ = true ∧
    (base 3 [] 0).ready ⟨h0, [], some (.g, 3)⟩ = true ∧ (st []).me.mode = .u ∧ (base 1 [] 0).me.mode = .s ∧ (base 3 [] 0).me.mode = .m ∧
    (base 3 [] 0).me.regs.own .g 3 = true := by decide

theorem witness_SystemRegisterWrites :
    (base 1 [] 0).ready ⟨h0, [(1, .g, r 3)], none⟩ = true ∧ (base 1 [] 0).me.ctl.status &&& ~~~0x73B = 0 ∧
    (base 1 [] 0).me.ctl.status.extractLsb' 0 2 ≠ 2 ∧ (st []).ready ⟨h0, [(1, .g, r 3)], none⟩ = true ∧
    (base 3 [] 0).ready ⟨h0, [(1, .g, r 3)], none⟩ = true := by decide

/-- A combining entry at router 5, index 2 of die 0. -/
def entry : TreeEntry := ⟨0x42, 3, 0xFFFF, 2, 0, 0, 0x78, 7, 0, [], [], []⟩
def withTree (e : TreeEntry) (s : State) : State := s.setDie 0 { s.die 0 with tree := [(16 * 5 + 2, e)] }

theorem witness_SystemWritesThatAct :
    (base 1 [(3, 5)] 0).ready ⟨h0, [(1, .g, r 3)], some (.g, 4)⟩ = true ∧ (base 1 [] 0).me.regs.own .g 4 = true ∧
    (my (base 1 [] 0) fun x => { x with msgs := [⟨0, 1, 2⟩] }).me.msgs = [⟨0, 1, 2⟩] ∧
    48 ≤ ((0x0030000000000000 : Word).extractLsb' 48 6).toNat ∧
    ((0x0005000200000000 : Word).extractLsb' 48 6).toNat < 48 ∧
    ((withTree entry (base 3 [] 0)).die 0).tree.find (16 * 5 + 2) = some entry ∧ entry.got = [] ∧
    ((base 3 [] 0).die 0).tree.find (16 * 5 + 2) = none := by decide

/-- The package number is a free constant: a word that names this package. -/
theorem witness_ThisPackage :
    ((BitVec.ofNat 64 (Config.package % 256 * 2 ^ 56 + 0x05000200000000)).extractLsb' 56 8).toNat = Config.package % 256 := by
  rw [BitVec.extractLsb'_toNat, BitVec.toNat_ofNat, Nat.shiftRight_eq_div_pow]
  omega

theorem witness_TrapEntrySavesAndRedirects :
    (let s := base 1 [] 0; s.me.mode ≠ .m ∧ ¬(s.me.mode = .m ∨ (0x10 : Nat) = 0x7F ∨ ((0x10 : Nat) = 0x70 ∧ s.me.mode = .s)) ∧
      (s.me.mode = .m ∨ (0x70 : Nat) = 0x7F ∨ ((0x70 : Nat) = 0x70 ∧ s.me.mode = .s))) := by decide

theorem witness_ServiceCallsAndReturn :
    (st []).me.windows = [] ∧ (st []).me.rep.mode ≠ .running ∧ (st []).me.executes h0 = true ∧ (st []).me.mode = .u ∧
    (base 1 [] 0).me.executes ⟨0, 2⟩ = true ∧ (base 3 [] 0).me.mode = .m ∧ (st []).me.steady = true ∧
    (st []).me.guardedOff ⟨0, 8⟩ = true := by decide

/-- A strand whose timer has expired, with the sources of `ienable`. -/
def timed (status ienable : Word) : State :=
  my (base status [] 0) fun x => { x with ctl := { x.ctl with ienable := ienable, timecmp := 0 } }

theorem witness_InterruptsAndWaits :
    (let x := (timed 8 2).slot 0
     x.phase = .ready ∧ x.ctl.status.getLsbD 3 = true ∧ x.mode ≠ .m ∧ (x.ipend 0 &&& x.ctl.ienable &&& 0x3F) = 2) ∧
    (let x := (timed 11 2).slot 0; x.mode = .m ∧ x.phase ≠ .free) ∧ ((timed 8 1).slot 0).ipend 0 &&& 1 = 0 ∧
    (timed 0 2).me.steady = true ∧ (timed 0 2).me.executes h0 = true ∧ (timed 0 2).me.sched.waited = false ∧
    (my (timed 0 2) fun x => { x with sched := { x.sched with waited := true } }).me.sched.waited = true ∧
    ((my (st []) fun x => { x with phase := .blocked (.wfi 0) }).slot 0).phase = .blocked (.wfi 0) ∧ (st []).clock.time ≤ 0 ∧
    ((my (st []) fun x => { x with phase := .blocked (.wfi 1821) }).slot 0).phase = .blocked (.wfi 1821) ∧ (st []).clock.time < 1821 := by
  decide

/-- A message of KIND 0 for STRANDID 1, arrived at router 0. -/
def mail (n : Nat) : State :=
  { st [] with
    mesh := [⟨0, 0, 0, 0, 0, .msg 1 ⟨0, 0, 7⟩⟩]
    slots := [(0, slot 0 [] 0), (1, { slot 0 [] 0 with msgs := List.replicate n ⟨0, 0, 0⟩ })] }

theorem witness_TimerMessageAndPoolEvents :
    (timed 0 2).clock.time = 0 ∧ ((timed 0 2).slot 0).ctl.timecmp.toNat ≤ 0 ∧ 0 < ((st []).slot 0).ctl.timecmp.toNat ∧
    (mail 7).mesh[0]? = some ⟨0, 0, 0, 0, 0, .msg 1 ⟨0, 0, 7⟩⟩ ∧ ((mail 7).slot 1).msgs.length < 8 ∧ ((mail 8).slot 1).msgs.length = 8 ∧
    ((mail 7).slot 2).phase = .free ∧
    ((my (st []) fun x => { x with phase := .blocked (.pool .g 6 0 0) }).slot 0).phase = .blocked (.pool .g 6 0 0) ∧
    ((core0 (st []) fun c => { c with issue := { c.issue with cycle := 65536 } }).core 0).issue.cycle = 65536 ∧
    (base 1 [(4, 0x10000)] 0).ready (binShape ⟨h0, 3, r 4, r 5⟩) = true ∧ (base 1 [] 0).me.mode ≠ .u ∧ (base 1 [] 0).me.regs.own .g 3 = true ∧
    sidExists 0xFFFF = false ∧ sidExists 1 = true ∧
    (mail 8).mesh.length = 1 ∧ ((mail 8).slot 1).phase ≠ .free := by decide

theorem witness_MaintenanceForms :
    (st []).drained = true ∧ (st []).ready ⟨h0, [], none⟩ = true ∧ (base 1 [] 0).me.mode ≠ .u ∧
    (base 1 [(4, 0)] 0).ready ⟨h0, [(1, .g, r 4), (2, .g, r 5)], none⟩ = true ∧ (base 1 [] 0).translatedWaits ((base 1 [] 0).tlbScope 0 0) = false ∧
    (base 1 [] 0).ready (unShape ⟨h0, 3, r 4⟩) = true ∧ (base 1 [] 0).writable .g 3 = true ∧ (base 1 [] 0).myCore.log = [] ∧
    (st []).unsent 0 = false ∧ (base 1 [] 0).unsent 0 = false := by decide

/-- A side log with one entry of two bytes at G 0x40. -/
def logged : State :=
  core0 (base 1 [] 0) fun c => { c with log := [(0, ⟨⟨0, 0, 0, .store, .g, 0, 0x40, [some 1, some 2], 0, .u, 0, none⟩, 0, 0, 1, 0, false⟩)] }

theorem witness_LogReplay :
    logged.ready (unShape ⟨h0, 3, r 4⟩) = true ∧
    (∀ e ∈ logged.myCore.log, (logged.die e.2.owndie).ptgen.toNat ≤ 0 ∧ e.2.persist = false) ∧
    (logged.xlatBytes 0 0x40 2 .write .u false).1 ≠ .ok [] ∧
    (∀ c ∈ logged.cores, c.2.dcache = []) := by decide

/-- Core 0 with a second strand, in slot 1. -/
def two (status : Word) (g : List (Nat × Word)) (p : Phase) : State :=
  { base status g 0 with slots := [(0, slot status g 0), (1, { slot 0 [] 0 with phase := p })] }

theorem witness_StrandManagementForms :
    (two 1 [(4, 1)] .ready).me.mode ≠ .u ∧ (two 1 [(4, 1)] .ready).ready (binShape ⟨h0, 3, r 4, r 5⟩) = true ∧
    (two 1 [(4, 1)] .ready).me.sched.waited = false ∧ ((two 1 [(4, 1)] .ready).me.regs.getG 4).toNat < 65536 ∧ sidExists 1 = true ∧
    (two 1 [(4, 1)] .ready).cur = 0 ∧ ((two 1 [(4, 1)] .ready).slot 1).phase.isSuspended = false ∧
    ((two 1 [(4, 1)] (.suspended false)).slot 1).phase.isSuspended = true ∧
    ((two 1 [(4, 1), (5, 1)] .ready).me.regs.getG 5).getLsbD 0 = true ∧ ((two 1 [(4, 1)] .free).slot 1).phase = .free ∧
    (my (two 1 [(4, 1)] (.suspended false)) fun x => { x with sched := { x.sched with waited := true } }).me.sched.waited = true ∧
    (match loadGlobal 0 128 64 (base 1 [(4, 1)] 0) with
      | .ok (bs, s1) => s1.writable .g 3 && decide ((dwordAt bs 1).extractLsb' 0 2 = 0) && (bs.drop 88).all (· == 0)
      | _ => false) = true ∧ (base 1 [] 0).ready (triShape ⟨h0, 3, r 4, r 5, r 6⟩) = true ∧
    ((two 1 [(4, 1)] .ready).die 0).absent = false ∧ (two 1 [(4, 1)] .ready).me.sched.reply = none := by decide

theorem witness_HaltsAndContextImages :
    (let x := ((two 1 [] .ready).modSlot 1 fun y => { y with sched := { y.sched with halt := true } }).slot 1
     x.sched.halt = true ∧ x.phase ≠ .free ∧ x.phase.isSuspended = false ∧ x.idem.active = false) ∧
    (let x := ((two 1 [] .ready).modSlot 1 fun y => { y with idem := ⟨true, 0x1000, 0, []⟩ }).slot 1; x.idem.active = true) ∧
    (let s := two 1 [(4, 1), (5, 0)] (.suspended false)
     s.ready (binShape ⟨h0, 3, r 4, r 5⟩) = true ∧ s.me.regs.own .g 3 = true ∧ (s.slot 1).sched.ckptDue = false ∧ s.drained = true ∧
       gFault s.me.mode 0 (imageSize false) 64 = none ∧ (s.slot 1).item = none ∧ s.writable .g 3 = true ∧
       s.imageRoom 1 1 1 1 = true) := by decide

theorem witness_ContextImageLoads :
    (match xlatLines 0 47 (two 1 [(4, 1)] (.suspended false)) with
      | .ok (pas, _) => decide (pas.length = 47)
      | _ => false) = true ∧
    (match loadLines 0 47 (two 1 [(4, 1)] (.suspended false)) with
      | .ok (head, s1) => !imageFlag head 0 && s1.imageBad 1 head
      | _ => false) = true := by decide

/-- A command of the tile queue of slot 0 that has not begun. -/
def tileCmd (code acc : Nat) : TileCmd := ⟨0, 5, code, acc, [], 0, 0, 0, 0, 0, false, false, false, 0, false, [], 0, 0, none, []⟩

theorem witness_EngineCheckpoint :
    let s := core0 (my (st []) fun x => { x with phase := .suspended false, sched := { x.sched with ckptDue := true } }) fun c =>
      { c with tileq := [tileCmd 0xE9 0], eckbase := 0xFFF0000000000000 }
    (s.slot 0).phase.isSuspended = true ∧ (s.slot 0).sched.ckptDue = true ∧ (s.core 0).tileq.filter (fun k => k.sid == 0) ≠ [] ∧
    (∀ k ∈ (s.core 0).tileq.take 1, k.removable = true) ∧ ((st []).core 0).tileq = [] := by decide

theorem witness_GoodContextImage :
    let s := { two 1 [(4, 1)] (.suspended false) with mem := [(0x10000, 0x43), (0x10001, 0x54), (0x10002, 0x58), (0x10003, 0x4E), (0x10005, 1)] }
    (match loadLines 0 47 s with
      | .ok (head, t) => !imageFlag head 0 && !t.imageBad 1 head && t.imageRoom 1 0 0 0
      | _ => false) = true := by decide

theorem witness_FreezeChecksAndForms :
    let s := target [(5, 10), (6, 0x0001000100000000)]
    s.ready ⟨h0, [(1, .g, r 5), (2, .g, r 6)], none⟩ = true ∧ (s.me.regs.getG 5).toNat ≠ 0 ∧ s.freezeDepth 0 ≤ 3 ∧ s.drained = true ∧
    ((List.range 8).find? fun k => (s.myCore.starters.find k).isNone) = some 0 ∧
    (match checkTarget 0x1081 s with
      | .ok (_, s1) => s1.drained
      | .error _ => false) = true := by decide

/-- A starter record of core 0 in index 2, formed by slot 3, with three items. -/
def record (next retired : Nat) : Starter :=
  ⟨slot 0 [] 0, 0x2000, 3, next, next - retired, retired, 0, 0, 3, 1, 3, 7, [], []⟩
def starting (x : Starter) : State := core0 (st []) fun c => { c with starters := [(2, x)] }

theorem witness_ItemsRetireYieldAndAsk :
    (st []).ready ⟨h0, [], none⟩ = true ∧ (st []).me.anyPending = false ∧ (st []).drained = true ∧ (st []).me.record = none ∧
    (st []).ready ⟨h0, [], some (.g, 3)⟩ = true ∧ (st []).me.item = none ∧
    (let s := my (starting (record 1 0)) fun x => { x with item := some ⟨0, 2, 7, 0, []⟩ }
     s.starter 0 2 = some (record 1 0) ∧ (record 1 0).gen = 7 ∧ s.me.item = some ⟨0, 2, 7, 0, []⟩) ∧
    (st []).unsent 0 = false := by decide

theorem witness_StartersStampShipAndResume :
    (starting (record 1 0)).starter 0 2 = some (record 1 0) ∧ (record 1 0).next < (record 1 0).extent ∧
    (starting (record 1 0)).withheld (record 1 0) = false ∧ (starting (record 1 0)).stampSlot 0 (record 1 0) = some 1 ∧
    (starting (record 3 3)).stampSlot 0 (record 3 3) = some 1 ∧ (record 3 3).extent ≤ (record 3 3).retired ∧
    (if ((starting (record 3 3)).slot (8 * 0 + 3)).phase = .free then some 3 else none) = some 3 ∧
    (let busy : State := { starting (record 1 0) with slots := (List.range 8).map fun k => (k, slot 0 [] 0) }
     busy.stampSlot 0 (record 1 0) = none ∧ (record 1 0).place.getLsbD 1 = true ∧ busy.lowestFree 1 ≠ none) ∧
    ({ record 1 0 with copies := [(1, 1)] } : Starter).copies.find 1 = some 1 ∧
    ({ record 1 0 with copies := [(1, 89)] } : Starter).copies.find 1 = some (87 + 2) := by decide

/-- Stream 2 of the strand configured: a load stream of 8-byte elements, not bound. -/
def streaming (ctl : Word) (g : List (Nat × Word)) : State := my (st g) fun x => x.setStream 2 { Stream.none with ctl := ctl, geo0 := 9 }

theorem witness_StreamConfiguration :
    (st [(5, 0)]).ready ⟨h0, [(1, .g, r 5)], none⟩ = true ∧
    (match loadLocal .l 0 64 64 (st [(5, 0)]) with
      | .ok (bs, _) => bs.length == 64
      | .error _ => false) = true ∧
    ((streaming 0x31 []).me.stream 2).kind ≠ 0 ∧ ((st []).me.stream 2).kind = 0 ∧
    (match localPlace .l 64 64 64 true (streaming 0x31 []) with
      | .ok ((cl, a), s1) => decide (s1.ownLog s1.cur = []) && decide (s1.myCore.sb.length < 16) &&
          ((s1.cluster cl).narrowed a (((streaming 0x31 []).me.stream 2).image.map some)).isNone
      | .error _ => false) = true ∧ (st []).ready ⟨h0, [], some (.g, 5)⟩ = true := by decide

/-- Stream 2 of 10 elements at L 64, at element `pos`. -/
def flowing (ctl pos : Word) (g : List (Nat × Word)) : State :=
  my (st g) fun x => x.setStream 2 { Stream.none with ctl := ctl, base := 64, pos := pos, geo0 := 9 }

/-- The bytes at L 64 are F1 02 00 80: a bound load stream of 8-byte elements pops them, one of 64-byte elements into v registers; store streams
push; at COUNT both stop with STREAM_RANGE; read-ahead keeps the element at POS. -/
theorem witness_BoundStreamRegisters :
    let s := flowing 0x8031 0 []
    (s.me.steady = true ∧ (s.me.stream 2).bound = true ∧ (s.me.stream 2).isStore = false ∧ (s.me.stream 2).count = 10 ∧ s.writable .g 3 = true) ∧
    gives (.add ⟨h0, 3, r 26, .lit 1⟩) s (fun t => t.me.regs.getG 3 == 0x800002F2 && (t.me.stream 2).pos == 1) = true ∧
    gives (.add ⟨h0, 3, r 26, .lit 1⟩) (flowing 0x8031 10 []) (fun t => t.me.sTrap.cause == 0xA18 && (t.me.stream 2).sfault == 10) = true ∧
    gives (.add ⟨h0, 3, r 26, .lit 1⟩) (flowing 0xA031 0 []) (fun t => t.me.sTrap.cause == 5) = true ∧
    gives (.li ⟨h0, 26, 7⟩) (flowing 0xA031 9 []) (fun t => (t.core 0).sb.length == 1 && (t.me.stream 2).pos == 10) = true ∧
    gives (.li ⟨h0, 26, 7⟩) s (fun t => (t.core 0).sb == [] && (t.me.stream 2).pos == 0) = true ∧
    gives (.vmov ⟨h0, 11, 3, r 26⟩) (flowing 0x8041 0 []) (fun t => (t.me.regs.getV 3).extractLsb' 0 32 == 0x800002F1#32 && (t.me.stream 2).pos == 1) = true ∧
    gives (.vmov ⟨h0, 11, 26, r 3⟩) (flowing 0xA041 0 []) (fun t => (t.core 0).sb.length == 1 && (t.me.stream 2).pos == 1) = true ∧
    (match s.takeTurn exec (.readAhead 0 2) with
      | .next t => (((t.slot 0).stream 2).ahead.map Prod.fst) == [0]
      | _ => false) = true := by decide

/-- The line at 0x1040 in the instruction cache holds three adds, g9 counts. -/
def repeating (g : List (Nat × Word)) : State :=
  core0 (st g) fun c => { c with icache :=
    [⟨0, 0x1000, true, setField (setField (setField 0 489 3 3) 96 96 0x010000002040600000000000) 192 96 0x010000002040600000000000⟩] }

theorem witness_RepetitionsStartStepAndEnd :
    (repeating [(9, 2)]).ready ⟨h0, [(1, .g, ⟨9, false⟩)], none⟩ = true ∧
    (match collectBody 40 2 (nextOf (repeating [(9, 2)]).line 0x1000) (repeating [(9, 2)]) with
      | .ok (body, _) => body.length == 2 && (bodyConflict (repeating [(9, 2)]).me.loops 9 3 0 body).isNone
      | .error _ => false) = true ∧ (repeating [(9, 2)]).me.rep.state.getLsbD 63 = false ∧
    (let b : BodySlot := ⟨0x1001, 0, 0, 0x1002⟩
     let x : Slot := (my (st [(9, 2)]) fun y => { y with rep := ⟨BitVec.ofNat 64 (2 ^ 63 + 9 * 2 ^ 25 + 2 * 2 ^ 21), .running, [b, b]⟩ }).me
     x.windows = [] ∧ x.rep.mode = .running ∧ x.rep.index + 1 < x.rep.len ∧ x.rep.body[1]? = some b ∧
     x.rep.state.extractLsb' 25 5 ≠ (0 : BitVec 5) ∧ x.boundTo .g 9 = none ∧ x.regs.own .g 9 = true) ∧
    (let b : BodySlot := ⟨0x1001, 0, 0, 0x1002⟩
     let x : Slot := (my (st [(9, 1)]) fun y => { y with rep := ⟨BitVec.ofNat 64 (2 ^ 63 + 9 * 2 ^ 25 + 2 ^ 21), .running, [b]⟩ }).me
     x.rep.len ≤ x.rep.index + 1 ∧ (x.regs.getG 9).toNat ≤ 1) := by decide

theorem witness_VectorElementResults :
    (st []).readyVec ⟨h0, (1, .v, r 5) :: vopndSrc .v 2 (.reg (r 6)), some (.v, 4)⟩ (anyActive 4) = true ∧
    (st []).readyVec ⟨⟨0, 8⟩, (1, .v, r 5) :: vopndSrc .v 2 (.imm 6), some (.v, 4)⟩ (anyActive 4) = false ∧
    (st []).readyVec ⟨⟨3, 1⟩, (1, .v, r 5) :: vopndSrc .v 2 (.imm 6), some (.v, 4)⟩ (anyActive 1) = true ∧
    (st []).readyVec ⟨h0, (1, .v, r 5) :: (vopndSrc .v 2 (.imm 0) ++ [(3, .v, r 6)]), some (.v, 4)⟩ (anyActive 2) = true ∧
    (st []).readyVec ⟨h0, [(1, .v, r 5)], some (.v, 31)⟩ (anyActive 4) = true ∧
    floatFmt false 0 = some .fp32 ∧ (floatFmt false 2).isSome = true ∧ floatFmt false 5 = none := by decide

theorem witness_VectorComparesSelectsAndPermutes :
    (st []).readyVec ⟨h0, [(1, .v, r 5), (2, .v, r 6)], some (.p, 4)⟩ (anyActive 4) = true ∧
    (st []).readyVec ⟨h0, [(1, .v, r 5), (2, .v, r 6), (3, .p, r 1)], some (.v, 4)⟩ (anyActive 1) = true ∧
    (st []).readyVec ⟨h0, [(1, .v, r 5), (2, .v, r 6), (3, .v, r 7)], some (.v, 4)⟩ (anyActive 4) = true ∧
    (st []).readyVec ⟨h0, [(1, .g, r 5)], some (.v, 4)⟩ (anyActive 2) = true ∧ (st []).readyVec ⟨h0, [], some (.v, 4)⟩ (anyActive 2) = true ∧
    (st []).readyVec ⟨h0, (1, .v, r 5) :: vopndSrc .g 2 (.imm 15), some (.g, 4)⟩ (anyActive 4) = true ∧
    (st []).readyVec ⟨h0, (1, .v, r 5) :: (2, .g, r 3) :: vopndSrc .g 3 (.reg (r 4)), some (.v, 4)⟩ (anyActive 4) = true ∧
    (st []).readyVec ⟨h0, [(1, .v, r 5), (2, .v, r 6)], some (.v, 4)⟩ (anyActive 4) = true ∧
    (st []).readyVec ⟨h0, [], some (.g, 4)⟩ (anyActive 1) = true := by decide

theorem witness_VectorConversionsReductionsAndTables :
    1 < partCount 0 2 ∧ (st []).readyVec ⟨h0, [(1, .v, r 5)], some (.v, 4)⟩
      (fun m => (List.range 16).any fun j => m.getLsbD (4 * j)) = true ∧ (st []).me.regs.own .v 4 = true ∧
    (st []).readyVec ⟨h0, [(1, .v, r 5), (2, .p, r 3)], some (.g, 4)⟩ (anyActive 4) = true ∧
    (st []).readyVec ⟨h0, [(1, .v, r 5)], some (.g, 4)⟩ (anyActive 1) = true ∧
    (st []).readyVec ⟨h0, [(1, .v, r 5)], some (.v, 4)⟩ (anyActive 4) = true := by decide

theorem witness_TableLoad :
    (st [(5, 0)]).readyVec ⟨h0, [(1, .g, r 5)], none⟩ (anyActive 4) = true ∧
    (match loadLocal .l 0 64 64 (st [(5, 0)]) with
      | .ok (hd, s1) => numAt hd 5 1 == 0 && (match loadPieces 64 64 16 s1 with
        | .ok (body, _) => body.length == 16
        | .error _ => false)
      | .error _ => false) = true := by decide

/-- The strand is an item of record 2, whose template of two crumbs stands at L 0. -/
def itemOf (g : List (Nat × Word)) : State :=
  my (core0 (st g) fun c => { c with starters := [(2, { record 1 0 with tmpl := 0x0001000200000000 })] }) fun x =>
    { x with item := some ⟨0, 2, 7, 0x2000, []⟩ }

/-- An entry of the store buffer of the strand. -/
def sbe (kind : SbKind) (sp : Space) (addr : Nat) (bs : List (Option Byte)) (pas : Option (List Nat)) : SbEntry :=
  ⟨0, 0, 0, kind, sp, 0, addr, bs, 0, .u, 0, pas⟩
def buffered (es : List SbEntry) (s : State) : State := core0 s fun c => { c with sb := es }

theorem witness_LocalLoadsAndStores :
    let ld : Shape := loadShape ⟨h0, true, 2, 3, ⟨r 5, r 0, 0, 0⟩⟩
    let sd : Shape := storeShape ⟨h0, 2, r 3, ⟨r 5, r 0, 0, 0⟩⟩
    (st [(5, 64)]).ready ld = true ∧ (st [(5, 64)]).ready sd = true ∧ (itemOf [(5, 64)]).ready ld = true ∧
    ((st []).cluster 0).check 64 4 = .ok ∧ ((st []).cluster 0).check 0x1FFFFC 4 ≠ .ok ∧
    ((cl0 (st []) fun c => { c with banks := c.banks.insert 0 ⟨.ret, 0⟩ }).cluster 0).check 64 4 = .proof [0] ∧
    (buffered [sbe .store .l 64 [some 1, some 2, some 3, some 4] none] (st [])).myCore.sb.length = 1 ∧
    (sbe .store .l 64 [some 1, some 2, some 3, some 4] none).covers 64 4 = some [1, 2, 3, 4] ∧
    (sbe .store .l 64 [some 1] none).covers 64 4 = none ∧
    ((cl0 (st []) fun c => { c with latent := [(8, 1)] }).cluster 0).flawed 64 4 = some 8 ∧
    ((cl0 (st []) fun c => { c with poison := [8] }).cluster 0).poisoned 64 4 = some 8 ∧ ((st []).cluster 0).poisoned 64 4 = none ∧
    ((st []).cluster 0).narrowed 64 [some 1] = none ∧ (st []).writable .g 3 = true ∧ (st []).ownLog 0 = [] ∧
    (∀ e ∈ (buffered [sbe .store .l 64 [some 1] none] (st [])).ownEntries 0, e.overlaps .l 0 0 128 4 = false ∧ e.isReduction = false) ∧
    (buffered [sbe (.reduction 0 4 1) .g 0x40 (List.replicate 4 none) none] (st [])).ownEntries 0 ≠ [] := by decide

/-- A line of die 1 in the data cache. -/
theorem witness_GlobalLoadsAndStores :
    let ld : Shape := loadShape ⟨h0, true, 3, 3, ⟨r 5, r 0, 0, 0⟩⟩
    let sd : Shape := storeShape ⟨h0, 3, r 3, ⟨r 5, r 0, 0, 0⟩⟩
    (st [(5, 0x40)]).ready ld = true ∧ (st [(5, 0x40)]).ready sd = true ∧ 0x40 % 2 ^ 16 + 8 ≤ 2 ^ 16 ∧
    ((st []).translate 0 0x40 .read .u true).1 = .ok 0x10040 ∧ ((st []).translate 0 0x20040 .read .u true).1 = .fail 1 0 ∧
    ((st []).translate 0 0x40 .write .u true).1 = .ok 0x10040 ∧ (st []).writable .g 3 = true ∧ (st []).hbmPoison = [] ∧
    (st []).ownLog 0 = [] ∧ (st []).myCore.sb.length < 16 ∧
    (match dcBytes 0 (2 ^ 50) [2 ^ 37] (core0 (st []) fun c =>
        { c with dcache := [⟨0, 2 ^ 50, 2 ^ 16, List.replicate 64 5, List.replicate 64 false, true, 2 ^ 37, 0, List.replicate 64 (0, 0, 0, .u)⟩] }) with
      | .ok (bs, _) => bs == [5]
      | .error _ => false) = true ∧
    (st []).leftMerged 0 0 0x40 8 = false := by decide

theorem witness_VectorLoadsAndStores :
    let f : VMem := ⟨h0, 0, r 4, ⟨r 5, r 0, 0, 0⟩⟩
    let g : VMem := ⟨⟨0, 1⟩, 0, r 4, ⟨r 5, r 6, 2, 0⟩⟩
    let s := st [(5, 64)]
    s.readyVec (vecMemShape false false f) (anyActive 4) = true ∧ s.readyVec (vecMemShape true false g) (anyActive 4) = true ∧
    s.readyVec (vecMemShape false true f) (anyActive 4) = true ∧ s.readyVec (vecMemShape true true g) (anyActive 4) = true ∧
    s.me.regs.own .v 4 = true ∧ s.me.item = none ∧ isManagement (coreOf s.cur) = false ∧
    (∀ j : Fin 16, (s.cluster 0).check (64 + 4 * j.val) 4 = .ok ∧ (s.cluster 0).flawed (64 + 4 * j.val) 4 = none ∧
      (s.cluster 0).poisoned (64 + 4 * j.val) 4 = none ∧ gFault .u (64 + 4 * j.val) 4 1 = none ∧
      (s.translate 0 (64 + 4 * j.val) .read .u true).1 = .ok (0x10040 + 4 * j.val)) ∧
    s.myCore.sb = [] ∧ s.ownLog 0 = [] ∧ s.drained = true ∧
    (∀ j : Fin 16, s.leftMerged 0 0 (64 + 4 * j.val) 4 = false) := by decide

theorem witness_FullEmptyFormsAndPrefetch :
    (st [(5, 64)]).ready (loadShape ⟨h0, true, 3, 3, ⟨r 5, r 0, 0, 0⟩⟩) = true ∧
    (match localPlace .l 64 8 8 true (st [(5, 64)]) with
      | .ok ((cl, a), t) => cl == 0 && a == 64 && (t.cluster 0).full.contains 8 && t.writable .g 3
      | .error _ => false) = true ∧ ¬9 ∈ ((st []).cluster 0).full ∧
    (st [(3, 64), (4, 64)]).ready ⟨h0, [(1, .g, r 3), (2, .g, r 4)], none⟩ = true ∧ ((st []).cluster 0).check 64 64 = .ok ∧
    ((st []).touched 0 64 64).ownLog 0 = [] ∧ (st []).me.steady = true ∧ (st []).me.executes h0 = true := by decide

theorem witness_AtomicsCellsAndTheirArithmetic :
    (st [(5, 64)]).ready (amoShape ⟨h0, 6, true, 3, r 5, r 4, 0⟩) = true ∧ (st [(5, 64)]).ready (amoShape ⟨h0, 0, false, 0, r 5, r 4, 0⟩) = true ∧
    (match localPlace .l 64 8 8 true (st [(5, 64)]) with
      | .ok ((cl, a), t) => t.drained && !t.claimedRange cl a 8 && ((t.cluster cl).flawed a 8).isNone && ((t.cluster cl).poisoned a 8).isNone &&
          ((t.setCluster cl ((t.cluster cl).store a (List.replicate 8 (some 1)))).writable .g 3)
      | .error _ => false) = true ∧ gFault .u 64 64 64 = none ∧
    (match xlatRange .rmw 64 8 (st []) with
      | .ok (pas, t) => pas.length == 8 && t.hbmPoison.isEmpty
      | .error _ => false) = true ∧
    (st [(5, 64)]).ready ⟨h0, addrSrc ⟨r 5, r 0, 0, 0⟩ ++ [(0, .g, r 4)], none⟩ = true ∧
    (st [(5, 64)]).ready ⟨h0, addrSrc ⟨r 5, r 0, 0, 0⟩, some (.g, 3)⟩ = true ∧ (st [(5, 64)]).ready ⟨h0, addrSrc ⟨r 5, r 0, 0, 0⟩, none⟩ = true ∧
    (match localPlace .l 64 64 64 true (st [(5, 64)]) with
      | .ok ((cl, a), t) => ((t.cluster cl).narrowed a (List.replicate 64 (some 0))).isNone && ((t.cluster cl).flawed a 64).isNone &&
          decide (t.myCore.sb.length < 16) && t.writable .g 3
      | .error _ => false) = true ∧
    (match xlatRange .read 64 64 (st []), xlatRange .write 64 64 (st []) with
      | .ok (pas, _), .ok (pbs, _) => pas.length == 64 && pbs.length == 64
      | _, _ => false) = true ∧
    (st []).ownEntries 0 = [] ∧ (buffered [sbe .store .l 64 [some 1] none] (st [])).ownEntries 0 ≠ [] := by decide

/-- A finite addend and flag bytes for each clause about a cell. -/
theorem witness_CellArithmetic :
    (∀ k ∈ [0, 1, 2, 3, 6], ∃ bs : List Byte, numAt bs 40 1 = k) ∧
    (let bs : List Byte := List.replicate 40 0 ++ [6]; numAt bs 40 1 / 2 % 2 = 1 ∧ numAt bs 40 1 / 4 % 2 = 1) := by
  refine ⟨fun k hk => ⟨List.replicate 40 0 ++ [BitVec.ofNat 8 k], ?_⟩, by decide⟩
  fin_cases hk <;> decide

theorem witness_BanksAndTheirRetention :
    let s := base 1 [(4, 0x4000), (5, 0x2000)] 0
    isManagement (coreOf s.cur) = false ∧ s.ready ⟨h0, [(1, .g, r 4), (2, .g, r 5)], some (.g, 3)⟩ = true ∧ s.me.mode ≠ .u ∧
    (s.cluster 0).failed = [] ∧ (s.cluster 0).groups.find 2 = none ∧ ((s.cluster 0).groups.find 1).isSome = true ∧
    ((cl0 (st []) fun c => { c with user := #v[0, 0, 0, 0] }).cluster 0).userGroup 2 = false ∧
    ((cl0 (st []) fun c => { c with failed := [17] }).cluster 0).failed = [17] ∧
    s.claimedRange 0 0x2000 0x2000 = false ∧ s.buffered 0 0x2000 0x2000 = false ∧
    stripeSet ⟨0, 1, 0⟩ 0 = [0] ∧ s.ready (binShape ⟨h0, 3, r 4, r 5⟩) = true ∧ s.ready ⟨h0, [(1, .g, r 4), (2, .g, r 5)], none⟩ = true ∧
    (let t := { s with clock := { s.clock with time := 0x2400 } }
     (t.cluster 0).tidle ≠ 0 ∧ 4 * (t.cluster 0).tidle ≤ 9 * (t.clock.time - 0) ∧ (t.cluster 0).banks.find 0 = some ⟨.on, 0⟩ ∧
       t.groupHeld 0 0 = false) ∧
    ((cl0 s fun c => { c with banks := [(0, ⟨.entering, 0⟩)] }).cluster 0).banks.find 0 = some ⟨.entering, 0⟩ ∧
    ((cl0 s fun c => { c with banks := [(0, ⟨.ret, 0⟩)] }).cluster 0).banks.find 0 = some ⟨.ret, 0⟩ ∧
    ((cl0 s fun c => { c with banks := [(0, ⟨.proofing, 0⟩)] }).cluster 0).banks.find 0 = some ⟨.proofing, 0⟩ ∧
    ((st []).cluster 0).latent = [] ∧
    (let t := two 1 [(4, 0x4000), (5, 0x2000)] (.blocked (.full 0x400 0x2000))
     t.me.phase = .ready ∧ (t.slot 1).phase = .blocked (.full 0x400 0x2000) ∧ clusterOf 1 = 0 ∧ 0x400 / 0x400 = 1) := by decide

theorem witness_FencesWaitAndPublish :
    let own := buffered [sbe .store .l 64 [some 1] none] (st [])
    let lock (s : State) : State := { s with clock := { s.clock with lock := true } }
    let later := buffered [{ sbe .store .l 64 [some 1] none with due := 1024 }] (st [])
    (st []).ready ⟨h0, [], none⟩ = true ∧ (st []).drained = true ∧ own.drained = false ∧ (st []).clock.lock = false ∧
    (lock own).clock.lock = true ∧ (lock own).ownLog 0 = [] ∧ (∀ e ∈ (lock own).ownEntries 0, e.due ≤ (lock own).clock.time) ∧
    ((lock later).ownEntries 0).find? (fun e => decide ((lock later).clock.time < e.due)) ≠ none ∧ logged.ownLog 0 ≠ [] ∧
    (let far := core0 (st []) fun c =>
        { c with dcache := [⟨0, 2 ^ 50, 2 ^ 16, List.replicate 64 5, true :: List.replicate 63 false, true, 2 ^ 41, 0, List.replicate 64 (0, 0, 0, .u)⟩] }
     far.drained = true ∧ ∃ l ∈ far.myCore.dcache, l.far = true ∧ l.holdsOf (far.me.ctx :: far.me.debts) = true) ∧
    (st []).unsent 0 = false := by decide

theorem witness_StoresLeaveTheBuffer :
    let l := buffered [sbe .store .l 64 [some 1, none, some 2] none] (st [])
    let e := buffered [sbe (.empty [(64, 8)]) .l 0 [] none] (st [])
    let f := buffered [sbe .stlf .l 64 [some 1] none] (st [])
    let g := buffered [sbe .store .g 0x40 [some 1, some 2] (some [0x10040, 0x10041])] (st [])
    (st []).memoriesOk = true ∧ (∀ s ∈ [l, e, f, g], s.memoriesOk = true ∧ ((s.core 0).nextOut).isSome = true) ∧
    ((st []).core 0).nextOut = none ∧ l.claimedRange 0 64 3 = false ∧ (l.cluster 0).asleep 64 3 = [] ∧
    ((cl0 l fun c => { c with banks := [(0, ⟨.ret, 0⟩)] }).cluster 0).asleep 64 3 = [0] ∧
    (core0 l fun c => { c with tileq := [{ tileCmd 0xEB 0 with claims := [1] }] }).claimedRange 0 64 3 = true ∧
    ([0x10040, 0x10041] : List Nat).Nodup ∧ 0x40 / 2 ^ 50 % 4 = 0 / 512 ∧ (g.core 0).dcFind 0 64 = none := by decide

/-- The other kinds of entries, and a cached line of another die that takes a store. -/
theorem witness_ReductionsAndReleasesLeave :
    let at0 (k : SbKind) := buffered [sbe k .g 0x40 (List.replicate 4 none) (some [0x10040, 0x10041, 0x10042, 0x10043])] (st [])
    let far : Nat := 2 ^ 50 + 0x40
    let lined := core0 (buffered [sbe .store .g far [some 7] (some [0x10040])] (st [])) fun c =>
      { c with dcache := [⟨0, far, 65536, List.replicate 64 0, List.replicate 64 false, true, 0x10040, 0, List.replicate 64 (0, 0, 0, .u)⟩] }
    (∀ k ∈ [SbKind.strl, .reduction 0 4 1, .faddx false 1], (((at0 k).core 0).nextOut).isSome = true ∧ ∀ l ∈ ((at0 k).core 0).dcache, l.isDirty = false) ∧
    gives (.storeBufferDrain 0) (at0 (.reduction 0 4 1)) (fun t => (t.core 0).sb == [] && t.mem.read 0x10040 == 0x80) = true ∧
    far / 2 ^ 50 % 4 ≠ 0 / 512 ∧ ((lined.core 0).dcFind 0 (far / 64 * 64)).isSome = true ∧ lined.memoriesOk = true ∧
    (let held := core0 (at0 .strl) fun c => { c with log := [(0, ⟨{ sbe .store .g 0x80 [some 1] none with seq := 0 }, 0, 0, 1, 0, false⟩)] }
     let e : SbEntry := { sbe .strl .g 0x40 (List.replicate 4 none) (some [0x10040, 0x10041, 0x10042, 0x10043]) with seq := 1 }
     ((held.writeThrough 0).core 0).held e = true ∧ (((at0 .strl).writeThrough 0).core 0).held e = false ∧ (((at0 .strl).writeThrough 0).core 0).dcache = []) := by decide

theorem witness_ProbesSideLogAndWindows :
    let find (s : State) : Option (Nat × SbEntry) :=
      ((List.range (s.core 0).sb.length).filterMap fun k => ((s.core 0).sb[k]?).map fun e => (k, e)).find? fun x =>
        !(s.core 0).held x.2 && x.2.loggable && x.2.pas.isNone
    let near := sbe .store .g 0x40 [some 1, some 2] none
    let gone := sbe .store .g 0x20040 (List.replicate 32 (some 1)) none
    let s := buffered [sbe .store .l 64 [some 1] none, near] (st [])
    let t := buffered [gone] (st [])
    find s = some (1, near) ∧ (s.core 0).dcFind near.asid (near.addr / 64 * 64) = none ∧
    (s.xlatBytes near.asid near.addr near.bytes.length near.access near.mode true).1 = .ok [0x10040, 0x10041] ∧
    find t = some (0, gone) ∧ (t.core 0).dcFind gone.asid (gone.addr / 64 * 64) = none ∧
    (t.xlatBytes gone.asid gone.addr gone.bytes.length gone.access gone.mode true).1 = .error (.fail 1 0, 0x20040) ∧
    gone.bytes.length ≤ 32 ∧ (t.core 0).logRoom.head? = some 0 ∧ ((st []).core 0).sb = [] := by decide

/-- A record of a tile slot in element format `fmt` with 4 rows of 32 elements at L 0x1000, rows 128 bytes apart. -/
def rows4 (fmt : Nat) : BitVec 512 := BitVec.ofNat 512 (0x80 + fmt + 3 * 2 ^ 16 + 32 * 2 ^ 32 + 0x1000 * 2 ^ 64 + 128 * 2 ^ 96)
/-- A PL record of P = 4 planes, 4 rows, KEXT 256, planes at L 0x1000 and scales at L 0x2000; an L8 record likewise. -/
def plane (fmt : Nat) : BitVec 512 :=
  BitVec.ofNat 512 (0x80 + fmt + 4 * 2 ^ 8 + 4 * 2 ^ 16 + 256 * 2 ^ 32 + 0x1000 * 2 ^ 64 + 0x400 * 2 ^ 96 + 0x1000 * 2 ^ 128 +
    0x2000 * 2 ^ 160 + 64 * 2 ^ 192)
def withSlots (xs : NMap (BitVec 512)) (s : State) : State := cl0 s fun c => { c with tslots := xs }

/-- Starter record 2 of the core keeps a template of two crumbs from L 0. -/
def templated (s : State) : State := core0 s fun c => { c with starters := [(2, { record 1 0 with tmpl := 0x0001000200000000 })] }

theorem witness_CopyCommandsAreChecked :
    let s := st [(4, 64), (5, 0x100), (6, 32), (7, 0)]
    s.ready ⟨h0, engSrcs [r 4, r 5, r 6, r 7], none⟩ = true ∧ s.ready ⟨h0, engSrcs [r 4, r 5, r 6], none⟩ = true ∧
    s.drained = true ∧ s.myCore.copyq.length < 2 ∧ (s.me.handle 3).isPending = false ∧
    64 + 32 ≤ 0x200000 ∧ (64 % 8 = 0 ∧ 32 % 8 = 0) ∧ gFault s.me.mode 0x100 1 1 = none ∧ gFault s.me.mode (0x100 + 32 - 1) 1 1 = none ∧
    supervisor 0x100 = supervisor (0x100 + 32 - 1) ∧ gFault s.me.mode (2 ^ 32) 1 1 = none ∧ s.templateHit 0 64 32 = none ∧
    (templated s).templateHit 0 64 32 = some 64 ∧ ((BitVec.allOnes 8 : BitVec 8).getLsbD 7) = true ∧
    s.templateHit 0 (0x40000 * 7 + 64) 32 = none ∧ (64 : Nat) < 0x40000 ∧ 0x40000 < 0x40000 + 1 ∧ 33 % 2 ^ 1 ≠ 0 ∧
    s.myCluster.tslots.find 2 = none ∧
    (let t := withSlots [(2, plane 0xC), (3, plane 0xD)] s
     t.myCluster.tslots.find 2 = some (plane 0xC) ∧ t.myCluster.tslots.find 3 = some (plane 0xD) ∧
     (TSlot.ofRecord (plane 0xC)).isPL = true ∧ (TSlot.ofRecord (plane 0xC)).p = 4 ∧ (TSlot.ofRecord (plane 0xC)).sparse = false ∧
     (TSlot.ofRecord (plane 0xD)).isL8 = true ∧ (TSlot.ofRecord (plane 0xD)).isPL = false ∧ (TSlot.ofRecord (plane 0xC)).rows = 4 ∧
     (∀ x ∈ (List.range 4).flatMap fun k => (TSlot.ofRecord (plane 0xC)).rowRanges 0 k 1 8, t.templateHit 0 x.1 x.2 = none)) := by decide

/-- A command of the copy queue of slot 0 as operation 5. -/
def copyCmd (kind : CopyKind) (begun : Bool) (todo : List EngWrite) : CopyCmd :=
  ⟨0, 0, 5, 0, .u, false, kind, [], begun, todo, 0, 0, none⟩
/-- Handle 3 of slot 0 is PENDING as operation 5. -/
def pending (s : State) : State := { my s (fun x => x.setHandle 3 (.pending 5)) with ops := [(5, ⟨.slot 0 3, none, false, false, none⟩)] }
/-- A DGE command of slot 0 with no work left. -/
def dgeCmd : DgeCmd := ⟨0, 5, 0, .u, false, [], [], [], 0, true, [], 0, [], 0, 0, none⟩

theorem witness_CommandsCompleteInTheirHandles :
    let copy := copyCmd (.cpy 0 0 64 128 8 0) true []
    let packet := copyCmd (.xsend 0 (List.replicate 8 1) false) true []
    let copies (x : CopyCmd) : State := pending (core0 (st []) fun c => { c with copyq := [x] })
    (copies copy).ops.find 5 = some ⟨.slot 0 3, none, false, false, none⟩ ∧ ((copies copy).slot 0).handle 3 = .pending 5 ∧
    ((copies copy).core 0).copyq = [copy] ∧ copy.begun = true ∧ copy.todo = [] ∧ packet.fail = none ∧ packet.kind = .xsend 0 (List.replicate 8 1) false ∧
    ((st []).core 0).copyq = [] ∧ (copyCmd copy.kind false []).begun = false ∧
    (let t (x : TileCmd) : State := pending (core0 (st []) fun c => { c with tileq := [x] })
     let d : TileCmd := { tileCmd 0xED 1 with begun := true }
     ((t d).core 0).tileq = [d] ∧ d.code = 0xED ∧ d.begun = true ∧ d.todo = [] ∧ (tileCmd 0xEB 1).begun = false ∧
       (let m : TileCmd := { tileCmd 0xEB 1 with begun := true }; m.total ≤ m.done) ∧ ((t d).slot 0).handle 3 = .pending 5) ∧
    (let t : State := pending (core0 (st []) fun c => { c with dge := [dgeCmd] })
     (t.core 0).dge[0]? = some dgeCmd ∧ dgeCmd.todo = [] ∧ dgeCmd.scatter = false ∧ dgeCmd.idx.length ≤ dgeCmd.next ∧ (t.core 0).dge[1]? = none) := by
  decide

/-- A PL record of 2 rows of one position, and an L8 record likewise; planes at L 0x1000, scales at L 0x2000. -/
def narrowPlane (fmt : Nat) : BitVec 512 :=
  BitVec.ofNat 512 (0x80 + fmt + 2 * 2 ^ 8 + 2 * 2 ^ 16 + 1 * 2 ^ 32 + 0x1000 * 2 ^ 64 + 0x400 * 2 ^ 96 + 0x1000 * 2 ^ 128 + 0x2000 * 2 ^ 160 + 64 * 2 ^ 192)

/-- A `cpyc` of one row whose source, of FP8 or L8, is read whole. -/
theorem witness_ConversionWords :
    let d := TSlot.ofRecord (narrowPlane 0xC)
    let cpyc (fmt : Nat) (got : List (List Byte)) : CopyCmd :=
      { copyCmd (.cpyc 0 0x100 1 64 (narrowPlane 0xC) (narrowPlane 0xD) fmt 0 0 1) false [] with got := got }
    let f8 := cpyc 4 [[0x38]]
    let l8 := cpyc 0xD (List.replicate 8 (List.replicate 8 0) ++ [List.replicate 4 0])
    f8.pieces[f8.got.length]? = none ∧ l8.pieces[l8.got.length]? = none ∧ d.sparse = false ∧ 0 < d.kext ∧
    (((List.range 1).flatMap fun r => d.rowRanges 0 (0 + r) d.chunks d.blocks).Pairwise fun a b => a.1 + a.2 ≤ b.1 ∨ b.1 + b.2 ≤ a.1) ∧
    (rowsRead f8.pieces f8.got 1 0).map List.length = [1] ∧ Scale.ofWord (numAt ((rowsRead l8.pieces l8.got 1 0)[0]?.getD []) 64 4) ≠ .bad ∧
    (match step { core0 (st []) fun c => { c with copyq := [f8] } with agenda := [.event (.engineWordWrite 0 .copy 0)] } with
      | .next t => (t.core 0).copyq.all fun c => c.begun && c.todo.any fun w => w.addr == 0x2000
      | _ => false) = true := by decide

theorem witness_HandlesWaitTestCancelAndMove :
    let done := my (st []) fun x => x.setHandle 3 (.complete 5 0x2041)
    (st []).ready ⟨h0, [], some (.g, 3)⟩ = true ∧ (st []).ready ⟨h0, [], some (.p, 3)⟩ = true ∧ (st []).ready ⟨h0, [], none⟩ = true ∧
    (st []).me.handle 3 = .empty ∧ done.me.handle 3 = .complete 5 0x2041 ∧ (done.acquire 0).writable .g 3 = true ∧
    (done.acquire 0).writable .p 3 = true ∧ (pending (st [])).me.handle 3 = .pending 5 ∧ (pending (st [])).writable .g 3 = true ∧
    (let first := copyCmd (.cpy 0 0 64 128 8 0) true []
     let s := pending (core0 (st []) fun c => { c with copyq := [{ first with op := 4 }, first] })
     s.cores.find? (fun x => x.2.runs 5) = some (0, s.core 0) ∧ s.ops.find 5 = some ⟨.slot s.cur 3, none, false, false, none⟩ ∧
       s.me.handle 3 = .pending 5 ∧ (s.core 0).tileq = [] ∧ (s.core 0).dge = []) ∧
    (let s := pending (core0 (st []) fun c => { c with tileq := [{ tileCmd 0xEB 0 with op := 4 }, tileCmd 0xEB 1] })
     s.cores.find? (fun x => x.2.runs 5) = some (0, s.core 0) ∧ (s.core 0).copyq = [] ∧ (s.core 0).dge = []) ∧
    (let s : State := { st [(4, 0x50003)] with ops := [(5, ⟨.token, some 0x50003, false, true, none⟩)] }
     s.ready ⟨h0, [(1, .g, r 4)], none⟩ = true ∧ s.me.regs.getG 4 = 0x50003 ∧
       s.ops.find? (fun x => x.2.token == some 0x50003 && !x.2.imported) = some (5, ⟨.token, some 0x50003, false, true, none⟩)) ∧
    (st []).ops.find? (fun x => x.2.token == some (0 : Word) && !x.2.imported) = none := by decide

/-- Accumulator 1 of core 0 is owned by the strand, accumulator 2 by slot 3. -/
def accs (s : State) : State := core0 s fun c => { c with accs := [(1, ⟨some 0, []⟩), (2, ⟨some 3, []⟩)] }

theorem witness_TileFormsCheckAndQueue :
    let s := accs (withSlots [(2, plane 0xC), (3, rows4 2)] (st [(4, 0), (5, 256), (6, 0)]))
    s.ready ⟨h0, [(1, .g, r 4)], none⟩ = true ∧ s.ready ⟨h0, [(2, .g, r 4)], none⟩ = true ∧
    s.ready ⟨h0, [(2, .g, r 4), (3, .g, r 5), (4, .g, r 6)], none⟩ = true ∧ s.ready ⟨h0, [], none⟩ = true ∧
    isManagement 0 = false ∧ s.me.item = none ∧ (s.cluster 0).check 64 64 = .ok ∧ ((s.touched 0 64 64).cluster 0).flawed 64 64 = none ∧
    ((s.touched 0 64 64).cluster 0).poisoned 64 64 = none ∧ s.myCore.sb = [] ∧ (s.me.handle 3).isPending = false ∧
    (lineOfBytes ((cluster).mem.readN 64 64)).getLsbD 7 = true ∧ (lineOfBytes ((cluster).mem.readN 128 64)).getLsbD 7 = false ∧
    (TSlot.ofRecord (plane 0xC)).fault (plane 0xC) = none ∧ (TSlot.ofRecord (lineOfBytes ((cluster).mem.readN 64 64))).fault (lineOfBytes ((cluster).mem.readN 64 64)) ≠ none ∧
    (s.myCore.acc 1).owner = some s.cur ∧ (s.myCore.acc 2).owner = some 3 ∧ (s.myCore.acc 0).owner = none ∧
    s.drained = true ∧ s.myCore.tileq.length < 2 ∧ s.myCluster.presentAll 0 4096 = true ∧ s.myCluster.presentAll 0x3040 4096 = false ∧
    s.myCluster.tslots.find 2 = some (plane 0xC) ∧ s.myCluster.tslots.find 4 = none ∧
    (let a := TSlot.ofRecord (plane 0xC)
     a.fmt = 0xC ∧ a.sparse = false ∧ 0 % 256 = 0 ∧ 256 % 256 = 0 ∧ 0 + 256 ≤ 16384) ∧
    (TSlot.ofRecord (rows4 2)).fmt = 2 ∧ (∀ x ∈ (TSlot.ofRecord (rows4 2)).drainRanges 0, s.templateHit 0 x.1 x.2 = none) ∧
    (TSlot.ofRecord (rows4 2)).drainRanges 0 ≠ [] := by decide

theorem witness_EnginesMoveWordsAndKeepClaims :
    let w : EngWrite := ⟨.l, 0, 64, [some 1, none], 0⟩
    let cpy := copyCmd (.cpy 0 0 64 128 8 0) false []
    let ord := copyCmd (.xsend 0 (List.replicate 8 1) false) false []
    let s := core0 (st []) fun c => { c with copyq := [cpy] }
    s.memoriesOk = true ∧ (cpy.pieces[0]?).isSome = true ∧
    (∀ p, cpy.pieces[cpy.got.length]? = some p → p.far = false ∧ p.sp ≠ .g ∧ (s.cluster p.cl).check p.addr p.n = .ok ∧
      (s.cluster p.cl).flawed p.addr p.n = none ∧ (s.cluster p.cl).poisoned p.addr p.n = none) ∧
    (copyCmd (.cpyf 0 64 1 8 8) true [w]).kind.farDest = false ∧ (copyCmd (.cpyf 0 64 1 8 8) true [w]).kind.ordered = true ∧ w.sp ≠ .g ∧ s.claimedRange 0 64 2 = false ∧ (s.cluster 0).asleep 64 2 = [] ∧
    (s.cluster 0).check 64 2 = .ok ∧ (s.cluster 0).check 0x3FFF 2 = .off 0x4000 ∧ ord.begun = false ∧
    (templated (st [])).templateHit 0 64 2 = some 64 ∧
    (let d : TileCmd := { tileCmd 0xED 1 with begun := true, todo := [w] }
     d.todo[0 % d.todo.length]? = some w ∧ (d.code = 0xED ∨ d.code = 0xEE) ∧ d.begun = true) ∧
    (core0 (st []) fun c => { c with tileq := [{ tileCmd 0xEB 0 with claims := [1] }] }).claimedRange 0 64 2 = true ∧
    (st []).ready ⟨h0, [], some (.g, 3)⟩ = true ∧
    ((cl0 (st []) fun c => { c with poison := [8] }).cluster 0).narrowed 64 w.bytes = some 8 ∧ ((st []).cluster 0).narrowed 64 w.bytes = none := by decide

/-- A multiplication of one live position, whose chunk is sound, and the drains of one row. -/
theorem witness_TileChunksAndDrains :
    let c : TileCmd := { tileCmd 0xEB 1 with slots := [narrowPlane 0xC, narrowPlane 0xC], klen := 256, begun := true }
    let k := cluster
    let rows := c.liveRows k.mem 0
    c.fail = none ∧ c.done < c.total ∧ (c.tslot 1).rows ≤ 32 ∧ c.chunkNo c.done = 0 ∧ rows.length = 2 ∧
    (∀ x ∈ c.chunkReads 0 rows, k.check x.2.1 x.2.2 = .ok ∧ k.flawed x.2.1 x.2.2 = none ∧ k.poisoned x.2.1 x.2.2 = none) ∧
    (∀ a ∈ c.scaleReads 0 rows, Scale.ofWord (ofBytes (k.mem.readN a 4)) ≠ .bad) ∧
    (let d : TileCmd := { tileCmd 0xEE 1 with slots := [narrowPlane 0xC, rows4 2] }
     d.begun = false ∧ (∀ n ∈ [0, 1], (d.tslot n).drainable = true ∧ 0 < (d.tslot n).kext)) ∧
    ((TSlot.ofRecord (narrowPlane 0xC)).drainRanges 0).Pairwise (fun a b => a.1 + a.2 ≤ b.1 ∨ b.1 + b.2 ≤ a.1) := by decide

/-- Table descriptor bytes at L 0x400: rows of 8 bytes, 8 apart, `n` of them, of format `fmt`. -/
def described (fmt : Byte) (s : State) : State := cl0 s fun c => { c with mem := (((c.mem.write 0x408 8).write 0x40C 8).write 0x410 4).write 0x414 fmt }

theorem witness_GatherAndScatterAddForms :
    let s := described 2 (st [(4, 0x400), (5, 0x800), (6, 2), (7, 0x1000)])
    s.ready ⟨h0, engSrcs [r 4, r 5, r 6, r 7], none⟩ = true ∧ s.ready ⟨h0, [], none⟩ = true ∧ s.me.idem.active = false ∧
    0x400 + 64 ≤ 0x200000 ∧ 0x400 % 64 = 0 ∧ s.myCluster.presentAll 0x400 64 = true ∧ s.myCluster.presentAll 0x3FC0 128 = false ∧
    (s.me.handle 3).isPending = false ∧ s.myCore.dge.length < 4 ∧ s.drained = true ∧
    s.myCluster.check 0x400 64 = .ok ∧ s.myCluster.flawed 0x400 64 = none ∧ s.myCluster.poisoned 0x400 64 = none ∧
    s.myCluster.check 0x800 8 = .ok ∧ s.myCluster.flawed 0x800 8 = none ∧ s.myCluster.poisoned 0x800 8 = none ∧
    gatherMalformed true (s.myCluster.mem.readN 0x400 64) = false ∧ gatherMalformed true ((described 1 s).myCluster.mem.readN 0x400 64) = true ∧
    numAt (s.myCluster.mem.readN 0x400 64) 8 4 = 8 ∧ s.templateHit 0 0x1000 16 = none ∧ (templated s).templateHit 0 0x1000 16 = some 0x1000 := by
  decide

/-- The DGE has a command of two positions: it reads a row, or places one that it holds; a scatter-add; and a position that is being written. -/
theorem witness_DgeSteps :
    let desc : List Byte := toBytes 8 0x40 ++ toBytes 4 8 ++ toBytes 4 8 ++ toBytes 4 4 ++ (0 : Byte) :: List.replicate 43 0
    let c (scatter : Bool) (rows : NMap (List Byte)) : DgeCmd := ⟨0, 5, 0, .u, scatter, desc, [0, 5], List.replicate 16 0, 0x1000, true, rows, 0, [], 0, 0, none⟩
    let w : EngWrite := ⟨.l, 0, 64, [some 1], 0⟩
    let s := core0 (st []) fun k => { k with dge := [c false []] }
    (s.core 0).dge[0]? = some (c false []) ∧ (c false []).table.sent = false ∧ (c false []).table.rowb = 8 ∧ ¬(4 ≤ 0) ∧ 4 ≤ 5 ∧
    ((c false [(0, List.replicate 8 1)]).rows.find 0).map List.length = some 8 ∧ gFault .u 0x40 8 1 = none ∧ gFault .u 0x40 4 1 = none ∧
    s.xlatBytes 0 0x40 8 .read .u true = (.ok ((List.range 8).map (0x10040 + ·)), s) ∧ (s.xlatBytes 0 0x40 8 .rmw .u true).1 = .ok ((List.range 8).map (0x10040 + ·)) ∧
    (s.xlatBytes 0 0x40 4 .write .u true).1 = .ok ((List.range 4).map (0x10040 + ·)) ∧ s.hbmPoison = [] ∧
    (c true []).order = [0, 5] ∧ (c true []).perRow = 2 ∧ (c true []).order[(c true []).next / (c true []).perRow]? = some 0 ∧
    ({ c false [] with todo := [w] } : DgeCmd).todo[0 / 4 % 1]? = some w ∧ s.claimedRange 0 64 1 = false ∧ (s.cluster 0).check 64 1 = .ok ∧
    (s.cluster 0).narrowed 64 [some 1] = none ∧ (s.cluster 0).mem.wf = true := by decide

/-- The cluster has an exchange inbox of 4160 bytes at L 0x2000 with the packets given; DMEM has a level and X. -/
def inboxed (ps : List Packet) (expect taken : Nat) (s : State) : State := cl0 s fun c => { c with inbox := ⟨0x2000, 4160, 128, ps, expect, taken, false⟩ }
def exchanging (s : State) : State :=
  my s fun x => { x with ctl := { x.ctl with dmem := 0x120000000000 }, domain := { x.domain with pattern := 3 } }

theorem witness_ExchangeSendsAndReceives :
    let s := exchanging (st [(4, 0x2000), (5, 4160), (6, 1), (7, 8), (8, 0x400)])
    s.memoriesOk = true ∧ s.ready ⟨h0, engSrcs [r 4, r 5], none⟩ = true ∧ s.ready ⟨h0, engSrcs [r 6, r 8, r 7], none⟩ = true ∧
    s.ready ⟨h0, engSrcs [r 8], none⟩ = true ∧ 0x2000 % 64 = 0 ∧ 4160 % 64 = 0 ∧ s.myCluster.presentAll 0x2000 4160 = true ∧
    s.myCluster.inbox.packets = [] ∧ s.myCluster.inbox.taken = s.myCluster.inbox.expect ∧ s.drained = true ∧
    s.me.ctl.dmem.toNat / 2 ^ 40 % 8 = 2 ∧ s.me.ctl.dmem.getLsbD 44 = true ∧ s.me.domain.pattern.getLsbD 1 = true ∧
    s.me.domain.pattern.getLsbD 2 = false ∧ (st []).me.ctl.dmem.toNat / 2 ^ 40 % 8 < 2 ∧
    (let p : Packet := ⟨0, 7, false, true, List.replicate 8 0⟩
     let t := inboxed [p] 1 0 s
     t.myCluster.inbox.packets = [p] ∧ p.nspec = t.me.nspec ∧ p.data.length ≠ 0 ∧
       t.myCluster.mem.readN (t.myCluster.inbox.base + p.off + 64) 8 = p.data ∧ t.claimedRange 0 0x400 8 = false ∧
       t.myCluster.check 0x400 8 = .ok ∧ t.myCluster.narrowed 0x400 (p.data.map some) = none ∧ t.myCore.dcache = [] ∧
       s.templateHit 0 0x400 8 = none ∧ p.nspec ≠ (my t fun x => { x with ctl := { x.ctl with status := 0x400 } }).me.nspec) ∧
    (inboxed [] 1 0 s).myCluster.inbox.taken ≠ (inboxed [] 1 0 s).myCluster.inbox.expect ∧
    s.unsent 0 = false ∧
    (let t := cl0 (inboxed [] 1 1 s) fun c => { c with inbox := { c.inbox with missed := true } }
     t.myCluster.inbox.missed = true ∧ t.myCluster.inbox.taken = t.myCluster.inbox.expect) := by decide

theorem witness_PacketArrives :
    let c := { copyCmd (.xsend 0 (List.replicate 8 1) true) true [] with got := [] }
    let s := pending (core0 (inboxed [] 0 0 (st [])) fun k => { k with copyq := [c] })
    s.memoriesOk = true ∧ (s.core 0).copyq = [c] ∧ c.begun = true ∧ c.fail = none ∧ c.kind = .xsend 0 (List.replicate 8 1) true ∧
    (s.cluster 0).inbox.size ≠ 0 ∧ (s.cluster 0).inbox.place 128 = some 128 ∧ (s.cluster 0).check (0x2000 + 128) (64 + 8) = .ok ∧
    s.ops.find 5 = some ⟨.slot 0 3, none, false, false, none⟩ ∧ (s.slot 0).handle 3 = .pending 5 ∧ c.sid < 65536 ∧
    ((inboxed [⟨0, 7, false, true, List.replicate 8 0⟩] 1 0 s).cluster 0).inbox.place 4160 = none ∧
    ((st []).cluster 0).inbox.size = 0 ∧
    s.sentBefore 0 c 0 = false ∧
    (s.setCore 1 { s.core 1 with copyq := [{ c with op := 4 }] }).sentBefore 0 c 0 = true := by decide

theorem witness_TaskFormsAndDeq :
    let s := st [(4, 1), (5, 0x400), (6, 0x800), (7, 3)]
    s.ready ⟨h0, engSrcs [r 4, r 5], none⟩ = true ∧ s.ready ⟨h0, engSrcs [r 4], none⟩ = true ∧
    s.ready ⟨h0, engSrcs [r 4, r 5, r 6], none⟩ = true ∧ s.ready ⟨h0, engSrcs [r 4, r 7, r 5, r 6], none⟩ = true ∧
    (s.me.handle 3).isPending = false ∧ s.drained = true ∧ s.myCluster.presentAll 0x400 64 = true ∧ s.myCluster.presentAll 0x800 64 = true ∧
    s.myCluster.check 0x400 64 = .ok ∧ s.myCluster.flawed 0x400 64 = none ∧ s.myCluster.poisoned 0x400 64 = none ∧
    s.myCluster.check 0x800 64 = .ok ∧ s.myCluster.flawed 0x800 64 = none ∧ s.myCluster.poisoned 0x800 64 = none ∧
    ¬0x200000 < (s.me.regs.getG 5).toNat + 64 ∧
    s.unsent 0 = false := by decide

/-- Queue 1 ENABLED and open to U, its ring of 64 records at G 0, with the slots given. -/
def queue1 (slots : List QSlot) : Queue := ⟨0, 0xC000, 0, 0, slots⟩
def plainRec : RecInfo := ⟨List.replicate 64 0, .u, 0, none, 0⟩
def queues (q : Queue) (s : State) : State := s.setUnit 0 { s.unit 0 with queues := [(1, q)] }
/-- The head slot of the queue reads as the bytes. -/
def rings (s : State) (q : Queue) (bs : List Byte) : Bool :=
  match s.ringRead (q.slotAt q.head) 64 with
  | .ok v _ => v == bs
  | _ => false

theorem witness_DequeueRecord :
    let s := queues (queue1 [.record plainRec]) (st [(4, 1), (5, 0x400)])
    s.memoriesOk = true ∧ s.ready ⟨h0, engSrcs [r 4, r 5], none⟩ = true ∧ s.myCluster.presentAll 0x400 64 = true ∧ s.templateHit 0 0x400 64 = none ∧
    s.drained = true ∧ (s.queue 1).ctl.getLsbD 15 = true ∧ (s.queue 1).ctl.getLsbD 14 = true ∧ (s.queue 1).visible = some plainRec ∧
    numAt plainRec.bytes 16 2 / 8 % 2 = 0 ∧ plainRec.bytes.length = 64 ∧ rings s (queue1 []) plainRec.bytes = true ∧
    s.claimedRange 0 0x400 64 = false ∧ s.myCluster.check 0x400 64 = .ok ∧ plainRec.dep = none ∧
    ((queues (queue1 [.reserved 0, .record plainRec]) s).queue 1).visible = none ∧ ((st []).queue 1).ctl.getLsbD 15 = false := by decide

/-- A command of strand 0 in U at unit 0, answering operation 5. -/
def unitCmd (what : UnitOp) (arrived : Bool) : UnitCmd := ⟨0, 0, .u, what, .op 5, arrived⟩
def at0 (u : TaskUnit) (s : State) : State := s.setUnit 0 u
def lonely (u : TaskUnit) (what : UnitOp) : Bool := ({ u with cmds := [unitCmd what false] } : TaskUnit).mayTake 0

theorem witness_TaskUnitsPerformCommands :
    let u : TaskUnit := { (default : TaskUnit) with queues := [(1, queue1 [.reserved 0])] }
    let rec0 := List.replicate 64 (0 : Byte)
    ((st []).unit 0).cmds = [] ∧ lonely u (.enq 1 rec0) = true ∧ lonely u (.taskdep 1 rec0 rec0) = true ∧ lonely u (.reg 5) = true ∧
    ((at0 u (st [])).queue 1).room = true ∧ (at0 u (st [])).queued 1 = false ∧ (queue1 (List.replicate 64 .tomb)).room = false ∧
    ((at0 u (st [])).queue 1).ctl.getLsbD 15 = true ∧ numAt rec0 16 2 < 16 ∧
    (queue1 [.reserved 0]).slots[0]? = some (.reserved 0) ∧ (0 + 0) % 2 ^ 32 = 0 ∧ u.counters.find 3 = none ∧
    (let v : TaskUnit := { u with counters := [(3, ⟨2, 1, plainRec⟩)] }
     v.counters.find 3 = some ⟨2, 1, plainRec⟩ ∧ (2 : Int) + -1 ≠ 0 ∧ (2 : Int) + -2 = 0 ∧ (2 : Int) + -3 < 0) ∧
    (5 : Word).toNat / 2 ^ 43 = 0 ∧ u.tensors.find 5 = none ∧ depTiles u rec0 = some [] ∧ u.freeDep = some 0 ∧
    (let t : DepTile := ⟨5, 0, 0, 0, 4, 4, true⟩
     let v : TaskUnit := { u with depSeq := 1, deps := [(0, ⟨0, 1, [t], none⟩)] }
     (∀ y ∈ v.deps, y.2.seq < v.depSeq ∧ (y.2.held = none ∨ v.waits y.2 = true)) ∧ (∃ y ∈ v.deps, tilesConflict y.2.tiles [t] = true) ∧
       ¬∃ y ∈ v.deps, tilesConflict y.2.tiles [] = true) ∧
    (let v : TaskUnit := { u with cmds := [unitCmd (.enq 1 rec0) true] }
     v.cmds[0]? = some (unitCmd (.enq 1 rec0) true) ∧ (1 : Nat) / 128 = 0 ∧ ((at0 v (st [])).queue 1).ctl.getLsbD 14 = true) := by decide

theorem witness_QueueOperationsOfQsel :
    let ports (ring wd : Word) (s : State) : State := my s fun x => { x with ports := { x.ports with qring := ring, qwdog := wd } }
    let s := ports 0xFFF0000000000000 0x000300020001 (st [])
    let t : State := { s with dies := [(0, { Die.initial 0 with tlb := [⟨0, 0xFFF0000000000000, 1, 0x100EF, 0, 0⟩] })] }
    (t.queue 1).slots = [] ∧ 0xFFF0000000000000 / 2 ^ 52 = 0xFFF ∧ 0xFFF0000000000000 / 2 ^ 50 % 4 = 1 / 256 ∧
    (t.translate 0 0xFFF0000000000000 .write .s true).1 = .ok 0x10000 ∧
    t.me.ports.qwdog.toNat % 65536 = 1 ∧ coreExists 0 = true ∧ coreExists 2047 = false ∧
    (queues (queue1 [.tomb]) s).me.ports.qring ≠ (queue1 [.tomb]).ring := by decide

theorem witness_RecordsAreServedAndWatched :
    let s := st []
    s.ready ⟨h0, [], none⟩ = true ∧ s.me.anyPending = false ∧ (pending s).me.anyPending = true ∧ s.me.record = none ∧ s.drained = true ∧
    (my s fun x => { x with record := some ⟨1, 1, 0, none, 0, 0⟩ }).me.record = some ⟨1, 1, 0, none, 0, 0⟩ ∧
    (s.disp 0).held = none ∧ (s.disp 0).waiting = [] ∧
    (let q : Queue := { queue1 [.record plainRec] with ctl := 0xE000 }
     let t := (queues q s).setDisp 0 ⟨[0], none, []⟩
     (t.disp 0).waiting ≠ [] ∧ t.nextRecord 0 = some (1, q, plainRec) ∧ rings t q plainRec.bytes = true) ∧
    (let held : Taken := ⟨1, plainRec, 0, none, none⟩
     let t := s.setDisp 0 ⟨[0], some held, []⟩
     (t.disp 0).held = some held ∧ (t.disp 0).waiting = [] ++ 0 :: [] ∧ (t.core (coreOf 0)).fenced = false ∧ t.hotCore (coreOf 0) = false ∧
       t.clock.time < held.since + 4000 ∧ held.since + 4000 ≤ ({ t with clock := { t.clock with time := 4000 } } : State).clock.time ∧
       ((core0 t fun c => { c with fenced := true }).core (coreOf 0)).fenced = true) ∧
    s.unsent 0 = false := by decide

theorem witness_WatchdogStages :
    let x : Record := ⟨1, 1, 0, none, 0, 0⟩
    let s : State := { queues { queue1 [] with wdog := 0x000300020001 } (my (st []) fun y => { y with record := some x }) with
      clock := { (st []).clock with time := 1000 } }
    (s.slot 0).record = some x ∧ x.tag.toNat % 1024 = 1 ∧ (s.queue 1).wdog.toNat % 65536 = 1 ∧ x.stages < 1 ∧ x.since + 1000 * 1 ≤ s.clock.time ∧
    x.since + 1000 * 2 > s.clock.time ∧ ((st []).slot 0).record = none ∧
    (let y : Record := { x with stages := 1 }; y.stages < 2 ∧ y.since + 1000 * 2 ≤ 2000) := by decide

/-- The strand is a member of domain 0x42 at an even number of levels. -/
def member (level : Nat) (s : State) : State :=
  my s fun x => { x with ctl := { x.ctl with dmem := BitVec.ofNat 64 (2 + 0x42 * 2 ^ 24 + level * 2 ^ 40) } }

theorem witness_DomainFormsContributeAndTakeResults :
    let s := st [(4, 9)]
    let told (w : Word) (fault : Bool) : State := my (member 2 s) fun x => { x with domain := { x.domain with result := some (w, fault, 5) } }
    s.ready ⟨h0, [], none⟩ = true ∧ s.ready (unShape ⟨h0, 3, r 4⟩) = true ∧ s.me.inTree = false ∧ s.sending = false ∧ s.drained = true ∧
    (member 2 s).me.inTree = true ∧ (member 2 s).heard 0 = none ∧ (member 2 s).me.domain.sent = none ∧
    (told 7 false).heard 0 = some (7, false, 5) ∧ (told 7 true).heard 0 = some (7, true, 5) ∧ (told 7 false).writable .g 3 = true ∧
    (my (member 2 s) fun x => { x with domain := { x.domain with sent := some (3, 0) } }).me.domain.sent = some (3, 0) ∧
    (exchanging s).me.ctl.dmem.getLsbD 44 = true ∧ (member 6 s).me.ctl.dmem.toNat / 2 ^ 40 % 8 = 6 ∧ s.writable .g 3 = true ∧
    s.unsent 0 = false := by decide

/-- The entry of domain 0x42 at router 0, a root of one local member, with the contribution of strand 0. -/
def root : TreeEntry := ⟨0x42, 3, 0xFFFF, 1, 0, 0, 0x78, 7, 0, [], [], []⟩
def contribution : Contrib := ⟨0x42, 3, .vote, .or, 5, 5, [], false, false, 0⟩
def treed (e : TreeEntry) (body : MeshBody) : State :=
  let s := member 2 (st [])
  { s.setDie 0 { s.die 0 with tree := [(2, e)] } with mesh := [⟨0, 0, 0, 0, 0, body⟩] }

theorem witness_TheTreeCombinesAndDelivers :
    let s := treed root (.contrib contribution)
    s.mesh[0]? = some ⟨0, 0, 0, 0, 0, .contrib contribution⟩ ∧ s.mesh[1]? = none ∧ (⟨0, 0, 0, 0, 0, .contrib contribution⟩ : MeshMsg).arrived = true ∧
    (⟨0, 0, 9, 1, 3, .contrib contribution⟩ : MeshMsg).arrived = false ∧ s.mayMove 0 ⟨0, 0, 0, 0, 0, .contrib contribution⟩ = true ∧
    s.linkFree ⟨0, 0, 0, 0, 0, .contrib contribution⟩ = true ∧
    s.entryOf 0 0 0x42 = some (2, root) ∧ s.entryOf 0 0 0x43 = none ∧
    ({ root with got := [contribution] } : TreeEntry).complete = true ∧ ({ root with loc := 2, got := [contribution] } : TreeEntry).complete = false ∧
    Contrib.mergeAll ({ root with got := [contribution] } : TreeEntry).now = some contribution ∧ root.parent = 0xFFFF ∧
    contribution.bad = false ∧ contribution.kind = .vote ∧
    (let e : TreeEntry := { root with retired := 1 }; e.loc ≤ e.retired ∧ e.child ≤ e.doneChildren) ∧
    root.retired < root.loc ∧ root.complete = false ∧
    (treed root (.result 0x42 3 5 false 0 [])).mesh[0]? = some ⟨0, 0, 0, 0, 0, .result 0x42 3 5 false 0 []⟩ ∧
    (treed root (.done 0x42 false 0)).mesh[0]? = some ⟨0, 0, 0, 0, 0, .done 0x42 false 0⟩ ∧
    (0 : Nat) / 512 = 0 ∧ (∀ y, s.entryOf 0 1 0x42 = some y → y.2.loc = 0) := by decide

/-- A parent of this package, whose number is a free constant, and one of another. -/
theorem witness_TreeParent : isForeign (placeNo 1 5) = false ∧ placeNo 1 5 % 64 = 5 ∧ isForeign ((Config.package % 256 + 1) % 256 * 256) = true := by
  simp only [isForeign, placeNo, bne_eq_false_iff_eq, bne_iff_ne, ne_eq]
  omega

/-- Leaf entries at 0x3000 and 0x3008 that name the frames 0x10000 and 0x20000, and one exchange of die 0. -/
def swapping (begun : Bool) : State :=
  let s := st []
  { s.setDie 0 { s.die 0 with swaps := [⟨0, 0x3000, 0x3008, 0, begun⟩] } with mem := [(0x3002, 1), (0x300A, 2), (0x10040, 0x7F)] }

theorem witness_SwapsExchangeFramesAndLinesFill :
    let s := swapping true
    s.memoriesOk = true ∧ s.me.ports.swcmd.getLsbD 3 = false ∧ (s.die 0).swaps[0]? = some ⟨0, 0x3000, 0x3008, 0, true⟩ ∧ (s.die 0).swaps[1]? = none ∧
    pteFrame (s.read8 0x3000) = 0x10000 ∧ pteFrame (s.read8 0x3008) = 0x20000 ∧ s.frameBusy 0x10000 = false ∧ 0x3000 + 8 ≤ 0x3008 ∧
    0x3000 + 8 ≤ 0x10000 ∧ 0x3008 + 8 ≤ 0x10000 ∧ (∀ c ∈ s.cores, ∀ l ∈ c.2.dcache, l.pa / 65536 ≠ 1) ∧
    sidExists 0 = true ∧ sidExists 0xFFFF = false ∧ canonical 0x1000 = true ∧ supervisor 0x1000 = false ∧ (s.core 0).icache = [] ∧
    (let t : State := { st [] with mem := [] }
     (t.translate 0 0x1000 .fetch .u true).1 = .ok 0x11000 ∧
       t.physPoisoned ((List.range 64).map (0x11000 + ·)) = false ∧ lineParityOk (lineOfBytes (((List.range 64).map (0x11000 + ·)).map t.mem.read)) = true ∧
       lineParityOk 1 = false ∧ (t.core 0).glitch = false ∧ (t.slot 0).phase = .ready ∧ (t.slot 0).pc &&& ~~~63 = (0x1000 : Word) ∧
       (t.slot 0).sched.vecFetch = false ∧ (t.slot 0).rep.mode = .off) := by decide

theorem witness_TimeSelectorAndClockEvents :
    let s := st []
    (∃ k, k < slotCount 0 ∧ (s.slot (8 * 0 + k)).phase = .ready) ∧ (∀ k, k < slotCount 1 → (s.slot (8 * 1 + k)).phase ≠ .ready) ∧
    (s.core 1).copyq = [] ∧ (s.core 1).tileq = [] ∧ isCompute 0 = true ∧ isCompute 15 = false ∧
    isManagement 15 = true ∧ isManagement 0 = false := by decide

/-- TIME passes as asked inside a window, and stops at the next window start, where its lines of the last window but one go. -/
theorem witness_TimePasses :
    (st []).clock.time = 0 ∧ (st []).clock.k = 10 ∧ (st []).clock.pendingK = none ∧ ((st []).core 0).sb = [] ∧ (st []).host.sessions = [] ∧
    (match (st []).takeTurn exec (.tickTime 1023) with
      | .next t => t.clock.time == 1023
      | _ => false) = true ∧
    (match (st []).takeTurn exec (.tickTime 5000) with
      | .next t => t.clock.time == 1024
      | _ => false) = true := by decide

/-- Session 3 with one message received, and HELLO message bytes. -/
def session (rx : List Kht) : Session := ⟨0x102, rx.length, 0, rx, [], [], false, [], none, 0⟩
def hosted (x : Session) : State := (st []).putSession 3 x
def message (ty : Nat) (payload : List Byte) : Kht := ⟨ty, 0, 3, 0, 0, 0, 0x102, payload⟩

/-- The token has arrived at die `d`. -/
def tokenAt (d : Nat) : State := { st [] with mesh := [⟨0x1000, d, 40, d, 40, .token⟩] }

theorem witness_TokenKeepsTheBudget :
    (tokenAt 1).mesh[0]? = some ⟨0x1000, 1, 40, 1, 40, .token⟩ ∧
    (⟨0x1000, 1, 40, 1, 40, .token⟩ : MeshMsg).arrived = true ∧ (tokenAt 1).mayMove 0 ⟨0x1000, 1, 40, 1, 40, .token⟩ = true ∧
    ((tokenAt 1).die 1).absent = false ∧ (tokenAt 2).mesh.all (fun m => m.die != 1) = true ∧ ((tokenAt 1).setDie 1 { (tokenAt 1).die 1 with absent := true }).mesh = (tokenAt 1).mesh ∧
    (((tokenAt 1).setDie 1 { (tokenAt 1).die 1 with absent := true }).die 1).absent = true := by
  decide

theorem witness_HostMessagesArePerformed :
    let zeros (n : Nat) : List Byte := List.replicate n 0
    (hosted (session [])).host.sessions.find 3 = some (session []) ∧ (st []).host.sessions.find 3 = none ∧ (st []).host.hellos[0]? = none ∧
    seqBefore 0 1 = true ∧ seqBefore 0 0 = false ∧ seqBefore 0xFFFFFFFF 0 = true ∧
    (numAt ([1, 0, 1, 2] : List Byte) 0 1 * 256 + numAt ([1, 0, 1, 2] : List Byte) 1 1 = 0x100) ∧
    ((hosted (session [message 0x10 (zeros 72)])).settled 3).readyMsg 3 0x10 = some (message 0x10 (zeros 72)) ∧
    zeroBytes (zeros 72) 2 8 = true ∧ (zeros 72).length = 8 + 64 * (((zeros 72).length - 8) / 64) ∧
    (((hosted (session [message 0x10 (zeros 72)])).settled 3).popRx 3).host.sessions.find 3 ≠ none ∧
    ((hosted (session [message 0x20 (zeros 17)])).settled 3).readyMsg 3 0x20 = some (message 0x20 (zeros 17)) ∧
    ((hosted (session [message 0x21 (zeros 17)])).settled 3).readyMsg 3 0x21 = some (message 0x21 (zeros 17)) ∧
    ((hosted (session [])).settled 3).readyMsg 3 0x10 = none ∧
    (let x : Session := { session [] with unacked := [⟨message 0x22 [], 0, 100⟩] }
     x.unacked = [] ++ ⟨message 0x22 [], 0, 100⟩ :: [] ∧ (0 : Nat) ≤ (hosted x).clock.time) ∧
    (hosted (session [])).clock.time < (session []).lastRx + 1000000000 ∧
    ((st []).die 0).absent = false ∧ (({ st [] with dies := [(0, { Die.initial 0 with absent := true })] } : State).die 0).absent = true := by decide

/-- A datagram of 32 bytes: ACK (TYPE 3) of session 3, version 1.2, with its checksum. -/
def datagram : List Byte :=
  let head : List Byte := [0x48, 0x4B, 1, 2, 3, 0, 0, 0, 3, 0, 0, 0, 0, 0, 0, 0, 0, 0, 0, 0, 0, 0, 0, 0, 0, 0, 0, 0]
  head ++ toBytes 4 (crc32 (head ++ toBytes 4 0))

theorem witness_HostDatagram : khtParse datagram = some ⟨3, 0, 3, 0, 0, 0, 0x102, []⟩ := by decide

/-- An image message on the way from core 15 to core 31, of role 0 of boot 4, has arrived; the boot's other edges and starts as given. -/
def booting (starts : List (Nat × Nat)) (image : List Byte) (scratched : Bool) : State :=
  let s : State := { st [] with mesh := [⟨15, dieOf (8 * 31), routerOf (8 * 31), dieOf (8 * 31), routerOf (8 * 31), .image 4 15 31 0 true⟩] }
  { s with host := { s.host with boots := [⟨4, image, 3, [], [(15, 31, 0)], [(15, 0)], starts, false, scratched⟩] } }

theorem witness_ImagesLoadStartAndLinksTrain :
    let m := message 0x30 (List.replicate 16 0)
    let x := session [m]
    let image : List Byte := List.replicate 64 0
    ((hosted x).settled 3).readyMsg 3 0x30 = some m ∧ ((hosted x).settled 3).host.sessions.find 3 = some x ∧ ¬m.payload.length < 16 ∧
    zeroBytes m.payload 1 8 = true ∧ numAt m.payload 8 8 = ([] : List Byte).length ∧ negotiate image = .error 1 ∧
    (let s := booting [] image false
     (match s.mesh[0]? with
       | some m => m.arrived && s.mayMove 0 m
       | none => false) = true ∧ s.mesh[1]? = none ∧ s.boot 4 = some ⟨4, image, 3, [], [(15, 31, 0)], [(15, 0)], [], false, false⟩) ∧
    (let b : Boot := ⟨4, image, 3, [], [], [(15, 0)], [(15, 0)], false, true⟩
     let s : State := { st [] with host := { (st []).host with boots := [b] } }
     s.host.boots.find? (fun b => b.edges.isEmpty && b.sent.isEmpty && b.starts.any fun x => x.1 == 15) = some b ∧
       b.starts.find? (fun y => y.1 == 15) = some (15, 0) ∧
       (s.startStatus (BitVec.ofNat 64 121) (BitVec.ofNat 64 (Image.entry image 0 0)) (Image.startBlock image 0)).isSome = true) ∧
    (let y := { (st []).die 0 with ports := [(2, ⟨4, 1, [], [], []⟩)] }
     (((st []).setDie 0 y).die 0).ports.find 2 = some ⟨4, 1, [], [], []⟩) ∧ ((st []).die 0).ports.find 2 = none := by decide

theorem witness_EncodingsAndInstructionsAgree :
    (Instr.add ⟨⟨0, 8 + 7⟩, 31, ⟨31, true⟩, .lit (BitVec.allOnes 64)⟩).wf = true ∧
    (Instr.add ⟨⟨0, 8 + 7⟩, 31, ⟨31, true⟩, .lit (BitVec.allOnes 64)⟩).hdr?.isSome = true ∧ Instr.nop.wf = true ∧
    (match decode 0x010200106090000000000064 0 with
      | .ok i => decide (i = .add ⟨⟨0, 2⟩, 3, ⟨4, true⟩, .imm 100⟩)
      | .error _ => false) = true := by decide

theorem witness_EveryStepKeepsMemoriesCanonical :
    State.reset.memoriesOk = true ∧ (st []).memoriesOk = true ∧
    ({ st [] with mem := [(2, 1), (1, 1)] } : State).memoriesOk = false ∧ ({ st [] with mem := [(2, 0)] } : State).memoriesOk = false := by decide

theorem witness_StepRunsTheDecodedInstruction :
    let s := (State.reset.withFetchWord 96 0x010200106090000000000064)
    State.reset.agenda = [] ∧ s.agenda ≠ [] ∧ coreExists 15 = true ∧ coreExists 2047 = false ∧
    (match s.agenda with
      | t :: rest => decide (t = .cycle (coreOf s.cur)) && (let u : State := { s with agenda := rest }
          let s1 := (slotsOf (coreOf s.cur)).foldl State.boundary u
          let s2 := s1.beginCycle (coreOf s.cur)
          !(s1.core (coreOf s.cur)).issue.paused && (match s2.choose (coreOf s.cur) with
            | some ch => match ({ s2.account (coreOf s.cur) ch with cur := ch.1 } : State).nextIssue with
              | .issue i _ => decide (i = .add ⟨⟨0, 2⟩, 3, ⟨4, true⟩, .imm 100⟩)
              | .idle _ => false
            | none => false))
      | [] => false) = true ∧
    (let waits := two 0 [] .ready
     (waits.core 0).issue.paused = false ∧ waits.choose 0 ≠ none ∧ (two 0 [] .free).choose 1 = none ∧ (waits.slot 0).sched.waited = false ∧
       (my waits fun x => { x with sched := { x.sched with waited := true } }).me.sched.waited = true) := by decide

theorem witness_GuardedOffChangesOnlyMarksAndPc :
    (st []).me.steady = true ∧ (st []).me.guardedOff ⟨0, 8⟩ = true ∧ (Instr.add ⟨⟨0, 8⟩, 3, r 4, .imm 1⟩).hdr? = some ⟨0, 8⟩ ∧
    natField ((encode (.vadd ⟨⟨0, 8⟩, 0, 3, r 4, .imm 1⟩)).headD 0) 88 8 = 0x80 ∧
    (st []).me.regs.validP (guardReg ⟨0, 8⟩) = true ∧ (st []).me.lanes ⟨0, 8⟩ = 0 := by decide

/-- The strand with a window open on g4 (prior 9, now 5) and `e` instructions left. -/
def opened (e : Nat) (seen : Bool) : State := my (st [(4, 5), (5, 1)]) fun x => { x with windows := [⟨.g, 4, e, seen, 9, true, [⟨.g, 5, 1, false⟩], some (.add ⟨h0, 4, r 5, .lit 4⟩), []⟩] }

/-- An invalid guard, an invalid source, and reads and writes inside a window. -/
theorem witness_MarksAndWindows :
    (let s := my (st []) fun x => { x with regs := { x.regs with pv := 0, gv := 0 } }
     s.me.regs.validP (guardReg ⟨0, 2⟩) = false ∧ (s.me.regs.peek .g 4).2 = false ∧ s.me.steady = true ∧ s.me.executes h0 = true ∧
     gives (.add ⟨⟨0, 2⟩, 3, r 4, .lit 1⟩) s (fun t => t.me.sTrap.cause == 5 && t.me.sTrap.tval == 0x784) = true ∧
     gives (.add ⟨h0, 3, r 4, .lit 1⟩) s (fun t => t.me.sTrap.cause == 5 && t.me.sTrap.tval == 0x108) = true ∧
     gives (.stl ⟨h0, 0, r 6, ⟨r 0, r 0, 0, 64⟩⟩) s (fun t => t.me.sTrap.tval == 0x00C) = true) ∧
    ((opened 3 true).me.regs.own .g 4 = true ∧ (opened 3 true).me.loops.depth = 0 ∧ (opened 3 true).me.boundTo .g 4 = none) ∧
    gives (.add ⟨h0, 3, r 4, .lit 1⟩) (opened 3 true) (fun t => t.me.regs.getG 3 == 6 && t.me.windows.length == 1) = true ∧
    gives (.add ⟨h0, 3, r 4, .lit 1⟩) (opened 1 true) (fun t => t.me.regs.getG 3 == 6 && t.me.windows.length == 0) = true ∧
    gives (.li ⟨h0, 5, 8⟩) (opened 3 false) (fun t => t.me.regs.getG 5 == 8 && t.me.windows.all fun w => w.srcs.all fun x => x.hit) = true := by decide

theorem witness_PrivilegedFormsTrapInU :
    (st []).me.mode = .u ∧ (st []).me.windows = [] ∧ (st []).me.executes h0 = true ∧ (Instr.eret ⟨h0⟩).hdr? = some h0 := by decide

theorem witness_ModeChangesOnlyByTrapAndEret :
    (st []).me.phase = .ready ∧ (Instr.ecall ⟨h0, 0⟩).hdr?.isSome = true ∧
    (match exec (.ecall ⟨h0, 0⟩) (st []) with
      | .next t => decide ((t.slot 0).phase ≠ .free) && decide ((t.slot 0).mode ≠ (st []).me.mode)
      | _ => false) = true := by decide

end Sys2Proof.Tests
end

/-! ## The turn of a core: choice, fetch, decoding and pairs (R20, R25, R27, R85 to R93, R111) -/

namespace Sys2Proof.Machine

/-! ### The choice of a cycle -/

theorem issueOne_paused (run : Instr → State → Out) (core n : Nat) {s : State} (h : (s.core core).issue.paused = true) :
    State.issueOne run core (n + 1) s = .next s := by
  simp [State.issueOne, State.chosen, State.restCycle, h]

theorem issueOne_none (run : Instr → State → Out) (core n : Nat) {s : State} (h : (s.core core).issue.paused = false)
    (hc : s.choose core = none) :
    State.issueOne run core (n + 1) s = .next ((slotsOf core).foldl (fun t sid => t.ageSlot none sid) s) := by
  simp [State.issueOne, State.chosen, State.restCycle, State.ageAll, h, hc]

theorem issueOne_idle (run : Instr → State → Out) (core n : Nat) {s t : State} {ch : Nat × Nat}
    (h : (s.core core).issue.paused = false) (hc : s.choose core = some ch) (hp : s.prepare core ch = .idle t) :
    State.issueOne run core (n + 1) s =
      if t.holding ch.1 = true ∨ t.slipped s ch.1 = true then State.issueOne run core n (State.settle run s ch.1) else .next t := by
  simp [State.issueOne, State.chosen, h, hc, hp]

theorem issueOne_issue (run : Instr → State → Out) (core n : Nat) {s s2 t : State} {ch : Nat × Nat} {i : Instr}
    (h : (s.core core).issue.paused = false) (hc : s.choose core = some ch) (hp : s.prepare core ch = .issue i s2)
    (hr : run i s2 = .next t) :
    State.issueOne run core (n + 1) s =
      if (State.issued run i s2 t).holding ch.1 = true then State.issueOne run core n (State.settle run s ch.1)
      else .next (State.second run s2 (State.issued run i s2 t)) := by
  simp [State.issueOne, State.chosen, h, hc, hp, hr]

/-! ### The second of a pair -/

theorem second_idle (run : Instr → State → Out) {s t v : State} (h : s.pairOf t = .idle v) : State.second run s t = v := by
  simp [State.second, h]

theorem second_issue (run : Instr → State → Out) {s t v w : State} {j : Instr} (h : s.pairOf t = .issue j v)
    (hr : run j v = .next w) :
    State.second run s t =
      if (State.issued run j v w).holding (State.issued run j v w).cur = true then t else State.issued run j v w := by
  simp [State.second, Prepared.run, h, hr]

/-- A slot that issues holds a word that the core decodes. -/
theorem issueBits_issue {s v : State} {w lit : SlotBits} {j : Instr} (h : s.issueBits w lit = .issue j v) :
    v = s ∧ decodeOn (coreOf s.cur) w lit = .ok j := by
  unfold State.issueBits at h
  split at h
  · rename_i hd
    simp only [Prepared.issue.injEq] at h
    exact ⟨h.2.symm, by rw [hd, h.1]⟩
  · cases h

/-- When a second instruction issues: behind the pair bit in the same line, outside a repetition, not behind LEND (R27, R147). -/
theorem pairOf_issue {s t v : State} {j : Instr} (h : s.pairOf t = .issue j v) :
    linePair s.line (slotOf s.me.pc) = true ∧ s.me.rep.mode = .off ∧ s.me.loops.endsAt s.me.pc = false ∧ t.me.phase = .ready ∧
      t.me.sched.vecFetch = false ∧ t.me.pc = (lineOf s.me.pc ||| BitVec.ofNat 64 (slotOf s.me.pc + 1)) ∧
      v = { t with tick := t.tick + 1 } ∧
      decodeOn (coreOf t.cur) (lineSlot s.line (slotOf s.me.pc + 1)) (literalAt s.line (slotOf s.me.pc + 1)) = .ok j := by
  unfold State.pairOf at h
  dsimp only at h
  split at h
  · rename_i hc
    obtain ⟨hrep, hend, hready, -, hvec, hpc, hpair, -, -⟩ := hc
    split at h
    · obtain ⟨hv, hd⟩ := issueBits_issue h
      exact ⟨hpair, hrep, hend, hready, hvec, hpc, hv, hd⟩
    · cases h
  · cases h

/-! ### A strand before the choice -/

theorem complete_of_not_ready (run : Instr → State → Out) {s : State} {sid : Nat} (h : (s.slot sid).phase ≠ .ready) :
    s.complete run sid = s := by
  simp [State.complete, State.isReady, h]

theorem complete_of_fresh (run : Instr → State → Out) {s : State} {sid : Nat} (hw : (s.slot sid).sched.waited = false)
    (hr : (s.slot sid).sched.redo = false) : s.complete run sid = s := by
  simp [State.complete, hw, hr]

theorem complete_issue (run : Instr → State → Out) {s t u : State} {sid : Nat} {i : Instr} (h : (s.slot sid).phase = .ready)
    (hq : (s.slot sid).sched.waited = true ∨ (s.slot sid).sched.redo = true)
    (hn : State.nextIssue { s with cur := sid } = .issue i t) (hr : run i t = .next u) :
    s.complete run sid = ((State.issued run i t u).aside s).modSlot sid fun x =>
      { x with sched := { x.sched with waited := false, redo := false, was := .none } } := by
  simp [State.complete, State.isReady, h, hq, hn, Prepared.run, hr]

theorem hold_of_not_ready (run : Instr → State → Out) {s : State} {sid : Nat} (n : Nat) (h : (s.slot sid).phase ≠ .ready) :
    State.hold run sid n s = s := by
  cases n <;> simp [State.hold, State.isReady, h]

theorem hold_issue (run : Instr → State → Out) {s t u : State} {sid : Nat} {i : Instr} (n : Nat) (h : (s.slot sid).phase = .ready)
    (hn : State.nextIssue { s with cur := sid } = .issue i t) (hr : run i t = .next u) :
    State.hold run sid (n + 1) s = if u.holding sid = true then u.aside s else s := by
  simp [State.hold, State.isReady, h, hn, hr]

theorem hold_idle_holding (run : Instr → State → Out) {s t : State} {sid : Nat} (n : Nat) (h : (s.slot sid).phase = .ready)
    (hn : State.nextIssue { s with cur := sid } = .idle t) (hh : t.holding sid = true) :
    State.hold run sid (n + 1) s = t.aside s := by
  simp [State.hold, State.isReady, h, hn, hh]

/-! ### From the pc to an instruction -/

theorem nextIssue_beyond {s : State} (h : s.me.sched.beyond = true) :
    s.nextIssue = .idle (s.fetchTrap { cause := cNoncanon, tval := 0 }) := by
  simp [State.nextIssue, h]

theorem nextIssue_running {s : State} {w lit : SlotBits} (hb : s.me.sched.beyond = false) (hm : s.me.rep.mode = .running)
    (hc : s.me.rep.current = some (w, lit)) : s.nextIssue = s.issueBits w lit := by
  simp [State.nextIssue, hb, hm, hc]

theorem nextIssue_trap {s t : State} {tr : Trap} (hb : s.me.sched.beyond = false) (hm : s.me.rep.mode = .off)
    (hf : s.fetch s.cur s.me.pc = (.trap tr, t)) : s.nextIssue = .idle (t.fetchTrap tr) := by
  simp [State.nextIssue, hb, hm, hf]

theorem nextIssue_line {s t : State} {b : BitVec 512} (hb : s.me.sched.beyond = false) (hm : s.me.rep.mode = .off)
    (hf : s.fetch s.cur s.me.pc = (.line b, t)) : s.nextIssue = t.issueLine b := by
  simp [State.nextIssue, hb, hm, hf]

theorem fetchTrap_ordinary {s : State} (t : Trap) (h : s.me.sched.vecFetch = false) : s.fetchTrap t = takeTrap t s := by
  simp [State.fetchTrap, h]

theorem fetchTrap_vector {s : State} (t : Trap) (h : s.me.sched.vecFetch = true) (hm : s.me.mode = .s) :
    s.fetchTrap t = takeTrap { cause := cMachine, tval := s.me.pc, xinfo := t.xinfo } s := by
  simp [State.fetchTrap, h, hm]

/-- The state in which a strand holds the line it has fetched. -/
def State.holdsLine (s : State) (line : BitVec 512) : State :=
  { s.setMe { s.me with sched := { s.me.sched with vecFetch := false, checked := false } } with line := line }

theorem issueLine_entry {s : State} {line : BitVec 512} (hc : s.me.sched.checked = true) (hm : lineTmask line (slotOf s.me.pc) = false) :
    s.issueLine line = .idle (takeTrap { cause := cIllegalTarget, tval := s.me.pc } (s.holdsLine line)) := by
  simp [State.issueLine, State.holdsLine, hc, hm]

/-- The pc is no entry point to check, or one that its line allows (R91). -/
theorem entry_passed {s : State} {line : BitVec 512} (h : s.me.sched.checked = false ∨ lineTmask line (slotOf s.me.pc) = true) :
    (s.me.sched.checked && !lineTmask line (slotOf s.me.pc)) = false := by
  rcases h with h | h <;> simp [h]

theorem issueLine_fault {s : State} {line : BitVec 512} {sub : Nat}
    (h : s.me.sched.checked = false ∨ lineTmask line (slotOf s.me.pc) = true) (hl : lineFault line = some sub) :
    s.issueLine line = .idle (takeTrap { cause := cReservedField, tval := lineOf s.me.pc ||| word sub } (s.holdsLine line)) := by
  simp [State.issueLine, State.holdsLine, entry_passed h, hl]

/-- A pc past the last occupied slot goes on to the next line (R89, R93). -/
theorem issueLine_vacant {s : State} {line : BitVec 512} (h : s.me.sched.checked = false ∨ lineTmask line (slotOf s.me.pc) = true)
    (hl : lineFault line = none) (hk : firstSlot line (slotOf s.me.pc) = none) :
    s.issueLine line = .idle ((s.holdsLine line).setMe { (s.holdsLine line).me with
      pc := lineOf s.me.pc + 64
      sched := { (s.holdsLine line).me.sched with beyond := lineOf s.me.pc + 64 == 0 } }) := by
  simp only [State.issueLine, entry_passed h, hl, hk, Bool.false_eq_true, if_false, State.holdsLine]

/-- A pc at an occupied slot issues what stands there. -/
theorem issueLine_slot {s : State} {line : BitVec 512} (h : s.me.sched.checked = false ∨ lineTmask line (slotOf s.me.pc) = true)
    (hl : lineFault line = none) (hk : firstSlot line (slotOf s.me.pc) = some (slotOf s.me.pc))
    (hpc : lineOf s.me.pc ||| word (slotOf s.me.pc) = s.me.pc) :
    s.issueLine line = (s.holdsLine line).issueBits (lineSlot line (slotOf s.me.pc)) (literalAt line (slotOf s.me.pc)) := by
  simp [State.issueLine, State.holdsLine, entry_passed h, hl, hk, hpc]

theorem issued_noWindows (run : Instr → State → Out) (i : Instr) (s : State) {t : State} (h : t.me.windows = []) :
    State.issued run i s t = t.setMe { t.me with sched := if t.holding t.cur then t.me.sched else { t.me.sched with early := [] } } := by
  simp [State.issued, h]

theorem settle_of_not_ready {s : State} {sid : Nat} (h : (s.slot sid).phase ≠ .ready) : State.settle exec s sid = s := by
  rw [State.settle, complete_of_not_ready exec h, hold_of_not_ready exec 2 h]

/-- Settles O57: each clause is the equation of the operation of Machine/Issue.lean that it speaks of. -/
theorem stepRunsTheDecodedInstruction : Obligations.StepRunsTheDecodedInstruction := by
  unfold Obligations.StepRunsTheDecodedInstruction
  refine ⟨?agenda, ?free, fun _ _ => rfl, ?cycle, ?issues, ?settles, ?pair, fun i s t h => issued_noWindows exec i s h, ?fetches⟩
  case agenda =>
    intro s t rest h
    simp [step, State.nextTurn, h]
  case free =>
    intro s h
    simp [step, State.nextTurn, h]
  case cycle =>
    intro s core h
    simp [State.takeTurn, h, State.cycle, State.atCycle]
  case issues =>
    intro s core n issues again
    refine ⟨issueOne_paused exec core n, fun hp => ⟨issueOne_none exec core n hp, ?_⟩⟩
    intro ch hc s2
    refine ⟨fun t ht => issueOne_idle exec core n hp hc ht, ?_⟩
    intro i s3 t hn hr u
    have hi := issueOne_issue exec core n hp hc hn hr
    refine ⟨fun hh => hi.trans (if_pos hh), fun hh => ?_⟩
    have hs : issues = .next (State.second exec s3 u) := hi.trans (if_neg (by simp [u] at hh; simp [hh]))
    refine ⟨fun v hv => by rw [hs, second_idle exec hv], ?_⟩
    intro j v w hv hw x
    rw [hs, second_issue exec hv hw]
  case settles =>
    intro s sid q back
    refine ⟨settle_of_not_ready, fun h i t u hn hr => ⟨fun hw hd => ?_, ?_⟩, fun t h hw hd hn hh => ?_⟩
    · rw [State.settle, complete_of_fresh exec hw hd, hold_issue exec 1 h hn hr]
      rfl
    · intro hq v w hnr
      rw [State.settle, complete_issue exec h hq hn hr]
      exact hold_of_not_ready exec 2 hnr
    · rw [State.settle, complete_of_fresh exec hw hd, hold_idle_holding exec 1 h hn hh]
      rfl
  case pair =>
    intro s t x k j v h
    exact pairOf_issue h
  case fetches =>
    intro s x code
    refine ⟨fun hb hv => ?_, fun hb => ⟨fun w lit hm hc => nextIssue_running hb hm hc, fun hm => ⟨?_, ?_, ?_⟩⟩⟩
    · rw [nextIssue_beyond hb, fetchTrap_ordinary _ hv]
      rfl
    · intro tr t hf hv
      rw [nextIssue_trap hb hm hf, fetchTrap_ordinary tr hv]
    · intro tr t hf hv hs
      rw [nextIssue_trap hb hm hf, fetchTrap_vector tr hv hs]
      rfl
    · intro b t hf y u
      rw [nextIssue_line hb hm hf]
      refine ⟨fun hc ht => issueLine_entry hc ht, fun h => ⟨fun sub hl => ?_, fun hl hk => ?_, fun hl hk hpc => ?_⟩⟩
      · rw [issueLine_fault h hl]
        rfl
      · rw [issueLine_vacant h hl hk]
        rfl
      · rw [issueLine_slot h hl hk hpc.symm]
        rfl

end Sys2Proof.Machine

/-! ## A contribution and the read-ahead of streams (R198, R199, R241) -/

namespace Sys2Proof.Machine

/-- A member of a domain of two at LEVEL 1, READY, whose stream 0 has read one element ahead. -/
def readAheadMember : Slot :=
  { Slot.none with
    phase := .ready
    ctl := { Ctl.none with dmem := 0x0000010000000002 }
    streams := Slot.none.streams.set 0 { Stream.none with ahead := [(0, [1, 2, 3, 4, 5, 6, 7, 8])] } }

/-- The member as slot 0 of core 0, and no other strand. -/
def readAheadState : State := { State.reset with cur := 0, slots := [(0, readAheadMember)] }

/-- What stream 0 of the issuing strand has read ahead in the next state. -/
def readAheadAfter : Out → List (Nat × List Byte)
  | .next t => (t.me.stream 0).ahead
  | _ => []

/-- An instruction that ends unretired leaves what the streams have read ahead (R198). -/
theorem stream_unretired_ahead {s t : State} (k : Nat) (h : t.me.phase ≠ .free) :
    ((unretired s t).me.stream k).ahead = (s.me.stream k).ahead := by
  simp [unretired, h, Slot.unpopped, Slot.stream]

/-- The first `sync` of the member contributes: it ends unretired, and WAITING. -/
theorem sync_ends_unretired :
    ∃ t, exec (.sync ⟨⟨0, 0⟩⟩) readAheadState = .next (unretired readAheadState t) ∧ t.me.phase = .waiting .sync := ⟨_, rfl, by decide⟩

theorem sync_keeps_readAhead : readAheadAfter (exec (.sync ⟨⟨0, 0⟩⟩) readAheadState) = [(0, [1, 2, 3, 4, 5, 6, 7, 8])] := by
  obtain ⟨t, ht, hp⟩ := sync_ends_unretired
  rw [ht]
  exact (stream_unretired_ahead 0 (by simp [hp])).trans (by decide)

/-- Refutes O46: a `sync` that contributes ends unretired, which restores what the streams have read ahead (`unretired`, R198), while the statement
has it discarded in the WAITING strand. -/
theorem not_domainFormsContributeAndTakeResults : ¬ Obligations.DomainFormsContributeAndTakeResults := by
  unfold Obligations.DomainFormsContributeAndTakeResults
  intro h
  obtain ⟨hsync, -, -⟩ := h readAheadState
  have hs := hsync ⟨⟨0, 0⟩⟩ (by decide)
  rw [if_neg (by decide), show readAheadState.heard readAheadState.cur = none by decide] at hs
  dsimp only at hs
  rw [if_neg (by decide), if_neg (by decide), if_neg (by decide), if_neg (by decide)] at hs
  have hlost : readAheadAfter (exec (.sync ⟨⟨0, 0⟩⟩) readAheadState) = [] :=
    (congrArg readAheadAfter hs).trans (by simp [readAheadAfter, waitState, Slot.stream])
  rw [sync_keeps_readAhead] at hlost
  cases hlost

end Sys2Proof.Machine

/-! ## What the stores of one core leave alone (R256, R258, R264)

Stores that leave a core's buffer and its data cache move no clock, and take lines out of the data caches of other cores at most. -/

namespace Sys2Proof.Machine

/-- From `s` to `t` the clock stands, and every line of a data cache but that of `core` was there, or cannot leave (log 47). -/
structure State.Performs (core : Nat) (s t : State) : Prop where
  clock : t.clock = s.clock
  others : ∀ c, c ≠ core → ∀ l ∈ (t.core c).dcache, l ∈ (s.core c).dcache ∨ l.stuck = true

/-- The same of every core. -/
structure State.Trims (s t : State) : Prop where
  clock : t.clock = s.clock
  lines : ∀ c, ∀ l ∈ (t.core c).dcache, l ∈ (s.core c).dcache ∨ l.stuck = true

theorem State.Trims.performs {s t : State} (h : s.Trims t) (core : Nat) : s.Performs core t := ⟨h.clock, fun c _ => h.lines c⟩

theorem State.Performs.refl (core : Nat) (s : State) : s.Performs core s := ⟨rfl, fun _ _ _ h => .inl h⟩

theorem State.Performs.trans {core : Nat} {s t u : State} (h : s.Performs core t) (k : t.Performs core u) : s.Performs core u :=
  ⟨k.clock.trans h.clock, fun c hc l hl => (k.others c hc l hl).elim (h.others c hc l) .inr⟩

/-- A part of the state other than clock and cores changes. -/
theorem State.Performs.of_cores {core : Nat} {s t : State} (hk : t.clock = s.clock) (hc : t.cores = s.cores) : s.Performs core t :=
  ⟨hk, fun c _ l hl => .inl (by rwa [State.core, hc] at hl)⟩

theorem State.Performs.setCore (s : State) (core : Nat) (x : Core) : s.Performs core (s.setCore core x) :=
  ⟨rfl, fun c hc l hl => .inl (by rwa [State.core_setCore_ne s x hc] at hl)⟩

theorem State.Performs.foldl {α : Type} {core : Nat} {f : State → α → State} (h : ∀ (s : State) (x : α), s.Performs core (f s x))
    (xs : List α) (s : State) : s.Performs core (xs.foldl f s) := by
  induction xs generalizing s with
  | nil => exact .refl core s
  | cons x xs ih => exact (h s x).trans (ih (f s x))

/-! ### Messages and merged stores -/

@[simp] theorem State.sendMsg_clock (s : State) (die router sid kind : Nat) (payload : Word) :
    (s.sendMsg die router sid kind payload).clock = s.clock := by
  unfold State.sendMsg
  split <;> rfl
@[simp] theorem State.sendMsg_cores (s : State) (die router sid kind : Nat) (payload : Word) :
    (s.sendMsg die router sid kind payload).cores = s.cores := by
  unfold State.sendMsg
  split <;> rfl

theorem State.performs_sendLog (s : State) (core c sid idx cause reason : Nat) : s.Performs core (s.sendLog c sid idx cause reason) :=
  .of_cores (s.sendMsg_clock ..) (s.sendMsg_cores ..)
@[simp] theorem State.core_sendLog (s : State) (c sid idx cause reason k : Nat) : (s.sendLog c sid idx cause reason).core k = s.core k := by
  simp [State.core, State.sendLog]

theorem Core.logPut_dcache {c d : Core} {e : SbEntry} {reason idx : Nat} (h : c.logPut e reason = some (d, idx)) : d.dcache = c.dcache := by
  unfold Core.logPut at h
  dsimp only at h
  split at h <;> split at h <;> simp only [Option.some.injEq, Prod.mk.injEq, reduceCtorEq] at h <;> rw [← h.1]

theorem State.performs_logMerged (core : Nat) (x : DcLine) (s : State) (w : Nat × Nat × Nat × Mode) :
    s.Performs core (State.logMerged core x s w) := by
  unfold State.logMerged
  split
  · exact (State.Performs.setCore s core _).trans (State.performs_sendLog _ core ..)
  · exact .refl core s

/-- Merged stores of a line that enter the side log change the lines of its address alone. -/
theorem State.logMerged_lines (core : Nat) (x : DcLine) (s : State) (w : Nat × Nat × Nat × Mode) :
    ∀ l ∈ ((State.logMerged core x s w).core core).dcache, l ∈ (s.core core).dcache ∨ x.same l = true := by
  unfold State.logMerged
  split
  · rename_i c idx hput
    intro l hl
    simp only [State.core_sendLog, State.core_setCore_self, Core.logPut_dcache hput, List.mem_map] at hl
    obtain ⟨y, hy, rfl⟩ := hl
    by_cases hs : x.same y = true
    · rw [if_pos hs]
      exact .inr hs
    · rw [if_neg hs]
      exact .inl hy
  · exact fun l hl => .inl hl

theorem State.performs_flushLine (core : Nat) (s : State) (x : DcLine) : s.Performs core (State.flushLine core s x) := by
  unfold State.flushLine
  split
  · exact .refl core s
  · split
    · exact (State.Performs.of_cores rfl rfl : s.Performs core (s.storePhys _ _)).trans (.setCore _ core _)
    · exact .foldl (State.performs_logMerged core x) _ s

/-- A line sent home changes the lines of its address alone. -/
theorem State.flushLine_lines (core : Nat) (s : State) (x : DcLine) :
    ∀ l ∈ ((State.flushLine core s x).core core).dcache, l ∈ (s.core core).dcache ∨ x.same l = true := by
  unfold State.flushLine
  split
  · exact fun l hl => .inl hl
  · split
    · intro l hl
      simp only [State.core_setCore_self, Core.dcClean, List.mem_map] at hl
      obtain ⟨y, hy, rfl⟩ := hl
      by_cases hs : x.same y = true
      · rw [if_pos hs]
        exact .inr hs
      · rw [if_neg hs]
        exact .inl hy
    · generalize x.writers = ws
      induction ws generalizing s with
      | nil => exact fun l hl => .inl hl
      | cons w ws ih =>
        intro l hl
        exact (ih (State.logMerged core x s w) l hl).elim (State.logMerged_lines core x s w l) .inr

theorem DcLine.same_of_same {x y l : DcLine} (h : x.same y = true) (k : y.same l = true) : x.same l = true := by
  simp only [DcLine.same, Bool.and_eq_true, beq_iff_eq] at h k ⊢
  exact ⟨k.1.trans h.1, k.2.trans h.2⟩

theorem State.performs_evictLines (s : State) (core : Nat) (p : DcLine → Bool) : s.Performs core (s.evictLines core p) :=
  (State.Performs.foldl (State.performs_flushLine core) _ s).trans (.setCore _ core _)

/-- The lines of one address leave a data cache; what stays there is stuck. -/
theorem State.trims_evictLines (s : State) (core : Nat) (x : DcLine) : s.Trims (s.evictLines core x.same) := by
  have hother := s.performs_evictLines core x.same
  refine ⟨hother.clock, fun c l hl => ?_⟩
  by_cases hc : c = core
  · subst hc
    have hfold : ∀ (ys : List DcLine) (u : State), (∀ y ∈ ys, x.same y = true) →
        ∀ m ∈ ((ys.foldl (State.flushLine c) u).core c).dcache, m ∈ (u.core c).dcache ∨ x.same m = true := by
      intro ys
      induction ys with
      | nil => exact fun u _ m hm => .inl hm
      | cons y ys ih =>
        intro u hys m hm
        rcases ih (State.flushLine c u y) (fun z hz => hys z (List.mem_cons_of_mem _ hz)) m hm with h | h
        · exact (State.flushLine_lines c u y m h).imp id (DcLine.same_of_same (hys y List.mem_cons_self))
        · exact .inr h
    simp only [State.evictLines, State.core_setCore_self, Core.dcDrop, List.mem_filter, Bool.or_eq_true, Bool.not_eq_true'] at hl
    obtain ⟨hm, hp | hstuck⟩ := hl
    · rcases hfold _ s (fun y hy => (List.mem_filter.mp hy).2) l hm with h | h
      · exact .inl h
      · rw [h] at hp
        cases hp
    · exact .inr hstuck
  · exact hother.others c hc l hl

theorem State.trims_dropLineOf (s : State) (core asid ea : Nat) : s.Trims (s.dropLineOf core asid ea) := by
  unfold State.dropLineOf
  split
  · exact ⟨rfl, fun _ _ hl => .inl hl⟩
  · exact s.trims_evictLines core _

theorem State.performs_dcRoom (s : State) (core : Nat) : s.Performs core (s.dcRoom core) := by
  unfold State.dcRoom
  dsimp only
  split
  · exact .refl core s
  · split
    · exact (State.Performs.of_cores rfl rfl : s.Performs core { s with tick := s.tick + 1 }).trans (State.performs_evictLines _ core _)
    · exact .refl core s

theorem State.performs_writeThrough (s : State) (core : Nat) : s.Performs core (s.writeThrough core) :=
  .foldl (State.performs_flushLine core) _ s

/-! ### Translation -/

theorem State.performs_translate (core : Nat) {s t : State} {asid ea : Nat} {acc : Access} {mode : Mode} {useTlb : Bool} {x : Xlat}
    (h : s.translate asid ea acc mode useTlb = (x, t)) : s.Performs core t := by
  unfold State.translate at h
  dsimp only at h
  split at h
  · split at h <;> (cases h; exact .refl core s)
  · split at h
    · cases h
      exact .refl core s
    · cases h
      exact .refl core s
    · cases h
      refine .of_cores ?_ ?_
      · simp only [State.setDie_clock]
        split <;> rfl
      · simp only [State.setDie_cores]
        split <;> rfl

theorem State.performs_xlatBytes (core : Nat) {s t : State} {asid ea n : Nat} {acc : Access} {mode : Mode} {useTlb : Bool}
    {x : Except (Xlat × Nat) (List Nat)} (h : s.xlatBytes asid ea n acc mode useTlb = (x, t)) : s.Performs core t := by
  unfold State.xlatBytes at h
  split at h
  · rename_i h1
    have k1 := State.performs_translate core h1
    dsimp only at h
    split at h
    · cases h
      exact k1
    · split at h
      · rename_i h2
        cases h
        exact k1.trans (State.performs_translate core h2)
      · rename_i h2
        cases h
        exact k1.trans (State.performs_translate core h2)
  · rename_i h1
    cases h
    exact State.performs_translate core h1

/-! ### The store buffer -/

theorem State.performs_performHome (s : State) (core : Nat) (e : SbEntry) (pas : List Nat) : s.Performs core (s.performHome core e pas) := by
  unfold State.performHome
  have hdrop : ∀ (t : State) (c : Nat),
      t.Performs core ((t.dropLineOf c e.asid e.addr).dropLineOf c e.asid (e.addr + pas.length - 1)) := fun t c =>
    ((t.trims_dropLineOf c ..).performs core).trans ((State.trims_dropLineOf _ c ..).performs core)
  refine (State.Performs.foldl hdrop (s.strandCores core e) s).trans ?_
  dsimp only
  split <;> exact .of_cores rfl rfl

theorem State.performs_fillFor (s : State) (core asid va pa : Nat) : s.Performs core (s.fillFor core asid va pa) := by
  unfold State.fillFor
  dsimp only
  split
  · exact .refl core s
  · exact (s.performs_dcRoom core).trans (.setCore _ core _)

theorem State.performs_mergeStore (s : State) (core : Nat) (e : SbEntry) (pas : List Nat) : s.Performs core (s.mergeStore core e pas) :=
  (State.Performs.setCore s core _).trans (.of_cores rfl rfl)

/-- A store that may merge in the data cache of its core (R258). -/
theorem State.performs_merging (s : State) (core : Nat) (e : SbEntry) (pas : List Nat) (pa : Nat) :
    let s1 := if Config.freeBit s.tick then s.fillFor core e.asid (e.addr / 64 * 64) (pa / 64 * 64) else s
    s.Performs core ({ s1 with tick := s.tick + 1 }.mergeStore core e pas) := by
  intro s1
  have hfill : s.Performs core s1 := by
    unfold s1
    split
    · exact s.performs_fillFor core ..
    · exact .refl core s
  have htick : s1.Performs core { s1 with tick := s.tick + 1 } := .of_cores rfl rfl
  exact (hfill.trans htick).trans (State.performs_mergeStore _ core e pas)

theorem State.performs_performG (s : State) (core : Nat) (e : SbEntry) (pas : List Nat) : s.Performs core (s.performG core e pas) := by
  unfold State.performG
  split
  · exact s.performs_performHome core e pas
  · exact s.performs_performHome core e pas
  · exact s.performs_performHome core e pas
  · split
    · exact s.performs_performHome core e pas
    · exact s.performs_merging core e pas _

theorem State.performs_takeOut (s : State) (core k : Nat) (e : SbEntry) : s.Performs core (s.takeOut core k e).2 :=
  (State.Performs.of_cores rfl rfl : s.Performs core { s with tick := s.tick + 1 }).trans (.setCore _ core _)

theorem State.performs_drainOne (s : State) (core : Nat) : s.Performs core (s.drainOne core) := by
  unfold State.drainOne
  dsimp only
  split
  · exact .refl core s
  · rename_i k e _
    have hout := s.performs_takeOut core k e
    split
    · split
      · exact .refl core s
      · split
        · exact .setCore s core _
        · split
          · split
            · exact s.performs_writeThrough core
            · exact ((s.performs_writeThrough core).trans (.setCore _ core _)).trans (State.performs_performG _ core e _)
          · exact hout.trans (State.performs_performG _ core _ _)
    · split
      · exact .refl core s
      · split
        · exact .of_cores rfl rfl
        · exact hout.trans (.of_cores rfl rfl)

theorem State.performs_logStore (s : State) (core k : Nat) (e : SbEntry) (reason : Nat) : s.Performs core (s.logStore core k e reason) := by
  unfold State.logStore
  dsimp only
  split
  · exact .refl core s
  · exact (State.Performs.setCore s core _).trans (State.performs_sendLog _ core ..)

theorem State.performs_probeOne (s : State) (core : Nat) : s.Performs core (s.probeOne core) := by
  unfold State.probeOne
  dsimp only
  split
  · exact .refl core s
  · split
    · exact .setCore s core _
    · split
      · rename_i h
        exact (State.performs_xlatBytes core h).trans (.setCore _ core _)
      · rename_i h
        exact State.performs_xlatBytes core h
      · rename_i h
        exact (State.performs_xlatBytes core h).trans (State.performs_logStore _ core ..)
      · rename_i h
        exact State.performs_xlatBytes core h

theorem State.performs_drainAll (core n : Nat) (s : State) : s.Performs core (State.drainAll core n s) := by
  induction n generalizing s with
  | zero => exact .refl core s
  | succ n ih =>
    unfold State.drainAll
    split
    · exact .refl core s
    · exact ((s.performs_probeOne core).trans (State.performs_drainOne _ core)).trans (ih _)

theorem State.performs_windowBoundary (s : State) (core : Nat) : s.Performs core (s.windowBoundary core) :=
  ((State.performs_drainAll core _ s).trans (State.performs_writeThrough _ core)).trans (.setCore _ core _)

end Sys2Proof.Machine

/-! ## TIME passes (R262, R264, R267, R378) -/

namespace Sys2Proof.Machine

/-! ### Smallest of the bounds -/

/-- A fold that takes the smaller of the bounds of some elements does not fall below what bounds its start and every element. -/
theorem le_foldl_min {α : Type} (p : α → Prop) [DecidablePred p] (f : α → Nat) {b : Nat} (xs : List α) (m : Nat) (hm : b ≤ m)
    (h : ∀ x ∈ xs, p x → b ≤ f x) : b ≤ xs.foldl (fun m x => if p x then Nat.min m (f x) else m) m := by
  induction xs generalizing m with
  | nil => exact hm
  | cons x xs ih =>
    refine ih _ ?_ fun y hy => h y (List.mem_cons_of_mem x hy)
    dsimp only
    split
    · rename_i hx
      exact Nat.le_min.mpr ⟨hm, h x List.mem_cons_self hx⟩
    · exact hm

theorem State.le_untilSilent (s : State) {b ns : Nat} (hb : b ≤ ns)
    (h : ∀ x ∈ s.host.sessions, s.clock.time < x.2.lastRx + 1000000000 → s.clock.time + b ≤ x.2.lastRx + 1000000000) :
    b ≤ s.untilSilent ns :=
  le_foldl_min _ _ _ _ hb fun x hx hp => by have := h x hx hp; omega

/-! ### The parts of a move of TIME -/

/-- How far TIME goes in a move of `ns` at most. -/
def State.timeStep (s : State) (ns : Nat) : Nat :=
  let c := s.clock
  let toK := if c.pendingK.isSome then 4096 - c.time % 4096 else ns
  let toLoss := if c.lock ∧ c.time < c.lastSync + 10000000 then c.lastSync + 10000000 - c.time else ns
  Nat.min (Nat.min (Nat.min ns (2 ^ c.k - c.time % 2 ^ c.k)) (Nat.min toK toLoss)) (s.untilSilent ns)

/-- TIME `d` ns on, a window ended where it ends there. -/
def State.timeMoved (s : State) (d : Nat) : State :=
  if (s.clock.time + d) % 2 ^ s.clock.k = 0 then s.endWindow (s.clock.time + d)
  else { s with clock := { s.clock with time := s.clock.time + d } }

/-- Silent sessions end, a pending exponent takes effect, and the lock is lost, when they are due. -/
def State.timeDue (s : State) (pending : Bool) : State :=
  let s1 := (s.host.sessions.map (·.1)).foldl State.endSession s
  let s2 := if s1.clock.time % 4096 = 0 ∧ pending then s1.applyK else s1
  if s2.clock.lock then s2.loseLock else s2

/-- The start of a window at every core, where one starts. -/
def State.windowStarts (s : State) (w : Nat) : State :=
  if s.clock.time % w = 0 then (s.cores.map (·.1)).foldl State.windowBoundary s else s

theorem State.passTime_eq (s : State) (ns : Nat) : s.passTime ns =
    if s.timeStep ns = 0 then s
    else ((s.timeMoved (s.timeStep ns)).timeDue s.clock.pendingK.isSome).windowStarts (2 ^ s.clock.k) := rfl

theorem State.timeStep_le (s : State) (ns : Nat) : s.timeStep ns ≤ ns ∧ s.timeStep ns ≤ 2 ^ s.clock.k - s.clock.time % 2 ^ s.clock.k := by
  unfold State.timeStep
  simp only [Nat.min_def]
  split_ifs <;> omega

/-- TIME goes on as far as nothing is due before. -/
theorem State.le_timeStep (s : State) {b ns : Nat} (hns : b ≤ ns) (hw : b ≤ 2 ^ s.clock.k - s.clock.time % 2 ^ s.clock.k)
    (hk : s.clock.pendingK = none ∨ b ≤ 4096 - s.clock.time % 4096)
    (hl : s.clock.lock = false ∨ s.clock.lastSync + 10000000 ≤ s.clock.time ∨ s.clock.time + b ≤ s.clock.lastSync + 10000000)
    (hsess : ∀ x ∈ s.host.sessions, s.clock.time < x.2.lastRx + 1000000000 → s.clock.time + b ≤ x.2.lastRx + 1000000000) :
    b ≤ s.timeStep ns := by
  have hsilent := s.le_untilSilent hns hsess
  have htoK : b ≤ if s.clock.pendingK.isSome then 4096 - s.clock.time % 4096 else ns := by
    split
    · rename_i hsome
      rcases hk with hk | hk
      · simp [hk] at hsome
      · exact hk
    · exact hns
  have htoLoss : b ≤ if s.clock.lock ∧ s.clock.time < s.clock.lastSync + 10000000 then s.clock.lastSync + 10000000 - s.clock.time else ns := by
    split
    · rename_i hlock
      rcases hl with hl | hl | hl
      · simp [hl] at hlock
      · omega
      · omega
    · exact hns
  exact Nat.le_min.mpr ⟨Nat.le_min.mpr ⟨Nat.le_min.mpr ⟨hns, hw⟩, Nat.le_min.mpr ⟨htoK, htoLoss⟩⟩, hsilent⟩

/-- A move of at least 1 ns moves TIME (log 23). -/
theorem State.timeStep_pos (s : State) {ns : Nat} (h : 0 < ns) : 0 < s.timeStep ns := by
  have hw : s.clock.time % 2 ^ s.clock.k < 2 ^ s.clock.k := Nat.mod_lt _ (Nat.two_pow_pos _)
  have hk : s.clock.time % 4096 < 4096 := Nat.mod_lt _ (by decide)
  exact s.le_timeStep h (by omega) (.inr (by omega)) (by omega) fun x _ hx => by omega

/-! ### The clock in a move -/

theorem State.drainCores_clock (cores : List Nat) (n : Nat) (s : State) :
    (cores.foldl (fun t c => State.drainAll c n t) s).clock = s.clock := by
  induction cores generalizing s with
  | nil => rfl
  | cons c cores ih => exact (ih _).trans (State.performs_drainAll c n s).clock

/-- The end of a window moves TIME alone of the clock: to its end, or to 1 ns before it while a store of it has not performed. -/
theorem State.endWindow_clock (s : State) (now : Nat) :
    (s.endWindow now).clock = { s.clock with time := now } ∨ (s.endWindow now).clock = { s.clock with time := now - 1 } := by
  unfold State.endWindow
  dsimp only
  split
  · exact .inr (State.drainCores_clock _ _ _)
  · refine .inl ?_
    dsimp only
    rw [State.drainCores_clock]

theorem State.timeMoved_clock (s : State) (d : Nat) :
    (s.timeMoved d).clock = { s.clock with time := s.clock.time + d } ∨ (s.timeMoved d).clock = { s.clock with time := s.clock.time + d - 1 } := by
  unfold State.timeMoved
  split
  · exact s.endWindow_clock _
  · exact .inl rfl

theorem State.endSession_clock (s : State) (n : Nat) : (s.endSession n).clock = s.clock := by
  unfold State.endSession
  split
  · rfl
  · split <;> rfl

theorem State.endSessions_clock (ns : List Nat) (s : State) : (ns.foldl State.endSession s).clock = s.clock := by
  induction ns generalizing s with
  | nil => rfl
  | cons n ns ih => exact (ih _).trans (s.endSession_clock n)

theorem State.loseLock_keeps (s : State) :
    s.loseLock.clock.time = s.clock.time ∧ s.loseLock.clock.k = s.clock.k ∧ s.loseLock.clock.pendingK = s.clock.pendingK := by
  unfold State.loseLock
  split <;> exact ⟨rfl, rfl, rfl⟩

/-- What is due at an instant leaves TIME, and applies the exponent at a multiple of 4,096 ns (R378). -/
theorem State.timeDue_clock (s : State) (pending : Bool) :
    (s.timeDue pending).clock.time = s.clock.time ∧
    (s.timeDue pending).clock.k = (if s.clock.time % 4096 = 0 ∧ pending then s.clock.pendingK.getD s.clock.k else s.clock.k) ∧
    (s.timeDue pending).clock.pendingK = if s.clock.time % 4096 = 0 ∧ pending then none else s.clock.pendingK := by
  have h1 := State.endSessions_clock (s.host.sessions.map (·.1)) s
  unfold State.timeDue
  dsimp only
  rw [h1]
  generalize (s.host.sessions.map (·.1)).foldl State.endSession s = s1 at h1
  by_cases hk : s.clock.time % 4096 = 0 ∧ pending = true
  · simp only [if_pos hk]
    have hl := s1.applyK.loseLock_keeps
    split
    · simpa [State.applyK, h1] using hl
    · simp [State.applyK, h1]
  · simp only [if_neg hk]
    have hl := s1.loseLock_keeps
    split
    · simpa [h1] using hl
    · simp [h1]

theorem State.windowBoundaries_clock (cores : List Nat) (s : State) : (cores.foldl State.windowBoundary s).clock = s.clock := by
  induction cores generalizing s with
  | nil => rfl
  | cons c cores ih => exact (ih _).trans (s.performs_windowBoundary c).clock

theorem State.windowStarts_clock (s : State) (w : Nat) : (s.windowStarts w).clock = s.clock := by
  unfold State.windowStarts
  split
  · exact State.windowBoundaries_clock _ s
  · rfl

/-! ### The lines that a window start leaves (R264) -/

/-- The lines of a core's data cache were filled in the window before the one that starts `now`, or are stuck (log 47). -/
def State.Recent (s : State) (now w core : Nat) : Prop := ∀ l ∈ (s.core core).dcache, l.stuck = true ∨ now ≤ l.filled + w

theorem State.Recent.performs {s t : State} {now w c core : Nat} (h : s.Recent now w c) (hp : s.Performs core t) (hc : c ≠ core) :
    t.Recent now w c :=
  fun l hl => (hp.others c hc l hl).elim (h l) .inl

theorem State.recent_windowBoundary (s : State) (core : Nat) (h : s.clock.time % 2 ^ s.clock.k = 0) :
    (s.windowBoundary core).Recent s.clock.time (2 ^ s.clock.k) core := by
  intro l hl
  have hstart : s.clock.time / 2 ^ s.clock.k * 2 ^ s.clock.k = s.clock.time := Nat.div_mul_cancel (Nat.dvd_of_mod_eq_zero h)
  simp only [State.windowBoundary, State.core_setCore_self, Core.dcDrop, List.mem_filter, hstart, Bool.or_eq_true, Bool.not_eq_true',
    decide_eq_false_iff_not, Nat.not_lt] at hl
  exact hl.2.symm

theorem State.recent_windowBoundaries (cores : List Nat) (s : State) (h : s.clock.time % 2 ^ s.clock.k = 0) (core : Nat)
    (hc : core ∈ cores ∨ s.Recent s.clock.time (2 ^ s.clock.k) core) :
    (cores.foldl State.windowBoundary s).Recent s.clock.time (2 ^ s.clock.k) core := by
  induction cores generalizing s with
  | nil => simpa using hc
  | cons c cores ih =>
    have hclock := (s.performs_windowBoundary c).clock
    have hnext : core ∈ cores ∨ (s.windowBoundary c).Recent s.clock.time (2 ^ s.clock.k) core := by
      by_cases he : core = c
      · subst he
        exact .inr (s.recent_windowBoundary core h)
      · rcases hc with hc | hc
        · exact .inl ((List.mem_cons.mp hc).resolve_left he)
        · exact .inr (hc.performs (s.performs_windowBoundary c) he)
    have := ih (s.windowBoundary c) (by rw [hclock]; exact h) (by rw [hclock]; exact hnext)
    rwa [hclock] at this

/-- A core that the package does not list is as at reset. -/
theorem State.core_of_unlisted {s : State} {core : Nat} (h : core ∉ s.cores.map (·.1)) : s.core core = Core.initial core := by
  unfold State.core
  cases hf : s.cores.find core with
  | none => rfl
  | some x => exact absurd (List.mem_map_of_mem (f := (·.1)) (NMap.mem_of_find hf)) h

theorem State.recent_windowStarts (s : State) (h : s.clock.time % 2 ^ s.clock.k = 0) (core : Nat) :
    (s.windowStarts (2 ^ s.clock.k)).Recent s.clock.time (2 ^ s.clock.k) core := by
  unfold State.windowStarts
  rw [if_pos h]
  refine State.recent_windowBoundaries _ s h core ?_
  by_cases hc : core ∈ s.cores.map (·.1)
  · exact .inl hc
  · refine .inr fun l hl => ?_
    rw [State.core_of_unlisted hc] at hl
    cases hl

/-! ### What a turn of TIME does (log 23) -/

theorem State.passTime_clock {s : State} {ns : Nat} (h : s.timeStep ns ≠ 0) :
    (s.passTime ns).clock = ((s.timeMoved (s.timeStep ns)).timeDue s.clock.pendingK.isSome).clock := by
  rw [State.passTime_eq, if_neg h, State.windowStarts_clock]

theorem State.passTime_bounds (s : State) (ns : Nat) :
    s.clock.time ≤ (s.passTime ns).clock.time ∧ (s.passTime ns).clock.time ≤ s.clock.time + s.timeStep ns := by
  by_cases h : s.timeStep ns = 0
  · rw [State.passTime_eq, if_pos h]
    omega
  · rw [State.passTime_clock h, (State.timeDue_clock _ _).1]
    rcases s.timeMoved_clock (s.timeStep ns) with hm | hm <;> rw [hm] <;> dsimp only <;> omega

/-- No window ends later than the step of TIME reaches. -/
theorem State.time_add_timeStep_le (s : State) (ns : Nat) :
    s.clock.time + s.timeStep ns ≤ (s.clock.time / 2 ^ s.clock.k + 1) * 2 ^ s.clock.k := by
  have hstep := (s.timeStep_le ns).2
  have hdiv := Nat.div_add_mod s.clock.time (2 ^ s.clock.k)
  have hlt : s.clock.time % 2 ^ s.clock.k < 2 ^ s.clock.k := Nat.mod_lt _ (Nat.two_pow_pos _)
  rw [Nat.add_mul, Nat.one_mul, Nat.mul_comm (s.clock.time / 2 ^ s.clock.k)]
  omega

/-- Strictly between two multiples there is none. -/
theorem mod_ne_zero_of_between {a b w : Nat} (h1 : a < b) (h2 : b < (a / w + 1) * w) : b % w ≠ 0 := by
  intro h
  have hb : b / w * w = b := Nat.div_mul_cancel (Nat.dvd_of_mod_eq_zero h)
  have hle : b / w < a / w + 1 := Nat.div_lt_of_lt_mul (by rwa [Nat.mul_comm] at h2)
  have hge : a / w * w ≤ a := Nat.div_mul_le_self a w
  have : b / w * w ≤ a / w * w := Nat.mul_le_mul_right w (by omega)
  omega

theorem State.endSessions_open (ns : List Nat) (s : State) (h : ∀ x ∈ s.host.sessions, s.clock.time < x.2.lastRx + 1000000000) :
    ns.foldl State.endSession s = s := by
  induction ns with
  | nil => rfl
  | cons n ns ih =>
    have hn : s.endSession n = s := by
      unfold State.endSession
      split
      · rfl
      · rename_i x hx
        have hopen : s.clock.time < x.lastRx + 1000000000 := h _ (NMap.mem_of_find hx)
        rw [if_neg (by omega)]
    rw [List.foldl_cons, hn]
    exact ih

/-- With nothing due before, TIME alone changes. -/
theorem State.passTime_quiet {s : State} {ns : Nat} (hw : s.clock.time + ns < (s.clock.time / 2 ^ s.clock.k + 1) * 2 ^ s.clock.k)
    (hk : s.clock.pendingK = none ∨ s.clock.time + ns < (s.clock.time / 4096 + 1) * 4096)
    (hl : s.clock.lock = false ∨ s.clock.offset.natAbs ≤ 200 ∧ s.clock.time + ns < s.clock.lastSync + 10000000)
    (hsess : ∀ x ∈ s.host.sessions, s.clock.time + ns < x.2.lastRx + 1000000000) :
    s.passTime ns = { s with clock := { s.clock with time := s.clock.time + ns } } := by
  have hstep : s.timeStep ns = ns := by
    refine Nat.le_antisymm (s.timeStep_le ns).1 (s.le_timeStep (Nat.le_refl ns) ?_ ?_ ?_ ?_)
    · have hdiv := Nat.div_add_mod s.clock.time (2 ^ s.clock.k)
      rw [Nat.add_mul, Nat.one_mul, Nat.mul_comm (s.clock.time / 2 ^ s.clock.k)] at hw
      omega
    · rcases hk with hk | hk
      · exact .inl hk
      · exact .inr (by omega)
    · rcases hl with hl | hl
      · exact .inl hl
      · exact .inr (.inr (by omega))
    · exact fun x hx _ => by have := hsess x hx; omega
  rw [State.passTime_eq, hstep]
  by_cases h0 : ns = 0
  · rw [if_pos h0, h0]
    rfl
  · have hmod : (s.clock.time + ns) % 2 ^ s.clock.k ≠ 0 := mod_ne_zero_of_between (by omega) hw
    have hmoved : s.timeMoved ns = { s with clock := { s.clock with time := s.clock.time + ns } } := by
      rw [State.timeMoved, if_neg hmod]
    have hnoK : ¬((s.clock.time + ns) % 4096 = 0 ∧ s.clock.pendingK.isSome = true) := by
      rintro ⟨h4, hsome⟩
      rcases hk with hk | hk
      · simp [hk] at hsome
      · exact mod_ne_zero_of_between (by omega) hk h4
    have hdue : (s.timeMoved ns).timeDue s.clock.pendingK.isSome = { s with clock := { s.clock with time := s.clock.time + ns } } := by
      rw [hmoved]
      unfold State.timeDue
      rw [State.endSessions_open _ _ hsess]
      dsimp only
      rw [if_neg hnoK]
      split
      · rename_i hlock
        rcases hl with hl | hl
        · simp [hl] at hlock
        · unfold State.loseLock
          rw [if_neg]
          simp only [Clock.unsound, Bool.or_eq_true, decide_eq_true_eq]
          omega
      · rfl
    rw [if_neg h0, hdue, State.windowStarts, if_neg hmod]

/-- An empty store buffer has nothing to perform. -/
theorem Core.nextOut_of_empty {c : Core} (h : c.sb = []) : c.nextOut = none := by
  simp [Core.nextOut, Core.strlHead, Core.places, h]

theorem State.drainAll_of_empty {s : State} {core : Nat} (h : (s.core core).sb = []) (n : Nat) : State.drainAll core n s = s := by
  cases n with
  | zero => rfl
  | succ n => simp [State.drainAll, Core.nextOut_of_empty h]

/-- With empty store buffers a window ends when it is due (R262). -/
theorem State.endWindow_of_empty {s : State} (h : ∀ core, (s.core core).sb = []) (now : Nat) :
    (s.endWindow now).clock = { s.clock with time := now } := by
  have hdrain : ∀ (cores : List Nat) (n : Nat) (u : State), (∀ core, (u.core core).sb = []) →
      cores.foldl (fun t c => State.drainAll c n t) u = u := by
    intro cores n u hu
    induction cores with
    | nil => rfl
    | cons c cores ih => rw [List.foldl_cons, State.drainAll_of_empty (hu c), ih]
  have hperf : ∀ (u : State), (∀ core, (u.core core).sb = []) → ∀ core, u.unperformed core = false := by
    intro u hu core
    simp [State.unperformed, Core.nextOut_of_empty (hu core)]
  have hstill := hdrain (s.cores.map (·.1)) (8 * Config.storeBufferEntries) { s with clock := { s.clock with time := now - 1 } } h
  have hnone : ((s.cores.map (·.1)).any (State.unperformed { s with clock := { s.clock with time := now - 1 } })) = false := by
    rw [List.any_eq_false]
    exact fun c _ => by simpa using hperf { s with clock := { s.clock with time := now - 1 } } h c
  unfold State.endWindow
  dsimp only
  rw [hstill, hnone, if_neg (by simp)]

/-- With empty store buffers and nothing due before, TIME reaches the next window start. -/
theorem State.passTime_reaches {s : State} {ns : Nat} (hsb : ∀ core, (s.core core).sb = [])
    (hw : (s.clock.time / 2 ^ s.clock.k + 1) * 2 ^ s.clock.k ≤ s.clock.time + ns) (hk : s.clock.pendingK = none)
    (hl : s.clock.lock = false ∨
      s.clock.offset.natAbs ≤ 200 ∧ (s.clock.time / 2 ^ s.clock.k + 1) * 2 ^ s.clock.k < s.clock.lastSync + 10000000)
    (hsess : ∀ x ∈ s.host.sessions, (s.clock.time / 2 ^ s.clock.k + 1) * 2 ^ s.clock.k < x.2.lastRx + 1000000000) :
    (s.passTime ns).clock.time = (s.clock.time / 2 ^ s.clock.k + 1) * 2 ^ s.clock.k := by
  have hdiv := Nat.div_add_mod s.clock.time (2 ^ s.clock.k)
  have hlt : s.clock.time % 2 ^ s.clock.k < 2 ^ s.clock.k := Nat.mod_lt _ (Nat.two_pow_pos _)
  have hnext : (s.clock.time / 2 ^ s.clock.k + 1) * 2 ^ s.clock.k = s.clock.time + (2 ^ s.clock.k - s.clock.time % 2 ^ s.clock.k) := by
    rw [Nat.add_mul, Nat.one_mul, Nat.mul_comm (s.clock.time / 2 ^ s.clock.k)]
    omega
  have hstep : s.timeStep ns = 2 ^ s.clock.k - s.clock.time % 2 ^ s.clock.k := by
    refine Nat.le_antisymm (s.timeStep_le ns).2 (s.le_timeStep (by omega) (Nat.le_refl _) (.inl hk) ?_ ?_)
    · rcases hl with hl | hl
      · exact .inl hl
      · exact .inr (.inr (by omega))
    · exact fun x hx _ => by have := hsess x hx; omega
  have hmoved : (s.timeMoved (s.timeStep ns)).clock = { s.clock with time := s.clock.time + s.timeStep ns } := by
    rw [State.timeMoved, hstep, ← hnext, Nat.mul_mod_left, if_pos rfl]
    exact State.endWindow_of_empty hsb _
  rw [State.passTime_clock (by omega), (State.timeDue_clock _ _).1, hmoved]
  dsimp only
  omega

/-- At a window start no line stays that was filled before the previous window, but a stuck one (R264). -/
theorem State.passTime_recent {s : State} {ns : Nat} (hns : 0 < ns) (hk : s.clock.pendingK = none)
    (h : (s.passTime ns).clock.time % 2 ^ s.clock.k = 0) (core : Nat) :
    (s.passTime ns).Recent (s.passTime ns).clock.time (2 ^ s.clock.k) core := by
  have hpos := Nat.ne_of_gt (s.timeStep_pos hns)
  have hclock := State.passTime_clock hpos
  rw [hclock] at h ⊢
  rw [State.passTime_eq, if_neg hpos]
  have hexp : ((s.timeMoved (s.timeStep ns)).timeDue s.clock.pendingK.isSome).clock.k = s.clock.k := by
    rw [(State.timeDue_clock _ _).2.1, hk, if_neg (by simp)]
    rcases s.timeMoved_clock (s.timeStep ns) with hm | hm <;> rw [hm]
  rw [← hexp] at h ⊢
  exact State.recent_windowStarts _ h core

/-- A pending exponent is in force at a multiple of 4,096 ns (R378). -/
theorem State.passTime_applies {s : State} {ns k : Nat} (hk : s.clock.pendingK = some k) (hlt : s.clock.time < (s.passTime ns).clock.time)
    (h : (s.passTime ns).clock.time % 4096 = 0) : (s.passTime ns).clock.k = k ∧ (s.passTime ns).clock.pendingK = none := by
  have hpos : s.timeStep ns ≠ 0 := fun h0 => by
    have := (s.passTime_bounds ns).2
    omega
  rw [State.passTime_clock hpos] at h ⊢
  obtain ⟨ht, hkk, hp⟩ := State.timeDue_clock (s.timeMoved (s.timeStep ns)) s.clock.pendingK.isSome
  rw [ht] at h
  have hpend : (s.timeMoved (s.timeStep ns)).clock.pendingK = some k := by
    rcases s.timeMoved_clock (s.timeStep ns) with hm | hm <;> rw [hm] <;> exact hk
  rw [hkk, hp, hpend, if_pos ⟨h, by simp [hk]⟩, if_pos ⟨h, by simp [hk]⟩]
  exact ⟨rfl, rfl⟩

end Sys2Proof.Machine

/-! ## Core clocks, regions and the lock of TIME (R28, R29, R378, R383, R385, R386) -/

namespace Sys2Proof.Machine

/-! ### One core after another -/

theorem mem_coresOf {d core : Nat} : core ∈ coresOf d ↔ core / 512 = d ∧ coreExists core = true := by
  simp only [coresOf, List.mem_filter, List.mem_map, List.mem_range]
  constructor
  · rintro ⟨⟨k, hk, rfl⟩, he⟩
    exact ⟨by omega, he⟩
  · rintro ⟨hd, he⟩
    exact ⟨⟨core % 512, Nat.mod_lt _ (by decide), by omega⟩, he⟩

/-- `t` is `s` but for core clocks of die `d` that it pauses besides: what a current ramp holds (R386). -/
structure State.HoldsClocks (d : Nat) (s t : State) : Prop where
  rest : t = { s with cores := t.cores, tick := t.tick }
  core : ∀ core, { t.core core with issue := { (t.core core).issue with paused := (s.core core).issue.paused } } = s.core core
  paused : ∀ core, (s.core core).issue.paused = true → (t.core core).issue.paused = true
  others : ∀ core, core / 512 ≠ d → t.core core = s.core core

theorem State.HoldsClocks.refl (d : Nat) (s : State) : s.HoldsClocks d s := ⟨rfl, fun _ => rfl, fun _ h => h, fun _ _ => rfl⟩

theorem State.HoldsClocks.trans {d : Nat} {s t u : State} (h : s.HoldsClocks d t) (k : t.HoldsClocks d u) : s.HoldsClocks d u where
  rest := by
    have hr := k.rest
    rw [h.rest] at hr
    exact hr
  core c := by
    have h1 := h.core c
    rw [← k.core c] at h1
    exact h1
  paused c hc := k.paused c (h.paused c hc)
  others c hc := (k.others c hc).trans (h.others c hc)

/-- One core of the die is paused or not, freely. -/
theorem State.holdsClocks_one (s : State) {d c : Nat} (hc : c / 512 = d) :
    s.HoldsClocks d (let (b, t1) := s.freeBit; if b then t1.modIssue c fun x => { x with paused := true } else t1) := by
  dsimp only
  split
  · have hcore : ∀ core, (s.freeBit.2.modIssue c fun x => { x with paused := true }).core core =
        if core = c then { s.core c with issue := { (s.core c).issue with paused := true } } else s.core core := by
      intro core
      split
      · rename_i h
        subst h
        exact State.core_setCore_self ..
      · rename_i h
        exact State.core_setCore_ne _ _ h
    refine ⟨rfl, fun core => ?_, fun core h => ?_, fun core h => ?_⟩
    · rw [hcore]
      split
      · rename_i he
        rw [he]
      · rfl
    · rw [hcore]
      split
      · rfl
      · exact h
    · rw [hcore, if_neg (by rintro rfl; exact h hc)]
  · exact ⟨rfl, fun _ => rfl, fun _ h => h, fun _ _ => rfl⟩

theorem State.holdsClocks_rampHold (s : State) (d : Nat) : s.HoldsClocks d (s.rampHold d) := by
  have hfold : ∀ (cs : List Nat) (u : State), (∀ c ∈ cs, c / 512 = d) → u.HoldsClocks d (cs.foldl (fun t c =>
      let (b, t1) := t.freeBit
      if b then t1.modIssue c fun x => { x with paused := true } else t1) u) := by
    intro cs
    induction cs with
    | nil => exact fun u _ => .refl d u
    | cons c cs ih =>
      intro u h
      exact (u.holdsClocks_one (h c List.mem_cons_self)).trans (ih _ fun x hx => h x (List.mem_cons_of_mem c hx))
  exact hfold _ s fun c hc => (mem_coresOf.mp hc).1

/-- A field of the issue state set at every core of a list. -/
theorem State.stretch_fold (on : Nat → Bool) (cs : List Nat) (s : State) :
    let t := cs.foldl (fun t c => if (t.core c).issue.stretched = on c then t else t.modIssue c fun x => { x with stretched := on c }) s
    t = { s with cores := t.cores } ∧ ∀ core, t.core core =
      if core ∈ cs then { s.core core with issue := { (s.core core).issue with stretched := on core } } else s.core core := by
  induction cs generalizing s with
  | nil => exact ⟨rfl, fun core => by simp⟩
  | cons c cs ih =>
    have hone : ∀ core, (if (s.core c).issue.stretched = on c then s else s.modIssue c fun x => { x with stretched := on c }).core core =
        if core = c then { s.core core with issue := { (s.core core).issue with stretched := on core } } else s.core core := by
      intro core
      by_cases hc : core = c
      · subst hc
        split
        · rename_i he
          simp [← he]
        · simp [State.modIssue]
      · rw [if_neg hc]
        split
        · rfl
        · exact State.core_setCore_ne _ _ hc
    have hrest : ∀ x, { (if (s.core c).issue.stretched = on c then s else s.modIssue c fun x => { x with stretched := on c }) with cores := x } =
        { s with cores := x } := by
      intro x
      split <;> rfl
    obtain ⟨ih1, ih2⟩ := ih (if (s.core c).issue.stretched = on c then s else s.modIssue c fun x => { x with stretched := on c })
    refine ⟨ih1.trans (hrest _), fun core => ?_⟩
    rw [List.foldl_cons, ih2, hone]
    by_cases hc : core = c
    · simp [hc]
    · simp [hc]

theorem State.stretch_core (s : State) (d : Nat) :
    s.stretch d = { s with cores := (s.stretch d).cores } ∧ ∀ core, (s.stretch d).core core =
      if core / 512 = d ∧ coreExists core = true then { s.core core with issue := { (s.core core).issue with
        stretched := (s.die d).power.overLong s.clock.time && (regionOf core).any (s.die d).power.overBudget.getLsbD } } else s.core core := by
  have h := State.stretch_fold (fun c => (s.die d).power.overLong s.clock.time && (regionOf c).any (s.die d).power.overBudget.getLsbD) (coresOf d) s
  simp only [mem_coresOf] at h
  exact h

/-- Which clocks an over-budget die stretches (R385). -/
theorem stretched_iff (p : Power) (now core : Nat) :
    (p.overLong now && (regionOf core).any p.overBudget.getLsbD) =
      (!isManagement core && decide (p.held < p.draw) && (p.overSince.any fun u => decide (u + 2000 ≤ now)) &&
        p.overBudget.getLsbD (core / 16 % 32 / 2)) := by
  have hlong : p.overLong now = (decide (p.held < p.draw) && p.overSince.any fun u => decide (u + 2000 ≤ now)) := by
    unfold Power.overLong
    cases p.overSince <;> simp
  have hregion : (regionOf core).any p.overBudget.getLsbD = (!isManagement core && p.overBudget.getLsbD (core / 16 % 32 / 2)) := by
    unfold regionOf
    cases isManagement core <;> simp
  rw [hlong, hregion]
  cases isManagement core <;> simp

/-! ### Hot regions (R385) -/

theorem Power.heat_hot (p : Power) (region temp r : Nat) (hregion : region < 16) :
    (p.heat region temp).hot.getLsbD r = if r = region ∧ p.thot ≤ temp then true
      else if r = region ∧ temp + p.hyst ≤ p.thot then false else p.hot.getLsbD r := by
  unfold Power.heat
  by_cases h1 : p.thot ≤ temp
  · rw [if_pos h1]
    by_cases hr : r = region
    · subst hr
      simp [h1, bitOn, hregion]
    · simp [hr, bitOn, Ne.symm hr]
  · rw [if_neg h1]
    by_cases h2 : temp + p.hyst ≤ p.thot
    · rw [if_pos h2]
      by_cases hr : r = region
      · subst hr
        simp [h1, h2, bitOff, hregion]
      · by_cases h16 : r < 16
        · simp [hr, bitOff, h16]
        · simp [hr, Nat.le_of_not_lt h16]
    · simp [h1, h2]

theorem Power.heat_rest (p : Power) (region temp : Nat) : { p.heat region temp with hot := p.hot } = p := by
  unfold Power.heat
  split
  · rfl
  · split <;> rfl

/-! ### Counters, pauses and the lock -/

theorem State.anyReady_iff (s : State) (core : Nat) :
    s.anyReady core = true ↔ ∃ k, k < slotCount core ∧ (s.slot (8 * core + k)).phase = .ready := by
  simp [State.anyReady, slotsOf]

theorem State.ptp_clock (s : State) (offset : Int) :
    let c := s.clock
    let t := (s.ptp offset).clock
    t.time = c.time ∧ t.k = c.k ∧ t.offset = offset ∧ t.lastSync = c.time ∧
      t.lock = (if offset.natAbs ≤ 100 then true else if 200 < offset.natAbs then false else c.lock) ∧
      t.lost = (c.lost || (decide (200 < offset.natAbs) && c.lock)) := by
  simp only [State.ptp]
  by_cases h1 : offset.natAbs ≤ 100
  · simp [h1, show ¬200 < offset.natAbs by omega]
  · by_cases h2 : 200 < offset.natAbs
    · simp [h1, h2, Clock.lose]
    · simp [h1, h2]

/-- Settles O49: the events by their operations, a turn of TIME by the bounds of its step and by what the stores of a window end leave alone. -/
theorem timeSelectorAndClockEvents : Obligations.TimeSelectorAndClockEvents := by
  unfold Obligations.TimeSelectorAndClockEvents
  intro s issue c
  refine ⟨?age, ?core, rfl, ?ptp, ?lost, ?die, ?time⟩
  case age =>
    intro sid x
    have hage : (s.slot sid).sched.age + 1 = Config.agePromotion ↔ x.sched.age = 1023 := by simp [Config.agePromotion, x]
    simp only [exec, execAgePromotion, State.promote, hage]
    rfl
  case core =>
    intro core i ready
    have hready : s.anyReady core = true ↔ ready := s.anyReady_iff core
    refine ⟨rfl, ?_, ?_, ?_, ?_, fun _ => rfl, ?_, ?_⟩
    · simp only [exec, execP3BudgetExhausted, State.exhaust]
      rfl
    · intro h
      have hbusy : (s.anyReady core || !(s.core core).copyq.isEmpty || !(s.core core).tileq.isEmpty) = true := by
        rw [← hready] at h
        simpa [List.isEmpty_iff, or_assoc] using h
      simp only [exec, execClockPause, State.pauseClock, if_pos hbusy]
    · intro hr hc ht
      have hr' : s.anyReady core = false := by simpa [← hready] using hr
      simp only [exec, execClockPause, State.pauseClock, hr', hc, ht]
      rfl
    · simp only [exec, execClockRestart, State.unpause]
      rfl
    · simp only [exec, execBallastStart, State.setBallast]
      rfl
    · simp only [exec, execBallastEnd, State.setBallast]
      rfl
  case ptp =>
    intro offset
    obtain ⟨ht, hk, ho, hs, hl, hlost⟩ := s.ptp_clock offset
    exact ⟨s.ptp offset, rfl, by simp [State.ptp, State.sendTime, State.sendMesh, routerUnit], ht, hk, ho, hs, hl, hlost⟩
  case lost =>
    have hsound : s.clock.unsound = true ↔ 200 < c.offset.natAbs ∨ c.lastSync + 10000000 ≤ c.time := by simp [Clock.unsound, c]
    simp only [exec, execTimeLockLost, State.loseLock, hsound]
    rfl
  case die =>
    intro d p
    refine ⟨?ramp, ?hot, ?stretch⟩
    case ramp =>
      have h := s.holdsClocks_rampHold d
      exact ⟨s.rampHold d, rfl, h.rest, fun core => ⟨h.core core, h.paused core, h.others core⟩⟩
    case hot =>
      intro region temp hregion
      refine ⟨s.modPower d fun p => p.heat region temp, rfl, rfl, ?_, ?_, ?_⟩
      · intro r _
        simp only [State.modPower, State.die_setDie_self]
        exact p.heat_hot region temp r hregion
      · simp only [State.modPower, State.die_setDie_self]
        rw [Power.heat_rest]
      · exact fun k hk => State.die_setDie_ne s _ hk
    case stretch =>
      obtain ⟨hrest, hcore⟩ := s.stretch_core d
      refine ⟨s.stretch d, rfl, hrest, fun core => ?_⟩
      rw [hcore, stretched_iff]
  case time =>
    intro ns w done
    have hb := s.passTime_bounds ns
    have hstep := (s.timeStep_le ns).1
    refine ⟨s.passTime ns, rfl, hb.1, hb.2.trans (Nat.add_le_add_left hstep _), hb.2.trans (s.time_add_timeStep_le ns), ?_, ?_, ?_, ?_⟩
    · exact fun hw hk hl hd => State.passTime_quiet hw hk hl hd
    · exact fun hsb hw hk hl hd => State.passTime_reaches hsb hw hk hl hd
    · exact fun hns hk hm core => State.passTime_recent hns hk hm core
    · exact fun k hk hlt hm => State.passTime_applies hk hlt hm

end Sys2Proof.Machine

/-! ## Onayth Link ports and the error log (R379, R380, R387) -/

namespace Sys2Proof.Machine

/-! ### What goes to the host touches the host alone -/

theorem State.khtSend_frame (s : State) (n ty status : Nat) (payload : List Byte) :
    s.khtSend n ty status payload = { s with host := (s.khtSend n ty status payload).host } := by
  unfold State.khtSend
  split
  · rfl
  · dsimp only
    split <;> rfl

theorem State.khtSend_boots (s : State) (n ty status : Nat) (payload : List Byte) :
    (s.khtSend n ty status payload).host.boots = s.host.boots := by
  unfold State.khtSend
  split
  · rfl
  · dsimp only
    split <;> rfl

/-- A message for each of several sessions touches the host alone. -/
theorem State.foldl_host_frame {α : Type} {f : State → α → State} (h : ∀ (s : State) (x : α), f s x = { s with host := (f s x).host })
    (xs : List α) (s : State) : xs.foldl f s = { s with host := (xs.foldl f s).host } := by
  induction xs generalizing s with
  | nil => rfl
  | cons x xs ih =>
    have h1 := ih (f s x)
    rw [h s x] at h1
    rw [List.foldl_cons, h s x]
    exact h1

/-! ### Error records (R387) -/

theorem State.sendMsg_frame (s : State) (die router sid kind : Nat) (payload : Word) :
    s.sendMsg die router sid kind payload = { s with mesh := (s.sendMsg die router sid kind payload).mesh } := by
  unfold State.sendMsg
  split <;> rfl

/-- The log of a die with one more error record, or with one more counted in OVF. -/
def Die.withErr (d : Die) (r : ErrRec) : Die :=
  if d.errs.length < 64 then { d with errs := d.errs ++ [r] } else { d with ovf := Nat.min 255 (d.ovf + 1) }

@[simp] theorem Die.withErr_ports (d : Die) (r : ErrRec) : (d.withErr r).ports = d.ports := by
  unfold Die.withErr
  split <;> rfl
theorem Die.withErr_errs {d : Die} (r : ErrRec) (h : d.errs.length < 64) : (d.withErr r).errs = d.errs ++ [r] := by
  simp [Die.withErr, h]

/-- An error record enters the log of its die, and goes out as messages. -/
theorem State.logError_frame (s : State) (die kind nerr unit : Nat) (addr : Word) :
    let t := s.logError die kind nerr unit addr
    t = { s.setDie die ((s.die die).withErr ⟨kind, nerr, unit, s.clock.time / 1000 % 2 ^ 32, addr⟩) with mesh := t.mesh, host := t.host } := by
  have hset : (if (s.die die).errs.length < 64
      then s.setDie die { s.die die with errs := (s.die die).errs ++ [⟨kind, nerr, unit, s.clock.time / 1000 % 2 ^ 32, addr⟩] }
      else s.setDie die { s.die die with ovf := Nat.min 255 ((s.die die).ovf + 1) }) =
      s.setDie die ((s.die die).withErr ⟨kind, nerr, unit, s.clock.time / 1000 % 2 ^ 32, addr⟩) := by
    unfold Die.withErr
    split <;> rfl
  unfold State.logError
  dsimp only
  rw [hset, State.foldl_host_frame (fun t x => ?host), State.sendMsg_frame]
  case host =>
    split
    · rfl
    · exact t.khtSend_frame ..

/-! ### Ports -/

@[simp] theorem State.port_setPort (s : State) (p : Nat) (x : OlPort) : (s.setPort p (some x)).port p = some x := by
  simp [State.port, State.setPort]

/-- What a port that goes down leaves: nothing of the memory, the strands or the clusters, and an error record of kind 8 (R380). -/
theorem State.logError_portDown {s u : State} (p : Nat)
    (hu : u = { s.setPort p none with cores := u.cores, tick := u.tick }) :
    let d := p / 16 % 4
    let t := u.logError d 8 0 (unitPort (p % 64)) 0
    (t.mem = s.mem ∧ t.slots = s.slots ∧ t.clusters = s.clusters) ∧ (t.die d).ports = (s.die d).ports.erase (p % 16) ∧
      ((s.die d).errs.length < 64 → (t.die d).errs = (s.die d).errs ++ [⟨8, 0, 0xF000 + p % 64, s.clock.time / 1000 % 2 ^ 32, 0⟩]) := by
  intro d t
  have hdie : u.die d = { s.die d with ports := (s.die d).ports.erase (p % 16) } := by
    rw [hu]
    exact State.die_setDie_self s d _
  have hclock : u.clock = s.clock := by rw [hu]; rfl
  have ht : t = { u.setDie d ((u.die d).withErr ⟨8, 0, unitPort (p % 64), u.clock.time / 1000 % 2 ^ 32, 0⟩) with
      mesh := t.mesh, host := t.host } := u.logError_frame d 8 0 (unitPort (p % 64)) 0
  have htd : t.die d = (u.die d).withErr ⟨8, 0, unitPort (p % 64), u.clock.time / 1000 % 2 ^ 32, 0⟩ := by
    rw [ht]
    exact State.die_setDie_self u d _
  refine ⟨⟨?_, ?_, ?_⟩, ?_, fun hroom => ?_⟩
  · rw [ht, hu]; rfl
  · rw [ht, hu]; rfl
  · rw [ht, hu]; rfl
  · rw [htd, Die.withErr_ports, hdie]
  · rw [htd, Die.withErr_errs _ (by rw [hdie]; exact hroom), hdie, hclock]
    rfl

/-- The highest of several versions. -/
theorem foldl_highest {v : Nat} (vs : List Nat) (m : Option Nat) (hle : ∀ x ∈ vs, x ≤ v) (hm : m.getD 0 ≤ v) (hv : v ∈ vs ∨ m = some v) :
    vs.foldl (fun m v => some (Nat.max (m.getD 0) v)) m = some v := by
  induction vs generalizing m with
  | nil => simpa using hv
  | cons x xs ih =>
    have hx : x ≤ v := hle x List.mem_cons_self
    refine ih _ (fun y hy => hle y (List.mem_cons_of_mem x hy)) (Nat.max_le.mpr ⟨hm, hx⟩) ?_
    rcases hv with hv | rfl
    · rcases List.mem_cons.mp hv with rfl | hv
      · exact .inr (congrArg some (Nat.max_eq_right hm))
      · exact .inl hv
    · exact .inr (congrArg some (Nat.max_eq_left hx))

/-- A version of the Onayth Link that both ends speak (R379). -/
theorem mem_linkVersions {lo hi v : Nat} :
    v ∈ Config.linkVersions.filter (fun v => decide (lo ≤ v) && decide (v ≤ hi)) ↔ v ∈ Config.linkVersions ∧ lo ≤ v ∧ v ≤ hi := by
  simp

theorem linkVersion_some {lo hi v : Nat} (hv : v ∈ Config.linkVersions ∧ lo ≤ v ∧ v ≤ hi)
    (hmax : ∀ w, w ∈ Config.linkVersions ∧ lo ≤ w ∧ w ≤ hi → w ≤ v) : linkVersion lo hi = some v :=
  foldl_highest _ none (fun w hw => hmax w (mem_linkVersions.mp hw)) (Nat.zero_le v) (.inl (mem_linkVersions.mpr hv))

theorem linkVersion_none {lo hi : Nat} (h : ∀ v, ¬(v ∈ Config.linkVersions ∧ lo ≤ v ∧ v ≤ hi)) : linkVersion lo hi = none := by
  have hnil : Config.linkVersions.filter (fun v => decide (lo ≤ v) && decide (v ≤ hi)) = [] :=
    List.eq_nil_iff_forall_not_mem.mpr fun v hv => h v (mem_linkVersions.mp hv)
  rw [linkVersion, hnil]
  rfl

theorem trainPort_absent {s : State} {p : Nat} (h : (s.die (p / 16 % 4)).absent = true) (lanes lo hi : Nat) (reach : List Nat) :
    s.trainPort p lanes lo hi reach = s := by
  simp [State.trainPort, h]

theorem trainPort_up {s : State} {p lanes lo hi v : Nat} (h : (s.die (p / 16 % 4)).absent = false) (hl : lanes = 1 ∨ lanes = 2 ∨ lanes = 4)
    (hv : linkVersion lo hi = some v) (reach : List Nat) :
    s.trainPort p lanes lo hi reach = s.setPort p (some ⟨lanes, v, reach, [], []⟩) := by
  have hlanes : (decide (lanes = 1) || decide (lanes = 2) || decide (lanes = 4)) = true := by simpa [or_assoc] using hl
  simp only [State.trainPort, h, hlanes, hv, Bool.false_eq_true, if_false]

theorem trainPort_down {s : State} {p lanes lo hi : Nat} (h : (s.die (p / 16 % 4)).absent = false)
    (hd : (lanes ≠ 1 ∧ lanes ≠ 2 ∧ lanes ≠ 4) ∨ linkVersion lo hi = none) (reach : List Nat) :
    s.trainPort p lanes lo hi reach = (s.setPort p none).logError (p / 16 % 4) 8 0 (unitPort (p % 64)) 0 := by
  rcases hd with ⟨h1, h2, h4⟩ | hv
  · simp [State.trainPort, h, h1, h2, h4]
  · simp [State.trainPort, h, hv]

/-! ### Flits and the end of a link -/

theorem flit_refused {s : State} {p vc n : Nat} {data : List Byte} {ok : Bool}
    (h : ∀ x, s.port p = some x → ok = false ∨ n ≠ (x.next.find vc).getD 0 ∨ data.length ≠ 256) : s.flit p vc n data ok = s := by
  unfold State.flit
  split
  · rename_i x hx
    rw [if_neg]
    rintro ⟨hok, hn, hlen⟩
    rcases h x hx with h | h | h
    · rw [h] at hok
      cases hok
    · exact h hn
    · exact h hlen
  · rfl

theorem flit_delivered {s : State} {p vc : Nat} {data : List Byte} {x : OlPort} (hx : s.port p = some x) (hlen : data.length = 256) :
    s.flit p vc ((x.next.find vc).getD 0) data true = s.setPort p (some { x with
      next := x.next.insert vc ((x.next.find vc).getD 0 + 1)
      rx := x.rx.insert vc ((x.rx.find vc).getD [] ++ [data]) }) := by
  simp [State.flit, hx, hlen]

/-- A running copy that may have used a failed link: its core and the free choices change. -/
theorem failFar_frame (s : State) (core : Nat) : s.failFar core = { s with cores := (s.failFar core).cores, tick := (s.failFar core).tick } := by
  unfold State.failFar
  split
  · rfl
  · split
    · dsimp only
      split <;> rfl
    · rfl

theorem failFars_frame (cs : List (Nat × Core)) (s : State) :
    let t := cs.foldl (fun t x => t.failFar x.1) s
    t = { s with cores := t.cores, tick := t.tick } := by
  induction cs generalizing s with
  | nil => rfl
  | cons c cs ih =>
    have h1 := ih (s.failFar c.1)
    dsimp only at h1 ⊢
    rw [failFar_frame s c.1] at h1
    rw [List.foldl_cons, failFar_frame s c.1]
    exact h1

theorem linkDown_none {s : State} {p : Nat} (h : s.port p = none) : s.linkDown p = s := by
  simp [State.linkDown, h]

theorem linkDown_some {s : State} {p : Nat} {x : OlPort} (h : s.port p = some x) :
    s.linkDown p = (s.cores.foldl (fun t x => t.failFar x.1) (s.setPort p none)).logError (p / 16 % 4) 8 0 (unitPort (p % 64)) 0 := by
  simp [State.linkDown, h]

end Sys2Proof.Machine

/-! ## Power-on reset (R221, R381) -/

namespace Sys2Proof.Machine

/-- The firmware of a die is READY, or its slot is SUSPENDED and the die takes no part (log 83). -/
theorem State.firmwareFails_cases (s : State) (d : Nat) :
    s.firmwareFails d = { s with tick := s.tick + 1 } ∨
    s.firmwareFails d = { (s.setSlot (mgmtSid d) { s.slot (mgmtSid d) with phase := .suspended true }).setDie d
      { s.die d with absent := true } with tick := s.tick + 1 } := by
  unfold State.firmwareFails
  dsimp only
  split
  · exact .inr rfl
  · exact .inl rfl

/-- The slots of a package whose strands are the firmware alone: `d` ranges over its dies. -/
structure State.FirmwareAlone (s : State) : Prop where
  free : ∀ sid, sid % 0x1000 ≠ 0x78 ∨ 0x4000 ≤ sid → (s.slot sid).phase = .free
  mode : ∀ d, d < 4 → (s.slot (mgmtSid d)).mode = .m
  phase : ∀ d, d < 4 → (s.slot (mgmtSid d)).phase = if (s.die d).absent then .suspended true else .ready

theorem mgmtSid_ne {d e : Nat} (h : d ≠ e) : mgmtSid d ≠ mgmtSid e := by
  unfold mgmtSid
  omega

theorem State.firmwareAlone_firmwareFails {s : State} (h : s.FirmwareAlone) {d : Nat} (hd : d < 4) : (s.firmwareFails d).FirmwareAlone := by
  rcases s.firmwareFails_cases d with hc | hc
  · rw [hc]
    exact ⟨h.free, h.mode, h.phase⟩
  · rw [hc]
    have hslot : ∀ (t : State) (n : Nat) (e : Nat) (x : Die), ({ t.setDie e x with tick := n } : State).slot = t.slot := fun _ _ _ _ => rfl
    have hdie : ∀ (t : State) (n : Nat), ({ t with tick := n } : State).die = t.die := fun _ _ => rfl
    refine ⟨fun sid hs => ?_, fun e he => ?_, fun e he => ?_⟩
    · rw [hslot, State.slot_setSlot_ne _ _ (by unfold mgmtSid; omega)]
      exact h.free sid hs
    · rw [hslot]
      by_cases hed : e = d
      · subst hed
        rw [State.slot_setSlot_self]
        exact h.mode e he
      · rw [State.slot_setSlot_ne _ _ (mgmtSid_ne hed)]
        exact h.mode e he
    · rw [hslot, hdie]
      by_cases hed : e = d
      · subst hed
        rw [State.slot_setSlot_self, State.die_setDie_self]
        rfl
      · rw [State.slot_setSlot_ne _ _ (mgmtSid_ne hed), State.die_setDie_ne _ _ hed]
        exact h.phase e he

theorem State.firmwareFails_frame (s : State) (d : Nat) :
    s.firmwareFails d = { s with slots := (s.firmwareFails d).slots, dies := (s.firmwareFails d).dies, tick := (s.firmwareFails d).tick } := by
  rcases s.firmwareFails_cases d with hc | hc
  · rw [hc]
  · rw [hc]
    rfl

theorem State.firmwareFails_all (ds : List Nat) (s : State) (hds : ∀ d ∈ ds, d < 4) (h : s.FirmwareAlone) :
    let t := ds.foldl State.firmwareFails s
    t.FirmwareAlone ∧ t = { s with slots := t.slots, dies := t.dies, tick := t.tick } := by
  induction ds generalizing s with
  | nil => exact ⟨h, rfl⟩
  | cons d ds ih =>
    obtain ⟨hf, hr⟩ := ih (s.firmwareFails d) (fun e he => hds e (List.mem_cons_of_mem d he))
      (State.firmwareAlone_firmwareFails h (hds d List.mem_cons_self))
    refine ⟨hf, ?_⟩
    rw [s.firmwareFails_frame d] at hr
    rw [List.foldl_cons, s.firmwareFails_frame d]
    exact hr

/-- The self-test of the banks changes clusters alone, and neither their bytes nor their groups nor their banks (R221). -/
theorem State.selfTest_all (failed : Nat → List Nat) (cls : List Nat) (s : State) :
    let t := cls.foldl (fun (t : State) cl => t.setCluster cl { t.cluster cl with failed := failed cl }) s
    t = { s with clusters := t.clusters } ∧ ∀ c, (t.cluster c).mem = (s.cluster c).mem ∧ (t.cluster c).groups = (s.cluster c).groups ∧
      (t.cluster c).banks = (s.cluster c).banks := by
  induction cls generalizing s with
  | nil => exact ⟨rfl, fun _ => ⟨rfl, rfl, rfl⟩⟩
  | cons cl cls ih =>
    obtain ⟨hr, hc⟩ := ih (s.setCluster cl { s.cluster cl with failed := failed cl })
    refine ⟨hr, fun c => ?_⟩
    obtain ⟨h1, h2, h3⟩ := hc c
    rw [List.foldl_cons, h1, h2, h3]
    by_cases hcl : c = cl
    · subst hcl
      simp
    · rw [State.cluster_setCluster_ne s _ hcl]
      exact ⟨rfl, rfl, rfl⟩

/-- At reset the firmware is READY in slot 0 of every management core, and every other slot is FREE. -/
theorem State.firmwareAlone_reset : State.reset.FirmwareAlone := by
  refine ⟨fun sid hs => ?_, by decide, by decide⟩
  have h0 : (0x0078 : Nat) ≠ sid := by omega
  have h1 : (0x1078 : Nat) ≠ sid := by omega
  have h2 : (0x2078 : Nat) ≠ sid := by omega
  have h3 : (0x3078 : Nat) ≠ sid := by omega
  simp [State.slot, State.reset, NMap.find, h0, h1, h2, h3, Slot.none]

/-- Only slots and dies matter to it. -/
theorem State.FirmwareAlone.of_parts {s t : State} (h : s.FirmwareAlone) (hs : t.slots = s.slots) (hd : t.dies = s.dies) : t.FirmwareAlone := by
  have hslot : t.slot = s.slot := funext fun sid => by rw [State.slot, State.slot, hs]
  have hdie : t.die = s.die := funext fun d => by rw [State.die, State.die, hd]
  exact ⟨by rw [hslot]; exact h.free, by rw [hslot]; exact h.mode, by rw [hslot, hdie]; exact h.phase⟩

/-- The package after its dies have tried their firmware (R381). -/
def State.firmwareUp (s : State) : State := (List.range 4).foldl State.firmwareFails
  { State.reset with tick := s.tick + 1, host := { State.reset.host with devnum := Config.freeNat s.tick % 2 ^ 16 } }

theorem State.firmwareUp_leaves (s : State) : s.firmwareUp.FirmwareAlone ∧ s.firmwareUp = { State.reset with
    slots := s.firmwareUp.slots, dies := s.firmwareUp.dies, tick := s.firmwareUp.tick
    host := { State.reset.host with devnum := Config.freeNat s.tick % 2 ^ 16 } } :=
  State.firmwareFails_all (List.range 4) _ (fun _ hd => List.mem_range.mp hd) (State.firmwareAlone_reset.of_parts rfl rfl)

/-- Power-on reset as a whole (R381): the firmware alone, and all that is not in a slot, a die or a cluster as at reset. -/
theorem State.powerOn_leaves (s : State) : s.powerOn.FirmwareAlone ∧ s.powerOn = { State.reset with
      slots := s.powerOn.slots, dies := s.powerOn.dies, tick := s.powerOn.tick, clusters := s.powerOn.clusters
      host := { State.reset.host with devnum := Config.freeNat s.tick % 2 ^ 16 } } ∧
    ∀ c, (s.powerOn.cluster c).mem = [] ∧ (s.powerOn.cluster c).groups = [] ∧ (s.powerOn.cluster c).banks = [] := by
  obtain ⟨hf, hr⟩ := s.firmwareUp_leaves
  have hup : s.powerOn = (List.range 128).foldl (fun (t : State) cl => t.setCluster cl { t.cluster cl with failed := failedBanks s.tick cl })
    s.firmwareUp := rfl
  obtain ⟨ht, hc⟩ := State.selfTest_all (failedBanks s.tick) (List.range 128) s.firmwareUp
  rw [← hup] at ht hc
  have hcluster : ∀ c, s.firmwareUp.cluster c = Cluster.initial := fun c => by
    have hnone : s.firmwareUp.clusters = [] := congrArg State.clusters hr
    rw [State.cluster, hnone]
    rfl
  have hslots : s.powerOn.slots = s.firmwareUp.slots := by rw [ht]
  have hdies : s.powerOn.dies = s.firmwareUp.dies := by rw [ht]
  refine ⟨hf.of_parts hslots hdies, ?_, fun c => ?_⟩
  · rw [ht, hr]
  · obtain ⟨h1, h2, h3⟩ := hc c
    rw [hcluster] at h1 h2 h3
    exact ⟨h1, h2, h3⟩

end Sys2Proof.Machine

/-! ## Loading and starting (R124, R125, R377, R382) -/

namespace Sys2Proof.Machine

/-! ### LOAD (R377) -/

/-- What LOAD takes a payload to be: the offset, the dies that keep the image and its bytes so far, with those of an earlier payload. -/
theorem hostLoad_none {s : State} {n : Nat} (h : s.readyMsg n 0x30 = none) : s.hostLoad n = s := by
  simp [State.hostLoad, h]

/-- The message a session performs as LOAD is one of TYPE 0x30. -/
theorem readyMsg_ty {s : State} {n ty : Nat} {m : Kht} (h : s.readyMsg n ty = some m) : m.ty = ty := by
  unfold State.readyMsg at h
  split at h
  · cases h
  · split at h
    · split at h
      · rename_i hty
        cases h
        exact hty
      · cases h
    · cases h

/-- The dies of the mask and the bytes that a session holds of the image that a payload goes on with. -/
def Session.loading (x : Session) (m : Kht) : Nat × List Byte :=
  if numAt m.payload 8 8 = 0 then (numAt m.payload 0 1, []) else x.image.getD (0, [])
/-- The payload is malformed, or out of order. -/
def Session.badLoad (x : Session) (m : Kht) : Prop :=
  m.payload.length < 16 ∨ zeroBytes m.payload 1 8 = false ∨ numAt m.payload 8 8 ≠ (x.loading m).2.length
/-- The bytes so far are not the whole image. -/
def partImage (i : Image) : Prop := i.length < 64 ∨ i.length < i.size

section Load
variable {s : State} {n : Nat} {m : Kht} {x : Session} (hm : s.readyMsg n 0x30 = some m) (hx : s.host.sessions.find n = some x)
include hm hx

theorem hostLoad_bad (h : x.badLoad m) : s.hostLoad n = (s.popRx n).khtSend n 0x31 4 [] := by
  have hty : m.ty = 0x30 := readyMsg_ty hm
  unfold State.hostLoad
  simp only [hm, hx]
  refine (if_pos h).trans ?_
  rw [State.answerRx, hty]
  rfl

theorem hostLoad_part (h : ¬x.badLoad m) (hp : partImage ((x.loading m).2 ++ m.payload.drop 16)) :
    s.hostLoad n = (s.putSession n { x with image := some ((x.loading m).1, (x.loading m).2 ++ m.payload.drop 16) }).popRx n := by
  unfold State.hostLoad
  simp only [hm, hx]
  exact (if_neg h).trans (if_pos hp)

theorem hostLoad_whole (h : ¬x.badLoad m) (hp : ¬partImage ((x.loading m).2 ++ m.payload.drop 16)) :
    s.hostLoad n = match negotiate ((x.loading m).2 ++ m.payload.drop 16) with
      | .error c => ((s.putSession n { x with image := none }).popRx n).khtSend n 0x31 c []
      | .ok _ => (((s.putSession n { x with image := none }).popRx n).loadAccepted n (x.loading m).1
          ((x.loading m).2 ++ m.payload.drop 16)).getD s := by
  unfold State.hostLoad
  simp only [hm, hx]
  exact (if_neg h).trans (if_neg hp)
end Load

/-! ### Boots -/

theorem State.boot_id {s : State} {id : Nat} {b : Boot} (h : s.boot id = some b) : b.id = id := by
  simpa using List.find?_some h

/-- A boot put in place of those of its identity is found. -/
theorem State.boot_setBoot {s : State} {id : Nat} {b c : Boot} (h : s.boot id = some c) (hb : b.id = id) : (s.setBoot b).boot id = some b := by
  unfold State.boot at h ⊢
  show (s.host.boots.map fun x => if x.id = b.id then b else x).find? _ = _
  generalize s.host.boots = bs at h
  induction bs with
  | nil => cases h
  | cons x xs ih =>
    by_cases hx : x.id = id
    · simp [hx, hb]
    · simp only [List.find?_cons, beq_eq_false_iff_ne.mpr hx] at h
      simp only [List.map_cons, hb, hx, if_false, List.find?_cons, beq_eq_false_iff_ne.mpr hx]
      have := ih h
      simpa [hb] using this

theorem State.boot_dropBoot (s : State) (id : Nat) : (s.dropBoot id).boot id = none := by
  unfold State.boot
  show (s.host.boots.filter fun x => x.id != id).find? _ = none
  rw [List.find?_eq_none]
  intro x hx
  simpa using (List.mem_filter.mp hx).2

/-- From `s` to `t` only the boots and the mesh change. -/
def State.BootFrame (s t : State) : Prop := t = { s with host := { s.host with boots := t.host.boots }, mesh := t.mesh }

theorem State.BootFrame.trans {s t u : State} (h : s.BootFrame t) (k : t.BootFrame u) : s.BootFrame u := by
  unfold State.BootFrame at h k ⊢
  rw [h] at k
  exact k

theorem State.sendImage_frame (s : State) (id : Nat) (i : Image) (e : Nat × Nat × Nat) :
    s.sendImage id i e = { s with mesh := (s.sendImage id i e).mesh } := by
  unfold State.sendImage
  dsimp only
  generalize List.range (i.messages e.2.2) = ks
  generalize i.messages e.2.2 = n
  induction ks generalizing s with
  | nil => rfl
  | cons k ks ih => exact ih _

theorem State.boot_sendImage (s : State) (id : Nat) (i : Image) (e : Nat × Nat × Nat) (k : Nat) : (s.sendImage id i e).boot k = s.boot k := by
  rw [s.sendImage_frame id i e]
  rfl

/-- What the taking of boot-tree entries keeps of a boot. -/
structure Boot.Spreads (b c : Boot) : Prop where
  id : c.id = b.id
  holds : c.holds = b.holds
  failed : b.failed = true → c.failed = true

theorem Boot.Spreads.trans {b c d : Boot} (h : b.Spreads c) (k : c.Spreads d) : b.Spreads d :=
  ⟨k.id.trans h.id, k.holds.trans h.holds, fun hf => k.failed (h.failed hf)⟩

/-- An entry of the tree is taken: it is sent, or it fails. -/
theorem State.spread_step {s : State} {id : Nat} {b : Boot} (hb : s.boot id = some b) (e : Nat × Nat × Nat) (ok : Bool) :
    let c : Boot := if ok then { b with edges := b.edges.erase e, sent := b.sent ++ [e] } else { b with edges := b.edges.erase e, failed := true }
    let t := if ok then (s.setBoot { b with edges := b.edges.erase e, sent := b.sent ++ [e] }).sendImage id b.image e
      else s.setBoot { b with edges := b.edges.erase e, failed := true }
    t.boot id = some c ∧ s.BootFrame t ∧ b.Spreads c ∧ c.edges = b.edges.erase e := by
  have hid : b.id = id := State.boot_id hb
  cases ok with
  | true =>
    have hf := (s.setBoot { b with edges := b.edges.erase e, sent := b.sent ++ [e] }).sendImage_frame id b.image e
    refine ⟨?_, ?_, ⟨rfl, rfl, fun h => h⟩, rfl⟩
    · exact (State.boot_sendImage ..).trans (State.boot_setBoot hb hid)
    · exact State.BootFrame.trans (rfl : s.BootFrame (s.setBoot _)) (hf.trans (by rw [hf]; rfl))
  | false => exact ⟨State.boot_setBoot hb hid, rfl, ⟨rfl, rfl, fun _ => rfl⟩, rfl⟩

/-- Once the entries of a boot tree are taken, no entry is left whose FROM holds its image (R124). -/
theorem State.spread_boot (id n : Nat) {s : State} {b : Boot} (hb : s.boot id = some b) (hn : b.edges.length ≤ n) :
    ∃ c, (State.spread id n s).boot id = some c ∧ s.BootFrame (State.spread id n s) ∧ b.Spreads c ∧
      ∀ e ∈ c.edges, (e.1, e.2.2) ∉ b.holds := by
  induction n generalizing s b with
  | zero =>
    have hnil : b.edges = [] := List.length_eq_zero_iff.mp (Nat.le_zero.mp hn)
    exact ⟨b, hb, rfl, ⟨rfl, rfl, fun h => h⟩, by simp [hnil]⟩
  | succ n ih =>
    unfold State.spread
    simp only [hb]
    split
    · rename_i hfind
      refine ⟨b, hb, rfl, ⟨rfl, rfl, fun h => h⟩, fun e he hheld => ?_⟩
      have hfree := List.find?_eq_none.mp hfind e he
      rw [List.contains_iff_mem.mpr hheld] at hfree
      exact hfree rfl
    · rename_i e hfind
      have he : e ∈ b.edges := List.mem_of_find?_eq_some hfind
      obtain ⟨h1, h2, h3, h4⟩ := State.spread_step hb e (b.holds.contains (e.1, e.2.2) && s.coreUp e.2.1)
      obtain ⟨c, k1, k2, k3, k4⟩ := ih h1 (by rw [h4, List.length_erase_of_mem he]; omega)
      exact ⟨c, k1, h2.trans k2, h3.trans k3, by rw [← h3.holds]; exact k4⟩

/-! ### The end of forwarding (R382) -/

/-- The end of forwarding touches the host alone, and keeps what a boot holds. -/
theorem State.bootDone_keeps (s : State) (id : Nat) :
    s.bootDone id = { s with host := (s.bootDone id).host } ∧ ∀ c, (s.bootDone id).boot id = some c →
      ∃ b, s.boot id = some b ∧ b.Spreads c ∧ c.edges = b.edges := by
  have hsend : ∀ (t : State) (n code : Nat) (p : List Byte), t = { s with host := t.host } →
      t.khtSend n 0x31 code p = { s with host := (t.khtSend n 0x31 code p).host } := by
    intro t n code p ht
    have hf := t.khtSend_frame n 0x31 code p
    rw [ht] at hf
    rw [ht]
    exact hf
  have hboot : ∀ (t : State) (n code : Nat) (p : List Byte), (t.khtSend n 0x31 code p).boot id = t.boot id := by
    intro t n code p
    rw [State.boot, State.boot, State.khtSend_boots]
  unfold State.bootDone
  cases hb : s.boot id with
  | none => exact ⟨rfl, fun c hc => by rw [hb] at hc; cases hc⟩
  | some b =>
    dsimp only
    have hid := State.boot_id hb
    split
    · exact ⟨rfl, fun c hc => ⟨c, by rw [← hc, hb], ⟨rfl, rfl, fun h => h⟩, rfl⟩⟩
    · generalize hleft : b.starts.filter b.holds.contains = left
      obtain ⟨hrest, hkeep⟩ : (if left.isEmpty then s.dropBoot id else s.setBoot { b with starts := left }) =
          { s with host := (if left.isEmpty then s.dropBoot id else s.setBoot { b with starts := left }).host } ∧
          ∀ c, (if left.isEmpty then s.dropBoot id else s.setBoot { b with starts := left }).boot id = some c → b.Spreads c ∧ c.edges = b.edges := by
        split
        · exact ⟨rfl, fun c hc => by rw [State.boot_dropBoot] at hc; cases hc⟩
        · refine ⟨rfl, fun c hc => ?_⟩
          rw [State.boot_setBoot (b := { b with starts := left }) hb hid] at hc
          cases hc
          exact ⟨⟨rfl, rfl, fun h => h⟩, rfl⟩
      generalize (if left.isEmpty then s.dropBoot id else s.setBoot { b with starts := left }) = t at hrest hkeep
      split
      · exact ⟨hsend t _ _ _ hrest, fun c hc => ⟨b, rfl, hkeep c (by rw [← hc, hboot])⟩⟩
      · split
        · exact ⟨hsend t _ _ _ hrest, fun c hc => ⟨b, rfl, hkeep c (by rw [← hc, hboot])⟩⟩
        · exact ⟨hsend t _ _ _ hrest, fun c hc => ⟨b, rfl, hkeep c (by rw [← hc, hboot])⟩⟩

/-- The state that answers the end of a boot: of the host only its boots have changed. -/
theorem State.bootDone_answers {s : State} {id : Nat} {b : Boot} (hb : s.boot id = some b) (he : b.edges = []) (hs : b.sent = []) :
    ∃ u : State, u.host.sessions = s.host.sessions ∧ u.clock = s.clock ∧
      (b.failed = true ∨ (∃ x ∈ b.starts, x ∉ b.holds) → s.bootDone id = u.khtSend b.session 0x31 7 []) ∧
      (∀ f, b.failed = false → (∀ x ∈ b.starts, x ∈ b.holds) → negotiate b.image = .ok f →
        s.bootDone id = u.khtSend b.session 0x31 0 (toBytes 8 f)) := by
  have hall : (b.starts.filter b.holds.contains != b.starts) = true ↔ ∃ x ∈ b.starts, x ∉ b.holds := by
    rw [bne_iff_ne, ne_eq, List.filter_eq_self]
    simp
  have hleft : (b.failed || b.starts.filter b.holds.contains != b.starts) = true ↔ b.failed = true ∨ ∃ x ∈ b.starts, x ∉ b.holds := by
    rw [Bool.or_eq_true, hall]
  refine ⟨if (b.starts.filter b.holds.contains).isEmpty then s.dropBoot id else s.setBoot { b with starts := b.starts.filter b.holds.contains },
    ?_, ?_, fun h => ?_, fun f hf hst hneg => ?_⟩
  · split <;> rfl
  · split <;> rfl
  · simp only [State.bootDone, hb, he, hs, List.isEmpty_nil, Bool.not_true, Bool.or_self, Bool.false_eq_true, if_false, if_pos (hleft.mpr h)]
  · have hno : ¬(b.failed = true ∨ ∃ x ∈ b.starts, x ∉ b.holds) := by
      rintro (h | ⟨x, hx, hnx⟩)
      · rw [hf] at h
        cases h
      · exact hnx (hst x hx)
    simp only [State.bootDone, hb, he, hs, List.isEmpty_nil, Bool.not_true, Bool.or_self, Bool.false_eq_true, if_false,
      if_neg (hleft.not.mpr hno), hneg]

/-! ### Forwarding (R124) -/

theorem State.holdImage_frame (s : State) (i : Image) (core r : Nat) :
    s.holdImage i core r = { s with cores := (s.holdImage i core r).cores } := by
  unfold State.holdImage
  split <;> rfl

theorem State.core_holdImage (s : State) (i : Image) (core r k : Nat) : (s.holdImage i core r).core k =
    if k = core ∧ i.roleOf core = some r then { s.core k with image := some ((i.text r).1, (i.text r).1 + (i.text r).2.2) } else s.core k := by
  unfold State.holdImage
  by_cases hr : i.roleOf core = some r
  · rw [if_pos hr]
    by_cases hk : k = core
    · subst hk
      simp [hr]
    · simp [hk, State.core_setCore_ne s _ hk]
  · simp [hr]

/-- The entries that come free of a boot are sent, and forwarding ends where none is left. -/
theorem State.spreadBoot_keeps {s : State} {id : Nat} {b : Boot} (hb : s.boot id = some b) :
    s.spreadBoot id = { s with host := (s.spreadBoot id).host, mesh := (s.spreadBoot id).mesh } ∧
      ∀ c, (s.spreadBoot id).boot id = some c → b.Spreads c ∧ ∀ e ∈ c.edges, (e.1, e.2.2) ∉ b.holds := by
  obtain ⟨c, hc, hframe, hsp, hedges⟩ := State.spread_boot id b.edges.length hb (Nat.le_refl _)
  obtain ⟨hdone, hkeep⟩ := (State.spread id b.edges.length s).bootDone_keeps id
  have heq : s.spreadBoot id = (State.spread id b.edges.length s).bootDone id := by
    simp [State.spreadBoot, hb]
  rw [heq]
  refine ⟨?_, fun d hd => ?_⟩
  · rw [hdone, hframe]
  · obtain ⟨c', hc', hsp', he'⟩ := hkeep d hd
    rw [hc] at hc'
    cases hc'
    exact ⟨hsp.trans hsp', by rw [he']; exact hedges⟩

theorem State.spreadBoot_ended {s : State} {id : Nat} {b : Boot} (hb : s.boot id = some b) (he : b.edges = []) : s.spreadBoot id = s.bootDone id := by
  simp [State.spreadBoot, hb, he, State.spread]

/-- The boot after the forwarding of an entry has ended. -/
def Boot.forwarded (b : Boot) (e : Nat × Nat × Nat) (ok : Bool) : Boot :=
  if ok then { b with sent := b.sent.erase e, holds := (e.2.1, e.2.2) :: b.holds } else { b with sent := b.sent.erase e, failed := true }

/-- The state in which the entries that come free are taken. -/
def State.forwardedTo (s : State) (b : Boot) (e : Nat × Nat × Nat) (ok : Bool) : State :=
  if ok then (s.setBoot (b.forwarded e ok)).holdImage b.image e.2.1 e.2.2 else s.setBoot (b.forwarded e ok)

theorem State.forwarded_eq {s : State} {id : Nat} {b : Boot} (hb : s.boot id = some b) (e : Nat × Nat × Nat) (ok : Bool) :
    s.forwarded id e ok = (s.forwardedTo b e ok).spreadBoot id := by
  cases ok <;> simp [State.forwarded, hb, State.forwardedTo, Boot.forwarded]

theorem State.boot_forwardedTo {s : State} {id : Nat} {b : Boot} (hb : s.boot id = some b) (e : Nat × Nat × Nat) (ok : Bool) :
    (s.forwardedTo b e ok).boot id = some (b.forwarded e ok) := by
  have hset : (s.setBoot (b.forwarded e ok)).boot id = some (b.forwarded e ok) :=
    State.boot_setBoot hb ((by cases ok <;> rfl : (b.forwarded e ok).id = b.id).trans (State.boot_id hb))
  cases ok with
  | true =>
    rw [State.forwardedTo, if_pos rfl, State.holdImage_frame]
    exact hset
  | false => exact hset

/-- The forwarding of an entry changes the mesh, the boots and the answers to the host, and gives TO the range of its role image. -/
theorem State.forwarded_keeps {s : State} {id : Nat} {b : Boot} (hb : s.boot id = some b) (e : Nat × Nat × Nat) (ok : Bool) :
    let t := s.forwarded id e ok
    t = { s with host := t.host, mesh := t.mesh, cores := t.cores } ∧
      (∀ k, t.core k = if ok = true ∧ k = e.2.1 ∧ Image.roleOf b.image e.2.1 = some e.2.2 then
        { s.core k with image := some ((Image.text b.image e.2.2).1, (Image.text b.image e.2.2).1 + (Image.text b.image e.2.2).2.2) } else s.core k) ∧
      ∀ c, t.boot id = some c → (b.forwarded e ok).Spreads c ∧ ∀ x ∈ c.edges, (x.1, x.2.2) ∉ (b.forwarded e ok).holds := by
  rw [State.forwarded_eq hb e ok]
  obtain ⟨hframe, hboot⟩ := State.spreadBoot_keeps (State.boot_forwardedTo hb e ok)
  have hto : s.forwardedTo b e ok = { s with host := (s.forwardedTo b e ok).host, cores := (s.forwardedTo b e ok).cores } := by
    unfold State.forwardedTo
    cases ok with
    | true => rw [if_pos rfl, State.holdImage_frame]; rfl
    | false => rfl
  have hcore : ∀ k, (s.forwardedTo b e ok).core k = if ok = true ∧ k = e.2.1 ∧ Image.roleOf b.image e.2.1 = some e.2.2 then
      { s.core k with image := some ((Image.text b.image e.2.2).1, (Image.text b.image e.2.2).1 + (Image.text b.image e.2.2).2.2) } else s.core k := by
    intro k
    cases ok with
    | true =>
      rw [State.forwardedTo, if_pos rfl, State.core_holdImage]
      simp only [true_and]
      rfl
    | false => simp [State.forwardedTo]; rfl
  refine ⟨?_, fun k => ?_, hboot⟩
  · rw [hframe, hto]
  · rw [← hcore k, hframe]
    rfl

/-- With the last entry of the tree forwarded, the LOADREPLY follows (R382). -/
theorem State.forwarded_answers {s : State} {id : Nat} {b : Boot} (hb : s.boot id = some b) (e : Nat × Nat × Nat) (ok : Bool)
    (he : b.edges = []) (hs : b.sent = [e]) :
    ∃ u : State, u.host.sessions = s.host.sessions ∧ u.clock = s.clock ∧
      (ok = false ∨ b.failed = true ∨ (∃ x ∈ b.starts, x ∉ (b.forwarded e ok).holds) → s.forwarded id e ok = u.khtSend b.session 0x31 7 []) ∧
      (∀ f, ok = true → b.failed = false → (∀ x ∈ b.starts, x ∈ (b.forwarded e ok).holds) → negotiate b.image = .ok f →
        s.forwarded id e ok = u.khtSend b.session 0x31 0 (toBytes 8 f)) := by
  have hedges : (b.forwarded e ok).edges = [] := by cases ok <;> exact he
  have hsent : (b.forwarded e ok).sent = [] := by cases ok <;> simp [Boot.forwarded, hs]
  obtain ⟨u, hsess, hclock, hno, hyes⟩ := State.bootDone_answers (State.boot_forwardedTo hb e ok) hedges hsent
  rw [State.forwarded_eq hb e ok, State.spreadBoot_ended (State.boot_forwardedTo hb e ok) hedges]
  refine ⟨u, hsess.trans ?_, hclock.trans ?_, fun h => ?_, fun f hok hf hst hneg => ?_⟩
  · cases ok with
    | true => rw [State.forwardedTo, if_pos rfl, State.holdImage_frame]; rfl
    | false => rfl
  · cases ok with
    | true => rw [State.forwardedTo, if_pos rfl, State.holdImage_frame]; rfl
    | false => rfl
  · cases ok with
    | true => exact hno (h.resolve_left (by simp))
    | false => exact hno (.inl rfl)
  · subst hok
    exact hyes f hf hst hneg

end Sys2Proof.Machine

/-! ## Messages on the control mesh (R17) -/

namespace Sys2Proof.Machine

/-! ### A message taken at its destination -/

theorem meshTake_none {s : State} {i : Nat} (h : s.mesh[i]? = none) : s.meshTake i = none := by
  simp [State.meshTake, h]
theorem meshTake_stays {s : State} {i : Nat} {m : MeshMsg} (h : s.mesh[i]? = some m) (hm : m.arrived = false ∨ s.mayMove i m = false) :
    s.meshTake i = none := by
  rcases hm with hm | hm <;> simp [State.meshTake, h, hm]
theorem meshTake_some {s : State} {i : Nat} {m : MeshMsg} (h : s.mesh[i]? = some m) (ha : m.arrived = true) (hm : s.mayMove i m = true) :
    s.meshTake i = some (m, { s with mesh := s.mesh.eraseIdx i }) := by
  simp [State.meshTake, h, ha, hm]

/-- No earlier message of its unit, to the same unit and in its class, stands where it does (R17). -/
theorem mayMove_iff (s : State) (i : Nat) (m : MeshMsg) : s.mayMove i m = true ↔
    ∀ j x, j < i → s.mesh[j]? = some x → x.die = m.die → x.router = m.router → x.src = m.src → x.body.cls = m.body.cls →
      x.body.unit x.ddie x.drouter ≠ m.body.unit m.ddie m.drouter := by
  have htake : ∀ x, x ∈ s.mesh.take i ↔ ∃ j, j < i ∧ s.mesh[j]? = some x := fun x => by
    rw [List.mem_iff_getElem?]
    refine exists_congr fun j => ?_
    rw [List.getElem?_take]
    split <;> simp_all
  simp only [State.mayMove, Bool.not_eq_true', List.any_eq_false, Bool.and_eq_true, beq_iff_eq, htake]
  constructor
  · exact fun h j x hj hx h1 h2 h3 h4 h5 => h x ⟨j, hj, hx⟩ ⟨⟨⟨⟨h1, h2⟩, h3⟩, h4⟩, h5⟩
  · rintro h x ⟨j, hj, hx⟩ ⟨⟨⟨⟨h1, h2⟩, h3⟩, h4⟩, h5⟩
    exact h j x hj hx h1 h2 h3 h4 h5

/-- No message of an earlier class waits for the link of its next hop (R17). -/
theorem linkFree_iff (s : State) (m : MeshMsg) : s.linkFree m = true ↔
    ∀ x ∈ s.mesh, x.die = m.die → x.router = m.router → ¬(x.die = x.ddie ∧ x.router = x.drouter) →
      nextHop x.die x.router x.ddie x.drouter = nextHop m.die m.router m.ddie m.drouter → m.body.cls ≤ x.body.cls := by
  have hdest : ∀ x : MeshMsg, (!(x.ddie == x.die && x.drouter == x.router)) = true ↔ ¬(x.die = x.ddie ∧ x.router = x.drouter) := fun x => by
    simp only [Bool.not_eq_true', Bool.and_eq_false_imp, beq_iff_eq, beq_eq_false_iff_ne, not_and, eq_comm (b := x.die), eq_comm (b := x.router), ne_eq]
  simp only [State.linkFree, Bool.not_eq_true', List.any_eq_false, Bool.and_eq_true, beq_iff_eq, hdest, decide_eq_true_eq]
  constructor
  · exact fun h x hx h1 h2 h3 h4 => Nat.not_lt.mp fun hlt => h x hx ⟨⟨⟨⟨h1, h2⟩, h4⟩, h3⟩, hlt⟩
  · rintro h x hx ⟨⟨⟨⟨h1, h2⟩, h4⟩, h3⟩, hlt⟩
    exact absurd (h x hx h1 h2 h3 h4) (Nat.not_le.mpr hlt)

theorem meshForward_none {s : State} {i : Nat} (h : s.mesh[i]? = none) : s.meshForward i = s := by
  simp [State.meshForward, h]
theorem meshForward_arrived {s : State} {i : Nat} {m : MeshMsg} (h : s.mesh[i]? = some m) (ha : m.arrived = true) :
    s.meshForward i = if m.body = .time then { s with mesh := s.mesh.eraseIdx i } else s := by
  simp only [State.meshForward, h, ha, if_true]
/-- A message moves on by one hop of its route. -/
theorem meshForward_moves {s : State} {i : Nat} {m : MeshMsg} (h : s.mesh[i]? = some m) (ha : m.arrived = false) :
    s.meshForward i = if s.mayMove i m = true ∧ s.linkFree m = true then
      { s with mesh := setAt s.mesh i { m with
        die := (nextHop m.die m.router m.ddie m.drouter).1, router := (nextHop m.die m.router m.ddie m.drouter).2 } } else s := by
  have hstay : (!s.mayMove i m || !s.linkFree m) = true ↔ ¬(s.mayMove i m = true ∧ s.linkFree m = true) := by
    cases s.mayMove i m <;> simp
  simp only [State.meshForward, h, ha, Bool.false_eq_true, if_false, hstay, ite_not]

/-! ### Messages to places (R38, R380) -/

theorem sendPlace_eq (s : State) (src die router place : Nat) (b : MeshBody) : s.sendPlace src die router place b =
    if 48 ≤ place % 64 then s
    else if place / 256 % 256 ≠ Config.package % 256 then { s with fabric := s.fabric ++ [(place, b)] }
    else { s with mesh := s.mesh ++ [⟨src, die, router, place / 64 % 4, place % 64, b⟩] } := by
  simp only [State.sendPlace, isForeign, bne_iff_ne, State.sendMesh]

theorem sendPlace_frame (s : State) (src die router place : Nat) (b : MeshBody) : s.sendPlace src die router place b =
    { s with mesh := (s.sendPlace src die router place b).mesh, fabric := (s.sendPlace src die router place b).fabric } := by
  rw [sendPlace_eq]
  split
  · rfl
  · split <;> rfl

/-- What is on the mesh and in the fabric stays there. -/
structure State.Sends (s t : State) : Prop where
  rest : t = { s with mesh := t.mesh, fabric := t.fabric }
  mesh : ∀ m ∈ s.mesh, m ∈ t.mesh
  fabric : ∀ x ∈ s.fabric, x ∈ t.fabric

theorem State.Sends.refl (s : State) : s.Sends s := ⟨rfl, fun _ h => h, fun _ h => h⟩
theorem State.Sends.trans {s t u : State} (h : s.Sends t) (k : t.Sends u) : s.Sends u where
  rest := by
    have hr := k.rest
    rw [h.rest] at hr
    exact hr
  mesh m hm := k.mesh m (h.mesh m hm)
  fabric x hx := k.fabric x (h.fabric x hx)

theorem State.sends_sendPlace (s : State) (src die router place : Nat) (b : MeshBody) : s.Sends (s.sendPlace src die router place b) := by
  refine ⟨sendPlace_frame .., fun m hm => ?_, fun x hx => ?_⟩
  · rw [sendPlace_eq]
    split
    · exact hm
    · split
      · exact hm
      · exact List.mem_append_left _ hm
  · rw [sendPlace_eq]
    split
    · exact hx
    · split
      · exact List.mem_append_left _ hx
      · exact hx

/-- A message to each of several places: one to a place here is on the mesh, one to a place of another package in the fabric. -/
theorem State.sends_places (src die router : Nat) (b : MeshBody) (ks : List Nat) (s : State) :
    let t := ks.foldl (fun t k => t.sendPlace src die router k b) s
    s.Sends t ∧
      (∀ k ∈ ks, k % 64 < 48 → k / 256 % 256 = Config.package % 256 → (⟨src, die, router, k / 64 % 4, k % 64, b⟩ : MeshMsg) ∈ t.mesh) ∧
      (∀ k ∈ ks, k % 64 < 48 → k / 256 % 256 ≠ Config.package % 256 → (k, b) ∈ t.fabric) := by
  induction ks generalizing s with
  | nil => exact ⟨.refl s, by simp, by simp⟩
  | cons k ks ih =>
    obtain ⟨hs, hm, hf⟩ := ih (s.sendPlace src die router k b)
    refine ⟨(s.sends_sendPlace src die router k b).trans hs, fun j hj h48 hp => ?_, fun j hj h48 hp => ?_⟩
    · rcases List.mem_cons.mp hj with rfl | hj
      · refine hs.mesh _ ?_
        rw [sendPlace_eq, if_neg (by omega), if_neg (by simpa using hp)]
        simp
      · exact hm j hj h48 hp
    · rcases List.mem_cons.mp hj with rfl | hj
      · refine hs.fabric _ ?_
        rw [sendPlace_eq, if_neg (by omega), if_pos hp]
        simp
      · exact hf j hj h48 hp

end Sys2Proof.Machine

/-! ## The start of the covered cores (R64, R166, R382) -/

namespace Sys2Proof.Machine

/-! ### The mode of a start block -/

/-- PRIV is the two low bits of STATUS (R150). -/
theorem privOf_congr {v w : Word} (h : v.toNat % 4 = w.toNat % 4) : privOf v = privOf w := by
  have hf : ∀ x : Word, (field x 0 2).toNat = x.toNat % 4 := fun x => by simp [field]
  unfold privOf
  rw [hf, hf, h]

theorem toNat_setField_prio (w : Word) : (setField w 8 2 2).toNat % 4 = w.toNat % 4 := by
  have := w.isLt
  simp only [setField, natField, BitVec.toNat_ofNat]
  omega
theorem toNat_setField_priv (w : Word) (h : natField w 0 2 = 2) : (setField w 0 2 0).toNat % 4 = 0 ∧ w.toNat % 4 = 2 := by
  have := w.isLt
  simp only [natField] at h
  simp only [setField, natField, BitVec.toNat_ofNat]
  omega

theorem toNat_statusBits (w : Word) : (w &&& 0x73B).toNat % 4 = w.toNat % 4 := by
  have h : (w.toNat &&& 0x73B) % 2 ^ 2 = w.toNat % 2 ^ 2 &&& 0x73B % 2 ^ 2 := Nat.and_mod_two_pow
  have h3 : w.toNat % 2 ^ 2 &&& 2 ^ 2 - 1 = w.toNat % 2 ^ 2 % 2 ^ 2 := Nat.and_two_pow_sub_one_eq_mod _ 2
  rw [Nat.mod_mod] at h3
  exact h.trans h3

/-- The adjustments of a stored STATUS keep the mode (R26, R156). -/
theorem privOf_fixStatus (w : Word) : privOf (fixStatus w) = privOf w := by
  have hprio : ∀ v : Word, privOf (if natField v 0 2 = 0 ∧ natField v 8 2 = 3 then setField v 8 2 2 else v) = privOf v := by
    intro v
    split
    · exact privOf_congr (toNat_setField_prio v)
    · rfl
  have hpriv : ∀ v : Word, privOf (if natField v 0 2 = 2 then setField v 0 2 0 else v) = privOf v := by
    intro v
    split
    · rename_i h
      obtain ⟨h0, h2⟩ := toNat_setField_priv v h
      have hf : ∀ x : Word, (field x 0 2).toNat = x.toNat % 4 := fun x => by simp [field]
      unfold privOf
      rw [hf, hf, h0, h2]
      rfl
    · rfl
  exact ((hprio _).trans (hpriv _)).trans (privOf_congr (toNat_statusBits w))

/-! ### ROLE_START -/

theorem State.slot_unpause (s : State) (core sid : Nat) : (s.unpause core).slot sid = s.slot sid := by
  unfold State.unpause
  split <;> rfl

/-- The slot of a strand that starts from a start block (R64, R166). -/
theorem State.startStrand_slot (s : State) (sid : Nat) (e : Word) (bs : List Byte) (asid : Word) :
    ((s.startStrand sid e bs asid).slot sid).phase = .ready ∧ ((s.startStrand sid e bs asid).slot sid).pc = e ∧
      ((s.startStrand sid e bs asid).slot sid).sched.checked = true ∧ ((s.startStrand sid e bs asid).slot sid).ctl.asid = asid ∧
      ((s.startStrand sid e bs asid).slot sid).mode = privOf (dwordAt bs 1) := by
  simp only [State.startStrand, State.slot_unpause, State.slot_setSlot_self]
  exact ⟨trivial, trivial, trivial, trivial, privOf_fixStatus _⟩

/-- The boots that start a core, once nothing is left to forward (R382). -/
def Boot.starting (core : Nat) (b : Boot) : Bool := b.edges.isEmpty && b.sent.isEmpty && b.starts.any fun x => x.1 == core
/-- The slot in which a core starts. -/
def startSlot (core : Nat) : Nat := 8 * core + (if isManagement core then 1 else 0)

/-- The state in which the start of a core has been taken out of its boot. -/
def State.startTaken (s : State) (b : Boot) (core r : Nat) : State :=
  if b.starts.erase (core, r) = [] then s.dropBoot b.id else s.setBoot { b with starts := b.starts.erase (core, r) }

theorem roleStart_none {s : State} {core : Nat} (h : ∀ b ∈ s.host.boots, Boot.starting core b = false) : s.roleStart core = s := by
  have hfind : s.host.boots.find? (Boot.starting core) = none := List.find?_eq_none.mpr fun b hb => by simp [h b hb]
  unfold State.roleStart
  unfold Boot.starting at hfind
  rw [hfind]

/-- A start whose `.scratch` contents are written: `strandnew` decides. -/
theorem roleStart_scratched {s : State} {core r : Nat} {b : Boot} (hb : s.host.boots.find? (Boot.starting core) = some b)
    (hr : b.starts.find? (fun x => x.1 == core) = some (core, r)) (hs : b.scratched = true) :
    s.roleStart core = match (s.startTaken b core r).startStatus (word (startSlot core)) (word (Image.entry b.image r 0))
        (Image.startBlock b.image r) with
      | some _ => s.startTaken b core r
      | none => (s.startTaken b core r).startStrand (startSlot core) (word (Image.entry b.image r 0)) (Image.startBlock b.image r)
          (s.firmwareAsid (core / 512)) := by
  have htaken : (if (b.starts.erase (core, r)).isEmpty then s.dropBoot b.id
      else s.setBoot { b with starts := b.starts.erase (core, r), scratched := true }) = s.startTaken b core r := by
    have hmark : ∀ l, { b with starts := l, scratched := true } = { b with starts := l } := fun l => by rw [← hs]
    simp only [State.startTaken, List.isEmpty_iff, hmark]
  unfold State.roleStart
  unfold Boot.starting at hb
  rw [hb]
  dsimp only
  rw [hr]
  dsimp only
  rw [if_pos hs, htaken]
  rfl

/-- The `.scratch` contents go into clusters alone (R123). -/
theorem State.loadScratches_frame (s : State) (b : Boot) : s.loadScratches b = { s with clusters := (s.loadScratches b).clusters } := by
  have hclusters : ∀ (p : State → Nat → Bool) (f : State → Nat → Cluster) (cls : List Nat) (u : State),
      cls.foldl (fun (s : State) cl => if p s cl then s.setCluster cl (f s cl) else s) u =
        { u with clusters := (cls.foldl (fun (s : State) cl => if p s cl then s.setCluster cl (f s cl) else s) u).clusters } := by
    intro p f cls
    induction cls with
    | nil => exact fun u => rfl
    | cons cl cls ih =>
      intro u
      have h1 := ih (if p u cl then u.setCluster cl (f u cl) else u)
      rw [List.foldl_cons, h1]
      split <;> rfl
  unfold State.loadScratches
  dsimp only
  generalize List.range (Image.nrole b.image) = rs
  induction rs generalizing s with
  | nil => rfl
  | cons r rs ih =>
    rw [List.foldl_cons, ih]
    dsimp only
    rw [hclusters]

/-- A boot replaced by one that starts the core still is the first to start it. -/
theorem find_starting_setBoot {core : Nat} {b c : Boot} (bs : List Boot) (hb : bs.find? (Boot.starting core) = some b) (hid : c.id = b.id)
    (hc : Boot.starting core c = true) :
    (bs.map fun x => if x.id = c.id then c else x).find? (Boot.starting core) = some c := by
  induction bs with
  | nil => cases hb
  | cons x xs ih =>
    by_cases hx : x.id = c.id
    · simp [hx, hc]
    · have hno : Boot.starting core x = false := by
        by_contra h
        rw [Bool.not_eq_false] at h
        rw [List.find?_cons_of_pos h] at hb
        cases hb
        exact hx hid.symm
      rw [List.find?_cons_of_neg (by simp [hno])] at hb
      rw [List.map_cons, if_neg hx, List.find?_cons_of_neg (by simp [hno])]
      exact ih hb

theorem State.setBoot_setBoot (s : State) {b c : Boot} (h : b.id = c.id) : (s.setBoot b).setBoot c = s.setBoot c := by
  have hmap : (s.host.boots.map fun x => if x.id = b.id then b else x).map (fun x => if x.id = c.id then c else x) =
      s.host.boots.map fun x => if x.id = c.id then c else x := by
    rw [List.map_map]
    refine List.map_congr_left fun x _ => ?_
    by_cases hx : x.id = c.id <;> simp [hx, h]
  show { s with host := { s.host with boots := _ } } = { s with host := { s.host with boots := _ } }
  rw [← hmap]
  rfl

theorem State.dropBoot_setBoot (s : State) (b : Boot) : (s.setBoot b).dropBoot b.id = s.dropBoot b.id := by
  have hfilter : (s.host.boots.map fun x => if x.id = b.id then b else x).filter (fun x => x.id != b.id) =
      s.host.boots.filter fun x => x.id != b.id := by
    generalize s.host.boots = bs
    induction bs with
    | nil => rfl
    | cons x xs ih => by_cases hx : x.id = b.id <;> simp [hx, ih]
  show { s with host := { s.host with boots := _ } } = { s with host := { s.host with boots := _ } }
  rw [← hfilter]
  rfl

/-- A start whose `.scratch` contents are not written yet writes them first. -/
theorem roleStart_unscratched {s : State} {core r : Nat} {b : Boot} (hb : s.host.boots.find? (Boot.starting core) = some b)
    (hr : b.starts.find? (fun x => x.1 == core) = some (core, r)) (hs : b.scratched = false) :
    s.roleStart core = ((s.loadScratches b).setBoot { b with scratched := true }).roleStart core := by
  have hfind : ((s.loadScratches b).setBoot { b with scratched := true }).host.boots.find? (Boot.starting core) =
      some { b with scratched := true } := by
    rw [s.loadScratches_frame b]
    exact find_starting_setBoot s.host.boots hb rfl (by simpa [Boot.starting] using List.find?_some hb)
  have htaken : ((s.loadScratches b).setBoot { b with scratched := true }).startTaken { b with scratched := true } core r =
      if (b.starts.erase (core, r)).isEmpty then (s.loadScratches b).dropBoot b.id
      else (s.loadScratches b).setBoot { b with starts := b.starts.erase (core, r), scratched := true } := by
    unfold State.startTaken
    simp only [List.isEmpty_iff]
    split
    · exact State.dropBoot_setBoot (s.loadScratches b) { b with scratched := true }
    · exact State.setBoot_setBoot (s.loadScratches b) rfl
  have hasid : ((s.loadScratches b).setBoot { b with scratched := true }).firmwareAsid (core / 512) = s.firmwareAsid (core / 512) := by
    rw [s.loadScratches_frame b]
    rfl
  rw [roleStart_scratched (r := r) hfind hr rfl, htaken, hasid]
  unfold State.roleStart
  unfold Boot.starting at hb
  rw [hb]
  dsimp only
  rw [hr]
  simp only [hs, Bool.false_eq_true, if_false]
  rfl

/-! ### ROLE_IMAGE_FORWARD -/

theorem forwardImage_none {s : State} {i : Nat} (h : s.meshTake i = none) (ok : Bool) : s.forwardImage i ok = s := by
  simp [State.forwardImage, h]

theorem forwardImage_other {s : State} {i : Nat} {m : MeshMsg} (h : s.mesh[i]? = some m)
    (hb : ∀ id a c r last, m.body ≠ .image id a c r last) (ok : Bool) : s.forwardImage i ok = s := by
  unfold State.forwardImage State.meshTake
  rw [h]
  dsimp only
  split
  · rename_i m' s1 heq
    split at heq
    · cases heq
      split
      · rename_i hbody
        exact absurd hbody (hb _ _ _ _ _)
      · rfl
    · cases heq
  · rfl

/-- The state without the messages of a role image whose forwarding has ended. -/
def State.imageTaken (s : State) (i id a c r : Nat) (ok : Bool) : State :=
  if ok then { s with mesh := s.mesh.eraseIdx i }
  else { s with mesh := (s.mesh.eraseIdx i).filter fun x => !x.body.ofEdge id (a, c, r) }

theorem forwardImage_part {s : State} {i id a c r : Nat} {m : MeshMsg} (h : s.meshTake i = some (m, { s with mesh := s.mesh.eraseIdx i }))
    (hb : m.body = .image id a c r false) : s.forwardImage i true = { s with mesh := s.mesh.eraseIdx i } := by
  simp [State.forwardImage, h, hb]

theorem forwardImage_last {s : State} {i id a c r : Nat} {m : MeshMsg} {last ok : Bool}
    (h : s.meshTake i = some (m, { s with mesh := s.mesh.eraseIdx i })) (hb : m.body = .image id a c r last) (hl : ok = true → last = true) :
    s.forwardImage i ok = (s.imageTaken i id a c r ok).forwarded id (a, c, r) ok := by
  cases ok with
  | true => simp [State.forwardImage, h, hb, hl rfl, State.imageTaken]
  | false => simp [State.forwardImage, h, hb, State.imageTaken]

theorem boot_imageTaken (s : State) (i id a c r : Nat) (ok : Bool) (k : Nat) : (s.imageTaken i id a c r ok).boot k = s.boot k := by
  cases ok <;> rfl

/-- Settles O52: each event by what its operation leaves, the forwarding of a role image by an induction over the entries that come free. -/
theorem imagesLoadStartAndLinksTrain : Obligations.ImagesLoadStartAndLinksTrain := by
  unfold Obligations.ImagesLoadStartAndLinksTrain
  intro s
  refine ⟨?load, ?forward, ?start, ?reset, ?link⟩
  case load =>
    intro n t
    refine ⟨fun h => congrArg Host.Outcome.next (hostLoad_none h), ?_⟩
    intro m x hm hx off mask had bad whole part
    have hloading : x.loading m = (mask, had) := by
      unfold Session.loading mask had off
      split <;> rfl
    have hbad : bad ↔ x.badLoad m := by
      unfold Session.badLoad
      rw [hloading]
    have hwhole : (x.loading m).2 ++ m.payload.drop 16 = whole := by rw [hloading]
    refine ⟨fun hb => congrArg Host.Outcome.next (hostLoad_bad hm hx (hbad.mp hb)), fun hb hp => ?_, fun code hb hp hneg => ?_,
      fun features u hb hp hneg hu => ?_,
      fun features hb hp hneg hu => ?_⟩
    · refine congrArg Host.Outcome.next ((hostLoad_part hm hx (hbad.not.mp hb) (by rw [hwhole]; exact hp)).trans ?_)
      rw [hloading]
    · refine congrArg Host.Outcome.next ((hostLoad_whole hm hx (hbad.not.mp hb) (by rw [hwhole]; exact hp)).trans ?_)
      rw [hwhole, hneg]
    · refine congrArg Host.Outcome.next ((hostLoad_whole hm hx (hbad.not.mp hb) (by rw [hwhole]; exact hp)).trans ?_)
      rw [hwhole, hneg, hloading]
      dsimp only
      rw [hu, Option.getD_some]
    · refine congrArg Host.Outcome.next ((hostLoad_whole hm hx (hbad.not.mp hb) (by rw [hwhole]; exact hp)).trans ?_)
      rw [hwhole, hneg, hloading]
      dsimp only
      rw [hu, Option.getD_none]
  case forward =>
    intro i ok ev
    refine ⟨fun h => congrArg Host.Outcome.next (forwardImage_none (meshTake_none h) ok), fun m hm => ⟨?_, ?_⟩⟩
    · rintro (h | h | h)
      · exact congrArg Host.Outcome.next (forwardImage_none (meshTake_stays hm (.inl h)) ok)
      · exact congrArg Host.Outcome.next (forwardImage_none (meshTake_stays hm (.inr h)) ok)
      · exact congrArg Host.Outcome.next (forwardImage_other hm h ok)
    · intro id a c r last hbody harr hmay s1
      have htake := meshTake_some hm harr hmay
      refine ⟨?_, ?_⟩
      · rintro rfl rfl
        exact congrArg Host.Outcome.next (forwardImage_part htake hbody)
      · intro b hb hlast held
        have hb' : (s.imageTaken i id a c r ok).boot id = some b := (boot_imageTaken s i id a c r ok id).trans hb
        obtain ⟨hframe, hcore, hboot⟩ := State.forwarded_keeps hb' (a, c, r) ok
        have hheld : (b.forwarded (a, c, r) ok).holds = held := by cases ok <;> rfl
        have hfailed : ok = false → (b.forwarded (a, c, r) ok).failed = true := by
          rintro rfl
          rfl
        have hsame : ∀ k, (s.imageTaken i id a c r ok).core k = s.core k := fun k => by cases ok <;> rfl
        refine ⟨_, congrArg Host.Outcome.next (forwardImage_last htake hbody hlast), ?_, ?_, ?_, fun k => ?_, fun b' hb2 => ?_, fun he hsent => ?_⟩
        · rw [hframe]
          cases ok <;> rfl
        · rw [hframe]
          cases ok <;> rfl
        · rw [hframe]
          cases ok <;> rfl
        · rw [hcore k, hsame k]
        · obtain ⟨hsp, hedges⟩ := hboot b' hb2
          exact ⟨hsp.holds.trans hheld, fun hok => hsp.failed (hfailed hok), by rw [← hheld]; exact hedges⟩
        · obtain ⟨u, hsess, hclock, hno, hyes⟩ := State.forwarded_answers hb' (a, c, r) ok he hsent
          rw [hheld] at hno hyes
          have hsess' : u.host.sessions = s.host.sessions := hsess.trans (by cases ok <;> rfl)
          have hclock' : u.clock = s.clock := hclock.trans (by cases ok <;> rfl)
          exact ⟨fun h => ⟨u, hno h, hsess', hclock'⟩, fun f hok hf hst hneg => ⟨u, hyes f hok hf hst hneg, hsess', hclock'⟩⟩
  case start =>
    intro core mine sid
    refine ⟨fun h => congrArg Host.Outcome.next (roleStart_none h), fun b r hb hr =>
      ⟨fun hs => congrArg Host.Outcome.next (roleStart_unscratched hb hr hs), ?_⟩⟩
    intro hs left t entry
    have hstart := roleStart_scratched hb hr hs
    refine ⟨fun code hcode => congrArg Host.Outcome.next (hstart.trans ?_), fun hnone => ?_⟩
    · rw [show (s.startTaken b core r).startStatus (word (startSlot core)) (word (Image.entry b.image r 0)) (Image.startBlock b.image r) = some code
        from hcode]
      rfl
    · rw [show (s.startTaken b core r).startStatus (word (startSlot core)) (word (Image.entry b.image r 0)) (Image.startBlock b.image r) = none
        from hnone] at hstart
      obtain ⟨h1, h2, h3, h4, h5⟩ := (s.startTaken b core r).startStrand_slot (startSlot core) (word (Image.entry b.image r 0))
        (Image.startBlock b.image r) (s.firmwareAsid (core / 512))
      exact ⟨_, congrArg Host.Outcome.next hstart, h1, h2, h3, h4, h5⟩
  case reset =>
    obtain ⟨⟨hfree, hmode, hphase⟩, hrest, hclusters⟩ := s.powerOn_leaves
    refine ⟨s.powerOn, rfl, hfree, fun d hd => ⟨hmode d hd, hphase d hd⟩, ?_, ?_, ?_, ?_, ?_, ?_, ?_, by rw [hrest], by rw [hrest], hclusters⟩
    all_goals
      rw [hrest]
      rfl
  case link =>
    intro p d port frame common failed
    have hset : ∀ x, frame (s.setPort p (some x)) ∧ port (s.setPort p (some x)) = some x := fun x => ⟨⟨rfl, rfl, rfl⟩, s.port_setPort p x⟩
    refine ⟨?_, ?_, ?_⟩
    · intro lanes lo hi reach ev
      refine ⟨fun h => congrArg Host.Outcome.next (trainPort_absent h lanes lo hi reach), fun v h hl hv hmax => ?_, fun h hd => ?_⟩
      · exact ⟨_, congrArg Host.Outcome.next (trainPort_up h hl (linkVersion_some hv hmax) reach), hset _⟩
      · exact ⟨_, congrArg Host.Outcome.next (trainPort_down h (hd.imp id linkVersion_none) reach), State.logError_portDown p rfl⟩
    · intro h
      refine ⟨fun vc n data ok => congrArg Host.Outcome.next (flit_refused fun x hx => ?_), congrArg Host.Outcome.next (linkDown_none h)⟩
      rw [show s.port p = none from h] at hx
      cases hx
    · intro x hx
      refine ⟨fun vc n data ok => ⟨fun h => congrArg Host.Outcome.next (flit_refused fun y hy => ?_), fun hlen => ?_⟩, ?_⟩
      · rw [show s.port p = some x from hx] at hy
        cases hy
        exact h
      · exact ⟨_, congrArg Host.Outcome.next (flit_delivered hx hlen), hset _⟩
      · exact ⟨_, congrArg Host.Outcome.next (linkDown_some hx), State.logError_portDown p (failFars_frame s.cores (s.setPort p none))⟩

end Sys2Proof.Machine

/-! ## Combining entries and the results of their epochs (R38 to R43, R345) -/

namespace Sys2Proof.Machine

/-! ### Searching a sparse map that gets an entry -/

/-- The first entry that meets a condition stays the first one when its value is replaced by one that meets it. -/
theorem NMap.find?_insert_self {β : Type} {m : NMap β} {P : Nat × β → Bool} {k : Nat} {v w : β} (h : m.find? P = some (k, v))
    (hw : P (k, w) = true) : (m.insert k w).find? P = some (k, w) := by
  induction m with
  | nil => simp at h
  | cons p m ih =>
    obtain ⟨j, u⟩ := p
    simp only [NMap.insert]
    split
    · simp [hw]
    · split
      · simp [hw]
      · next hkj =>
        cases hp : P (j, u) with
        | true =>
          simp only [List.find?_cons_of_pos hp, Option.some.injEq, Prod.mk.injEq] at h
          exact absurd h.1.symm hkj
        | false =>
          rw [List.find?_cons_of_neg (by simp [hp])] at h ⊢
          exact ih h

/-- An insertion at a key that never meets the condition changes no search. -/
theorem NMap.find?_insert_of_not {β : Type} {P : Nat × β → Bool} {k : Nat} (hP : ∀ v, P (k, v) = false) (m : NMap β) (v : β) :
    (m.insert k v).find? P = m.find? P := by
  induction m with
  | nil => simp [NMap.insert, hP]
  | cons p m ih =>
    obtain ⟨j, u⟩ := p
    simp only [NMap.insert]
    split
    · simp [hP]
    · split
      · next hkj => simp [← hkj, hP]
      · simp only [List.find?_cons, ih]

/-- An entry stays in the map, unless it is the one found under the key. -/
theorem NMap.mem_insert_or_find {β : Type} {m : NMap β} {x : Nat × β} (hx : x ∈ m) (k : Nat) (v : β) :
    x ∈ m.insert k v ∨ (x.1 = k ∧ m.find k = some x.2) := by
  induction m with
  | nil => simp at hx
  | cons p m ih =>
    obtain ⟨j, u⟩ := p
    simp only [NMap.insert, NMap.find]
    rcases List.mem_cons.mp hx with rfl | hx
    · split
      · simp
      · split
        · next hkj => exact .inr ⟨hkj.symm, by simp [hkj]⟩
        · simp
    · split
      · simp [hx]
      · split
        · simp [hx]
        · next hkj =>
          rcases ih hx with h | ⟨h, hf⟩
          · exact .inl (List.mem_cons_of_mem _ h)
          · exact .inr ⟨h, by rw [if_neg (Ne.symm hkj), hf]⟩

/-- The value of a key stands in the map. -/
theorem NMap.mem_insert_self {β : Type} (m : NMap β) (k : Nat) (v : β) : (k, v) ∈ m.insert k v :=
  NMap.mem_of_find (NMap.find_insert_self m k v)

/-- An entry that meets a condition stays in the map when the first such entry is replaced, unless it is that one. -/
theorem NMap.mem_insert_or_found {β : Type} {m : NMap β} {P : Nat × β → Bool} {k : Nat} {v : β} (h : m.find? P = some (k, v))
    {x : Nat × β} (hx : x ∈ m) (hP : P x = true) (w : β) : x ∈ m.insert k w ∨ x = (k, v) := by
  induction m with
  | nil => simp at hx
  | cons p m ih =>
    obtain ⟨j, u⟩ := p
    simp only [NMap.insert]
    split
    · exact .inl (List.mem_cons_of_mem _ hx)
    · split
      · next hkj =>
        rcases List.mem_cons.mp hx with rfl | hx
        · rw [List.find?_cons_of_pos hP] at h
          exact .inr (Option.some.inj h)
        · exact .inl (List.mem_cons_of_mem _ hx)
      · next hkj =>
        cases hp : P (j, u) with
        | true =>
          simp only [List.find?_cons_of_pos hp, Option.some.injEq, Prod.mk.injEq] at h
          exact absurd h.1.symm hkj
        | false =>
          rw [List.find?_cons_of_neg (by simp [hp])] at h
          rcases List.mem_cons.mp hx with rfl | hx
          · simp [hp] at hP
          · exact (ih h hx).imp_left (List.mem_cons_of_mem _)

/-- The values of some keys changed. -/
theorem NMap.find_map_if {β : Type} (m : NMap β) (p : Nat → Bool) (f : β → β) (k : Nat) :
    NMap.find (m.map fun x => if p x.1 then (x.1, f x.2) else x) k = (m.find k).map fun v => if p k then f v else v := by
  induction m with
  | nil => rfl
  | cons x m ih =>
    obtain ⟨j, v⟩ := x
    by_cases hj : j = k
    · subst hj
      cases hp : p j <;> simp [NMap.find, hp]
    · cases hp : p j <;> simpa [NMap.find, hp, hj] using ih

/-! ### The entries of a die -/

theorem entryOf_spec {s : State} {d r domid key : Nat} {e : TreeEntry} (h : s.entryOf d r domid = some (key, e)) :
    key / 16 = r ∧ e.domid = domid := by
  simpa using List.find?_some h

@[simp] theorem tree_setEntry (s : State) (d key : Nat) (e : TreeEntry) :
    ((s.setEntry d key e).die d).tree = (s.die d).tree.insert key e := by
  simp [State.setEntry]
@[simp] theorem setEntry_setEntry (s : State) (d key : Nat) (e f : TreeEntry) :
    (s.setEntry d key e).setEntry d key f = s.setEntry d key f := by
  simp [State.setEntry]

theorem entryOf_setEntry_self {s : State} {d r domid key : Nat} {e f : TreeEntry} (h : s.entryOf d r domid = some (key, e))
    (hf : f.domid = domid) : (s.setEntry d key f).entryOf d r domid = some (key, f) := by
  simp only [State.entryOf, tree_setEntry] at h ⊢
  refine NMap.find?_insert_self h ?_
  simp [(entryOf_spec h).1, hf]
theorem entryOf_setEntry_other (s : State) {d r domid key : Nat} (e : TreeEntry) (hr : key / 16 ≠ r) :
    (s.setEntry d key e).entryOf d r domid = s.entryOf d r domid := by
  simp only [State.entryOf, tree_setEntry]
  exact NMap.find?_insert_of_not (by simp [hr]) ..

/-- A domain's entry that keeps its domain and its parent: each entry of the domain stands as before in the tree. -/
theorem kid_setEntry {s : State} {d r domid key : Nat} {e f : TreeEntry} (h : s.entryOf d r domid = some (key, e))
    (hf : f.domid = domid) (hp : f.parent = e.parent) {x : Nat × Die} (hx : x ∈ s.dies) {k : Nat × TreeEntry} (hk : k ∈ x.2.tree)
    (hd : k.2.domid = domid) :
    ∃ y ∈ (s.setEntry d key f).dies, y.1 = x.1 ∧ ∃ j ∈ y.2.tree, j.1 = k.1 ∧ j.2.domid = domid ∧ j.2.parent = k.2.parent := by
  rcases NMap.mem_insert_or_find hx d { s.die d with tree := (s.die d).tree.insert key f } with hy | ⟨hxd, hfind⟩
  · exact ⟨x, hy, rfl, k, hk, rfl, hd, rfl⟩
  · have hdie : s.die d = x.2 := by simp [State.die, hfind]
    refine ⟨_, NMap.mem_insert_self .., hxd.symm, ?_⟩
    rw [← hdie] at hk
    by_cases hkr : k.1 / 16 = r
    · rcases NMap.mem_insert_or_found h hk (by simp [hkr, hd]) f with hj | rfl
      · exact ⟨k, hj, rfl, hd, rfl⟩
      · exact ⟨(key, f), NMap.mem_insert_self .., rfl, hf, hp⟩
    · rcases NMap.mem_insert_or_find hk key f with hj | ⟨hkey, -⟩
      · exact ⟨k, hj, rfl, hd, rfl⟩
      · exact absurd (hkey ▸ (entryOf_spec h).1) hkr

/-! ### The inboxes of clusters (R345) -/

theorem expectMore_frame (s : State) (cl n : Nat) : s.expectMore cl n = { s with clusters := (s.expectMore cl n).clusters } := by
  unfold State.expectMore
  split <;> rfl
theorem expect_expectMore (s : State) (cl n k : Nat) :
    ((s.expectMore cl n).cluster k).inbox.expect = (s.cluster k).inbox.expect + if k = cl then n else 0 := by
  unfold State.expectMore
  split
  · next h => simp [h]
  · by_cases hk : k = cl
    · simp [hk]
    · simp [hk, State.cluster_setCluster_ne]
theorem missed_expectMore (s : State) (cl n k : Nat) :
    ((s.expectMore cl n).cluster k).inbox.missed = (s.cluster k).inbox.missed := by
  unfold State.expectMore
  split
  · rfl
  · by_cases hk : k = cl
    · simp [hk]
    · simp [hk, State.cluster_setCluster_ne]

/-- An inbox notes that words were counted for it at no cluster. -/
def State.miss (s : State) (cl : Nat) : State :=
  s.setCluster cl { s.cluster cl with inbox := { (s.cluster cl).inbox with missed := true } }

theorem foldl_miss (die : Nat) (xs : NMap Nat) (s : State) :
    let t := xs.foldl (fun t x => t.miss (die * 32 + x.1)) s
    t = { s with clusters := t.clusters } ∧ (∀ k, (t.cluster k).inbox.expect = (s.cluster k).inbox.expect) ∧
      ∀ k, (t.cluster k).inbox.missed = true ↔ (s.cluster k).inbox.missed = true ∨ ∃ x ∈ xs, k = die * 32 + x.1 := by
  induction xs generalizing s with
  | nil => exact ⟨rfl, fun _ => rfl, by simp⟩
  | cons x xs ih =>
    obtain ⟨hframe, hexp, hmiss⟩ := ih (s.miss (die * 32 + x.1))
    refine ⟨hframe, fun k => (hexp k).trans ?_, fun k => (hmiss k).trans ?_⟩ <;> by_cases hk : k = die * 32 + x.1
    · simp [State.miss, hk]
    · simp [State.miss, State.cluster_setCluster_ne _ _ hk]
    · simp [State.miss, hk]
    · simp [State.miss, State.cluster_setCluster_ne _ _ hk, hk]

theorem missWords_frame (s : State) (die : Nat) (vec : NMap Nat) (member : Nat → Bool) :
    s.missWords die vec member = { s with clusters := (s.missWords die vec member).clusters } := (foldl_miss ..).1
theorem expect_missWords (s : State) (die : Nat) (vec : NMap Nat) (member : Nat → Bool) (k : Nat) :
    ((s.missWords die vec member).cluster k).inbox.expect = (s.cluster k).inbox.expect := (foldl_miss ..).2.1 k
theorem missed_missWords (s : State) (die : Nat) (vec : NMap Nat) (member : Nat → Bool) (k : Nat) :
    ((s.missWords die vec member).cluster k).inbox.missed = true ↔
      (s.cluster k).inbox.missed = true ∨ ∃ x ∈ vec, x.2 ≠ 0 ∧ x.1 < 32 ∧ k = die * 32 + x.1 ∧ member x.1 = false := by
  refine ((foldl_miss ..).2.2 k).trans (or_congr_right (exists_congr fun x => ?_))
  simp only [List.mem_filter, Bool.and_eq_true, bne_iff_ne, decide_eq_true_eq, Bool.not_eq_true']
  tauto

/-! ### The result of an epoch (R41) -/

/-- The entry after the result of its epoch. -/
def TreeEntry.next (e : TreeEntry) (w : Word) (fault : Bool) : TreeEntry :=
  { e with
    epoch := (e.epoch + 1) % 65536
    last := if fault then e.last else w
    got := e.got.filter fun c => c.epoch != e.epoch }

theorem hear_eq (x : Slot) (domid epoch : Nat) (w : Word) (fault : Bool) (tv : Word) : x.hear domid epoch w fault tv =
    if x.domid = domid ∧ x.inTree = true ∧ x.domain.sent.map (·.1) = some epoch then
      { x with domain := { x.domain with result := some (w, fault, tv) } } else x := by
  unfold Slot.hear
  split
  · next e c h => simp only [h, Option.map_some, Option.some.injEq, and_comm, and_left_comm]
  · next h => simp [h]

/-- A result at the router: the entry, its members and the inbox. -/
def State.resultHere (s : State) (d r key : Nat) (e : TreeEntry) (w : Word) (fault : Bool) (tv : Word) (vec : NMap Nat) : State :=
  let s1 := s.setEntry d key (e.next w fault)
  let s2 := { s1 with slots := s1.slots.map fun x => if atRouter x.1 d r then (x.1, x.2.hear e.domid e.epoch w fault tv) else x }
  if r < 32 ∧ e.loc ≠ 0 ∧ fault = false then s2.expectMore (d * 32 + r) ((vec.find r).getD 0) else s2

theorem applyResult_eq {s : State} {d r key : Nat} {e : TreeEntry} (h : s.entryOf d r e.domid = some (key, e)) (w : Word) (fault : Bool)
    (tv : Word) (vec : NMap Nat) : s.applyResult d r e.domid e.epoch w fault tv vec =
      ((s.resultHere d r key e w fault tv vec).kidsOf d r e.domid e).foldl
        (fun t k => t.sendPlace (routerUnit d r) d r k (.result e.domid e.epoch w fault tv vec)) (s.resultHere d r key e w fault tv vec) := by
  simp only [State.applyResult, h, ne_eq, not_true_eq_false, if_false]
  rfl
theorem applyResult_lost {s : State} {d r domid : Nat} (h : s.entryOf d r domid = none) (epoch : Nat) (w : Word) (fault : Bool) (tv : Word)
    (vec : NMap Nat) : s.applyResult d r domid epoch w fault tv vec = s := by
  simp [State.applyResult, h]
theorem applyResult_otherEpoch {s : State} {d r domid key epoch : Nat} {e : TreeEntry} (h : s.entryOf d r domid = some (key, e))
    (he : e.epoch ≠ epoch) (w : Word) (fault : Bool) (tv : Word) (vec : NMap Nat) : s.applyResult d r domid epoch w fault tv vec = s := by
  simp [State.applyResult, h, he]

section
variable (s : State) (d r key : Nat) (e : TreeEntry) (w : Word) (fault : Bool) (tv : Word) (vec : NMap Nat)

theorem resultHere_frame : s.resultHere d r key e w fault tv vec =
    { s with
      dies := (s.setEntry d key (e.next w fault)).dies
      slots := (s.resultHere d r key e w fault tv vec).slots
      clusters := (s.resultHere d r key e w fault tv vec).clusters } := by
  unfold State.resultHere
  split
  · rw [expectMore_frame]
    rfl
  · rfl
theorem slot_resultHere (sid : Nat) : (s.resultHere d r key e w fault tv vec).slot sid =
    if atRouter sid d r then (s.slot sid).hear e.domid e.epoch w fault tv else s.slot sid := by
  have hslots : (s.resultHere d r key e w fault tv vec).slots =
      s.slots.map fun x => if atRouter x.1 d r then (x.1, x.2.hear e.domid e.epoch w fault tv) else x := by
    unfold State.resultHere
    split
    · rw [expectMore_frame]
      rfl
    · rfl
  have hfind := NMap.find_map_if s.slots (fun k => atRouter k d r) (fun x => x.hear e.domid e.epoch w fault tv) sid
  rw [State.slot, hslots]
  refine (congrArg (Option.getD · Slot.none) hfind).trans ?_
  rw [State.slot]
  cases s.slots.find sid with
  | some x => rfl
  | none => exact (ite_self _).symm
theorem expect_resultHere (k : Nat) : ((s.resultHere d r key e w fault tv vec).cluster k).inbox.expect = (s.cluster k).inbox.expect +
    if r < 32 ∧ k = d * 32 + r ∧ e.loc ≠ 0 ∧ fault = false then (vec.find r).getD 0 else 0 := by
  unfold State.resultHere
  split
  · next h =>
    rw [expect_expectMore]
    simp [h]
    rfl
  · next h =>
    rw [if_neg fun hk => h ⟨hk.1, hk.2.2⟩]
    rfl
theorem missed_resultHere (k : Nat) :
    ((s.resultHere d r key e w fault tv vec).cluster k).inbox.missed = (s.cluster k).inbox.missed := by
  unfold State.resultHere
  split
  · rw [missed_expectMore]
    rfl
  · rfl

end

theorem mem_kidsOf {s : State} {d r domid : Nat} {e : TreeEntry} {x : Nat × Die} (hx : x ∈ s.dies) {k : Nat × TreeEntry}
    (hk : k ∈ x.2.tree) (hd : k.2.domid = domid) (hp : k.2.parent = placeNo d r) (hroot : placeNo d r ≠ 0xFFFF) :
    placeNo x.1 (k.1 / 16) ∈ s.kidsOf d r domid e := by
  refine List.mem_append_left _ (List.mem_flatMap.mpr ⟨x, hx, List.mem_map.mpr ⟨k, List.mem_filter.mpr ⟨hk, ?_⟩, rfl⟩⟩)
  simp [hd, hp, TreeEntry.isRoot, hroot]
theorem foreign_mem_kidsOf {s : State} {d r domid : Nat} {e : TreeEntry} {k : Nat} (hk : k ∈ e.foreign) : k ∈ s.kidsOf d r domid e :=
  List.mem_append_right _ hk

theorem placeNo_spec {d r : Nat} (hd : d < 4) (hr : r < 48) :
    placeNo d r % 64 = r ∧ placeNo d r / 64 % 4 = d ∧ placeNo d r / 256 % 256 = Config.package % 256 := by
  simp only [placeNo]
  omega

/-- The result of an epoch at an entry, between the states before and after: the entry and its members have it, the inbox expects its packets, and
it goes on to the child entries (R41, R345). -/
structure Delivered (s t : State) (d r key : Nat) (e : TreeEntry) (w : Word) (fault : Bool) (tv : Word) (vec : NMap Nat)
    (missed : Nat → Prop) : Prop where
  entry : (t.die d).tree.find key = some (e.next w fault)
  slots : ∀ sid, t.slot sid = if dieOf sid = d ∧ routerOf sid = r ∧ (s.slot sid).domid = e.domid ∧ (s.slot sid).inTree = true ∧
      (s.slot sid).domain.sent.map (·.1) = some e.epoch then
    { s.slot sid with domain := { (s.slot sid).domain with result := some (w, fault, tv) } } else s.slot sid
  expect : ∀ k, (t.cluster k).inbox.expect = (s.cluster k).inbox.expect +
    if r < 32 ∧ k = d * 32 + r ∧ e.loc ≠ 0 ∧ fault = false then (vec.find r).getD 0 else 0
  missed : ∀ k, (t.cluster k).inbox.missed = true ↔ (s.cluster k).inbox.missed = true ∨ missed k
  kids : ∀ x ∈ s.dies, x.1 < 4 → ∀ k ∈ x.2.tree, k.2.domid = e.domid → k.2.parent = placeNo d r →
    placeNo d r ≠ 0xFFFF → k.1 / 16 < 48 → (⟨routerUnit d r, d, r, x.1, k.1 / 16, .result e.domid e.epoch w fault tv vec⟩ : MeshMsg) ∈ t.mesh
  foreign : ∀ k ∈ e.foreign, k % 64 < 48 → k / 256 % 256 ≠ Config.package % 256 →
    (k, MeshBody.result e.domid e.epoch w fault tv vec) ∈ t.fabric
  mem : t.mem = s.mem
  cores : t.cores = s.cores

theorem delivered_applyResult {s : State} {d r key : Nat} {e : TreeEntry} (h : s.entryOf d r e.domid = some (key, e)) (w : Word) (fault : Bool)
    (tv : Word) (vec : NMap Nat) :
    Delivered s (s.applyResult d r e.domid e.epoch w fault tv vec) d r key e w fault tv vec fun _ => False := by
  rw [applyResult_eq h]
  obtain ⟨hsends, hmesh, hfabric⟩ := State.sends_places (routerUnit d r) d r (.result e.domid e.epoch w fault tv vec)
    ((s.resultHere d r key e w fault tv vec).kidsOf d r e.domid e) (s.resultHere d r key e w fault tv vec)
  have hframe := resultHere_frame s d r key e w fault tv vec
  refine ⟨?_, fun sid => ?_, fun k => ?_, fun k => ?_, fun x hx hx4 k hk hd hp hroot h48 => ?_, fun k hk => ?_, ?_, ?_⟩
  · rw [hsends.rest]
    change ((s.resultHere d r key e w fault tv vec).die d).tree.find key = _
    rw [hframe]
    change ((s.setEntry d key (e.next w fault)).die d).tree.find key = _
    rw [tree_setEntry, NMap.find_insert_self]
  · rw [hsends.rest]
    change (s.resultHere d r key e w fault tv vec).slot sid = _
    rw [slot_resultHere, hear_eq]
    simp only [atRouter, Bool.and_eq_true, beq_iff_eq, ite_and]
  · rw [hsends.rest]
    exact expect_resultHere ..
  · rw [hsends.rest, or_false]
    exact iff_of_eq (congrArg (· = true) (missed_resultHere ..))
  · obtain ⟨y, hy, hyx, j, hj, hjk, hjd, hjp⟩ := kid_setEntry h (f := e.next w fault) rfl rfl hx hk hd
    obtain ⟨hrouter, hdie, hpack⟩ := placeNo_spec hx4 h48
    have hkid : placeNo y.1 (j.1 / 16) ∈ (s.resultHere d r key e w fault tv vec).kidsOf d r e.domid e :=
      mem_kidsOf (by rw [hframe]; exact hy) hj hjd (hjp.trans hp) hroot
    rw [hyx, hjk] at hkid
    have hsent := hmesh _ hkid (by omega) hpack
    rwa [hrouter, hdie] at hsent
  · exact hfabric k (foreign_mem_kidsOf hk)
  · rw [hsends.rest, hframe]
  · rw [hsends.rest, hframe]

/-- A delivery from a state that differs from an earlier one in the domain's entry and in what inboxes have noted. -/
theorem Delivered.of_before {s v t : State} {d r key : Nat} {e : TreeEntry} {w : Word} {fault : Bool} {tv : Word} {vec : NMap Nat}
    {missed : Nat → Prop} (h : Delivered v t d r key e w fault tv vec fun _ => False) (hslots : v.slots = s.slots) (hmem : v.mem = s.mem)
    (hcores : v.cores = s.cores) (hexpect : ∀ k, (v.cluster k).inbox.expect = (s.cluster k).inbox.expect)
    (hmissed : ∀ k, (v.cluster k).inbox.missed = true ↔ (s.cluster k).inbox.missed = true ∨ missed k)
    (hkids : ∀ x ∈ s.dies, ∀ k ∈ x.2.tree, k.2.domid = e.domid →
      ∃ y ∈ v.dies, y.1 = x.1 ∧ ∃ j ∈ y.2.tree, j.1 = k.1 ∧ j.2.domid = e.domid ∧ j.2.parent = k.2.parent) :
    Delivered s t d r key e w fault tv vec missed where
  entry := h.entry
  slots sid := by
    have hslot : v.slot sid = s.slot sid := by rw [State.slot, hslots]; rfl
    rw [h.slots sid, hslot]
  expect k := by rw [h.expect k, hexpect]
  missed k := by rw [h.missed k, hmissed, or_false]
  kids x hx hx4 k hk hd hp hroot h48 := by
    obtain ⟨y, hy, hyx, j, hj, hjk, hjd, hjp⟩ := hkids x hx k hk hd
    have hsent := h.kids y hy (by omega) j hj hjd (hjp.trans hp) hroot (by omega)
    rwa [hyx, hjk] at hsent
  foreign := h.foreign
  mem := h.mem.trans hmem
  cores := h.cores.trans hcores

end Sys2Proof.Machine

/-! ## Contributions and done contributions at a combining entry (R39 to R43, R168) -/

namespace Sys2Proof.Machine

/-! ### Writes that wait in an entry (R168) -/

/-- A read or a write of the entry of MTCMD answers over the mesh. -/
theorem answerOp_local {sid : Nat} (h : sid < 65536) (s : State) (d r n : Nat) (a : Option TreeData) : s.answerOp d r sid n a =
    { s with mesh := s.mesh ++ [⟨routerUnit d r, d, r, dieOf sid, routerOf sid, .mtReply sid n a⟩] } := by
  simp only [State.answerOp, if_pos h, State.sendMesh]
theorem answerOp_sends (s : State) (d r sid n : Nat) (a : Option TreeData) : s.Sends (s.answerOp d r sid n a) := by
  by_cases h : sid < 65536
  · rw [answerOp_local h]
    exact ⟨rfl, fun m hm => List.mem_append_left _ hm, fun x hx => hx⟩
  · rw [State.answerOp, if_neg h]
    exact State.sends_sendPlace ..

theorem applyWrites_nil (s : State) (d key : Nat) : s.applyWrites d key [] = s := rfl
/-- The last of the writes stands in the entry. -/
theorem find_applyWrites_concat (s : State) (d key : Nat) (ws : List (Nat × Nat × TreeData)) (x : Nat × Nat × TreeData) :
    ((s.applyWrites d key (ws ++ [x])).die d).tree.find key = some x.2.2.entry := by
  rw [State.applyWrites, List.foldl_append, List.foldl_cons, List.foldl_nil, (answerOp_sends ..).rest]
  exact (congrArg (NMap.find · key) (tree_setEntry ..)).trans (NMap.find_insert_self ..)
/-- Each of the writes is answered. -/
theorem mesh_applyWrites (d key : Nat) (ws : List (Nat × Nat × TreeData)) (s : State) :
    (∀ m ∈ s.mesh, m ∈ (s.applyWrites d key ws).mesh) ∧
      ∀ y ∈ ws, y.1 < 65536 → (⟨routerUnit d (key / 16), d, key / 16, dieOf y.1, routerOf y.1, .mtReply y.1 y.2.1 none⟩ : MeshMsg) ∈
        (s.applyWrites d key ws).mesh := by
  induction ws generalizing s with
  | nil => simp [applyWrites_nil]
  | cons w ws ih =>
    obtain ⟨hmesh, hanswer⟩ := ih ((s.setEntry d key w.2.2.entry).answerOp d (key / 16) w.1 w.2.1 none)
    refine ⟨fun m hm => hmesh m ((answerOp_sends ..).mesh m hm), fun y hy hsid => ?_⟩
    rcases List.mem_cons.mp hy with rfl | hy
    · exact hmesh _ (by rw [answerOp_local hsid]; simp)
    · exact hanswer y hy hsid

/-! ### An entry that combines (R41) -/

/-- The entry whose epoch has been combined. -/
def TreeEntry.sentOn (e : TreeEntry) : TreeEntry := { e with got := e.got.filter fun c => c.epoch != e.epoch, writes := [] }

theorem next_sentOn {e : TreeEntry} (hw : e.writes = []) (w : Word) (fault : Bool) : e.sentOn.next w fault = e.next w fault := by
  simp [TreeEntry.next, TreeEntry.sentOn, hw]

/-- A delivery at the entry that has combined is one at the entry as it was. -/
theorem Delivered.of_sentOn {s t : State} {d r key : Nat} {e : TreeEntry} {w : Word} {fault : Bool} {tv : Word} {vec : NMap Nat}
    {missed : Nat → Prop} (hw : e.writes = []) (h : Delivered s t d r key e.sentOn w fault tv vec missed) :
    Delivered s t d r key e w fault tv vec missed :=
  { h with entry := by rw [← next_sentOn hw]; exact h.entry }

theorem tryCombine_incomplete {s : State} {d key : Nat} {e : TreeEntry} (hc : e.complete = false) :
    (s.setEntry d key e).tryCombine d key = s.setEntry d key e := by
  simp [State.tryCombine, hc]
/-- The entry sends one word up, or the root delivers; then the writes that waited take effect. -/
theorem tryCombine_complete {s : State} {d key : Nat} {e : TreeEntry} {c : Contrib} (hc : e.complete = true)
    (hm : Contrib.mergeAll e.now = some c) : (s.setEntry d key e).tryCombine d key =
      (if e.parent = 0xFFFF then (s.setEntry d key e.sentOn).rootDone d (key / 16) e.sentOn c
        else (s.setEntry d key e.sentOn).sendPlace (routerUnit d (key / 16)) d (key / 16) e.parent
          (.contrib { c with child := true, src := placeNo d (key / 16) })).applyWrites d key e.writes := by
  simp only [State.tryCombine, tree_setEntry, NMap.find_insert_self, hc, if_true, hm, setEntry_setEntry, TreeEntry.isRoot, beq_iff_eq]
  rfl

/-- What the root delivers of a combined word: EXCHANGE_PATTERN for mixed kinds or operations and for differing patterns, else the word
(R41, R42). -/
theorem rootDone_eq (s : State) (d r : Nat) (e : TreeEntry) (c : Contrib) : s.rootDone d r e c =
    if c.bad = true then s.applyResult d r e.domid e.epoch 0 true 0 []
    else if c.kind = .syncX ∧ c.w ≠ c.w2 then s.applyResult d r e.domid e.epoch 0 true (c.w ^^^ c.w2) []
    else (s.missWords d c.vec fun b => (s.entryOf d b e.domid).any fun x => x.2.loc != 0).applyResult d r e.domid e.epoch c.w false 0 c.vec := rfl

/-- The words of a vector for clusters of a die without members of the domain (R345). -/
def State.noMember (s : State) (d domid : Nat) (vec : NMap Nat) (k : Nat) : Prop :=
  ∃ x ∈ vec, x.2 ≠ 0 ∧ x.1 < 32 ∧ k = d * 32 + x.1 ∧ ∀ y, s.entryOf d x.1 domid = some y → y.2.loc = 0

section
variable {s : State} {d r key : Nat} {e0 e : TreeEntry} (h : s.entryOf d r e.domid = some (key, e0))
include h

/-- The root has the result of the epoch that it has combined. -/
theorem delivered_sentOn (hp : e.parent = e0.parent) (hw : e.writes = []) (w : Word) (fault : Bool) (tv : Word) (vec : NMap Nat) :
    Delivered s ((s.setEntry d key e.sentOn).applyResult d r e.domid e.epoch w fault tv vec) d r key e w fault tv vec fun _ => False := by
  have hdel := delivered_applyResult (e := e.sentOn) (entryOf_setEntry_self h (f := e.sentOn) rfl) w fault tv vec
  refine .of_sentOn hw (hdel.of_before rfl rfl rfl (fun _ => rfl) (fun k => by rw [or_false]; rfl) fun x hx k hk hd => ?_)
  exact kid_setEntry h (f := e.sentOn) rfl hp hx hk hd

/-- Whether a cluster of the die has members is as before the entry combined. -/
theorem member_sentOn (hl : e.loc = e0.loc) (b : Nat) :
    ((s.setEntry d key e.sentOn).entryOf d b e.domid).any (fun x => x.2.loc != 0) = false ↔
      ∀ y, s.entryOf d b e.domid = some y → y.2.loc = 0 := by
  by_cases hb : key / 16 = b
  · obtain rfl : r = b := (entryOf_spec h).1.symm.trans hb
    rw [entryOf_setEntry_self h (f := e.sentOn) rfl, h]
    simp [TreeEntry.sentOn, hl]
  · rw [entryOf_setEntry_other _ _ hb]
    cases s.entryOf d b e.domid <;> simp

theorem delivered_missWords (hp : e.parent = e0.parent) (hl : e.loc = e0.loc) (hw : e.writes = []) (w tv : Word) (vec vec' : NMap Nat) :
    Delivered s (((s.setEntry d key e.sentOn).missWords d vec fun b =>
      ((s.setEntry d key e.sentOn).entryOf d b e.domid).any fun x => x.2.loc != 0).applyResult d r e.domid e.epoch w false tv vec')
      d r key e w false tv vec' (s.noMember d e.domid vec) := by
  generalize hv : (s.setEntry d key e.sentOn).missWords d vec _ = v
  have hframe : v = { s.setEntry d key e.sentOn with clusters := v.clusters } := by
    rw [← hv]
    exact missWords_frame ..
  have hentry : v.entryOf d r e.domid = some (key, e.sentOn) := by
    rw [hframe]
    exact entryOf_setEntry_self h (f := e.sentOn) rfl
  have hdel := delivered_applyResult (e := e.sentOn) hentry w false tv vec'
  refine .of_sentOn hw (hdel.of_before ?_ ?_ ?_ (fun k => ?_) (fun k => ?_) fun x hx k hk hd => ?_)
  · rw [hframe]; rfl
  · rw [hframe]; rfl
  · rw [hframe]; rfl
  · rw [← hv, expect_missWords]; rfl
  · rw [← hv, missed_missWords]
    simp only [member_sentOn h hl]
    rfl
  · rw [hframe]
    exact kid_setEntry h (f := e.sentOn) rfl hp hx hk hd

end

/-! ### Arrivals -/

/-- An entry told by a child: one of another package is noted (R41). -/
def TreeEntry.told (e : TreeEntry) (child : Bool) (src : Nat) : TreeEntry :=
  if child = true ∧ src / 256 % 256 ≠ Config.package % 256 then { e with foreign := setInsert e.foreign src } else e

theorem told_eq (e : TreeEntry) (child : Bool) (src : Nat) : (if child then e.knows src else e) = e.told child src := by
  simp only [TreeEntry.told, TreeEntry.knows, isForeign, bne_iff_ne, ite_and]
/-- What a child of another package changes is the list of such children. -/
theorem told_frame (e : TreeEntry) (child : Bool) (src : Nat) : e.told child src = { e with foreign := (e.told child src).foreign } := by
  unfold TreeEntry.told
  split <;> rfl

/-- The entry with a contribution. -/
def TreeEntry.gets (e : TreeEntry) (c : Contrib) : TreeEntry := { e.told c.child c.src with got := e.got ++ [c] }

theorem gets_frame (e : TreeEntry) (c : Contrib) : e.gets c = { e with got := (e.gets c).got, foreign := (e.gets c).foreign } := by
  simp only [TreeEntry.gets]
  rw [told_frame]

theorem treeArrive_none {s : State} {d r : Nat} {c : Contrib} (h : s.entryOf d r c.domid = none) : s.treeArrive d r c = s := by
  simp [State.treeArrive, h]
theorem treeArrive_some {s : State} {d r key : Nat} {e : TreeEntry} {c : Contrib} (h : s.entryOf d r c.domid = some (key, e)) :
    s.treeArrive d r c = (s.setEntry d key (e.gets c)).tryCombine d key := by
  simp only [State.treeArrive, h, told_eq]
  rw [TreeEntry.gets, show (e.told c.child c.src).got = e.got by rw [told_frame]]

theorem sentOn_eq {e : TreeEntry} (hw : e.writes = []) : e.sentOn = { e with got := e.got.filter fun c => c.epoch != e.epoch } := by
  rw [TreeEntry.sentOn, ← hw]

section
variable {s : State} {d r key : Nat} {e0 : TreeEntry} {c w : Contrib} (h : s.entryOf d r c.domid = some (key, e0))
include h

theorem entryOf_gets : s.entryOf d r (e0.gets c).domid = some (key, e0) := by
  rw [gets_frame]
  exact (entryOf_spec h).2 ▸ h

theorem treeArrive_incomplete (hc : (e0.gets c).complete = false) : s.treeArrive d r c = s.setEntry d key (e0.gets c) := by
  rw [treeArrive_some h, tryCombine_incomplete hc]

variable (hc : (e0.gets c).complete = true) (hm : Contrib.mergeAll (e0.gets c).now = some w)
include hc hm

theorem treeArrive_complete : s.treeArrive d r c =
    (if (e0.gets c).parent = 0xFFFF then (s.setEntry d key (e0.gets c).sentOn).rootDone d r (e0.gets c).sentOn w
      else (s.setEntry d key (e0.gets c).sentOn).sendPlace (routerUnit d r) d r (e0.gets c).parent
        (.contrib { w with child := true, src := placeNo d r })).applyWrites d key (e0.gets c).writes := by
  rw [treeArrive_some h, tryCombine_complete hc hm, (entryOf_spec h).1]

/-- The last of the writes that waited stands in the entry, and each is answered. -/
theorem treeArrive_writes {ws : List (Nat × Nat × TreeData)} {x : Nat × Nat × TreeData} (hw : (e0.gets c).writes = ws ++ [x]) :
    ((s.treeArrive d r c).die d).tree.find key = some x.2.2.entry ∧
      ∀ y ∈ (e0.gets c).writes, y.1 < 65536 →
        (⟨routerUnit d r, d, r, dieOf y.1, routerOf y.1, .mtReply y.1 y.2.1 none⟩ : MeshMsg) ∈ (s.treeArrive d r c).mesh := by
  rw [treeArrive_complete h hc hm]
  obtain rfl := (entryOf_spec h).1
  exact ⟨by rw [hw, find_applyWrites_concat], (mesh_applyWrites ..).2⟩

variable (hw : (e0.gets c).writes = [])
include hw

theorem treeArrive_child (hp : (e0.gets c).parent ≠ 0xFFFF) : s.treeArrive d r c =
    (s.setEntry d key { e0.gets c with got := (e0.gets c).got.filter fun x => x.epoch != (e0.gets c).epoch }).sendPlace (routerUnit d r) d r
      (e0.gets c).parent (.contrib { w with child := true, src := placeNo d r }) := by
  rw [treeArrive_complete h hc hm, if_neg hp, hw, applyWrites_nil, sentOn_eq hw]

variable (hp : (e0.gets c).parent = 0xFFFF)
include hp

theorem treeArrive_root : s.treeArrive d r c = (s.setEntry d key (e0.gets c).sentOn).rootDone d r (e0.gets c).sentOn w := by
  rw [treeArrive_complete h hc hm, if_pos hp, hw, applyWrites_nil]

/-- Mixed kinds or operations end an epoch in EXCHANGE_PATTERN with 0 (R42). -/
theorem treeArrive_bad (hb : w.bad = true) : Delivered s (s.treeArrive d r c) d r key (e0.gets c) 0 true 0 [] fun _ => False := by
  rw [treeArrive_root h hc hm hw hp, rootDone_eq, if_pos hb]
  exact delivered_sentOn (entryOf_gets h) (by rw [gets_frame]) hw ..
/-- Differing patterns end an epoch in EXCHANGE_PATTERN with AND XOR OR (R42). -/
theorem treeArrive_pattern (hb : w.bad = false) (hk : w.kind = .syncX ∧ w.w ≠ w.w2) :
    Delivered s (s.treeArrive d r c) d r key (e0.gets c) 0 true (w.w ^^^ w.w2) [] fun _ => False := by
  rw [treeArrive_root h hc hm hw hp, rootDone_eq, if_neg (by simp [hb]), if_pos hk]
  exact delivered_sentOn (entryOf_gets h) (by rw [gets_frame]) hw ..
theorem treeArrive_word (hb : w.bad = false) (hk : ¬(w.kind = .syncX ∧ w.w ≠ w.w2)) :
    Delivered s (s.treeArrive d r c) d r key (e0.gets c) w.w false 0 w.vec (s.noMember d (e0.gets c).domid w.vec) := by
  rw [treeArrive_root h hc hm hw hp, rootDone_eq, if_neg (by simp [hb]), if_neg hk]
  exact delivered_missWords (entryOf_gets h) (by rw [gets_frame]) (by rw [gets_frame]) hw ..

end

/-- The entry with a done contribution: the member or the child counts as retired (R43). -/
def TreeEntry.retires (e : TreeEntry) (child : Bool) (src : Nat) : TreeEntry :=
  if child then { e.told true src with doneChildren := e.doneChildren + 1 } else { e with retired := Nat.min 127 (e.retired + 1) }

theorem retires_eq (e : TreeEntry) (child : Bool) (src : Nat) :
    (if child then { e.knows src with doneChildren := e.doneChildren + 1 } else { e with retired := Nat.min 127 (e.retired + 1) }) =
      e.retires child src := by
  rw [TreeEntry.retires, ← told_eq e true src, if_pos rfl]
theorem retires_frame (e : TreeEntry) (child : Bool) (src : Nat) : e.retires child src =
    { e with
      doneChildren := (e.retires child src).doneChildren
      retired := (e.retires child src).retired
      foreign := (e.retires child src).foreign } := by
  cases child with
  | true =>
    simp only [TreeEntry.retires, if_true]
    rw [told_frame]
  | false => rfl

theorem gone_iff (e : TreeEntry) : e.gone = true ↔ e.loc ≤ e.retired ∧ e.child ≤ e.doneChildren := by
  simp [TreeEntry.gone]

theorem doneArrive_none {s : State} {d r domid : Nat} (h : s.entryOf d r domid = none) (child : Bool) (src : Nat) :
    s.doneArrive d r domid child src = s := by
  simp [State.doneArrive, h]

section
variable {s : State} {d r domid key : Nat} {e : TreeEntry} {child : Bool} {src : Nat} (h : s.entryOf d r domid = some (key, e))
  (hc : (e.retires child src).complete = false)
include h hc

/-- With no epoch to combine, the entry that counts the last retired one tells its parent, the root the OWNER. -/
theorem doneArrive_some : s.doneArrive d r domid child src =
    if ((e.retires child src).gone && !e.gone) = true then
      if e.parent = 0xFFFF then
        (s.setEntry d key (e.retires child src)).sendMsg d r e.owner 2 (BitVec.ofNat 64 (domid + e.epoch * 65536))
      else (s.setEntry d key (e.retires child src)).sendPlace (routerUnit d r) d r e.parent (.done domid true (placeNo d r))
    else s.setEntry d key (e.retires child src) := by
  have hparent : (e.retires child src).parent = e.parent := by rw [retires_frame]
  have howner : (e.retires child src).owner = e.owner := by rw [retires_frame]
  have hepoch : (e.retires child src).epoch = e.epoch := by rw [retires_frame]
  simp only [State.doneArrive, h, retires_eq, tryCombine_incomplete hc, TreeEntry.isRoot, hparent, howner, beq_iff_eq, tree_setEntry,
    NMap.find_insert_self, Option.getD_some, hepoch]
  rfl
theorem doneArrive_counts (hg : (e.retires child src).gone = false ∨ e.gone = true) :
    s.doneArrive d r domid child src = s.setEntry d key (e.retires child src) := by
  rw [doneArrive_some h hc, if_neg]
  rcases hg with hg | hg <;> simp [hg]
theorem doneArrive_root (hg : (e.retires child src).gone = true) (hn : e.gone = false) (hp : e.parent = 0xFFFF) :
    s.doneArrive d r domid child src =
      (s.setEntry d key (e.retires child src)).sendMsg d r e.owner 2 (BitVec.ofNat 64 (domid + e.epoch * 65536)) := by
  rw [doneArrive_some h hc, if_pos (by simp [hg, hn]), if_pos hp]
theorem doneArrive_child (hg : (e.retires child src).gone = true) (hn : e.gone = false) (hp : e.parent ≠ 0xFFFF) :
    s.doneArrive d r domid child src =
      (s.setEntry d key (e.retires child src)).sendPlace (routerUnit d r) d r e.parent (.done domid true (placeNo d r)) := by
  rw [doneArrive_some h hc, if_pos (by simp [hg, hn]), if_neg hp]

end

end Sys2Proof.Machine

/-! ## O47: the combining tree and the mesh (R17, R38 to R43, R168, R345) -/

namespace Sys2Proof.Machine

/-! ### The events of the tree -/

section
variable {s : State} {i : Nat} {m : MeshMsg}

/-- The events of the tree wait for their message. -/
theorem treeEvent_stays (h : s.meshTake i = none) :
    ∀ e ∈ [Instr.treeContribution i, .syncResultDelivery i, .doneArrival i], exec e s = .next s := by
  simp only [List.mem_cons, List.not_mem_nil, or_false]
  rintro e (rfl | rfl | rfl)
  · simp only [exec, execTreeContribution, h]
  · simp only [exec, execSyncResultDelivery, h]
  · simp only [exec, execDoneArrival, h]

variable (h : s.mesh[i]? = some m) (ha : m.arrived = true) (hm : s.mayMove i m = true)
include h ha hm

theorem exec_treeContribution {c : Contrib} (hb : m.body = .contrib c) :
    exec (.treeContribution i) s = .next ({ s with mesh := s.mesh.eraseIdx i }.treeArrive m.die m.router c) := by
  simp only [exec, execTreeContribution, meshTake_some h ha hm, hb]
theorem exec_syncResultDelivery {domid epoch : Nat} {w : Word} {fault : Bool} {tv : Word} {vec : NMap Nat}
    (hb : m.body = .result domid epoch w fault tv vec) : exec (.syncResultDelivery i) s =
      .next ({ s with mesh := s.mesh.eraseIdx i }.applyResult m.die m.router domid epoch w fault tv vec) := by
  simp only [exec, execSyncResultDelivery, meshTake_some h ha hm, hb]
theorem exec_doneArrival {domid src : Nat} {child : Bool} (hb : m.body = .done domid child src) :
    exec (.doneArrival i) s = .next ({ s with mesh := s.mesh.eraseIdx i }.doneArrive m.die m.router domid child src) := by
  simp only [exec, execDoneArrival, meshTake_some h ha hm, hb]

end

/-- Settles O47: each event takes its message and acts at the domain's entry by the lemmas on `treeArrive`, `applyResult` and `doneArrive`; a
delivery is `Delivered`. -/
theorem theTreeCombinesAndDelivers : Obligations.TheTreeCombinesAndDelivers := by
  unfold Obligations.TheTreeCombinesAndDelivers
  intro s i all
  refine ⟨?stays, ?lost, ?arrived, fun m _ => ⟨mayMove_iff s i m, linkFree_iff s m⟩, sendPlace_eq, ?acts, ?moves⟩
  case stays =>
    rintro e he (hnone | ⟨m, hm, hstay⟩)
    · exact treeEvent_stays (meshTake_none hnone) e he
    · exact treeEvent_stays (meshTake_stays hm hstay) e he
  case lost => exact fun h => congrArg Host.Outcome.next (meshForward_none h)
  case arrived => exact fun m h ha => congrArg Host.Outcome.next (meshForward_arrived h ha)
  case moves => exact fun m h ha => congrArg Host.Outcome.next (meshForward_moves h ha)
  case acts =>
    intro m hmesh hmay d r unit_ here s1 entry known delivers harr
    have hdelivers : ∀ {ev : Instr} {t : State} {key : Nat} {e : TreeEntry} {w : Word} {fault : Bool} {tv : Word} {vec : NMap Nat}
        {missed : Nat → Prop}, exec ev s = .next t → Delivered s1 t d r key e w fault tv vec missed →
          delivers ev key e w fault tv vec missed :=
      fun hx h => ⟨_, hx, h.entry, h.slots, h.expect, h.missed, h.kids, h.foreign, h.mem, h.cores⟩
    refine ⟨fun c hb => ?contrib, fun domid epoch w fault tv vec hb => ?result, fun domid child src hb => ?done⟩
    case contrib =>
      intro ev
      have hx := exec_treeContribution hmesh harr hmay hb
      cases hentry : s.entryOf d r c.domid with
      | none => exact hx.trans (congrArg _ (treeArrive_none hentry))
      | some x =>
        obtain ⟨key, e0⟩ := x
        have h1 : s1.entryOf d r c.domid = some (key, e0) := hentry
        refine ⟨fun hc => ?_, fun w hc hm => ⟨fun ws x hw => ?_, fun hw => ⟨fun hp => ?_, fun hp => ?_⟩⟩⟩
        · exact hx.trans (congrArg _ (treeArrive_incomplete h1 hc))
        · exact ⟨_, hx, treeArrive_writes h1 hc hm hw⟩
        · exact hx.trans (congrArg _ (treeArrive_child h1 hc hm hw hp))
        · split
          · next hbad => exact hdelivers hx (treeArrive_bad h1 hc hm hw hp hbad)
          · next hbad =>
            split
            · next hk => exact hdelivers hx (treeArrive_pattern h1 hc hm hw hp (Bool.eq_false_iff.mpr hbad) hk)
            · next hk => exact hdelivers hx (treeArrive_word h1 hc hm hw hp (Bool.eq_false_iff.mpr hbad) hk)
    case result =>
      have hx := exec_syncResultDelivery hmesh harr hmay hb
      cases hentry : s.entryOf d r domid with
      | none => exact hx.trans (congrArg _ (applyResult_lost (s := s1) hentry ..))
      | some x =>
        obtain ⟨key, e⟩ := x
        obtain rfl := (entryOf_spec hentry).2
        change if e.epoch ≠ epoch then _ else _
        split
        · next he => exact hx.trans (congrArg _ (applyResult_otherEpoch (s := s1) hentry he ..))
        · next he =>
          obtain rfl := not_not.mp he
          exact hdelivers hx (delivered_applyResult (s := s1) hentry ..)
    case done =>
      intro ev
      have hx := exec_doneArrival hmesh harr hmay hb
      cases hentry : s.entryOf d r domid with
      | none => exact hx.trans (congrArg _ (doneArrive_none (s := s1) hentry ..))
      | some x =>
        obtain ⟨key, e⟩ := x
        have h1 : s1.entryOf d r domid = some (key, e) := hentry
        intro hc
        have hgone : ∀ {f : TreeEntry}, ¬(f.loc ≤ f.retired ∧ f.child ≤ f.doneChildren) → f.gone = false :=
          fun hf => Bool.eq_false_iff.mpr (mt (gone_iff _).mp hf)
        refine ⟨fun hg => ?_, fun hg hn => ⟨fun hp => ?_, fun hp => ?_⟩⟩
        · exact hx.trans (congrArg _ (doneArrive_counts h1 hc (hg.imp hgone (gone_iff e).mpr)))
        · exact hx.trans (congrArg _ (doneArrive_root h1 hc ((gone_iff _).mpr hg) (hgone hn) hp))
        · exact hx.trans (congrArg _ (doneArrive_child h1 hc ((gone_iff _).mpr hg) (hgone hn) hp))

end Sys2Proof.Machine

/-! ## Encodings: what a clean field is, and what a slot says of its fields (R94 to R102, R110) -/

namespace Sys2Proof

/-! ### Specifiers -/

/-- The numbers and marks that a source position of a class admits (R101, R102). -/
def Cls.srcOk : Cls → Reg → Bool
  | .g, r => r.okG
  | .v, _ => true
  | .p, r => r.okP
  | .x, r => !r.mark && decide (r.n.toNat ≤ 19)
/-- The numbers that a destination position of a class admits (R101, R102). -/
def Cls.dstOk : Cls → BitVec 5 → Bool
  | .p, n => dstP n
  | .x, n => decide (n.toNat ≤ 19)
  | _, _ => true

@[simp] theorem Cls.srcOk_g (r : Reg) : Cls.g.srcOk r = r.okG := rfl
@[simp] theorem Cls.srcOk_v (r : Reg) : Cls.v.srcOk r = true := rfl
@[simp] theorem Cls.srcOk_p (r : Reg) : Cls.p.srcOk r = r.okP := rfl
@[simp] theorem Cls.dstOk_g (n : BitVec 5) : Cls.g.dstOk n = true := rfl
@[simp] theorem Cls.dstOk_v (n : BitVec 5) : Cls.v.dstOk n = true := rfl
@[simp] theorem Cls.dstOk_p (n : BitVec 5) : Cls.p.dstOk n = dstP n := rfl
@[simp] theorem Opnd.ok_reg (r : Reg) : (Opnd.reg r).ok = r.okG := rfl
@[simp] theorem Opnd.ok_imm (v : BitVec 32) : (Opnd.imm v).ok = true := rfl
@[simp] theorem Opnd.ok_lit (v : Word) : (Opnd.lit v).ok = true := rfl
@[simp] theorem VOpnd.okG_reg (r : Reg) : (VOpnd.reg r).okG = r.okG := rfl
@[simp] theorem VOpnd.okG_imm (v : BitVec 32) : (VOpnd.imm v).okG = true := rfl

/-- A source specifier is clean when it is the specifier of a register that the position admits. -/
@[simp] theorem clean_srcOff (c : Cls) (lo : Nat) (s : BitVec 8) :
    clean (srcOff c lo s) = (c.srcOk (regOf s) && s == specOf c (regOf s)) := by
  simp only [srcOff, clean_cons, badAt_isNone, clean_nil]
  cases c <;> revert s <;> decide
@[simp] theorem clean_dstOff (c : Cls) (lo : Nat) (s : BitVec 8) :
    clean (dstOff c lo s) = (c.dstOk (specNum s) && s == dstOf c (specNum s)) := by
  simp only [dstOff, clean_cons, badAt_isNone, clean_nil]
  cases c <;> revert s <;> decide
/-- A destination, read as a register, is one without a mark. -/
theorem clean_dstOff_unmarked (c : Cls) (lo : Nat) (s : BitVec 8) :
    clean (dstOff c lo s) = (!(regOf s).mark && c.dstOk (specNum s) && s == specOf c (regOf s)) := by
  simp only [dstOff, clean_cons, badAt_isNone, clean_nil]
  cases c <;> revert s <;> decide
@[simp] theorem clean_handleSrc_eq (lo : Nat) (s : BitVec 8) : clean (handleSrc lo s) = (s == handleSpec (field s 1 3)) := by
  simp only [handleSrc, specialSrc, clean_cons, badAt_isNone, clean_nil]
  revert s; decide
@[simp] theorem clean_handleDst_eq (lo : Nat) (s : BitVec 8) : clean (handleDst lo s) = (s == handleSpec (field s 1 3)) := by
  simp only [handleDst, specialDst, clean_cons, badAt_isNone, clean_nil]
  revert s; decide
@[simp] theorem clean_accOff_eq (lo : Nat) (s : BitVec 8) : clean (accOff lo s) = (s == accSpec (field s 1 3)) := by
  simp only [accOff, specialSrc, clean_cons, badAt_isNone, clean_nil]
  revert s; decide
@[simp] theorem clean_streamOff_eq (lo : Nat) (s : BitVec 8) : clean (streamOff lo s) = (s == streamSpec (streamNum s)) := by
  simp only [streamOff, specialDst, clean_cons, badAt_isNone, clean_nil]
  revert s; decide

/-! ### Reserved bits -/

@[simp] theorem lowestSet_isNone {w : Nat} (lo : Nat) (x : BitVec w) : (lowestSet lo x).isNone = (x == 0) := by
  rcases eq_or_ne x 0 with rfl | hx
  · rw [lowestSet_zero]
    simp
  · obtain ⟨i, hlt, hbit⟩ : ∃ i < w, x.getLsbD i = true := by
      by_contra hall
      refine hx (BitVec.eq_of_getLsbD_eq fun i hi => ?_)
      simpa using fun hbit => hall ⟨i, hi, hbit⟩
    rw [lowestSet, if_neg hx, Option.isNone_map, beq_false_of_ne hx, Option.isNone_eq_false_iff, List.find?_isSome]
    exact ⟨i, List.mem_range.mpr hlt, hbit⟩
@[simp] theorem laOff_isNone_eq (la : Bool) (v : BitVec 4) : (laOff la v).isNone = (la || v == 0) := by
  cases la
  · rw [laOff, if_neg Bool.false_ne_true, lowestSet_isNone, Bool.false_or]
  · rfl
@[simp] theorem immAbove_isNone (n : Nat) (imm : BitVec 32) : (immAbove n imm).isNone = (field imm n (32 - n) == 0) := lowestSet_isNone ..
@[simp] theorem slotOff_isNone (s : BitVec 3) : (slotOff s).isNone = decide (s.toNat ≤ 4) := by
  rw [slotOff, badAt_isNone, ← decide_not, decide_eq_decide]
  exact Nat.not_lt
@[simp] theorem sizeIs_isNone (f : FmtM) (ok : Nat → Bool) : (sizeIs f ok).isNone = ok f.size.toNat := by
  simp [sizeIs]

@[simp] theorem FmtA.noRd_isNone (f : FmtA) : f.noRd.isNone = (f.rd == 0) := lowestSet_isNone ..
@[simp] theorem FmtA.no1_isNone (f : FmtA) : f.no1.isNone = (f.r1 == 0) := lowestSet_isNone ..
@[simp] theorem FmtA.no2_isNone (f : FmtA) : f.no2.isNone = (f.r2 == 0) := lowestSet_isNone ..
@[simp] theorem FmtA.no3_isNone (f : FmtA) : f.no3.isNone = (f.r3 == 0) := lowestSet_isNone ..
@[simp] theorem FmtA.noImm_isNone (f : FmtA) : f.noImm.isNone = (f.imm == 0) := lowestSet_isNone ..
@[simp] theorem FmtE.noA_isNone (f : FmtE) : f.noA.isNone = (f.a == 0) := lowestSet_isNone ..
@[simp] theorem FmtE.noB_isNone (f : FmtE) : f.noB.isNone = (f.b == 0) := lowestSet_isNone ..
@[simp] theorem FmtE.noC_isNone (f : FmtE) : f.noC.isNone = (f.c == 0) := lowestSet_isNone ..
@[simp] theorem FmtE.noD_isNone (f : FmtE) : f.noD.isNone = (f.d == 0) := lowestSet_isNone ..

@[simp] theorem FmtA.clean_com (f : FmtA) (la : Bool) : clean (f.com la) = ((la || f.la == 0) && f.rsv == 0) := by
  simp only [FmtA.com, clean_cons, clean_nil, laOff_isNone_eq, lowestSet_isNone, Bool.and_true]
@[simp] theorem FmtB.clean_com (f : FmtB) : clean f.com = (f.la == 0 && decide (f.slot.toNat ≤ 4)) := by
  simp only [FmtB.com, clean_cons, clean_nil, laOff_isNone_eq, slotOff_isNone, Bool.and_true, Bool.false_or]
@[simp] theorem FmtM.clean_com (f : FmtM) (la : Bool) : clean (f.com la) = ((la || f.la == 0) && f.rsv == 0) := by
  simp only [FmtM.com, clean_cons, clean_nil, laOff_isNone_eq, lowestSet_isNone, Bool.and_true]
@[simp] theorem FmtM.clean_adOff (f : FmtM) (ci : Cls) : clean (f.adOff ci) =
    (((regOf f.base).okG && f.base == specOf .g (regOf f.base)) && (ci.srcOk (regOf f.index) && f.index == specOf ci (regOf f.index))) := by
  simp only [FmtM.adOff, clean_append, clean_srcOff, Cls.srcOk_g]
@[simp] theorem FmtE.clean_com (f : FmtE) : clean f.com = (f.la == 0 && f.hd == handleSpec f.h) := by
  simp only [FmtE.com, clean_cons, laOff_isNone_eq, clean_handleDst_eq, Bool.false_or, FmtE.h]
@[simp] theorem FmtE.clean_sA (f : FmtE) : clean f.sA = ((regOf f.a).okG && f.a == specOf .g (regOf f.a)) := clean_srcOff .g ..
@[simp] theorem FmtE.clean_sB (f : FmtE) : clean f.sB = ((regOf f.b).okG && f.b == specOf .g (regOf f.b)) := clean_srcOff .g ..
@[simp] theorem FmtE.clean_sC (f : FmtE) : clean f.sC = ((regOf f.c).okG && f.c == specOf .g (regOf f.c)) := clean_srcOff .g ..
@[simp] theorem FmtE.clean_sD (f : FmtE) : clean f.sD = ((regOf f.d).okG && f.d == specOf .g (regOf f.d)) := clean_srcOff .g ..

/-! ### The answer of `finish` (R110, R112) -/

theorem minOf_eq_none {xs : List Nat} : minOf xs = none ↔ xs = [] := by
  cases xs with
  | nil => simp [minOf]
  | cons x xs => cases h : minOf xs <;> simp [minOf, h]
theorem lowestOffence_eq_none {os : List Offence} : lowestOffence os = none ↔ clean os = true := by
  rw [lowestOffence, minOf_eq_none]
  simp [clean, Option.eq_none_iff_forall_not_mem]
theorem finish2_eq_ok {own literal : List Offence} {i j : Instr} :
    finish2 own literal i = .ok j ↔ clean own = true ∧ clean literal = true ∧ i = j := by
  simp only [← lowestOffence_eq_none]
  cases h : lowestOffence own <;> cases h' : lowestOffence literal <;> simp [finish2, h, h']

/-! ### Slots as fields -/

theorem field_append_field {w hi lo m n : Nat} (x : BitVec w) (h : hi = lo + n) : field x hi m ++ field x lo n = field x lo (m + n) := by
  subst h
  unfold field
  ext i hi
  by_cases hl : i < n
  · simp [BitVec.getElem_append, BitVec.getElem_extractLsb', hl]
  · simp [BitVec.getElem_append, BitVec.getElem_extractLsb', hl]
    congr 1; omega

theorem FmtA.bits_of (w : SlotBits) : (FmtA.of w).bits = w := by
  simp (disch := rfl) only [FmtA.bits, FmtA.of, field_append_field]
  exact field_self w
theorem FmtW.bits_of (w : SlotBits) : (FmtW.of w).bits = w := by
  simp (disch := rfl) only [FmtW.bits, FmtW.of, field_append_field]
  exact field_self w
theorem FmtB.bits_of (w : SlotBits) : (FmtB.of w).bits = w := by
  simp (disch := rfl) only [FmtB.bits, FmtB.of, field_append_field]
  exact field_self w
theorem FmtL.bits_of (w : SlotBits) : (FmtL.of w).bits = w := by
  simp (disch := rfl) only [FmtL.bits, FmtL.of, field_append_field]
  exact field_self w
theorem FmtM.bits_of (w : SlotBits) : (FmtM.of w).bits = w := by
  simp (disch := rfl) only [FmtM.bits, FmtM.of, field_append_field]
  exact field_self w
theorem FmtE.bits_of (w : SlotBits) : (FmtE.of w).bits = w := by
  simp (disch := rfl) only [FmtE.bits, FmtE.of, field_append_field]
  exact field_self w

/-- OP of a slot (R94). -/
def opOf (w : SlotBits) : BitVec 8 := field w 88 8

@[simp] theorem FmtA.of_op (w : SlotBits) : (FmtA.of w).op = opOf w := rfl
@[simp] theorem FmtW.of_op (w : SlotBits) : (FmtW.of w).op = opOf w := rfl
@[simp] theorem FmtB.of_op (w : SlotBits) : (FmtB.of w).op = opOf w := rfl
@[simp] theorem FmtL.of_op (w : SlotBits) : (FmtL.of w).op = opOf w := rfl
@[simp] theorem FmtM.of_op (w : SlotBits) : (FmtM.of w).op = opOf w := rfl
@[simp] theorem FmtE.of_op (w : SlotBits) : (FmtE.of w).op = opOf w := rfl
@[simp] theorem FmtA.hdr_eq (f : FmtA) : f.hdr = ⟨f.la, f.gd⟩ := rfl
@[simp] theorem FmtW.hdr_eq (f : FmtW) : f.hdr = ⟨f.la, f.gd⟩ := rfl
@[simp] theorem FmtB.hdr_eq (f : FmtB) : f.hdr = ⟨f.la, f.gd⟩ := rfl
@[simp] theorem FmtL.hdr_eq (f : FmtL) : f.hdr = ⟨f.la, f.gd⟩ := rfl
@[simp] theorem FmtM.hdr_eq (f : FmtM) : f.hdr = ⟨f.la, f.gd⟩ := rfl
@[simp] theorem FmtE.hdr_eq (f : FmtE) : f.hdr = ⟨f.la, f.gd⟩ := rfl
@[simp] theorem FmtB.off_eq (f : FmtB) : f.off = ⟨f.line, f.slot⟩ := rfl
@[simp] theorem FmtM.ad_eq (f : FmtM) : f.ad = ⟨regOf f.base, regOf f.index, f.scale, f.disp⟩ := rfl

/-- A slot is the one built from some fields when these are what it is read as. -/
theorem FmtA.bits_eq_iff {f : FmtA} {w : SlotBits} : f.bits = w ↔ FmtA.of w = f :=
  ⟨fun h => h ▸ f.of_bits, fun h => h ▸ FmtA.bits_of w⟩
theorem FmtB.bits_eq_iff {f : FmtB} {w : SlotBits} : f.bits = w ↔ FmtB.of w = f :=
  ⟨fun h => h ▸ f.of_bits, fun h => h ▸ FmtB.bits_of w⟩
theorem FmtM.bits_eq_iff {f : FmtM} {w : SlotBits} : f.bits = w ↔ FmtM.of w = f :=
  ⟨fun h => h ▸ f.of_bits, fun h => h ▸ FmtM.bits_of w⟩
theorem FmtE.bits_eq_iff {f : FmtE} {w : SlotBits} : f.bits = w ↔ FmtE.of w = f :=
  ⟨fun h => h ▸ f.of_bits, fun h => h ▸ FmtE.bits_of w⟩

@[simp] theorem encA_eq_iff {op : BitVec 8} {h : Hdr} {fn : BitVec 12} {rd r1 r2 r3 : BitVec 8} {imm : BitVec 32} {w : SlotBits} :
    encA op h fn rd r1 r2 r3 imm = w ↔ opOf w = op ∧ (FmtA.of w).la = h.la ∧ (FmtA.of w).gd = h.gd ∧ (FmtA.of w).fn = fn ∧
      (FmtA.of w).rd = rd ∧ (FmtA.of w).r1 = r1 ∧ (FmtA.of w).r2 = r2 ∧ (FmtA.of w).r3 = r3 ∧ (FmtA.of w).rsv = 0 ∧
      (FmtA.of w).imm = imm := by
  rw [encA, FmtA.bits_eq_iff]
  exact iff_of_eq (FmtA.mk.injEq ..)
@[simp] theorem encB_eq_iff {op : BitVec 8} {h : Hdr} {fn : BitVec 4} {r1 r2 : BitVec 8} {aux : BitVec 20} {t : Target} {w : SlotBits} :
    encB op h fn r1 r2 aux t = w ↔ opOf w = op ∧ (FmtB.of w).la = h.la ∧ (FmtB.of w).gd = h.gd ∧ (FmtB.of w).fn = fn ∧
      (FmtB.of w).r1 = r1 ∧ (FmtB.of w).r2 = r2 ∧ (FmtB.of w).aux = aux ∧ (FmtB.of w).line = t.line ∧ (FmtB.of w).slot = t.slot := by
  rw [encB, FmtB.bits_eq_iff]
  exact iff_of_eq (FmtB.mk.injEq ..)
@[simp] theorem encM_eq_iff {op : BitVec 8} {h : Hdr} {fn rd : BitVec 8} {ci : Cls} {ad : Addr} {size : BitVec 3} {w : SlotBits} :
    encM op h fn rd ci ad size = w ↔ opOf w = op ∧ (FmtM.of w).la = h.la ∧ (FmtM.of w).gd = h.gd ∧ (FmtM.of w).fn = fn ∧
      (FmtM.of w).rd = rd ∧ (FmtM.of w).base = specOf .g ad.base ∧ (FmtM.of w).index = specOf ci ad.index ∧
      (FmtM.of w).scale = ad.scale ∧ (FmtM.of w).size = size ∧ (FmtM.of w).rsv = 0 ∧ (FmtM.of w).disp = ad.disp := by
  rw [encM, FmtM.bits_eq_iff]
  exact iff_of_eq (FmtM.mk.injEq ..)
@[simp] theorem encE_eq_iff {op : BitVec 8} {h : Hdr} {fn : BitVec 8} {hd : BitVec 3} {a b c d : BitVec 8} {imm : BitVec 32} {w : SlotBits} :
    encE op h fn hd a b c d imm = w ↔ opOf w = op ∧ (FmtE.of w).la = h.la ∧ (FmtE.of w).gd = h.gd ∧ (FmtE.of w).fn = fn ∧
      (FmtE.of w).hd = handleSpec hd ∧ (FmtE.of w).a = a ∧ (FmtE.of w).b = b ∧ (FmtE.of w).c = c ∧ (FmtE.of w).d = d ∧
      (FmtE.of w).imm = imm := by
  rw [encE, FmtE.bits_eq_iff]
  exact iff_of_eq (FmtE.mk.injEq ..)
theorem FmtW.bits_eq_iff {f : FmtW} {w : SlotBits} : f.bits = w ↔ opOf w = f.op ∧ (FmtW.of w).la = f.la ∧ (FmtW.of w).gd = f.gd ∧
    (FmtW.of w).fn = f.fn ∧ (FmtW.of w).rd = f.rd ∧ (FmtW.of w).rsv = f.rsv ∧ (FmtW.of w).imm = f.imm :=
  have h : f.bits = w ↔ FmtW.of w = f := ⟨fun h => h ▸ f.of_bits, fun h => h ▸ FmtW.bits_of w⟩
  h.trans (iff_of_eq (FmtW.mk.injEq ..))
theorem FmtL.bits_eq_iff {f : FmtL} {w : SlotBits} : f.bits = w ↔ opOf w = f.op ∧ (FmtL.of w).la = f.la ∧ (FmtL.of w).gd = f.gd ∧
    (FmtL.of w).fn = f.fn ∧ (FmtL.of w).imm = f.imm ∧ (FmtL.of w).rsv = f.rsv ∧ (FmtL.of w).line = f.line ∧ (FmtL.of w).slot = f.slot :=
  have h : f.bits = w ↔ FmtL.of w = f := ⟨fun h => h ▸ f.of_bits, fun h => h ▸ FmtL.bits_of w⟩
  h.trans (iff_of_eq (FmtL.mk.injEq ..))

/-! ### Immediates as fields -/

@[simp] theorem natField_eq {w : Nat} (x : BitVec w) (lo n : Nat) : natField x lo n = (field x lo n).toNat := by
  simp [natField, field, BitVec.extractLsb'_toNat, Nat.shiftRight_eq_div_pow]
theorem field_field {w : Nat} (x : BitVec w) {lo n k m : Nat} (h : k + m ≤ n) : field (field x lo n) k m = field x (lo + k) m := by
  unfold field
  ext i hi
  have hk : k + i < n := by omega
  simp [BitVec.getElem_extractLsb', hk, Nat.add_assoc]
theorem field_eq_append_iff {w lo m n : Nat} (x : BitVec w) (a : BitVec m) (b : BitVec n) :
    field x lo (m + n) = a ++ b ↔ field x (lo + n) m = a ∧ field x lo n = b := by
  constructor
  · intro h
    have ha : field (field x lo (m + n)) n m = a := by rw [h, field_append_high _ _ le_rfl, Nat.sub_self, field_self]
    have hb : field (field x lo (m + n)) 0 n = b := by rw [h, field_append_low _ _ (by omega), field_self]
    rw [field_field x (by omega)] at ha hb
    exact ⟨ha, hb⟩
  · rintro ⟨rfl, rfl⟩
    exact (field_append_field x rfl).symm
/-- A word of the width of its parts is their concatenation when its fields are the parts. -/
theorem eq_iff_of_field {w : Nat} {x y : BitVec w} {P : Prop} (h : field x 0 w = y ↔ P) : x = y ↔ P := by rwa [field_self] at h
@[simp] theorem field_one_eq {w lo : Nat} (x : BitVec w) (b : Bool) : field x lo 1 = BitVec.ofBool b ↔ x.getLsbD lo = b := by
  rw [show field x lo 1 = BitVec.ofBool (x.getLsbD lo) by
    unfold field
    ext i hi
    obtain rfl : i = 0 := by omega
    simp [BitVec.getElem_extractLsb']]
  generalize x.getLsbD lo = c
  revert b c; decide
/-- A word is the zero extension of its low part. -/
@[simp] theorem eq_setWidth_iff {w k : Nat} (x : BitVec w) (a : BitVec k) (h : k ≤ w) :
    x = a.setWidth w ↔ field x 0 k = a ∧ field x k (w - k) = 0 := by
  constructor
  · rintro rfl
    exact ⟨by rw [field_setWidth_low _ (by omega), field_self], by rw [field_setWidth_low _ (by omega), field_above _ le_rfl]⟩
  · rintro ⟨rfl, hz⟩
    refine BitVec.eq_of_getLsbD_eq fun i hi => ?_
    by_cases hik : i < k
    · simp [field, hi, hik]
    · have hbit : (field x k (w - k)).getLsbD (i - k) = false := by simp [hz]
      have hlt : i - k < w - k := by omega
      simpa [field, hi, hik, hlt, show k + (i - k) = i by omega] using hbit


section
variable (x : BitVec 32)
/-- IMM32 of `cpy` and `cpyf` (R244). -/
@[simp] theorem imm_spaces_iff (a b : BitVec 2) : x = 0#28 ++ a ++ b ↔ (field x 4 28 = 0#28 ∧ field x 2 2 = a) ∧ field x 0 2 = b := by
  refine eq_iff_of_field ?_
  change field x 0 (28 + 2 + 2) = _ ↔ _
  rw [field_eq_append_iff, field_eq_append_iff]
/-- IMM32 of `cpym` (R244). -/
@[simp] theorem imm_cpym_iff (a : BitVec 2) (b : BitVec 8) :
    x = 0#22 ++ a ++ b ↔ (field x 10 22 = 0#22 ∧ field x 8 2 = a) ∧ field x 0 8 = b := by
  refine eq_iff_of_field ?_
  change field x 0 (22 + 2 + 8) = _ ↔ _
  rw [field_eq_append_iff, field_eq_append_iff]
/-- IMM32 of `cpyc` (R245). -/
@[simp] theorem imm_cpyc_iff (ssp : BitVec 2) (rnd : BitVec 3) (fmt : BitVec 4) (b a : BitVec 6) :
    x = 0#11 ++ ssp ++ rnd ++ fmt ++ b ++ a ↔ ((((field x 21 11 = 0#11 ∧ field x 19 2 = ssp) ∧ field x 16 3 = rnd) ∧ field x 12 4 = fmt) ∧
      field x 6 6 = b) ∧ field x 0 6 = a := by
  refine eq_iff_of_field ?_
  change field x 0 (11 + 2 + 3 + 4 + 6 + 6) = _ ↔ _
  rw [field_eq_append_iff, field_eq_append_iff, field_eq_append_iff, field_eq_append_iff, field_eq_append_iff]
/-- IMM32 of `tmma` and `tmmas` (R314). -/
@[simp] theorem imm_tslots_iff (b a : BitVec 6) : x = 0#20 ++ b ++ a ↔ (field x 12 20 = 0#20 ∧ field x 6 6 = b) ∧ field x 0 6 = a := by
  refine eq_iff_of_field ?_
  change field x 0 (20 + 6 + 6) = _ ↔ _
  rw [field_eq_append_iff, field_eq_append_iff]
/-- IMM32 of `tdrain` and `tdraint` (R317). -/
@[simp] theorem imm_drain_iff (zero free : Bool) (b a : BitVec 6) :
    x = 0#18 ++ BitVec.ofBool zero ++ BitVec.ofBool free ++ b ++ a ↔
      (((field x 14 18 = 0#18 ∧ x.getLsbD 13 = zero) ∧ x.getLsbD 12 = free) ∧ field x 6 6 = b) ∧ field x 0 6 = a := by
  refine eq_iff_of_field ?_
  change field x 0 (18 + 1 + 1 + 6 + 6) = _ ↔ _
  rw [field_eq_append_iff, field_eq_append_iff, field_eq_append_iff, field_eq_append_iff, field_one_eq, field_one_eq]
/-- IMM32 with one flag. -/
@[simp] theorem imm_flag_iff (b : Bool) : x = 0#31 ++ BitVec.ofBool b ↔ field x 1 31 = 0#31 ∧ x.getLsbD 0 = b := by
  refine eq_iff_of_field ?_
  change field x 0 (31 + 1) = _ ↔ _
  rw [field_eq_append_iff, field_one_eq]
/-- IMM32 of `rep` (R206). -/
@[simp] theorem imm_rep_iff (mask : BitVec 4) (stride : BitVec 3) (len : BitVec 4) :
    x = 0#20 ++ mask ++ 0#1 ++ stride ++ len ↔
      (((field x 12 20 = 0#20 ∧ field x 8 4 = mask) ∧ field x 7 1 = 0#1) ∧ field x 4 3 = stride) ∧ field x 0 4 = len := by
  refine eq_iff_of_field ?_
  change field x 0 (20 + 4 + 1 + 3 + 4) = _ ↔ _
  rw [field_eq_append_iff, field_eq_append_iff, field_eq_append_iff, field_eq_append_iff]
end

/-- AUX of `freeze` (R277). -/
@[simp] theorem aux_place_iff (x : BitVec 20) (a : BitVec 8) : x = 0#12 ++ a ↔ field x 8 12 = 0#12 ∧ field x 0 8 = a := by
  refine eq_iff_of_field ?_
  change field x 0 (12 + 8) = _ ↔ _
  rw [field_eq_append_iff]

section
variable (x : BitVec 12)
/-- FN of the conversions (R139). -/
@[simp] theorem fn_fcvt_iff (d s : BitVec 4) (r : BitVec 3) :
    x = d ++ s ++ 0#1 ++ r ↔ ((field x 8 4 = d ∧ field x 4 4 = s) ∧ x.getLsbD 3 = false) ∧ field x 0 3 = r := by
  refine eq_iff_of_field ?_
  change field x 0 (4 + 4 + 1 + 3) = _ ++ BitVec.ofBool false ++ _ ↔ _
  rw [field_eq_append_iff, field_eq_append_iff, field_eq_append_iff, field_one_eq]
/-- FN of `vcvt` (R182). -/
@[simp] theorem fn_vcvt_iff (r : BitVec 3) (s d : BitVec 4) :
    x = 0#1 ++ r ++ s ++ d ↔ ((x.getLsbD 11 = false ∧ field x 8 3 = r) ∧ field x 4 4 = s) ∧ field x 0 4 = d := by
  refine eq_iff_of_field ?_
  change field x 0 (1 + 3 + 4 + 4) = BitVec.ofBool false ++ _ ++ _ ++ _ ↔ _
  rw [field_eq_append_iff, field_eq_append_iff, field_eq_append_iff, field_one_eq]
/-- FN of `vcmp` (R180). -/
@[simp] theorem fn_vcmp_iff (cc fmt : BitVec 4) : x = 0#4 ++ cc ++ fmt ↔ (field x 8 4 = 0#4 ∧ field x 4 4 = cc) ∧ field x 0 4 = fmt := by
  refine eq_iff_of_field ?_
  change field x 0 (4 + 4 + 4) = _ ↔ _
  rw [field_eq_append_iff, field_eq_append_iff]
/-- FN of a form with IMM32 as its second operand (R172). -/
@[simp] theorem fn_imm_iff (fmt : BitVec 4) : x = 1#8 ++ fmt ↔ (field x 5 7 = 0#7 ∧ x.getLsbD 4 = true) ∧ field x 0 4 = fmt := by
  refine eq_iff_of_field ?_
  change field x 0 (7 + 1 + 4) = 0#7 ++ BitVec.ofBool true ++ _ ↔ _
  rw [field_eq_append_iff, field_eq_append_iff, field_one_eq]
/-- FN of a form with registers only (R172). -/
@[simp] theorem fn_reg_iff (fmt : BitVec 4) : x = vfn fmt ↔ field x 4 8 = 0#8 ∧ field x 0 4 = fmt := by
  rw [vfn, eq_setWidth_iff x fmt (by decide), and_comm]
  rfl
/-- FN[11:4] of a register form, in the parts that the forms with a choice look at. -/
theorem field_fn_reg_iff : field x 4 8 = 0#8 ↔ field x 5 7 = 0#7 ∧ x.getLsbD 4 = false := by
  change field x 4 (7 + 1) = 0#7 ++ BitVec.ofBool false ↔ _
  rw [field_eq_append_iff, field_one_eq]
/-- FN of `vbcast` with a literal (R183). -/
@[simp] theorem fn_literal_iff (fmt : BitVec 4) : x = 128#8 ++ fmt ↔ (x.getLsbD 11 = true ∧ field x 4 7 = 0#7) ∧ field x 0 4 = fmt := by
  refine eq_iff_of_field ?_
  change field x 0 (1 + 7 + 4) = BitVec.ofBool true ++ 0#7 ++ _ ↔ _
  rw [field_eq_append_iff, field_eq_append_iff, field_one_eq]
/-- FN[11:4] of `vbcast` with a register (R183). -/
theorem field_fn_scalar_iff : field x 4 8 = 0#8 ↔ x.getLsbD 11 = false ∧ field x 4 7 = 0#7 := by
  change field x 4 (1 + 7) = BitVec.ofBool false ++ 0#7 ↔ _
  rw [field_eq_append_iff, field_one_eq]
end

section
variable (x : BitVec 8)
/-- FN of a scalar load (R113). -/
@[simp] theorem fn_load_iff (z : Bool) : x = 0#7 ++ BitVec.ofBool z ↔ field x 1 7 = 0#7 ∧ x.getLsbD 0 = z := by
  refine eq_iff_of_field ?_
  change field x 0 (7 + 1) = _ ↔ _
  rw [field_eq_append_iff, field_one_eq]
/-- FN of the cell forms (R239). -/
@[simp] theorem fn_cell_iff (g : Bool) (a : BitVec 4) : x = cellFn g a ↔ (field x 5 3 = 0#3 ∧ x.getLsbD 4 = g) ∧ field x 0 4 = a := by
  refine eq_iff_of_field ?_
  change field x 0 (3 + 1 + 4) = 0#3 ++ BitVec.ofBool g ++ a ↔ _
  rw [field_eq_append_iff, field_eq_append_iff, field_one_eq]
end

/-! ### Which slots take a literal (R100) -/

/-- The opcodes of the integer group that have a LIT form, with FN 0x801. -/
def intLiteral (op : BitVec 8) : Bool :=
  (decide (1 ≤ op.toNat) && decide (op.toNat ≤ 0x13)) || op.toNat == 0x17 || op.toNat == 0x18 ||
    (decide (0x1B ≤ op.toNat) && decide (op.toNat ≤ 0x25))
/-- The opcodes without a LIT form. -/
def noLiteral (op : BitVec 8) : Bool := !intLiteral op && op.toNat != 0x9B

theorem isLitForm_eq (w : SlotBits) :
    isLitForm w = ((FmtA.of w).fn == 0x801 && intLiteral (opOf w) || (opOf w).toNat == 0x9B && (FmtA.of w).fn.getLsbD 11) := rfl
theorem isLitForm_of_noLiteral {w : SlotBits} {op : BitVec 8} (hop : opOf w = op) (h : noLiteral op = true) : isLitForm w = false := by
  subst hop
  simp only [noLiteral, Bool.and_eq_true, Bool.not_eq_true', bne_iff_ne, ne_eq] at h
  simp [isLitForm_eq, h]
theorem isLitForm_of_intLiteral {w : SlotBits} {op : BitVec 8} (hop : opOf w = op) (h : intLiteral op = true) :
    isLitForm w = ((FmtA.of w).fn == 0x801) := by
  subst hop
  have hne : ((opOf w).toNat == 0x9B) = false := by
    by_contra hop
    simp only [Bool.not_eq_false, beq_iff_eq] at hop
    simp [intLiteral, hop] at h
  rw [isLitForm_eq, h, hne, Bool.and_true, Bool.false_and, Bool.or_false]

/-- The words that a slot and the slot after it give to an instruction. -/
def wordsOf (w lit : SlotBits) : Words := if isLitForm w then [w, lit] else [w]

@[simp] theorem single_eq_wordsOf {x w lit : SlotBits} : [x] = wordsOf w lit ↔ x = w ∧ isLitForm w = false := by
  cases h : isLitForm w <;> simp [wordsOf, h]
@[simp] theorem pair_eq_wordsOf {x y w lit : SlotBits} : [x, y] = wordsOf w lit ↔ x = w ∧ y = lit ∧ isLitForm w = true := by
  cases h : isLitForm w <;> simp [wordsOf, h]
@[simp] theorem litSlot_eq_iff {v : Word} {x : SlotBits} : litSlot v = x ↔ field x 0 64 = v ∧ field x 64 32 = 0 := by
  constructor
  · rintro rfl
    simp
  · rintro ⟨rfl, h⟩
    rw [litSlot, ← h, field_append_field x (show 64 = 0 + 64 from rfl)]
    exact field_self x

/-! ### A decoder that answers exactly the instructions of one form -/

/-- The answer `d` for a slot and the slot after it is `mk g` exactly when `mk g` is well-formed and has these words. -/
def Exact {α : Type} (mk : α → Instr) (w lit : SlotBits) (d : Decoded) : Prop :=
  ∀ i, d = .ok i ↔ ∃ g, i = mk g ∧ (mk g).wf = true ∧ encode (mk g) = wordsOf w lit

section
variable {α : Type} {mk : α → Instr} {w lit : SlotBits}

theorem Exact.finish2 {own literal : List Offence} {g₀ : α}
    (hsound : clean own = true → clean literal = true → (mk g₀).wf = true ∧ encode (mk g₀) = wordsOf w lit)
    (hcomplete : ∀ g, (mk g).wf = true → encode (mk g) = wordsOf w lit → clean own = true ∧ clean literal = true ∧ g₀ = g) :
    Exact mk w lit (finish2 own literal (mk g₀)) := by
  intro i
  rw [finish2_eq_ok]
  constructor
  · rintro ⟨hown, hlit, rfl⟩
    exact ⟨g₀, rfl, hsound hown hlit⟩
  · rintro ⟨g, rfl, hwf, henc⟩
    obtain ⟨hown, hlit, rfl⟩ := hcomplete g hwf henc
    exact ⟨hown, hlit, rfl⟩
theorem Exact.finish {own : List Offence} {g₀ : α} (hsound : clean own = true → (mk g₀).wf = true ∧ encode (mk g₀) = wordsOf w lit)
    (hcomplete : ∀ g, (mk g).wf = true → encode (mk g) = wordsOf w lit → clean own = true ∧ g₀ = g) :
    Exact mk w lit (finish own (mk g₀)) :=
  .finish2 (fun h _ => hsound h) (by simpa using hcomplete)
theorem Exact.ite {p : Prop} [Decidable p] {d e : Decoded} (hd : p → Exact mk w lit d) (he : ¬p → Exact mk w lit e) :
    Exact mk w lit (if p then d else e) := by
  split
  · exact hd ‹_›
  · exact he ‹_›
/-- An FN that no instruction of the form has is ILLEGAL_OP. -/
theorem Exact.guarded {p : Prop} [Decidable p] {d : Decoded} {op : BitVec 8} {fn : Nat}
    (hp : ∀ g, (mk g).wf = true → encode (mk g) = wordsOf w lit → p) (hd : p → Exact mk w lit d) :
    Exact mk w lit (if p then d else illegalOp op fn) := by
  refine .ite hd fun hn i => ?_
  constructor
  · intro h
    simp [illegalOp] at h
  · rintro ⟨g, -, hwf, henc⟩
    exact absurd (hp g hwf henc) hn
/-- A system register number that is not listed is ILLEGAL_OP (R149). -/
theorem Exact.sys {k : BitVec 12 → Decoded}
    (hp : ∀ g, (mk g).wf = true → encode (mk g) = wordsOf w lit → sysregListed (field (FmtA.of w).imm 0 12) = true)
    (hk : sysregListed (field (FmtA.of w).imm 0 12) = true → Exact mk w lit (k (field (FmtA.of w).imm 0 12))) :
    Exact mk w lit ((FmtA.of w).sys k) := by
  refine .ite hk fun hn i => ?_
  constructor
  · rintro ⟨⟩
  · rintro ⟨g, -, hwf, henc⟩
    exact absurd (hp g hwf henc) hn
/-- A vector form without an immediate: FN[11:4] zero, and a format code that the form lists, or a reserved one (R50, R172). -/
theorem Exact.vplain {ok : BitVec 4 → Bool} {k : BitVec 4 → Offence → Decoded}
    (hp : ∀ g, (mk g).wf = true → encode (mk g) = wordsOf w lit →
      field (FmtA.of w).fn 4 8 = 0 ∧ ok (field (FmtA.of w).fn 0 4) = true)
    (hk : field (FmtA.of w).fn 4 8 = 0 → (ok (field (FmtA.of w).fn 0 4) || fmtReserved (field (FmtA.of w).fn 0 4)) = true →
      Exact mk w lit (k (field (FmtA.of w).fn 0 4) (badAt 68 (fmtReserved (field (FmtA.of w).fn 0 4))))) :
    Exact mk w lit ((FmtA.of w).vplain ok k) :=
  .guarded (fun g hwf henc => (hp g hwf henc).1) fun hfn =>
    .guarded (fun g hwf henc => by rw [(hp g hwf henc).2, Bool.true_or]) fun hfmt => hk hfn hfmt
end

theorem fmtReserved_of_fmtM {c : BitVec 4} : fmtM c = true → fmtReserved c = false := by revert c; decide
theorem fmtReserved_of_fmtI {c : BitVec 4} : fmtI c = true → fmtReserved c = false := by revert c; decide
theorem fmtReserved_of_fmtF {c : BitVec 4} : fmtF c = true → fmtReserved c = false := by revert c; decide
theorem fmtReserved_of_fmtFI {c : BitVec 4} : fmtFI c = true → fmtReserved c = false := by revert c; decide

/-! ### Format A: scalar forms (R95, R130 to R142) -/

section
variable {w lit : SlotBits} {op : BitVec 8}

theorem dIntBin_exact {mk : IntBin → Instr} {la : Bool} (hwf : ∀ g, (mk g).wf = (g.a.okG && g.b.ok && (la || g.h.la == 0)))
    (henc : ∀ g, encode (mk g) = eIntBin op g) (hop : opOf w = op) (hl : intLiteral op = true) :
    Exact mk w lit (dIntBin (FmtA.of w) lit la mk) := by
  have hlit := isLitForm_of_intLiteral hop hl
  refine .ite (fun hfn => .finish ?_ ?_) fun h0 => .ite (fun hfn => .finish ?_ ?_) fun h1 => .guarded ?_ fun hfn => .finish2 ?_ ?_
    <;> simp only [hwf, henc, eIntBin, encTwo]
  · intro h
    simp [hfn, hlit, hop] at h ⊢
    grind only
  · rintro ⟨⟨la, gd⟩, rd, a, b⟩ hg h
    cases b <;> simp_all
  · intro h
    simp [hfn, hlit, hop] at h ⊢
    grind only
  · rintro ⟨⟨la, gd⟩, rd, a, b⟩ hg h
    cases b <;> simp_all
  · rintro ⟨⟨la, gd⟩, rd, a, b⟩ - h
    cases b <;> simp_all
  · intro h h'
    simp [hfn, hlit, hop] at h h' ⊢
    grind only
  · rintro ⟨⟨la, gd⟩, rd, a, b⟩ hg h
    cases b <;> simp_all
theorem dIntTri_exact {mk : IntTri → Instr} (hwf : ∀ g, (mk g).wf = (g.a.okG && g.b.ok && g.c.okG && g.h.la == 0))
    (henc : ∀ g, encode (mk g) = eIntTri op g) (hop : opOf w = op) (hl : intLiteral op = true) :
    Exact mk w lit (dIntTri (FmtA.of w) lit mk) := by
  have hlit := isLitForm_of_intLiteral hop hl
  refine .ite (fun hfn => .finish ?_ ?_) fun h0 => .ite (fun hfn => .finish ?_ ?_) fun h1 => .guarded ?_ fun hfn => .finish2 ?_ ?_
    <;> simp only [hwf, henc, eIntTri, encTwo]
  · intro h
    simp [hfn, hlit, hop] at h ⊢
    grind only
  · rintro ⟨⟨la, gd⟩, rd, a, b⟩ hg h
    cases b <;> simp_all
  · intro h
    simp [hfn, hlit, hop] at h ⊢
    grind only
  · rintro ⟨⟨la, gd⟩, rd, a, b⟩ hg h
    cases b <;> simp_all
  · rintro ⟨⟨la, gd⟩, rd, a, b⟩ - h
    cases b <;> simp_all
  · intro h h'
    simp [hfn, hlit, hop] at h h' ⊢
    grind only
  · rintro ⟨⟨la, gd⟩, rd, a, b⟩ hg h
    cases b <;> simp_all

theorem dUn_exact {mk : Un → Instr} {la : Bool} {cd cs : Cls}
    (hwf : ∀ g, (mk g).wf = (cd.dstOk g.rd && cs.srcOk g.a && (la || g.h.la == 0))) (henc : ∀ g, encode (mk g) = eUn op 0 cd cs g)
    (hop : opOf w = op) (hn : noLiteral op = true) : Exact mk w lit (dUn (FmtA.of w) la cd cs mk) := by
  have hlit := isLitForm_of_noLiteral hop hn
  refine .guarded ?_ fun hfn => .finish ?_ ?_ <;> simp only [hwf, henc, eUn]
  · simp +contextual
  · intro h
    simp [hfn, hop, hlit] at h ⊢
    grind only
  · rintro ⟨⟨la, gd⟩, rd, a⟩ hg h
    simp_all
theorem dBin_exact {mk : Bin → Instr} {la : Bool} {cd cs : Cls}
    (hwf : ∀ g, (mk g).wf = (cd.dstOk g.rd && cs.srcOk g.a && cs.srcOk g.b && (la || g.h.la == 0)))
    (henc : ∀ g, encode (mk g) = eBin op cd cs g) (hop : opOf w = op) (hn : noLiteral op = true) :
    Exact mk w lit (dBin (FmtA.of w) la cd cs mk) := by
  have hlit := isLitForm_of_noLiteral hop hn
  refine .guarded ?_ fun hfn => .finish ?_ ?_ <;> simp only [hwf, henc, eBin]
  · simp +contextual
  · intro h
    simp [hfn, hop, hlit] at h ⊢
    grind only
  · rintro ⟨⟨la, gd⟩, rd, a, b⟩ hg h
    simp_all
theorem dTri_exact {mk : Tri → Instr} {la : Bool} (hwf : ∀ g, (mk g).wf = (g.a.okG && g.b.okG && g.c.okG && (la || g.h.la == 0)))
    (henc : ∀ g, encode (mk g) = eTri op g) (hop : opOf w = op) (hn : noLiteral op = true) :
    Exact mk w lit (dTri (FmtA.of w) la mk) := by
  have hlit := isLitForm_of_noLiteral hop hn
  refine .guarded ?_ fun hfn => .finish ?_ ?_ <;> simp only [hwf, henc, eTri]
  · simp +contextual
  · intro h
    simp [hfn, hop, hlit] at h ⊢
    grind only
  · rintro ⟨⟨la, gd⟩, rd, a, b, c⟩ hg h
    simp_all
theorem dFcmp_exact (hop : opOf w = 0x4A) : Exact .fcmp w lit (dFcmp (FmtA.of w)) := by
  have hwf : ∀ g, (Instr.fcmp g).wf = (ccFloat g.cc && g.a.okG && g.b.okG && g.h.la == 0) := fun _ => rfl
  have henc : ∀ g, encode (.fcmp g) = [encA 0x4A g.h (g.cc.setWidth 12) (dstOf .g g.rd) (specOf .g g.a) (specOf .g g.b) 0 0] := fun _ => rfl
  have hlit := isLitForm_of_noLiteral hop rfl
  refine .guarded ?_ fun hfn => .finish ?_ ?_ <;> simp only [hwf, henc]
  · rintro ⟨⟨la, gd⟩, cc, rd, a, b⟩ hg h
    simp_all
  · intro h
    simp [hfn, hop, hlit] at h ⊢
    grind only
  · rintro ⟨⟨la, gd⟩, cc, rd, a, b⟩ hg h
    simp_all
theorem dPcmp_exact (hop : opOf w = 0x50) : Exact .pcmp w lit (dPcmp (FmtA.of w)) := by
  have hwf : ∀ g, (Instr.pcmp g).wf = (ccInt g.cc && dstP g.rd && g.a.okG && g.b.okG && g.h.la == 0) := fun _ => rfl
  have henc : ∀ g, encode (.pcmp g) = match g.b with
    | .reg r => [encA 0x50 g.h (vfn g.cc) (dstOf .p g.rd) (specOf .g g.a) (specOf .g r) 0 0]
    | .imm v => [encA 0x50 g.h (0x01#8 ++ g.cc) (dstOf .p g.rd) (specOf .g g.a) 0 0 v] := fun _ => rfl
  have hlit := isLitForm_of_noLiteral hop rfl
  refine .guarded ?_ fun hfn => .ite (fun h4 => .finish ?_ ?_) fun h4 => .finish ?_ ?_ <;> simp only [hwf, henc]
  · rintro ⟨⟨la, gd⟩, cc, rd, a, b⟩ hg h
    cases b <;> simp_all [field_fn_reg_iff]
  · intro h
    simp [hfn, h4, hop, hlit] at h ⊢
    grind only
  · rintro ⟨⟨la, gd⟩, cc, rd, a, b⟩ hg h
    cases b <;> simp_all [field_fn_reg_iff]
  · intro h
    simp [hfn, hop, hlit, field_fn_reg_iff] at h h4 ⊢
    grind only
  · rintro ⟨⟨la, gd⟩, cc, rd, a, b⟩ hg h
    cases b <;> simp_all [field_fn_reg_iff]
theorem dFcvt_exact (hop : opOf w = 0x4B) : Exact .fcvt w lit (dFcvt (FmtA.of w)) := by
  have hwf : ∀ g, (Instr.fcvt g).wf = (fmtConv g.dst && fmtConv g.src && !rndReserved g.rnd && g.a.okG) := fun g => Bool.and_true _
  have henc : ∀ g, encode (.fcvt g) = [encA 0x4B g.h (g.dst ++ g.src ++ 0#1 ++ g.rnd) (dstOf .g g.rd) (specOf .g g.a) 0 0 0] := fun _ => rfl
  have hlit := isLitForm_of_noLiteral hop rfl
  refine .guarded ?_ fun hfn => .finish ?_ ?_ <;> simp only [hwf, henc]
  · rintro ⟨⟨la, gd⟩, dst, src, rnd, rd, a⟩ hg h
    simp_all
  · intro h
    simp [hop, hlit] at h hfn ⊢
    grind only
  · rintro ⟨⟨la, gd⟩, dst, src, rnd, rd, a⟩ hg h
    simp_all [fmtReserved_of_fmtM (c := dst) (by simp_all [fmtConv]), fmtReserved_of_fmtM (c := src) (by simp_all [fmtConv])]

/-! ### Format A: transfers, system, starter, stream and repetition forms (R143 to R206) -/

theorem dJumpReg_exact {mk : JumpReg → Instr} {fn : BitVec 12} (hwf : ∀ g, (mk g).wf = (g.a.okG && g.h.la == 0))
    (henc : ∀ g, encode (mk g) = eJumpReg fn g) (hop : opOf w = 0x5A) (hfn : (FmtA.of w).fn = fn) :
    Exact mk w lit (dJumpReg (FmtA.of w) mk) := by
  have hlit := isLitForm_of_noLiteral hop rfl
  refine .finish ?_ ?_ <;> simp only [hwf, henc, eJumpReg]
  · intro h
    simp [hfn, hop, hlit] at h ⊢
    grind only
  · rintro ⟨⟨la, gd⟩, a⟩ hg h
    simp_all

theorem dMfs_exact (hop : opOf w = 0x60) (hfn : (FmtA.of w).fn = 0) : Exact .mfs w lit (dMfs (FmtA.of w)) := by
  have hwf : ∀ g, (Instr.mfs g).wf = (sysregListed g.sr && g.h.la == 0) := fun _ => rfl
  have henc : ∀ g, encode (.mfs g) = [encA 0x60 g.h 0 (dstOf .g g.rd) 0 0 0 (g.sr.setWidth 32)] := fun _ => rfl
  have hlit := isLitForm_of_noLiteral hop rfl
  refine .sys ?_ fun hn => .finish ?_ ?_ <;> simp only [hwf, henc]
  · rintro ⟨⟨la, gd⟩, rd, sr⟩ hg h
    simp_all
  · intro h
    simp [hfn, hop, hlit, hn] at h ⊢
    grind only
  · rintro ⟨⟨la, gd⟩, rd, sr⟩ hg h
    simp_all
theorem dMts_exact (hop : opOf w = 0x60) (hfn : (FmtA.of w).fn = 1) : Exact .mts w lit (dMts (FmtA.of w)) := by
  have hwf : ∀ g, (Instr.mts g).wf = (sysregListed g.sr && g.a.okG && g.h.la == 0) := fun _ => rfl
  have henc : ∀ g, encode (.mts g) = [encA 0x60 g.h 1 0 (specOf .g g.a) 0 0 (g.sr.setWidth 32)] := fun _ => rfl
  have hlit := isLitForm_of_noLiteral hop rfl
  refine .sys ?_ fun hn => .finish ?_ ?_ <;> simp only [hwf, henc]
  · rintro ⟨⟨la, gd⟩, sr, a⟩ hg h
    simp_all
  · intro h
    simp [hfn, hop, hlit, hn] at h ⊢
    grind only
  · rintro ⟨⟨la, gd⟩, sr, a⟩ hg h
    simp_all
theorem dSysMod_exact {mk : SysMod → Instr} {fn : BitVec 12} (hwf : ∀ g, (mk g).wf = (sysregListed g.sr && g.a.okG && g.h.la == 0))
    (henc : ∀ g, encode (mk g) = eSysMod fn g) (hop : opOf w = 0x60) (hfn : (FmtA.of w).fn = fn) :
    Exact mk w lit (dSysMod (FmtA.of w) mk) := by
  have hlit := isLitForm_of_noLiteral hop rfl
  refine .sys ?_ fun hn => .finish ?_ ?_ <;> simp only [hwf, henc, eSysMod]
  · rintro ⟨⟨la, gd⟩, rd, sr, a⟩ hg h
    simp_all
  · intro h
    simp [hfn, hop, hlit, hn] at h ⊢
    grind only
  · rintro ⟨⟨la, gd⟩, rd, sr, a⟩ hg h
    simp_all

theorem dService_exact {mk : Service → Instr} {fn : BitVec 12} (hwf : ∀ g, (mk g).wf = (g.h.la == 0))
    (henc : ∀ g, encode (mk g) = eService fn g) (hop : opOf w = 0x61) (hfn : (FmtA.of w).fn = fn) :
    Exact mk w lit (dService (FmtA.of w) mk) := by
  have hlit := isLitForm_of_noLiteral hop rfl
  refine .finish ?_ ?_ <;> simp only [hwf, henc, eService]
  · intro h
    simp [hfn, hop, hlit] at h ⊢
    grind only
  · rintro ⟨⟨la, gd⟩, imm⟩ hg h
    simp_all
theorem dPlain_exact {mk : Plain → Instr} {fn : BitVec 12} (hwf : ∀ g, (mk g).wf = (g.h.la == 0))
    (henc : ∀ g, encode (mk g) = ePlain op fn g) (hop : opOf w = op) (hn : noLiteral op = true) (hfn : (FmtA.of w).fn = fn) :
    Exact mk w lit (dPlain (FmtA.of w) mk) := by
  have hlit := isLitForm_of_noLiteral hop hn
  refine .finish ?_ ?_ <;> simp only [hwf, henc, ePlain]
  · intro h
    simp [hfn, hop, hlit] at h ⊢
    grind only
  · rintro ⟨⟨la, gd⟩⟩ hg h
    simp_all
theorem dPlain0_exact {mk : Plain → Instr} (hwf : ∀ g, (mk g).wf = (g.h.la == 0)) (henc : ∀ g, encode (mk g) = ePlain op 0 g)
    (hop : opOf w = op) (hn : noLiteral op = true) : Exact mk w lit (dPlain0 (FmtA.of w) mk) := by
  refine .guarded (fun g _ h => ?_) (dPlain_exact hwf henc hop hn)
  rw [henc, ePlain, single_eq_wordsOf, encA_eq_iff] at h
  obtain ⟨⟨-, -, -, hfn, -⟩, -⟩ := h
  exact hfn
theorem dBare_exact {mk : Plain → Instr} {fn : BitVec 12} (hwf : ∀ g, (mk g).wf = (g.h.gd == 0 && g.h.la == 0))
    (henc : ∀ g, encode (mk g) = ePlain op fn g) (hop : opOf w = op) (hn : noLiteral op = true) (hfn : (FmtA.of w).fn = fn) :
    Exact mk w lit (dBare (FmtA.of w) mk) := by
  have hlit := isLitForm_of_noLiteral hop hn
  refine .finish ?_ ?_ <;> simp only [hwf, henc, ePlain]
  · intro h
    simp [hfn, hop, hlit] at h ⊢
    grind only
  · rintro ⟨⟨la, gd⟩⟩ hg h
    simp_all
theorem dSrc2_exact {mk : Src2 → Instr} (hwf : ∀ g, (mk g).wf = (g.a.okG && g.b.okG && g.h.la == 0))
    (henc : ∀ g, encode (mk g) = eSrc2 op g) (hop : opOf w = op) (hn : noLiteral op = true) :
    Exact mk w lit (dSrc2 (FmtA.of w) mk) := by
  have hlit := isLitForm_of_noLiteral hop hn
  refine .guarded ?_ fun hfn => .finish ?_ ?_ <;> simp only [hwf, henc, eSrc2]
  · simp +contextual
  · intro h
    simp [hfn, hop, hlit] at h ⊢
    grind only
  · rintro ⟨⟨la, gd⟩, a, b⟩ hg h
    simp_all

/-- A selector of at most three bits stands in IMM32 by itself (R294, R321). -/
theorem selector_iff {imm : BitVec 32} {bits lim : Nat} (hb : bits ≤ 3) (hlim : lim ≤ 2 ^ bits) (sel : BitVec 3) :
    (field imm bits (32 - bits) = 0 ∧ (field imm 0 bits).toNat < lim ∧ (field imm 0 bits).setWidth 3 = sel) ↔
      sel.toNat < lim ∧ imm = sel.setWidth 32 := by
  have h8 : 2 ^ bits ≤ 2 ^ 3 := Nat.pow_le_pow_right (by decide) hb
  have hlow := (field imm 0 bits).isLt
  constructor
  · rintro ⟨habove, hlt, rfl⟩
    have hwide : ((field imm 0 bits).setWidth 3).setWidth 32 = (field imm 0 bits).setWidth 32 := BitVec.eq_of_toNat_eq (by
      rw [BitVec.toNat_setWidth_of_le (by decide), BitVec.toNat_setWidth_of_le hb, BitVec.toNat_setWidth_of_le (by omega)])
    rw [BitVec.toNat_setWidth_of_le hb, hwide]
    exact ⟨hlt, (eq_setWidth_iff imm (field imm 0 bits) (by omega)).mpr ⟨rfl, habove⟩⟩
  · rintro ⟨hlt, rfl⟩
    have hval : (field (sel.setWidth 32) 0 bits).toNat = sel.toNat := by
      rw [← natField_eq, natField, pow_zero, Nat.div_one, BitVec.toNat_setWidth_of_le (by decide)]
      exact Nat.mod_eq_of_lt (by omega)
    refine ⟨BitVec.eq_of_toNat_eq ?_, by rwa [hval], BitVec.eq_of_toNat_eq ?_⟩
    · rw [← natField_eq, natField, BitVec.toNat_setWidth_of_le (by decide), Nat.div_eq_of_lt (by omega)]
      simp
    · rw [BitVec.toNat_setWidth_of_le hb, hval]
theorem dQuery_exact {mk : Query → Instr} {bits lim : Nat} (hb : bits ≤ 3) (hlim : lim ≤ 2 ^ bits)
    (hwf : ∀ g, (mk g).wf = (decide (g.sel.toNat < lim) && g.h.la == 0)) (henc : ∀ g, encode (mk g) = eQuery op g)
    (hop : opOf w = op) (hn : noLiteral op = true) : Exact mk w lit (dQuery (FmtA.of w) bits lim mk) := by
  have hlit := isLitForm_of_noLiteral hop hn
  have hsel := selector_iff (imm := (FmtA.of w).imm) hb hlim
  refine .guarded ?_ fun hfn => .finish ?_ ?_ <;> simp only [hwf, henc, eQuery]
  · simp +contextual
  · intro h
    simp [-eq_setWidth_iff, hfn, hop, hlit] at h ⊢
    grind only
  · rintro ⟨⟨la, gd⟩, rd, sel⟩ hg h
    simp [-eq_setWidth_iff] at hg h ⊢
    obtain ⟨⟨-, hla, hgd, -, hrd, hr1, hr2, hr3, hrsv, himm⟩, -⟩ := h
    obtain ⟨habove, hlt, hval⟩ := (hsel sel).mpr ⟨hg.1, himm⟩
    simp_all [-eq_setWidth_iff]

theorem dStreamReg_exact {mk : StreamReg → Instr} (hwf : ∀ g, (mk g).wf = (g.a.okG && g.h.la == 0))
    (henc : ∀ g, encode (mk g) = eStreamReg op g) (hop : opOf w = op) (hn : noLiteral op = true) (hfn : (FmtA.of w).fn = 0) :
    Exact mk w lit (dStreamReg (FmtA.of w) mk) := by
  have hlit := isLitForm_of_noLiteral hop hn
  refine .finish ?_ ?_ <;> simp only [hwf, henc, eStreamReg]
  · intro h
    simp [hfn, hop, hlit] at h ⊢
    grind only
  · rintro ⟨⟨la, gd⟩, st, a⟩ hg h
    simp_all
/-- The register that a stream is bound to is the one with its number, of class g or v (R196). -/
theorem clean_boundReg (k : BitVec 2) (s : BitVec 8) :
    clean [badAt 52 (specMark s), badAt 53 (decide ((specNum s).toNat ≠ 24 + k.toNat)), badAt 58 (specCls s != 0 && specCls s != 1)] =
      (s == dstOf (if specCls s == 1 then .v else .g) (6#3 ++ k)) := by
  simp only [clean_cons, badAt_isNone, clean_nil]
  revert k s; decide
theorem dSbind_exact (hop : opOf w = 0x7A) : Exact .sbind w lit (dSbind (FmtA.of w)) := by
  have hwf : ∀ g, (Instr.sbind g).wf = (g.h.la == 0) := fun _ => rfl
  have henc : ∀ g, encode (.sbind g) =
    [encA 0x7A g.h 0 (streamSpec g.st) (dstOf (if g.vec then .v else .g) (6#3 ++ g.st)) 0 0 0] := fun _ => rfl
  have hlit := isLitForm_of_noLiteral hop rfl
  refine .guarded ?_ fun hfn => .finish ?_ ?_ <;> simp only [hwf, henc]
  · simp +contextual
  · intro h
    rw [clean_append, clean_boundReg] at h
    simp [hfn, hop, hlit] at h ⊢
    grind only
  · rintro ⟨⟨la, gd⟩, st, vec⟩ hg h
    rw [clean_append, clean_boundReg]
    cases vec <;> simp_all [Cls.code]
theorem dSunbind_exact (hop : opOf w = 0x7B) : Exact .sunbind w lit (dSunbind (FmtA.of w)) := by
  have hwf : ∀ g, (Instr.sunbind g).wf = (g.h.la == 0) := fun _ => rfl
  have henc : ∀ g, encode (.sunbind g) = [encA 0x7B g.h 0 (streamSpec g.st) 0 0 0 0] := fun _ => rfl
  have hlit := isLitForm_of_noLiteral hop rfl
  refine .guarded ?_ fun hfn => .finish ?_ ?_ <;> simp only [hwf, henc]
  · simp +contextual
  · intro h
    simp [hfn, hop, hlit] at h ⊢
    grind only
  · rintro ⟨⟨la, gd⟩, st⟩ hg h
    simp_all
theorem dSstat_exact (hop : opOf w = 0x7E) (hfn : (FmtA.of w).fn = 1) : Exact .sstat w lit (dSstat (FmtA.of w)) := by
  have hwf : ∀ g, (Instr.sstat g).wf = (g.h.la == 0) := fun _ => rfl
  have henc : ∀ g, encode (.sstat g) = [encA 0x7E g.h 1 (dstOf .g g.rd) (streamSpec g.st) 0 0 0] := fun _ => rfl
  have hlit := isLitForm_of_noLiteral hop rfl
  refine .finish ?_ ?_ <;> simp only [hwf, henc]
  · intro h
    simp [hfn, hop, hlit] at h ⊢
    grind only
  · rintro ⟨⟨la, gd⟩, rd, st⟩ hg h
    simp_all
theorem dRep_exact (hop : opOf w = 0x7F) : Exact .rep w lit (dRep (FmtA.of w)) := by
  have hwf : ∀ g, (Instr.rep g).wf = (g.len != 0 && decide (g.len.toNat ≤ 10) && g.h.la == 0) := fun _ => rfl
  have henc : ∀ g, encode (.rep g) =
    [encA 0x7F g.h 0 0 (dstOf .g g.gn) 0 0 (0#20 ++ g.mask ++ 0#1 ++ g.stride ++ g.len)] := fun _ => rfl
  have hlit := isLitForm_of_noLiteral hop rfl
  refine .guarded ?_ fun hfn => .finish ?_ ?_ <;> simp only [hwf, henc, plainOff]
  · simp +contextual
  · intro h
    simp [hfn, hop, hlit] at h ⊢
    grind only
  · rintro ⟨⟨la, gd⟩, gn, len, stride, mask⟩ hg h
    simp_all
end
/-! ### Format A: vector forms (R172 to R190) -/

section
variable {w lit : SlotBits} {op : BitVec 8}

theorem dVBin_exact {mk : VBin → Instr} {la : Bool} {ok : BitVec 4 → Bool} (hres : ∀ {c}, ok c = true → fmtReserved c = false)
    (hwf : ∀ g, (mk g).wf = (ok g.fmt && (la || g.h.la == 0))) (henc : ∀ g, encode (mk g) = eVBin op g)
    (hop : opOf w = op) (hn : noLiteral op = true) : Exact mk w lit (dVBin (FmtA.of w) la ok mk) := by
  have hlit := isLitForm_of_noLiteral hop hn
  refine .guarded ?_ fun hfn => .guarded ?_ fun hfmt => .ite (fun h4 => .finish ?_ ?_) fun h4 => .finish ?_ ?_
    <;> simp only [hwf, henc, eVBin, eVOp]
  · rintro ⟨⟨la, gd⟩, fmt, rd, a, b⟩ - h
    cases b <;> simp_all [field_fn_reg_iff]
  · rintro ⟨⟨la, gd⟩, fmt, rd, a, b⟩ hg h
    cases b <;> simp_all
  · intro h
    simp [hfn, hop, hlit] at h h4 hfmt ⊢
    grind only
  · rintro ⟨⟨la, gd⟩, fmt, rd, a, b⟩ hg h
    cases b <;> simp_all [field_fn_reg_iff]
  · intro h
    simp [hfn, hop, hlit, field_fn_reg_iff] at h h4 hfmt ⊢
    grind only
  · rintro ⟨⟨la, gd⟩, fmt, rd, a, b⟩ hg h
    cases b <;> simp_all [field_fn_reg_iff]
theorem dVTri_exact {mk : VTri → Instr} (hwf : ∀ g, (mk g).wf = fmtF g.fmt) (henc : ∀ g, encode (mk g) = eVTri op g)
    (hop : opOf w = op) (hn : noLiteral op = true) : Exact mk w lit (dVTri (FmtA.of w) mk) := by
  have hlit := isLitForm_of_noLiteral hop hn
  have hres := @fmtReserved_of_fmtF
  refine .guarded ?_ fun hfn => .guarded ?_ fun hfmt => .ite (fun h4 => .finish ?_ ?_) fun h4 => .finish ?_ ?_
    <;> simp only [hwf, henc, eVTri, eVOp]
  · rintro ⟨⟨la, gd⟩, fmt, rd, a, b, c⟩ - h
    cases b <;> simp_all [field_fn_reg_iff]
  · rintro ⟨⟨la, gd⟩, fmt, rd, a, b, c⟩ hg h
    cases b <;> simp_all
  · intro h
    simp [hfn, hop, hlit] at h h4 hfmt ⊢
    grind only
  · rintro ⟨⟨la, gd⟩, fmt, rd, a, b, c⟩ hg h
    cases b <;> simp_all [field_fn_reg_iff]
  · intro h
    simp [hfn, hop, hlit, field_fn_reg_iff] at h h4 hfmt ⊢
    grind only
  · rintro ⟨⟨la, gd⟩, fmt, rd, a, b, c⟩ hg h
    cases b <;> simp_all [field_fn_reg_iff]
theorem dVUn_exact {mk : VUn → Instr} {la : Bool} {ok : BitVec 4 → Bool} (hres : ∀ {c}, ok c = true → fmtReserved c = false)
    (hwf : ∀ g, (mk g).wf = (ok g.fmt && (la || g.h.la == 0))) (henc : ∀ g, encode (mk g) = eVUn op g)
    (hop : opOf w = op) (hn : noLiteral op = true) : Exact mk w lit (dVUn (FmtA.of w) la ok mk) := by
  have hlit := isLitForm_of_noLiteral hop hn
  refine .vplain ?_ fun hfn hfmt => .finish ?_ ?_ <;> simp only [hwf, henc, eVUn]
  · rintro ⟨⟨la, gd⟩, fmt, rd, a⟩ hg h
    simp_all
  · intro h
    simp [hfn, hop, hlit] at h hfmt ⊢
    grind only
  · rintro ⟨⟨la, gd⟩, fmt, rd, a⟩ hg h
    simp_all
theorem dVti_exact (hop : opOf w = 0x8B) : Exact .vti w lit (dVti (FmtA.of w)) := by
  have hwf : ∀ g, (Instr.vti g).wf = fmtF g.fmt := fun _ => Bool.and_true _
  have henc : ∀ g, encode (.vti g) = [encA 0x8B g.h (vfn g.fmt) (dstOf .v g.rd) (specOf .v g.a) 0 0 (g.t.setWidth 32)] := fun _ => rfl
  have hlit := isLitForm_of_noLiteral hop rfl
  have hres := @fmtReserved_of_fmtF
  refine .vplain ?_ fun hfn hfmt => .finish ?_ ?_ <;> simp only [hwf, henc]
  · rintro ⟨⟨la, gd⟩, fmt, rd, a, t⟩ hg h
    simp_all
  · intro h
    simp [hfn, hop, hlit] at h hfmt ⊢
    grind only
  · rintro ⟨⟨la, gd⟩, fmt, rd, a, t⟩ hg h
    simp_all
theorem dVtload_exact (hop : opOf w = 0x8C) : Exact .vtload w lit (dVtload (FmtA.of w)) := by
  have hwf : ∀ g, (Instr.vtload g).wf = g.a.okG := fun _ => Bool.and_true _
  have henc : ∀ g, encode (.vtload g) = [encA 0x8C g.h (vfn 0) 0 (specOf .g g.a) 0 0 (g.t.setWidth 32)] := fun _ => rfl
  have hlit := isLitForm_of_noLiteral hop rfl
  refine .vplain ?_ fun hfn hfmt => .finish ?_ ?_ <;> simp only [hwf, henc]
  · rintro ⟨⟨la, gd⟩, t, a⟩ hg h
    simp_all
  · intro h
    simp [hfn, hop, hlit] at h hfmt ⊢
    grind only
  · rintro ⟨⟨la, gd⟩, t, a⟩ hg h
    simp_all [fmtReserved]
theorem dVcvt_exact (hop : opOf w = 0x8D) : Exact .vcvt w lit (dVcvt (FmtA.of w)) := by
  have hwf : ∀ g, (Instr.vcvt g).wf =
    (fmtM g.dst && fmtM g.src && !rndReserved g.rnd && decide (g.part.toNat < partCount g.dst g.src)) := fun _ => Bool.and_true _
  have henc : ∀ g, encode (.vcvt g) =
    [encA 0x8D g.h (0#1 ++ g.rnd ++ g.src ++ g.dst) (dstOf .v g.rd) (specOf .v g.a) 0 0 (g.part.setWidth 32)] := fun _ => rfl
  have hlit := isLitForm_of_noLiteral hop rfl
  have hres := @fmtReserved_of_fmtM
  refine .guarded ?_ fun hfn => .finish ?_ ?_ <;> simp only [hwf, henc, fmtConv]
  · rintro ⟨⟨la, gd⟩, dst, src, rnd, part, rd, a⟩ hg h
    simp_all
  · intro h
    simp [hop, hlit, fmtConv] at h hfn ⊢
    grind only
  · rintro ⟨⟨la, gd⟩, dst, src, rnd, part, rd, a⟩ hg h
    simp_all
theorem dVcmp_exact (hop : opOf w = 0x8E) : Exact .vcmp w lit (dVcmp (FmtA.of w)) := by
  have hwf : ∀ g, (Instr.vcmp g).wf = (fmtFI g.fmt && (if fmtF g.fmt then ccFloat g.cc else ccInt g.cc) && dstP g.rd) :=
    fun _ => Bool.and_true _
  have henc : ∀ g, encode (.vcmp g) =
    [encA 0x8E g.h (0#4 ++ g.cc ++ g.fmt) (dstOf .p g.rd) (specOf .v g.a) (specOf .v g.b) 0 0] := fun _ => rfl
  have hlit := isLitForm_of_noLiteral hop rfl
  have hres := @fmtReserved_of_fmtFI
  refine .guarded ?_ fun hfn => .guarded ?_ fun hfmt => .guarded ?_ fun hcc => .finish ?_ ?_ <;> simp only [hwf, henc]
  · rintro ⟨⟨la, gd⟩, cc, fmt, rd, a, b⟩ - h
    simp_all
  · rintro ⟨⟨la, gd⟩, cc, fmt, rd, a, b⟩ hg h
    simp_all
  · rintro ⟨⟨la, gd⟩, cc, fmt, rd, a, b⟩ hg h
    simp_all
  · intro h
    have hcode : fmtReserved (field (FmtA.of w).fn 0 4) = false := by
      simp at h
      obtain ⟨-, -, -, hres, -⟩ := h
      exact hres
    simp [hcode] at hcc
    simp [hfn, hop, hlit] at h hfmt ⊢
    grind only
  · rintro ⟨⟨la, gd⟩, cc, fmt, rd, a, b⟩ hg h
    simp_all
theorem dVsel_exact (hop : opOf w = 0x8F) : Exact .vsel w lit (dVsel (FmtA.of w)) := by
  have hwf : ∀ g, (Instr.vsel g).wf = (fmtM g.fmt && g.c.okP) := fun _ => Bool.and_true _
  have henc : ∀ g, encode (.vsel g) = [encA 0x8F g.h (vfn g.fmt) (dstOf .v g.rd) (specOf .v g.a) (specOf .v g.b) (specOf .p g.c) 0] :=
    fun _ => rfl
  have hlit := isLitForm_of_noLiteral hop rfl
  have hres := @fmtReserved_of_fmtM
  refine .vplain ?_ fun hfn hfmt => .finish ?_ ?_ <;> simp only [hwf, henc]
  · rintro ⟨⟨la, gd⟩, fmt, rd, a, b, c⟩ hg h
    simp_all
  · intro h
    simp [hfn, hop, hlit] at h hfmt ⊢
    grind only
  · rintro ⟨⟨la, gd⟩, fmt, rd, a, b, c⟩ hg h
    simp_all
theorem dV2_exact {mk : V2 → Instr} {ok : BitVec 4 → Bool} (hres : ∀ {c}, ok c = true → fmtReserved c = false)
    (hwf : ∀ g, (mk g).wf = ok g.fmt) (henc : ∀ g, encode (mk g) = eV2 op g) (hop : opOf w = op) (hn : noLiteral op = true) :
    Exact mk w lit (dV2 (FmtA.of w) ok mk) := by
  have hlit := isLitForm_of_noLiteral hop hn
  refine .vplain ?_ fun hfn hfmt => .finish ?_ ?_ <;> simp only [hwf, henc, eV2]
  · rintro ⟨⟨la, gd⟩, fmt, rd, a, b⟩ hg h
    simp_all
  · intro h
    simp [hfn, hop, hlit] at h hfmt ⊢
    grind only
  · rintro ⟨⟨la, gd⟩, fmt, rd, a, b⟩ hg h
    simp_all
theorem dV3_exact {mk : V3 → Instr} {ok : BitVec 4 → Bool} (hres : ∀ {c}, ok c = true → fmtReserved c = false)
    (hwf : ∀ g, (mk g).wf = ok g.fmt) (henc : ∀ g, encode (mk g) = eV3 op g) (hop : opOf w = op) (hn : noLiteral op = true) :
    Exact mk w lit (dV3 (FmtA.of w) ok mk) := by
  have hlit := isLitForm_of_noLiteral hop hn
  refine .vplain ?_ fun hfn hfmt => .finish ?_ ?_ <;> simp only [hwf, henc, eV3]
  · rintro ⟨⟨la, gd⟩, fmt, rd, a, b, c⟩ hg h
    simp_all
  · intro h
    simp [hfn, hop, hlit] at h hfmt ⊢
    grind only
  · rintro ⟨⟨la, gd⟩, fmt, rd, a, b, c⟩ hg h
    simp_all
/-- The specifier of a p register is never the absent operand of a reduction (R187). -/
theorem zero_ne_specOf_p (r : Reg) : 0#8 ≠ specOf .p r := fun h => by
  have hcls := specCls_specOf .p r
  rw [← h] at hcls
  exact absurd hcls (by decide)
theorem dVRed_exact {mk : VRed → Instr} {ok : BitVec 4 → Bool} (hres : ∀ {c}, ok c = true → fmtReserved c = false)
    (hwf : ∀ g, (mk g).wf = (ok g.fmt && (match g.pm with | none => true | some p => p.okP))) (henc : ∀ g, encode (mk g) = eVRed op g)
    (hop : opOf w = op) (hn : noLiteral op = true) : Exact mk w lit (dVRed (FmtA.of w) ok mk) := by
  have hlit := isLitForm_of_noLiteral hop hn
  have hsome := zero_ne_specOf_p
  refine .vplain ?_ fun hfn hfmt => .ite (fun h2 => .finish ?_ ?_) fun h2 => .finish ?_ ?_ <;> simp only [hwf, henc, eVRed]
  · rintro ⟨⟨la, gd⟩, fmt, rd, a, pm⟩ hg h
    simp_all
  · intro h
    simp [hfn, hop, hlit, h2] at h hfmt ⊢
    grind only
  · rintro ⟨⟨la, gd⟩, fmt, rd, a, pm⟩ hg h
    cases pm <;> simp_all
  · intro h
    simp [hfn, hop, hlit] at h hfmt ⊢
    grind only
  · rintro ⟨⟨la, gd⟩, fmt, rd, a, pm⟩ hg h
    cases pm <;> simp_all
theorem dVbcast_exact (hop : opOf w = 0x9B) : Exact .vbcast w lit (dVbcast (FmtA.of w) lit) := by
  have hwf : ∀ g, (Instr.vbcast g).wf = (fmtM g.fmt && (match g.s with | .reg r => r.okG | .lit _ => true) && g.h.la == 0) := fun _ => rfl
  have henc : ∀ g, encode (.vbcast g) = match g.s with
    | .reg r => [encA 0x9B g.h (vfn g.fmt) (dstOf .v g.rd) (specOf .g r) 0 0 0]
    | .lit v => [encA 0x9B g.h (0x80#8 ++ g.fmt) (dstOf .v g.rd) 0 0 0 0, litSlot v] := fun _ => rfl
  have hlit : isLitForm w = (FmtA.of w).fn.getLsbD 11 := by simp [isLitForm_eq, hop, intLiteral]
  have hres := @fmtReserved_of_fmtM
  refine .guarded ?_ fun hfn => .guarded ?_ fun hfmt => .ite (fun h11 => .finish2 ?_ ?_) fun h11 => .finish ?_ ?_
    <;> simp only [hwf, henc]
  · rintro ⟨⟨la, gd⟩, fmt, rd, s⟩ - h
    cases s <;> simp_all [field_fn_scalar_iff]
  · rintro ⟨⟨la, gd⟩, fmt, rd, s⟩ hg h
    cases s <;> simp_all
  · intro h h'
    simp [hfn, hop, hlit] at h h' h11 hfmt ⊢
    grind only
  · rintro ⟨⟨la, gd⟩, fmt, rd, s⟩ hg h
    cases s <;> simp_all [field_fn_scalar_iff]
  · intro h
    simp [hfn, hop, hlit, field_fn_scalar_iff] at h h11 hfmt ⊢
    grind only
  · rintro ⟨⟨la, gd⟩, fmt, rd, s⟩ hg h
    cases s <;> simp_all [field_fn_scalar_iff]
theorem dVext_exact (hop : opOf w = 0x9C) : Exact .vext w lit (dVext (FmtA.of w)) := by
  have hwf : ∀ g, (Instr.vext g).wf = (fmtM g.fmt && g.i.okG) := fun _ => Bool.and_true _
  have henc : ∀ g, encode (.vext g) = match g.i with
    | .reg r => [encA 0x9C g.h (vfn g.fmt) (dstOf .g g.rd) (specOf .v g.a) (specOf .g r) 0 0]
    | .imm v => [encA 0x9C g.h (0x01#8 ++ g.fmt) (dstOf .g g.rd) (specOf .v g.a) 0 0 v] := fun _ => rfl
  have hlit := isLitForm_of_noLiteral hop rfl
  have hres := @fmtReserved_of_fmtM
  refine .guarded ?_ fun hfn => .guarded ?_ fun hfmt => .ite (fun h4 => .finish ?_ ?_) fun h4 => .finish ?_ ?_ <;> simp only [hwf, henc]
  · rintro ⟨⟨la, gd⟩, fmt, rd, a, b⟩ - h
    cases b <;> simp_all [field_fn_reg_iff]
  · rintro ⟨⟨la, gd⟩, fmt, rd, a, b⟩ hg h
    cases b <;> simp_all
  · intro h
    simp [hfn, hop, hlit] at h h4 hfmt ⊢
    grind only
  · rintro ⟨⟨la, gd⟩, fmt, rd, a, b⟩ hg h
    cases b <;> simp_all [field_fn_reg_iff]
  · intro h
    simp [hfn, hop, hlit, field_fn_reg_iff] at h h4 hfmt ⊢
    grind only
  · rintro ⟨⟨la, gd⟩, fmt, rd, a, b⟩ hg h
    cases b <;> simp_all [field_fn_reg_iff]
theorem dVins_exact (hop : opOf w = 0x9D) : Exact .vins w lit (dVins (FmtA.of w)) := by
  have hwf : ∀ g, (Instr.vins g).wf = (fmtM g.fmt && g.s.okG && g.i.okG) := fun _ => Bool.and_true _
  have henc : ∀ g, encode (.vins g) = match g.i with
    | .reg r => [encA 0x9D g.h (vfn g.fmt) (dstOf .v g.rd) (specOf .v g.a) (specOf .g g.s) (specOf .g r) 0]
    | .imm v => [encA 0x9D g.h (0x01#8 ++ g.fmt) (dstOf .v g.rd) (specOf .v g.a) (specOf .g g.s) 0 v] := fun _ => rfl
  have hlit := isLitForm_of_noLiteral hop rfl
  have hres := @fmtReserved_of_fmtM
  refine .guarded ?_ fun hfn => .guarded ?_ fun hfmt => .ite (fun h4 => .finish ?_ ?_) fun h4 => .finish ?_ ?_ <;> simp only [hwf, henc]
  · rintro ⟨⟨la, gd⟩, fmt, rd, a, s, b⟩ - h
    cases b <;> simp_all [field_fn_reg_iff]
  · rintro ⟨⟨la, gd⟩, fmt, rd, a, s, b⟩ hg h
    cases b <;> simp_all
  · intro h
    simp [hfn, hop, hlit] at h h4 hfmt ⊢
    grind only
  · rintro ⟨⟨la, gd⟩, fmt, rd, a, s, b⟩ hg h
    cases b <;> simp_all [field_fn_reg_iff]
  · intro h
    simp [hfn, hop, hlit, field_fn_reg_iff] at h h4 hfmt ⊢
    grind only
  · rintro ⟨⟨la, gd⟩, fmt, rd, a, s, b⟩ hg h
    cases b <;> simp_all [field_fn_reg_iff]
theorem dVNull_exact {mk : VNull → Instr} {cd : Cls} (hcd : ∀ n, cd.dstOk n = true) (hwf : ∀ g, (mk g).wf = fmtI g.fmt)
    (henc : ∀ g, encode (mk g) = eVNull op cd g) (hop : opOf w = op) (hn : noLiteral op = true) :
    Exact mk w lit (dVNull (FmtA.of w) cd mk) := by
  have hlit := isLitForm_of_noLiteral hop hn
  have hres := @fmtReserved_of_fmtI
  refine .vplain ?_ fun hfn hfmt => .finish ?_ ?_ <;> simp only [hwf, henc, eVNull]
  · rintro ⟨⟨la, gd⟩, fmt, rd⟩ hg h
    simp_all
  · intro h
    simp [hfn, hop, hlit] at h hfmt ⊢
    grind only
  · rintro ⟨⟨la, gd⟩, fmt, rd⟩ hg h
    simp_all
end

/-! ### Formats W, B and M, and the memory forms of Format A (R96 to R98, R143 to R146, R231 to R250) -/

section
variable {w lit : SlotBits} {op : BitVec 8}

theorem dLi_exact (hop : opOf w = 0x26) : Exact .li w lit (dLi (FmtW.of w)) := by
  have hwf : ∀ g, (Instr.li g).wf = (g.h.la == 0) := fun _ => rfl
  have henc : ∀ g, encode (.li g) = [FmtW.bits ⟨0x26, g.h.la, g.h.gd, 0, dstOf .g g.rd, 0, g.imm⟩] := fun _ => rfl
  have hlit := isLitForm_of_noLiteral hop rfl
  refine .guarded ?_ fun hfn => .finish ?_ ?_ <;> simp only [hwf, henc, single_eq_wordsOf, FmtW.bits_eq_iff]
  · simp +contextual
  · intro h
    simp [hfn, hop, hlit] at h ⊢
    grind only
  · rintro ⟨⟨la, gd⟩, rd, imm⟩ hg h
    simp_all

@[simp] theorem Target.ok_eq (line : BitVec 37) (slot : BitVec 3) : Target.ok ⟨line, slot⟩ = decide (slot.toNat ≤ 4) := rfl

theorem dJump_exact {mk : Jump → Instr} (hwf : ∀ g, (mk g).wf = (g.off.ok && g.h.la == 0)) (henc : ∀ g, encode (mk g) = eJump op g)
    (hop : opOf w = op) (hn : noLiteral op = true) (hfn : (FmtB.of w).fn = 0) : Exact mk w lit (dJump (FmtB.of w) mk) := by
  have hlit := isLitForm_of_noLiteral hop hn
  refine .finish ?_ ?_ <;> simp only [hwf, henc, eJump]
  · intro h
    simp [hfn, hop, hlit] at h ⊢
    grind only
  · rintro ⟨⟨la, gd⟩, ⟨line, slot⟩⟩ hg h
    simp_all
theorem dBranch1_exact {mk : Branch1 → Instr} {fn : BitVec 4} {c : Cls}
    (hwf : ∀ g, (mk g).wf = (c.srcOk g.a && g.off.ok && g.h.la == 0)) (henc : ∀ g, encode (mk g) = eBranch1 op fn c g)
    (hop : opOf w = op) (hn : noLiteral op = true) (hfn : (FmtB.of w).fn = fn) : Exact mk w lit (dBranch1 (FmtB.of w) c mk) := by
  have hlit := isLitForm_of_noLiteral hop hn
  refine .finish ?_ ?_ <;> simp only [hwf, henc, eBranch1]
  · intro h
    simp [hfn, hop, hlit] at h ⊢
    grind only
  · rintro ⟨⟨la, gd⟩, a, ⟨line, slot⟩⟩ hg h
    simp_all
theorem dBranch2_exact {mk : Branch2 → Instr} {fn : BitVec 4} (hwf : ∀ g, (mk g).wf = (g.a.okG && g.b.okG && g.off.ok && g.h.la == 0))
    (henc : ∀ g, encode (mk g) = eBranch2 fn g) (hop : opOf w = 0x58) (hfn : (FmtB.of w).fn = fn) :
    Exact mk w lit (dBranch2 (FmtB.of w) mk) := by
  have hlit := isLitForm_of_noLiteral hop rfl
  refine .finish ?_ ?_ <;> simp only [hwf, henc, eBranch2]
  · intro h
    simp [hfn, hop, hlit] at h ⊢
    grind only
  · rintro ⟨⟨la, gd⟩, a, b, ⟨line, slot⟩⟩ hg h
    simp_all
theorem dLoop_exact (hop : opOf w = 0x5B) (hfn : (FmtB.of w).fn = 0) : Exact .loop w lit (dLoop (FmtB.of w)) := by
  have hwf : ∀ g, (Instr.loop g).wf = (!g.a.mark && g.off.ok && g.h.la == 0) := fun _ => rfl
  have henc : ∀ g, encode (.loop g) = eBranch1 0x5B 0 .g g := fun _ => rfl
  have hlit := isLitForm_of_noLiteral hop rfl
  refine .finish ?_ ?_ <;> simp only [hwf, henc, eBranch1, plainOff, clean_append, clean_dstOff_unmarked]
  · intro h
    simp [hfn, hop, hlit] at h ⊢
    grind only
  · rintro ⟨⟨la, gd⟩, a, ⟨line, slot⟩⟩ hg h
    simp_all
theorem dLoopi_exact (hop : opOf w = 0x5B) (hfn : (FmtL.of w).fn = 1) : Exact .loopi w lit (dLoopi (FmtL.of w)) := by
  have hwf : ∀ g, (Instr.loopi g).wf = (g.off.ok && g.h.la == 0) := fun _ => rfl
  have henc : ∀ g, encode (.loopi g) = [FmtL.bits ⟨0x5B, g.h.la, g.h.gd, 1, g.imm, 0, g.off.line, g.off.slot⟩] := fun _ => rfl
  have hlit := isLitForm_of_noLiteral hop rfl
  refine .finish ?_ ?_ <;> simp only [hwf, henc, single_eq_wordsOf, FmtL.bits_eq_iff]
  · intro h
    simp [hfn, hop, hlit] at h ⊢
    grind only
  · rintro ⟨⟨la, gd⟩, imm, ⟨line, slot⟩⟩ hg h
    simp_all
theorem dFreeze_exact (hop : opOf w = 0x70) : Exact .freeze w lit (dFreeze (FmtB.of w)) := by
  have hwf : ∀ g, (Instr.freeze g).wf = (!g.a.mark && !g.b.mark && g.off.ok && g.h.la == 0) := fun _ => rfl
  have henc : ∀ g, encode (.freeze g) = [encB 0x70 g.h 0 (specOf .g g.a) (specOf .g g.b) (0#12 ++ g.place) g.off] := fun _ => rfl
  have hlit := isLitForm_of_noLiteral hop rfl
  refine .guarded ?_ fun hfn => .finish ?_ ?_ <;> simp only [hwf, henc, plainOff, clean_append, clean_dstOff_unmarked]
  · simp +contextual
  · intro h
    simp [hfn, hop, hlit] at h ⊢
    grind only
  · rintro ⟨⟨la, gd⟩, a, b, place, ⟨line, slot⟩⟩ hg h
    simp_all

@[simp] theorem Addr.okG_eq (base index : Reg) (scale : BitVec 3) (disp : BitVec 40) :
    Addr.okG ⟨base, index, scale, disp⟩ = (base.okG && index.okG) := rfl

/-! ### SIZE (R113, R231) -/

@[simp] theorem size_eq_zero_iff (s : BitVec 3) : s.toNat = 0 ↔ s = 0#3 := by revert s; decide
@[simp] theorem size_eq_two_iff (s : BitVec 3) : s.toNat = 2 ↔ s = 2#3 := by revert s; decide
@[simp] theorem size_eq_three_iff (s : BitVec 3) : s.toNat = 3 ↔ s = 3#3 := by revert s; decide
@[simp] theorem size_eq_four_iff (s : BitVec 3) : s.toNat = 4 ↔ s = 4#3 := by revert s; decide
/-- SIZE 0 to 3 are the sizes of two bits. -/
theorem size_lt_four_iff (s : BitVec 3) : s.toNat < 4 ↔ field s 2 1 = 0#1 := by revert s; decide
/-- Z is admitted with the sizes below 8 B. -/
theorem zero_extends_iff (s : BitVec 3) (h : field s 2 1 = 0#1) : (s = 3#3 ∨ s = 4#3) ↔ field s 0 2 = 3#2 := by revert s; decide

theorem dLea_exact (hop : opOf w = 0x27) : Exact .lea w lit (dLea (FmtM.of w)) := by
  have hwf : ∀ g, (Instr.lea g).wf = (g.ad.okG && g.h.la == 0) := fun _ => rfl
  have henc : ∀ g, encode (.lea g) = [encM 0x27 g.h 0 (dstOf .g g.rd) .g g.ad 0] := fun _ => rfl
  have hlit := isLitForm_of_noLiteral hop rfl
  refine .guarded ?_ fun hfn => .finish ?_ ?_ <;> simp only [hwf, henc]
  · simp +contextual
  · intro h
    simp [hfn, hop, hlit] at h ⊢
    grind only
  · rintro ⟨⟨la, gd⟩, rd, ⟨base, index, scale, disp⟩⟩ hg h
    simp_all
theorem dLoad_exact {mk : Load → Instr} (hwf : ∀ g, (mk g).wf = (!(g.z && g.size == 3) && g.ad.okG)) (henc : ∀ g, encode (mk g) = eLoad op g)
    (hop : opOf w = op) (hn : noLiteral op = true) : Exact mk w lit (dLoad (FmtM.of w) mk) := by
  have hlit := isLitForm_of_noLiteral hop hn
  have hsize := zero_extends_iff (FmtM.of w).size
  refine .guarded ?_ fun hfn => .finish ?_ ?_ <;> simp only [hwf, henc, eLoad]
  · rintro ⟨⟨la, gd⟩, z, size, rd, ⟨base, index, scale, disp⟩⟩ hg h
    simp_all
  · intro h
    simp [hfn, hop, hlit, size_lt_four_iff] at h ⊢
    grind only
  · rintro ⟨⟨la, gd⟩, z, size, rd, ⟨base, index, scale, disp⟩⟩ hg h
    simp_all [size_lt_four_iff]
    rw [← not_or, hsize]
    exact hg.1
theorem dStore_exact {mk : Store → Instr} (hwf : ∀ g, (mk g).wf = (g.src.okG && g.ad.okG && g.h.la == 0))
    (henc : ∀ g, encode (mk g) = eStore op g) (hop : opOf w = op) (hn : noLiteral op = true) :
    Exact mk w lit (dStore (FmtM.of w) mk) := by
  have hlit := isLitForm_of_noLiteral hop hn
  have hzero : (FmtM.of w).fn = 0#8 ↔ field (FmtM.of w).fn 1 7 = 0#7 ∧ (FmtM.of w).fn.getLsbD 0 = false := fn_load_iff _ false
  refine .guarded ?_ fun hfn => .finish ?_ ?_ <;> simp only [hwf, henc, eStore]
  · rintro ⟨⟨la, gd⟩, size, src, ⟨base, index, scale, disp⟩⟩ hg h
    simp_all
  · intro h
    simp [hfn, hop, hlit, size_lt_four_iff, hzero] at h ⊢
    grind only
  · rintro ⟨⟨la, gd⟩, size, src, ⟨base, index, scale, disp⟩⟩ hg h
    simp_all [size_lt_four_iff]
theorem dVLoad_exact {mk : VMem → Instr} {ci : Cls} (hwf : ∀ g, (mk g).wf = (fmtM g.fmt && !g.r.mark && (g.ad.base.okG && ci.srcOk g.ad.index)))
    (henc : ∀ g, encode (mk g) = eVMem op ci g) (hop : opOf w = op) (hn : noLiteral op = true) :
    Exact mk w lit (dVLoad (FmtM.of w) ci mk) := by
  have hlit := isLitForm_of_noLiteral hop hn
  have hres := @fmtReserved_of_fmtM
  refine .guarded ?_ fun hfmt => .finish ?_ ?_ <;> simp only [hwf, henc, eVMem, clean_append, clean_dstOff_unmarked]
  · rintro ⟨⟨la, gd⟩, fmt, r, ⟨base, index, scale, disp⟩⟩ hg h
    simp_all
  · intro h
    simp [hop, hlit] at h hfmt ⊢
    grind only
  · rintro ⟨⟨la, gd⟩, fmt, r, ⟨base, index, scale, disp⟩⟩ hg h
    simp_all
theorem dVStore_exact {mk : VMem → Instr} {ci : Cls}
    (hwf : ∀ g, (mk g).wf = (fmtM g.fmt && (g.ad.base.okG && ci.srcOk g.ad.index) && g.h.la == 0))
    (henc : ∀ g, encode (mk g) = eVMem op ci g) (hop : opOf w = op) (hn : noLiteral op = true) :
    Exact mk w lit (dVStore (FmtM.of w) ci mk) := by
  have hlit := isLitForm_of_noLiteral hop hn
  have hres := @fmtReserved_of_fmtM
  refine .guarded ?_ fun hfmt => .finish ?_ ?_ <;> simp only [hwf, henc, eVMem]
  · rintro ⟨⟨la, gd⟩, fmt, r, ⟨base, index, scale, disp⟩⟩ hg h
    simp_all
  · intro h
    simp [hop, hlit] at h hfmt ⊢
    grind only
  · rintro ⟨⟨la, gd⟩, fmt, r, ⟨base, index, scale, disp⟩⟩ hg h
    simp_all
theorem dPref_exact (hop : opOf w = 0xD4) : Exact .prefg w lit (dPref (FmtM.of w)) := by
  have hwf : ∀ g, (Instr.prefg g).wf = (g.ad.okG && g.h.la == 0) := fun _ => rfl
  have henc : ∀ g, encode (.prefg g) = [encM 0xD4 g.h 0 0 .g g.ad 0] := fun _ => rfl
  have hlit := isLitForm_of_noLiteral hop rfl
  refine .guarded ?_ fun hfn => .finish ?_ ?_ <;> simp only [hwf, henc]
  · simp +contextual
  · intro h
    simp [hfn, hop, hlit] at h ⊢
    grind only
  · rintro ⟨⟨la, gd⟩, ⟨base, index, scale, disp⟩⟩ hg h
    simp_all
theorem dAmo_exact {mk : Amo → Instr} (hwf : ∀ g, (mk g).wf = (decide (g.op.toNat ≤ 9) && g.base.okG && g.v.okG))
    (henc : ∀ g, encode (mk g) = eAmo op g) (hop : opOf w = op) (hn : noLiteral op = true) :
    Exact mk w lit (dAmo (FmtM.of w) mk) := by
  have hlit := isLitForm_of_noLiteral hop hn
  refine .guarded ?_ fun hfn => .finish ?_ ?_ <;> simp only [hwf, henc, eAmo]
  · rintro ⟨⟨la, gd⟩, amo, dword, rd, base, v, disp⟩ hg h
    simp_all
  · intro h
    simp [hop, hlit] at h hfn ⊢
    grind only
  · rintro ⟨⟨la, gd⟩, amo, dword, rd, base, v, disp⟩ hg h
    cases dword <;> simp_all
theorem dFaddx_exact (hop : opOf w = 0xDA) : Exact .faddx w lit (dFaddx (FmtM.of w)) := by
  have hwf : ∀ g, (Instr.faddx g).wf = (g.src.okG && g.ad.okG && g.h.la == 0) := fun _ => rfl
  have henc : ∀ g, encode (.faddx g) = [encM 0xDA g.h (cellFn g.g (if g.bf then 2 else 0)) (specOf .g g.src) .g g.ad 4] := fun _ => rfl
  have hlit := isLitForm_of_noLiteral hop rfl
  refine .guarded ?_ fun hfn => .finish ?_ ?_ <;> simp only [hwf, henc]
  · rintro ⟨⟨la, gd⟩, g, bf, src, ⟨base, index, scale, disp⟩⟩ hg h
    cases bf <;> simp_all
  · intro h
    simp [hop, hlit] at h hfn ⊢
    grind only
  · rintro ⟨⟨la, gd⟩, g, bf, src, ⟨base, index, scale, disp⟩⟩ hg h
    cases bf <;> simp_all
theorem dCell_rdx_exact (hop : opOf w = 0xDB) (hfn : field (FmtM.of w).fn 5 3 = 0 ∧ field (FmtM.of w).fn 0 4 = 0) :
    Exact .rdx w lit (dCell (FmtM.of w)) := by
  have hwf : ∀ g, (Instr.rdx g).wf = g.ad.okG := fun _ => Bool.and_true _
  have henc : ∀ g, encode (.rdx g) = [encM 0xDB g.h (cellFn g.g 0) (dstOf .g g.rd) .g g.ad 4] := fun _ => rfl
  have hlit := isLitForm_of_noLiteral hop rfl
  rw [dCell, if_pos hfn]
  refine .finish ?_ ?_ <;> simp only [hwf, henc]
  · intro h
    simp [hop, hlit] at h hfn ⊢
    grind only
  · rintro ⟨⟨la, gd⟩, g, rd, ⟨base, index, scale, disp⟩⟩ hg h
    simp_all
theorem dCell_clrx_exact (hop : opOf w = 0xDB) (hfn : field (FmtM.of w).fn 5 3 = 0 ∧ field (FmtM.of w).fn 0 4 = 1) :
    Exact .clrx w lit (dCell (FmtM.of w)) := by
  have hwf : ∀ g, (Instr.clrx g).wf = (g.ad.okG && g.h.la == 0) := fun _ => rfl
  have henc : ∀ g, encode (.clrx g) = [encM 0xDB g.h (cellFn g.g 1) 0 .g g.ad 4] := fun _ => rfl
  have hlit := isLitForm_of_noLiteral hop rfl
  rw [dCell, if_neg (by simp [hfn]), if_pos hfn]
  refine .finish ?_ ?_ <;> simp only [hwf, henc]
  · intro h
    simp [hop, hlit] at h hfn ⊢
    grind only
  · rintro ⟨⟨la, gd⟩, g, ⟨base, index, scale, disp⟩⟩ hg h
    simp_all

/-! ### The memory and handle forms of Format A (R223, R224, R248 to R250) -/

theorem dBalloc_exact (hop : opOf w = 0xCC) : Exact .balloc w lit (dBalloc (FmtA.of w)) := by
  have hwf : ∀ g, (Instr.balloc g).wf = (g.a.okG && g.b.okG && decide (g.stripe.toNat ≤ 5) && g.h.la == 0) := fun _ => rfl
  have henc : ∀ g, encode (.balloc g) = [encA 0xCC g.h 0 (dstOf .g g.rd) (specOf .g g.a) (specOf .g g.b) 0 (g.stripe.setWidth 32)] :=
    fun _ => rfl
  have hlit := isLitForm_of_noLiteral hop rfl
  refine .guarded ?_ fun hfn => .finish ?_ ?_ <;> simp only [hwf, henc]
  · simp +contextual
  · intro h
    simp [hfn, hop, hlit] at h ⊢
    grind only
  · rintro ⟨⟨la, gd⟩, rd, a, b, stripe⟩ hg h
    simp_all
theorem dHandleRead_exact {mk : HandleRead → Instr} {cd : Cls} (hwf : ∀ g, (mk g).wf = (cd.dstOk g.rd && g.h.la == 0))
    (henc : ∀ g, encode (mk g) = eHandleRead op cd g) (hop : opOf w = op) (hn : noLiteral op = true) (hfn : (FmtA.of w).fn = 0) :
    Exact mk w lit (dHandleRead (FmtA.of w) cd mk) := by
  have hlit := isLitForm_of_noLiteral hop hn
  refine .finish ?_ ?_ <;> simp only [hwf, henc, eHandleRead]
  · intro h
    simp [hfn, hop, hlit] at h ⊢
    grind only
  · rintro ⟨⟨la, gd⟩, rd, hs⟩ hg h
    simp_all
theorem dFcancel_exact (hop : opOf w = 0xE6) (hfn : (FmtA.of w).fn = 0) : Exact .fcancel w lit (dFcancel (FmtA.of w)) := by
  have hwf : ∀ g, (Instr.fcancel g).wf = (g.h.la == 0) := fun _ => rfl
  have henc : ∀ g, encode (.fcancel g) = [encA 0xE6 g.h 0 0 (handleSpec g.hs) 0 0 0] := fun _ => rfl
  have hlit := isLitForm_of_noLiteral hop rfl
  refine .finish ?_ ?_ <;> simp only [hwf, henc]
  · intro h
    simp [hfn, hop, hlit] at h ⊢
    grind only
  · rintro ⟨⟨la, gd⟩, hs⟩ hg h
    simp_all
theorem dFimp_exact (hop : opOf w = 0xE7) (hfn : (FmtA.of w).fn = 1) : Exact .fimp w lit (dFimp (FmtA.of w)) := by
  have hwf : ∀ g, (Instr.fimp g).wf = (g.a.okG && g.h.la == 0) := fun _ => rfl
  have henc : ∀ g, encode (.fimp g) = [encA 0xE7 g.h 1 (handleSpec g.hd) (specOf .g g.a) 0 0 0] := fun _ => rfl
  have hlit := isLitForm_of_noLiteral hop rfl
  refine .finish ?_ ?_ <;> simp only [hwf, henc]
  · intro h
    simp [hfn, hop, hlit] at h ⊢
    grind only
  · rintro ⟨⟨la, gd⟩, hd, a⟩ hg h
    simp_all
end

/-! ### Format E: copy, tile, task and exchange forms (R99, R244, R301 to R349) -/

section
variable {w lit : SlotBits} {op : BitVec 8}

@[simp] theorem FmtE.h_handle (f : FmtE) : f.h = field f.hd 1 3 := rfl
@[simp] theorem FmtE.acc_number (f : FmtE) : f.acc = field f.a 1 3 := rfl

theorem dCpy_exact (hop : opOf w = 0xE0) : Exact .cpy w lit (dCpy (FmtE.of w)) := by
  have hwf : ∀ g, (Instr.cpy g).wf =
    (g.dst.okG && g.src.okG && g.len.okG && g.dev.okG && !(g.dsp == 3 && g.ssp == 3) && g.h.la == 0) := fun _ => rfl
  have henc : ∀ g, encode (.cpy g) =
    [encE 0xE0 g.h 0 g.hd (specOf .g g.dst) (specOf .g g.src) (specOf .g g.len) (specOf .g g.dev) (0#28 ++ g.ssp ++ g.dsp)] := fun _ => rfl
  have hlit := isLitForm_of_noLiteral hop rfl
  refine .guarded ?_ fun hfn => .finish ?_ ?_ <;> simp only [hwf, henc]
  · simp +contextual
  · intro h
    simp [hfn, hop, hlit] at h ⊢
    grind only
  · rintro ⟨⟨la, gd⟩, hd, dst, src, len, dev, dsp, ssp⟩ hg h
    simp_all
theorem dCpym_exact (hop : opOf w = 0xE1) : Exact .cpym w lit (dCpym (FmtE.of w)) := by
  have hwf : ∀ g, (Instr.cpym g).wf = (g.off.okG && g.src.okG && g.len.okG && g.cmask != 0 && g.ssp != 3 && g.h.la == 0) := fun _ => rfl
  have henc : ∀ g, encode (.cpym g) =
    [encE 0xE1 g.h 0 g.hd (specOf .g g.off) (specOf .g g.src) (specOf .g g.len) 0 (0#22 ++ g.ssp ++ g.cmask)] := fun _ => rfl
  have hlit := isLitForm_of_noLiteral hop rfl
  refine .guarded ?_ fun hfn => .finish ?_ ?_ <;> simp only [hwf, henc]
  · simp +contextual
  · intro h
    simp [hfn, hop, hlit] at h ⊢
    grind only
  · rintro ⟨⟨la, gd⟩, hd, off, src, len, cmask, ssp⟩ hg h
    simp_all
/-- The specifier 0 is that of the register that an absent operand stands for. -/
theorem zero_spec_iff (s : BitVec 8) : (s == 0) = (((regOf s).okG && s == specOf .g (regOf s)) && regOf s == noReg) := by
  revert s; decide
/-- With format 13 `cpyc` has no second and no fourth operand (R245). -/
theorem FmtE.clean_cpycOff (f : FmtE) (fmt : BitVec 4) : clean (if fmt = 13 then [f.noB, f.noD] else f.sB ++ f.sD) =
    ((((regOf f.b).okG && f.b == specOf .g (regOf f.b)) && ((regOf f.d).okG && f.d == specOf .g (regOf f.d))) &&
      (fmt != 13 || (regOf f.b == noReg && regOf f.d == noReg))) := by
  by_cases h : fmt = 13
  · simp only [if_pos h, clean_cons, clean_nil, FmtE.noB_isNone, FmtE.noD_isNone, zero_spec_iff, bne, beq_iff_eq.mpr h]
    simp only [Bool.not_true, Bool.false_or, Bool.and_true]
    ac_rfl
  · simp only [if_neg h, clean_append, FmtE.clean_sB, FmtE.clean_sD, bne_iff_ne.mpr h, Bool.true_or, Bool.and_true]
theorem dCpyc_exact (hop : opOf w = 0xE2) : Exact .cpyc w lit (dCpyc (FmtE.of w)) := by
  have hwf : ∀ g, (Instr.cpyc g).wf = (g.row.okG && g.src.okG && g.rows.okG && g.stride.okG && cpycFmt g.fmt && !rndReserved g.rnd && g.ssp != 3 &&
      (g.fmt != 13 || (g.src == noReg && g.stride == noReg)) && g.h.la == 0) := fun _ => rfl
  have henc : ∀ g, encode (.cpyc g) =
    [encE 0xE2 g.h 0 g.hd (specOf .g g.row) (specOf .g g.src) (specOf .g g.rows) (specOf .g g.stride)
      (0#11 ++ g.ssp ++ g.rnd ++ g.fmt ++ g.sslot ++ g.dslot)] := fun _ => rfl
  have hlit := isLitForm_of_noLiteral hop rfl
  refine .guarded ?_ fun hfn => .finish ?_ ?_ <;> simp only [hwf, henc, clean_append, FmtE.clean_cpycOff]
  · simp +contextual
  · intro h
    simp [hfn, hop, hlit] at h ⊢
    grind only
  · rintro ⟨⟨la, gd⟩, hd, row, src, rows, stride, dslot, sslot, fmt, rnd, ssp⟩ hg h
    simp_all
theorem dCpyf_exact (hop : opOf w = 0xE3) : Exact .cpyf w lit (dCpyf (FmtE.of w)) := by
  have hwf : ∀ g, (Instr.cpyf g).wf = (g.dst.okG && g.val.okG && g.len.okG && g.dsp != 3 && g.h.la == 0) := fun _ => rfl
  have henc : ∀ g, encode (.cpyf g) =
    [encE 0xE3 g.h 0 g.hd (specOf .g g.dst) (specOf .g g.val) (specOf .g g.len) 0 (0#28 ++ g.es ++ g.dsp)] := fun _ => rfl
  have hlit := isLitForm_of_noLiteral hop rfl
  refine .guarded ?_ fun hfn => .finish ?_ ?_ <;> simp only [hwf, henc]
  · simp +contextual
  · intro h
    simp [hfn, hop, hlit] at h ⊢
    grind only
  · rintro ⟨⟨la, gd⟩, hd, dst, val, len, dsp, es⟩ hg h
    simp_all
theorem dTslot_exact (hop : opOf w = 0xE8) : Exact .tslot w lit (dTslot (FmtE.of w)) := by
  have hwf : ∀ g, (Instr.tslot g).wf = (g.a.okG && g.h.la == 0) := fun _ => rfl
  have henc : ∀ g, encode (.tslot g) = [encE 0xE8 g.h 0 g.hd (specOf .g g.a) 0 0 0 (g.n.setWidth 32)] := fun _ => rfl
  have hlit := isLitForm_of_noLiteral hop rfl
  refine .guarded ?_ fun hfn => .finish ?_ ?_ <;> simp only [hwf, henc]
  · simp +contextual
  · intro h
    simp [hfn, hop, hlit] at h ⊢
    grind only
  · rintro ⟨⟨la, gd⟩, hd, a, n⟩ hg h
    simp_all
theorem dTzero_exact (hop : opOf w = 0xE9) : Exact .tzero w lit (dTzero (FmtE.of w)) := by
  have hwf : ∀ g, (Instr.tzero g).wf = (g.h.la == 0) := fun _ => rfl
  have henc : ∀ g, encode (.tzero g) = [encE 0xE9 g.h 0 g.hd (accSpec g.acc) 0 0 0 0] := fun _ => rfl
  have hlit := isLitForm_of_noLiteral hop rfl
  refine .guarded ?_ fun hfn => .finish ?_ ?_ <;> simp only [hwf, henc]
  · simp +contextual
  · intro h
    simp [hfn, hop, hlit] at h ⊢
    grind only
  · rintro ⟨⟨la, gd⟩, hd, acc⟩ hg h
    simp_all
theorem dTldacc_exact (hop : opOf w = 0xEA) : Exact .tldacc w lit (dTldacc (FmtE.of w)) := by
  have hwf : ∀ g, (Instr.tldacc g).wf = (g.a.okG && g.h.la == 0) := fun _ => rfl
  have henc : ∀ g, encode (.tldacc g) = [encE 0xEA g.h 0 g.hd (accSpec g.acc) (specOf .g g.a) 0 0 0] := fun _ => rfl
  have hlit := isLitForm_of_noLiteral hop rfl
  refine .guarded ?_ fun hfn => .finish ?_ ?_ <;> simp only [hwf, henc]
  · simp +contextual
  · intro h
    simp [hfn, hop, hlit] at h ⊢
    grind only
  · rintro ⟨⟨la, gd⟩, hd, acc, a⟩ hg h
    simp_all
theorem dDeq_exact (hop : opOf w = 0xF0) (hfn : (FmtE.of w).fn = 3) : Exact .deq w lit (dDeq (FmtE.of w)) := by
  have hwf : ∀ g, (Instr.deq g).wf = (g.q.okG && g.dst.okG && g.h.la == 0) := fun _ => rfl
  have henc : ∀ g, encode (.deq g) =
    [encE 0xF0 g.h 3 g.hd (specOf .g g.q) (specOf .g g.dst) 0 0 (0#31 ++ BitVec.ofBool g.nb)] := fun _ => rfl
  have hlit := isLitForm_of_noLiteral hop rfl
  refine .finish ?_ ?_ <;> simp only [hwf, henc]
  · intro h
    simp [hfn, hop, hlit] at h ⊢
    grind only
  · rintro ⟨⟨la, gd⟩, hd, q, dst, nb⟩ hg h
    simp_all
theorem dXsend_exact (hop : opOf w = 0xF4) (hfn : (FmtE.of w).fn = 1) : Exact .xsend w lit (dXsend (FmtE.of w)) := by
  have hwf : ∀ g, (Instr.xsend g).wf = (g.bit.okG && g.src.okG && g.len.okG && g.h.la == 0) := fun _ => rfl
  have henc : ∀ g, encode (.xsend g) =
    [encE 0xF4 g.h 1 g.hd (specOf .g g.bit) (specOf .g g.src) (specOf .g g.len) 0 (0#31 ++ BitVec.ofBool g.narrow)] := fun _ => rfl
  have hlit := isLitForm_of_noLiteral hop rfl
  refine .finish ?_ ?_ <;> simp only [hwf, henc]
  · intro h
    simp [hfn, hop, hlit] at h ⊢
    grind only
  · rintro ⟨⟨la, gd⟩, hd, bit, src, len, narrow⟩ hg h
    simp_all
theorem dXrecv_exact (hop : opOf w = 0xF4) (hfn : (FmtE.of w).fn = 2) : Exact .xrecv w lit (dXrecv (FmtE.of w)) := by
  have hwf : ∀ g, (Instr.xrecv g).wf = (g.dst.okG && g.h.la == 0) := fun _ => rfl
  have henc : ∀ g, encode (.xrecv g) = [encE 0xF4 g.h 2 g.hd (specOf .g g.dst) 0 0 0 (0#31 ++ BitVec.ofBool g.nb)] := fun _ => rfl
  have hlit := isLitForm_of_noLiteral hop rfl
  refine .finish ?_ ?_ <;> simp only [hwf, henc]
  · intro h
    simp [hfn, hop, hlit] at h ⊢
    grind only
  · rintro ⟨⟨la, gd⟩, hd, dst, nb⟩ hg h
    simp_all

theorem dAccMul_exact {mk : AccMul → Instr} (hwf : ∀ g, (mk g).wf = (g.k0.okG && g.klen.okG && g.v.okG && g.h.la == 0))
    (henc : ∀ g, encode (mk g) = eAccMul op g) (hop : opOf w = op) (hn : noLiteral op = true) :
    Exact mk w lit (dAccMul (FmtE.of w) mk) := by
  have hlit := isLitForm_of_noLiteral hop hn
  refine .guarded ?_ fun hfn => .finish ?_ ?_ <;> simp only [hwf, henc, eAccMul]
  · simp +contextual
  · intro h
    simp [hfn, hop, hlit] at h ⊢
    grind only
  · rintro ⟨⟨la, gd⟩, hd, acc, k0, klen, v, tsA, tsB⟩ hg h
    simp_all
theorem dAccDrain_exact {mk : AccDrain → Instr} {transposed : Bool}
    (hwf : ∀ g, (mk g).wf = (g.v.okG && (transposed || g.tsT == 0) && g.h.la == 0))
    (henc : ∀ g, encode (mk g) = eAccDrain op g) (hop : opOf w = op) (hn : noLiteral op = true) :
    Exact mk w lit (dAccDrain (FmtE.of w) transposed mk) := by
  have hlit := isLitForm_of_noLiteral hop hn
  refine .guarded ?_ fun hfn => .finish ?_ ?_ <;> simp only [hwf, henc, eAccDrain]
  · simp +contextual
  · intro h
    cases transposed <;> simp [hfn, hop, hlit] at h ⊢ <;> grind only
  · rintro ⟨⟨la, gd⟩, hd, acc, v, ts, tsT, free, zero⟩ hg h
    cases transposed <;> simp_all
theorem dEng1_exact {mk : Eng1 → Instr} {fn : BitVec 8} {imm : BitVec 32} {os : List Offence}
    (himm : clean os = true ↔ (FmtE.of w).imm = imm) (hwf : ∀ g, (mk g).wf = (g.a.okG && g.h.la == 0))
    (henc : ∀ g, encode (mk g) = eEng1 op fn imm g) (hop : opOf w = op) (hn : noLiteral op = true) (hfn : (FmtE.of w).fn = fn) :
    Exact mk w lit (dEng1 (FmtE.of w) os mk) := by
  have hlit := isLitForm_of_noLiteral hop hn
  refine .finish ?_ ?_ <;> simp only [hwf, henc, eEng1]
  · intro h
    simp [hfn, hop, hlit, himm] at h ⊢
    grind only
  · rintro ⟨⟨la, gd⟩, hd, a⟩ hg h
    simp_all
theorem dEng2_exact {mk : Eng2 → Instr} {fn : BitVec 8} (hwf : ∀ g, (mk g).wf = (g.a.okG && g.b.okG && g.h.la == 0))
    (henc : ∀ g, encode (mk g) = eEng2 op fn g) (hop : opOf w = op) (hn : noLiteral op = true) (hfn : (FmtE.of w).fn = fn) :
    Exact mk w lit (dEng2 (FmtE.of w) mk) := by
  have hlit := isLitForm_of_noLiteral hop hn
  refine .finish ?_ ?_ <;> simp only [hwf, henc, eEng2]
  · intro h
    simp [hfn, hop, hlit] at h ⊢
    grind only
  · rintro ⟨⟨la, gd⟩, hd, a, b⟩ hg h
    simp_all
theorem dEng3_exact {mk : Eng3 → Instr} {fn : BitVec 8} {os : List Offence}
    (himm : clean os = true ↔ (FmtE.of w).imm = 0#32) (hwf : ∀ g, (mk g).wf = (g.a.okG && g.b.okG && g.c.okG && g.h.la == 0))
    (henc : ∀ g, encode (mk g) = eEng3 op fn g) (hop : opOf w = op) (hn : noLiteral op = true) (hfn : (FmtE.of w).fn = fn) :
    Exact mk w lit (dEng3 (FmtE.of w) os mk) := by
  have hlit := isLitForm_of_noLiteral hop hn
  refine .finish ?_ ?_ <;> simp only [hwf, henc, eEng3]
  · intro h
    simp [hfn, hop, hlit, himm] at h ⊢
    grind only
  · rintro ⟨⟨la, gd⟩, hd, a, b, c⟩ hg h
    simp_all
theorem dEng4_exact {mk : Eng4 → Instr} {fn : BitVec 8} (hwf : ∀ g, (mk g).wf = (g.a.okG && g.b.okG && g.c.okG && g.d.okG && g.h.la == 0))
    (henc : ∀ g, encode (mk g) = eEng4 op fn g) (hop : opOf w = op) (hn : noLiteral op = true) (hfn : (FmtE.of w).fn = fn) :
    Exact mk w lit (dEng4 (FmtE.of w) mk) := by
  have hlit := isLitForm_of_noLiteral hop hn
  refine .finish ?_ ?_ <;> simp only [hwf, henc, eEng4]
  · intro h
    simp [hfn, hop, hlit] at h ⊢
    grind only
  · rintro ⟨⟨la, gd⟩, hd, a, b, c, d⟩ hg h
    simp_all
end

/-! ### `taskdep`, the reductions of a domain, and the cell forms, by what tells their instructions apart (R239, R240, R328) -/

section
variable {w lit : SlotBits} {op : BitVec 8}

theorem clean_above_kind_iff {imm : BitVec 32} {kind : BitVec 2} (h : field imm 0 2 = kind) :
    clean [immAbove 2 imm] = true ↔ imm = kind.setWidth 32 := by
  rw [eq_setWidth_iff imm kind (by decide)]
  simp [h]
theorem clean_noImm_iff {imm : BitVec 32} : clean [immAbove 0 imm] = true ↔ imm = 0 := by simp
theorem dTaskdep_dep (h : field (FmtE.of w).imm 0 2 = 0) : dTaskdep (FmtE.of w) = dEng3 (FmtE.of w) [immAbove 2 (FmtE.of w).imm] .taskdep := by
  simp [dTaskdep, h]
theorem dTaskdep_reg (h : field (FmtE.of w).imm 0 2 = 1) : dTaskdep (FmtE.of w) = dEng1 (FmtE.of w) [immAbove 2 (FmtE.of w).imm] .taskdepReg := by
  simp [dTaskdep, h]
theorem dTaskdep_unreg (h : field (FmtE.of w).imm 0 2 = 2) : dTaskdep (FmtE.of w) = dEng1 (FmtE.of w) [immAbove 2 (FmtE.of w).imm] .taskdepUnreg := by
  simp [dTaskdep, h]
theorem dTaskdep_kind3 (h : field (FmtE.of w).imm 0 2 = 3) (i : Instr) : dTaskdep (FmtE.of w) ≠ .ok i := by
  intro hok
  simp [dTaskdep, h, finish, finish2_eq_ok, badAt] at hok

theorem dTaskdep_dep_exact (hop : opOf w = 0xF3) (hfn : (FmtE.of w).fn = 0) (h : field (FmtE.of w).imm 0 2 = 0) :
    Exact .taskdep w lit (dTaskdep (FmtE.of w)) :=
  dTaskdep_dep h ▸ dEng3_exact (clean_above_kind_iff h) (fun _ => rfl) (fun _ => rfl) hop rfl hfn
theorem dTaskdep_reg_exact (hop : opOf w = 0xF3) (hfn : (FmtE.of w).fn = 0) (h : field (FmtE.of w).imm 0 2 = 1) :
    Exact .taskdepReg w lit (dTaskdep (FmtE.of w)) :=
  dTaskdep_reg h ▸ dEng1_exact (clean_above_kind_iff h) (fun _ => rfl) (fun _ => rfl) hop rfl hfn
theorem dTaskdep_unreg_exact (hop : opOf w = 0xF3) (hfn : (FmtE.of w).fn = 0) (h : field (FmtE.of w).imm 0 2 = 2) :
    Exact .taskdepUnreg w lit (dTaskdep (FmtE.of w)) :=
  dTaskdep_unreg h ▸ dEng1_exact (clean_above_kind_iff h) (fun _ => rfl) (fun _ => rfl) hop rfl hfn

/-- The form of `sync.x` and the votes: one source and one destination, told apart by FN (R240). -/
theorem vote_exact {mk : Un → Instr} {fn : BitVec 12} (hwf : ∀ g, (mk g).wf = (g.a.okG && g.h.la == 0))
    (henc : ∀ g, encode (mk g) = eUn op fn .g .g g) (hop : opOf w = op) (hn : noLiteral op = true) (hfn : (FmtA.of w).fn = fn) :
    Exact mk w lit (finish ((FmtA.of w).com false ++ [(FmtA.of w).no2, (FmtA.of w).no3, (FmtA.of w).noImm] ++ dstOff .g 60 (FmtA.of w).rd ++
      srcOff .g 52 (FmtA.of w).r1) (mk ⟨(FmtA.of w).hdr, specNum (FmtA.of w).rd, regOf (FmtA.of w).r1⟩)) := by
  have hlit := isLitForm_of_noLiteral hop hn
  refine .finish ?_ ?_ <;> simp only [hwf, henc, eUn]
  · intro h
    simp [hfn, hop, hlit] at h ⊢
    grind only
  · rintro ⟨⟨la, gd⟩, rd, a⟩ hg h
    simp_all
end

theorem fmtReserved_of_fmtFS {c : BitVec 4} : fmtFS c = true → fmtReserved c = false := by revert c; decide
theorem fmtReserved_of_fmtByte {c : BitVec 4} : fmtByte c = true → fmtReserved c = false := by revert c; decide

/-! ### Well-formedness of the forms with a vector index and of `tdraint`, as their families say it -/

theorem wf_vgathl (g : VMem) : (Instr.vgathl g).wf = (fmtM g.fmt && !g.r.mark && (g.ad.base.okG && Cls.v.srcOk g.ad.index)) := Bool.and_assoc ..
theorem wf_vscatl (g : VMem) : (Instr.vscatl g).wf = (fmtM g.fmt && (g.ad.base.okG && Cls.v.srcOk g.ad.index) && g.h.la == 0) := by
  rw [Cls.srcOk_v, Bool.and_true]
  rfl
theorem wf_tdraint (g : AccDrain) : (Instr.tdraint g).wf = (g.v.okG && (true || g.tsT == 0) && g.h.la == 0) := by
  rw [Bool.true_or, Bool.and_true]
  rfl
/-! ### What decodes is well-formed and has the words that it was read from (R110, R113) -/

section
variable {w lit : SlotBits} {i : Instr}

/-- An instruction is well-formed, one that a slot encodes, and has the words of a slot and the slot after it. -/
def Agrees (w lit : SlotBits) (i : Instr) : Prop :=
  i.wf = true ∧ (i = .nop ∨ i.hdr?.isSome = true) ∧ encode i = wordsOf w lit

theorem agrees_of_exact {α : Type} {mk : α → Instr} {d : Decoded} (h : d = .ok i) (hd : Exact mk w lit d)
    (hcode : ∀ g, (mk g).hdr?.isSome = true) : Agrees w lit i := by
  obtain ⟨g, rfl, hwf, hwords⟩ := (hd i).mp h
  exact ⟨hwf, .inr (hcode g), hwords⟩
theorem illegalOp_ne_ok {op : BitVec 8} {fn : Nat} : illegalOp op fn ≠ .ok i := nofun
/-- A form with one FN. -/
theorem agrees_of_guarded {p : Prop} [Decidable p] {d : Decoded} {op : BitVec 8} {fn : Nat}
    (h : (if p then d else illegalOp op fn) = .ok i) (hd : p → d = .ok i → Agrees w lit i) : Agrees w lit i := by
  split at h
  · exact hd ‹_› h
  · exact absurd h illegalOp_ne_ok

theorem dCell_agrees (hop : opOf w = 0xDB) (h : dCell (FmtM.of w) = .ok i) : Agrees w lit i := by
  by_cases hread : field (FmtM.of w).fn 5 3 = 0 ∧ field (FmtM.of w).fn 0 4 = 0
  · exact agrees_of_exact h (dCell_rdx_exact hop hread) fun _ => rfl
  · by_cases hclear : field (FmtM.of w).fn 5 3 = 0 ∧ field (FmtM.of w).fn 0 4 = 1
    · exact agrees_of_exact h (dCell_clrx_exact hop hclear) fun _ => rfl
    · rw [dCell, if_neg hread, if_neg hclear] at h
      exact absurd h illegalOp_ne_ok
theorem dTaskdep_agrees (hop : opOf w = 0xF3) (hfn : (FmtE.of w).fn = 0) (h : dTaskdep (FmtE.of w) = .ok i) : Agrees w lit i := by
  have hkind : ∀ k : BitVec 2, k = 0 ∨ k = 1 ∨ k = 2 ∨ k = 3 := by decide
  obtain hk | hk | hk | hk := hkind (field (FmtE.of w).imm 0 2)
  · exact agrees_of_exact h (dTaskdep_dep_exact hop hfn hk) fun _ => rfl
  · exact agrees_of_exact h (dTaskdep_reg_exact hop hfn hk) fun _ => rfl
  · exact agrees_of_exact h (dTaskdep_unreg_exact hop hfn hk) fun _ => rfl
  · exact absurd h (dTaskdep_kind3 hk i)

theorem decodeInt_agrees (h : decodeInt w lit = .ok i) : Agrees w lit i := by
  unfold decodeInt at h
  dsimp only at h
  split at h
  case h_24 hop | h_37 hop => exact agrees_of_exact h (dIntTri_exact (fun _ => rfl) (fun _ => rfl) hop rfl) fun _ => rfl
  case h_20 hop | h_21 hop | h_22 hop | h_25 hop | h_26 hop | h_40 hop =>
    exact agrees_of_exact h (dUn_exact (fun _ => rfl) (fun _ => rfl) hop rfl) fun _ => rfl
  case h_38 hop => exact agrees_of_exact h (dLi_exact hop) fun _ => rfl
  case h_39 hop => exact agrees_of_exact h (dLea_exact hop) fun _ => rfl
  case h_41 => exact absurd h illegalOp_ne_ok
  all_goals exact agrees_of_exact h (dIntBin_exact (fun _ => rfl) (fun _ => rfl) ‹_› rfl) fun _ => rfl

theorem decodeFloat_agrees (h : decodeFloat w = .ok i) : Agrees w lit i := by
  unfold decodeFloat at h
  dsimp only at h
  split at h
  case h_4 hop => exact agrees_of_exact h (dTri_exact (fun _ => rfl) (fun _ => rfl) hop rfl) fun _ => rfl
  case h_1 hop | h_2 hop | h_3 hop | h_5 hop =>
    exact agrees_of_exact h (dBin_exact (fun _ => rfl) (fun _ => rfl) hop rfl) fun _ => rfl
  case h_9 hop | h_10 hop | h_17 hop | h_18 hop | h_19 hop =>
    exact agrees_of_exact h (dBin_exact (fun _ => rfl) (fun _ => rfl) hop rfl) fun _ => rfl
  case h_6 hop | h_7 hop | h_8 hop | h_13 hop | h_14 hop | h_15 hop | h_20 hop | h_21 hop | h_22 hop =>
    exact agrees_of_exact h (dUn_exact (fun _ => rfl) (fun _ => rfl) hop rfl) fun _ => rfl
  case h_11 hop => exact agrees_of_exact h (dFcmp_exact hop) fun _ => rfl
  case h_12 hop => exact agrees_of_exact h (dFcvt_exact hop) fun _ => rfl
  case h_16 hop => exact agrees_of_exact h (dPcmp_exact hop) fun _ => rfl
  case h_23 hop =>
    split at h
    case h_1 hfn => exact agrees_of_exact h (dJump_exact (fun _ => rfl) (fun _ => rfl) hop rfl hfn) fun _ => rfl
    case h_2 hfn | h_3 hfn | h_4 hfn => exact agrees_of_exact h (dBranch1_exact (fun _ => rfl) (fun _ => rfl) hop rfl hfn) fun _ => rfl
    case h_5 => exact absurd h illegalOp_ne_ok
  case h_24 hop =>
    split at h
    case h_1 hfn | h_2 hfn | h_3 hfn => exact agrees_of_exact h (dBranch2_exact (fun _ => rfl) (fun _ => rfl) hop hfn) fun _ => rfl
    case h_4 => exact absurd h illegalOp_ne_ok
  case h_25 hop => exact agrees_of_guarded h fun hfn h => agrees_of_exact h (dJump_exact (fun _ => rfl) (fun _ => rfl) hop rfl hfn) fun _ => rfl
  case h_26 hop =>
    split at h
    case h_1 => exact agrees_of_exact h (dUn_exact (fun _ => rfl) (fun _ => rfl) hop rfl) fun _ => rfl
    case h_2 hfn | h_3 hfn => exact agrees_of_exact h (dJumpReg_exact (fun _ => rfl) (fun _ => rfl) hop hfn) fun _ => rfl
    case h_4 => exact absurd h illegalOp_ne_ok
  case h_27 hop =>
    split at h
    case h_1 hfn => exact agrees_of_exact h (dLoop_exact hop hfn) fun _ => rfl
    case h_2 hfn => exact agrees_of_exact h (dLoopi_exact hop hfn) fun _ => rfl
    case h_3 => exact absurd h illegalOp_ne_ok
  case h_28 => exact absurd h illegalOp_ne_ok

theorem decodeSystem_agrees (h : decodeSystem w = .ok i) : Agrees w lit i := by
  unfold decodeSystem at h
  dsimp only at h
  split at h
  case h_1 hop =>
    split at h
    case h_1 hfn => exact agrees_of_exact h (dMfs_exact hop hfn) fun _ => rfl
    case h_2 hfn => exact agrees_of_exact h (dMts_exact hop hfn) fun _ => rfl
    case h_3 hfn | h_4 hfn => exact agrees_of_exact h (dSysMod_exact (fun _ => rfl) (fun _ => rfl) hop hfn) fun _ => rfl
    case h_5 => exact absurd h illegalOp_ne_ok
  case h_2 hop =>
    split at h
    case h_1 hfn | h_2 hfn => exact agrees_of_exact h (dService_exact (fun _ => rfl) (fun _ => rfl) hop hfn) fun _ => rfl
    case h_3 hfn | h_4 hfn => exact agrees_of_exact h (dPlain_exact (fun _ => rfl) (fun _ => rfl) hop rfl hfn) fun _ => rfl
    case h_5 => exact absurd h illegalOp_ne_ok
  case h_3 hop | h_8 hop | h_9 hop | h_10 hop =>
    exact agrees_of_exact h (dBin_exact (fun _ => rfl) (fun _ => rfl) hop rfl) fun _ => rfl
  case h_4 hop | h_14 hop | h_15 hop => exact agrees_of_exact h (dPlain0_exact (fun _ => rfl) (fun _ => rfl) hop rfl) fun _ => rfl
  case h_5 hop => exact agrees_of_exact h (dSrc2_exact (fun _ => rfl) (fun _ => rfl) hop rfl) fun _ => rfl
  case h_6 hop | h_7 hop | h_12 hop => exact agrees_of_exact h (dUn_exact (fun _ => rfl) (fun _ => rfl) hop rfl) fun _ => rfl
  case h_11 hop => exact agrees_of_exact h (dTri_exact (fun _ => rfl) (fun _ => rfl) hop rfl) fun _ => rfl
  case h_13 hop => exact agrees_of_exact h (dFreeze_exact hop) fun _ => rfl
  case h_16 hop => exact agrees_of_exact h (dQuery_exact (by decide) (by decide) (fun _ => rfl) (fun _ => rfl) hop rfl) fun _ => rfl
  case h_17 hop | h_18 hop | h_21 hop | h_22 hop =>
    exact agrees_of_guarded h fun hfn h => agrees_of_exact h (dStreamReg_exact (fun _ => rfl) (fun _ => rfl) hop rfl hfn) fun _ => rfl
  case h_19 hop => exact agrees_of_exact h (dSbind_exact hop) fun _ => rfl
  case h_20 hop => exact agrees_of_exact h (dSunbind_exact hop) fun _ => rfl
  case h_23 hop =>
    split at h
    case h_1 hfn => exact agrees_of_exact h (dStreamReg_exact (fun _ => rfl) (fun _ => rfl) hop rfl hfn) fun _ => rfl
    case h_2 hfn => exact agrees_of_exact h (dSstat_exact hop hfn) fun _ => rfl
    case h_3 => exact absurd h illegalOp_ne_ok
  case h_24 hop => exact agrees_of_exact h (dRep_exact hop) fun _ => rfl
  case h_25 => exact absurd h illegalOp_ne_ok

theorem decodeVector_agrees (h : decodeVector w lit = .ok i) : Agrees w lit i := by
  unfold decodeVector at h
  dsimp only at h
  split at h
  case h_1 hop | h_2 hop | h_3 hop | h_8 hop | h_9 hop =>
    exact agrees_of_exact h (dVBin_exact fmtReserved_of_fmtFI (fun _ => rfl) (fun _ => rfl) hop rfl) fun _ => rfl
  case h_17 hop | h_18 hop | h_19 hop | h_20 hop | h_21 hop | h_22 hop | h_23 hop =>
    exact agrees_of_exact h (dVBin_exact fmtReserved_of_fmtI (fun _ => rfl) (fun _ => rfl) hop rfl) fun _ => rfl
  case h_4 hop | h_5 hop => exact agrees_of_exact h (dVTri_exact (fun _ => Bool.and_true _) (fun _ => rfl) hop rfl) fun _ => rfl
  case h_6 hop | h_7 hop =>
    exact agrees_of_exact h (dVUn_exact fmtReserved_of_fmtFS (fun _ => rfl) (fun _ => rfl) hop rfl) fun _ => rfl
  case h_10 hop | h_11 hop => exact agrees_of_exact h (dVUn_exact fmtReserved_of_fmtF (fun _ => rfl) (fun _ => rfl) hop rfl) fun _ => rfl
  case h_33 hop | h_34 hop | h_37 hop =>
    exact agrees_of_exact h (dVUn_exact fmtReserved_of_fmtM (fun _ => rfl) (fun _ => rfl) hop rfl) fun _ => rfl
  case h_12 hop => exact agrees_of_exact h (dVti_exact hop) fun _ => rfl
  case h_13 hop => exact agrees_of_exact h (dVtload_exact hop) fun _ => rfl
  case h_14 hop => exact agrees_of_exact h (dVcvt_exact hop) fun _ => rfl
  case h_15 hop => exact agrees_of_exact h (dVcmp_exact hop) fun _ => rfl
  case h_16 hop => exact agrees_of_exact h (dVsel_exact hop) fun _ => rfl
  case h_24 hop =>
    exact agrees_of_exact h (dV3_exact fmtReserved_of_fmtByte (fun _ => Bool.and_true _) (fun _ => rfl) hop rfl) fun _ => rfl
  case h_32 hop => exact agrees_of_exact h (dV3_exact fmtReserved_of_fmtM (fun _ => Bool.and_true _) (fun _ => rfl) hop rfl) fun _ => rfl
  case h_31 hop => exact agrees_of_exact h (dV2_exact fmtReserved_of_fmtM (fun _ => Bool.and_true _) (fun _ => rfl) hop rfl) fun _ => rfl
  case h_25 hop | h_26 hop =>
    exact agrees_of_exact h (dVRed_exact fmtReserved_of_fmtFI (fun _ => Bool.and_true _) (fun _ => rfl) hop rfl) fun _ => rfl
  case h_27 hop =>
    exact agrees_of_exact h (dVRed_exact fmtReserved_of_fmtF (fun _ => Bool.and_true _) (fun _ => rfl) hop rfl) fun _ => rfl
  case h_28 hop => exact agrees_of_exact h (dVbcast_exact hop) fun _ => rfl
  case h_29 hop => exact agrees_of_exact h (dVext_exact hop) fun _ => rfl
  case h_30 hop => exact agrees_of_exact h (dVins_exact hop) fun _ => rfl
  case h_35 hop | h_36 hop =>
    exact agrees_of_exact h (dVNull_exact (fun _ => rfl) (fun _ => Bool.and_true _) (fun _ => rfl) hop rfl) fun _ => rfl
  case h_38 => exact absurd h illegalOp_ne_ok

theorem decodeMemory_agrees (h : decodeMemory w = .ok i) : Agrees w lit i := by
  unfold decodeMemory at h
  dsimp only at h
  split at h
  case h_1 hop | h_3 hop | h_9 hop | h_10 hop | h_16 hop | h_25 hop =>
    exact agrees_of_exact h (dLoad_exact (fun _ => Bool.and_true _) (fun _ => rfl) hop rfl) fun _ => rfl
  case h_2 hop | h_4 hop | h_11 hop | h_17 hop | h_26 hop =>
    exact agrees_of_exact h (dStore_exact (fun _ => rfl) (fun _ => rfl) hop rfl) fun _ => rfl
  case h_5 hop | h_18 hop =>
    exact agrees_of_exact h (dVLoad_exact (fun _ => Bool.and_true _) (fun _ => rfl) hop rfl) fun _ => rfl
  case h_7 hop => exact agrees_of_exact h (dVLoad_exact wf_vgathl (fun _ => rfl) hop rfl) fun _ => rfl
  case h_8 hop => exact agrees_of_exact h (dVStore_exact wf_vscatl (fun _ => rfl) hop rfl) fun _ => rfl
  case h_6 hop | h_19 hop => exact agrees_of_exact h (dVStore_exact (fun _ => rfl) (fun _ => rfl) hop rfl) fun _ => rfl
  case h_12 hop | h_15 hop => exact agrees_of_exact h (dSrc2_exact (fun _ => rfl) (fun _ => rfl) hop rfl) fun _ => rfl
  case h_13 hop => exact agrees_of_exact h (dBalloc_exact hop) fun _ => rfl
  case h_14 hop => exact agrees_of_exact h (dBin_exact (fun _ => rfl) (fun _ => rfl) hop rfl) fun _ => rfl
  case h_20 hop => exact agrees_of_exact h (dPref_exact hop) fun _ => rfl
  case h_21 hop | h_22 hop => exact agrees_of_exact h (dAmo_exact (fun _ => Bool.and_true _) (fun _ => rfl) hop rfl) fun _ => rfl
  case h_23 hop => exact agrees_of_exact h (dFaddx_exact hop) fun _ => rfl
  case h_24 hop => exact dCell_agrees hop h
  case h_27 hop =>
    split at h
    case h_7 => exact absurd h illegalOp_ne_ok
    all_goals exact agrees_of_exact h (dPlain_exact (fun _ => rfl) (fun _ => rfl) hop rfl ‹_›) fun _ => rfl
  case h_28 hop =>
    split at h
    case h_1 hfn => exact agrees_of_exact h (dPlain_exact (fun _ => rfl) (fun _ => rfl) hop rfl hfn) fun _ => rfl
    case h_7 => exact absurd h illegalOp_ne_ok
    all_goals exact agrees_of_exact h (vote_exact (fun _ => rfl) (fun _ => rfl) hop rfl ‹_›) fun _ => rfl
  case h_29 => exact absurd h illegalOp_ne_ok

theorem decodeEngine_agrees (h : decodeEngine w = .ok i) : Agrees w lit i := by
  unfold decodeEngine at h
  dsimp only at h
  split at h
  case h_1 hop => exact agrees_of_exact h (dCpy_exact hop) fun _ => rfl
  case h_2 hop => exact agrees_of_exact h (dCpym_exact hop) fun _ => rfl
  case h_3 hop => exact agrees_of_exact h (dCpyc_exact hop) fun _ => rfl
  case h_4 hop => exact agrees_of_exact h (dCpyf_exact hop) fun _ => rfl
  case h_5 hop | h_6 hop =>
    exact agrees_of_guarded h fun hfn h => agrees_of_exact h (dHandleRead_exact (fun _ => rfl) (fun _ => rfl) hop rfl hfn) fun _ => rfl
  case h_7 hop => exact agrees_of_guarded h fun hfn h => agrees_of_exact h (dFcancel_exact hop hfn) fun _ => rfl
  case h_8 hop =>
    split at h
    case h_1 hfn => exact agrees_of_exact h (dHandleRead_exact (fun _ => rfl) (fun _ => rfl) hop rfl hfn) fun _ => rfl
    case h_2 hfn => exact agrees_of_exact h (dFimp_exact hop hfn) fun _ => rfl
    case h_3 => exact absurd h illegalOp_ne_ok
  case h_9 hop => exact agrees_of_exact h (dTslot_exact hop) fun _ => rfl
  case h_10 hop => exact agrees_of_exact h (dTzero_exact hop) fun _ => rfl
  case h_11 hop => exact agrees_of_exact h (dTldacc_exact hop) fun _ => rfl
  case h_12 hop | h_13 hop => exact agrees_of_exact h (dAccMul_exact (fun _ => rfl) (fun _ => rfl) hop rfl) fun _ => rfl
  case h_14 hop => exact agrees_of_exact h (dAccDrain_exact (fun _ => rfl) (fun _ => rfl) hop rfl) fun _ => rfl
  case h_15 hop => exact agrees_of_exact h (dAccDrain_exact wf_tdraint (fun _ => rfl) hop rfl) fun _ => rfl
  case h_16 hop => exact agrees_of_exact h (dQuery_exact (by decide) (by decide) (fun _ => rfl) (fun _ => rfl) hop rfl) fun _ => rfl
  case h_17 hop =>
    split at h
    case h_1 hfn => exact agrees_of_exact h (dEng2_exact (fun _ => rfl) (fun _ => rfl) hop rfl hfn) fun _ => rfl
    case h_2 hfn => exact agrees_of_exact h (dEng1_exact clean_noImm_iff (fun _ => rfl) (fun _ => rfl) hop rfl hfn) fun _ => rfl
    case h_3 hfn => exact agrees_of_exact h (dEng3_exact clean_noImm_iff (fun _ => rfl) (fun _ => rfl) hop rfl hfn) fun _ => rfl
    case h_4 hfn => exact agrees_of_exact h (dDeq_exact hop hfn) fun _ => rfl
    case h_5 => exact absurd h illegalOp_ne_ok
  case h_18 hop | h_24 hop =>
    exact agrees_of_guarded h fun hfn h => agrees_of_exact h (dBare_exact (fun _ => rfl) (fun _ => rfl) hop rfl hfn) fun _ => rfl
  case h_19 hop =>
    split at h
    case h_1 hfn => exact agrees_of_exact h (dEng4_exact (fun _ => rfl) (fun _ => rfl) hop rfl hfn) fun _ => rfl
    case h_2 hfn => exact agrees_of_exact h (dEng1_exact clean_noImm_iff (fun _ => rfl) (fun _ => rfl) hop rfl hfn) fun _ => rfl
    case h_3 hfn => exact agrees_of_exact h (dEng2_exact (fun _ => rfl) (fun _ => rfl) hop rfl hfn) fun _ => rfl
    case h_4 => exact absurd h illegalOp_ne_ok
  case h_20 hop => exact agrees_of_guarded h fun hfn h => dTaskdep_agrees hop hfn h
  case h_21 hop =>
    split at h
    case h_1 hfn => exact agrees_of_exact h (dEng2_exact (fun _ => rfl) (fun _ => rfl) hop rfl hfn) fun _ => rfl
    case h_2 hfn => exact agrees_of_exact h (dXsend_exact hop hfn) fun _ => rfl
    case h_3 hfn => exact agrees_of_exact h (dXrecv_exact hop hfn) fun _ => rfl
    case h_4 => exact absurd h illegalOp_ne_ok
  case h_22 hop =>
    split at h
    case h_1 hfn | h_2 hfn => exact agrees_of_exact h (dEng4_exact (fun _ => rfl) (fun _ => rfl) hop rfl hfn) fun _ => rfl
    case h_3 => exact absurd h illegalOp_ne_ok
  case h_23 hop =>
    split at h
    case h_1 hfn | h_2 hfn => exact agrees_of_exact h (dBare_exact (fun _ => rfl) (fun _ => rfl) hop rfl hfn) fun _ => rfl
    case h_3 => exact absurd h illegalOp_ne_ok
  case h_25 => exact absurd h illegalOp_ne_ok

/-- A slot with OP 0 is the NOP, whose slot is zero (R110). -/
theorem decode_zero (hop : opOf w = 0) (h : decode w lit = .ok i) : w = 0 ∧ i = .nop := by
  unfold decode at h
  dsimp only at h
  rw [if_pos (show field w 88 8 = 0 from hop)] at h
  cases hlow : lowestSet 0 (field w 0 88) with
  | none =>
    rw [hlow] at h
    have hrest : field w 0 88 = 0 := by
      rw [← beq_iff_eq, ← lowestSet_isNone 0, hlow]
      rfl
    refine ⟨?_, (Except.ok.inj h).symm⟩
    rw [← field_self w, show field w 0 96 = field w 88 8 ++ field w 0 88 from (field_append_field w (show 88 = 0 + 88 from rfl)).symm,
      show field w 88 8 = 0 from hop, hrest]
    rfl
  | some n =>
    rw [hlow] at h
    simp at h
/-- What decodes is well-formed, and its words are those it was read from. -/
theorem decode_agrees (h : decode w lit = .ok i) : Agrees w lit i := by
  by_cases hop : opOf w = 0
  · obtain ⟨rfl, rfl⟩ := decode_zero hop h
    exact ⟨rfl, .inl rfl, rfl⟩
  · unfold decode at h
    dsimp only at h
    rw [if_neg (show ¬field w 88 8 = 0 from hop)] at h
    split_ifs at h
    · exact decodeInt_agrees h
    · exact decodeFloat_agrees h
    · exact decodeSystem_agrees h
    · exact decodeVector_agrees h
    · exact decodeMemory_agrees h
    · exact decodeEngine_agrees h
end
/-! ### What is well-formed decodes from its words (R94 to R102, R113) -/

section
variable {i : Instr} {op : BitVec 8}

/-- The first slot of an instruction. -/
def slotOf (i : Instr) : SlotBits := (encode i).headD 0
/-- The slot after it: its literal, where it has one. -/
def literalOf (i : Instr) : SlotBits := ((encode i)[1]?).getD 0
/-- The slots of an instruction decode to it, and it has a literal exactly when its first slot says so. -/
def RoundTrip (i : Instr) : Prop :=
  decode (slotOf i) (literalOf i) = .ok i ∧ (encode i).length = (if isLitForm (slotOf i) then 2 else 1)
/-- The first slot has this OP, and the words are that slot and the literal that it asks for. -/
def HasSlot (i : Instr) (op : BitVec 8) : Prop := opOf (slotOf i) = op ∧ encode i = wordsOf (slotOf i) (literalOf i)

theorem wordsOf_length (w lit : SlotBits) : (wordsOf w lit).length = if isLitForm w then 2 else 1 := by
  cases h : isLitForm w <;> simp [wordsOf, h]
theorem roundTrip_of_exact {α : Type} {mk : α → Instr} {g : α} (hw : (mk g).wf = true) (hs : HasSlot (mk g) op)
    (hd : Exact mk (slotOf (mk g)) (literalOf (mk g)) (decode (slotOf (mk g)) (literalOf (mk g)))) : RoundTrip (mk g) :=
  ⟨(hd _).mpr ⟨g, rfl, hw, hs.2⟩, hs.2 ▸ wordsOf_length ..⟩

/-! The six parts of the opcode map. -/

theorem roundTrip_int {α : Type} {mk : α → Instr} {g : α} (hw : (mk g).wf = true) (hs : HasSlot (mk g) op) (h0 : op ≠ 0) (h1 : op.toNat < 0x40)
    (hd : opOf (slotOf (mk g)) = op → Exact mk (slotOf (mk g)) (literalOf (mk g)) (decodeInt (slotOf (mk g)) (literalOf (mk g)))) :
    RoundTrip (mk g) :=
  roundTrip_of_exact hw hs (decode_int hs.1 h0 h1 ▸ hd hs.1)
theorem roundTrip_float {α : Type} {mk : α → Instr} {g : α} (hw : (mk g).wf = true) (hs : HasSlot (mk g) op) (h0 : 0x40 ≤ op.toNat)
    (h1 : op.toNat < 0x60)
    (hd : opOf (slotOf (mk g)) = op → Exact mk (slotOf (mk g)) (literalOf (mk g)) (decodeFloat (slotOf (mk g)))) : RoundTrip (mk g) :=
  roundTrip_of_exact hw hs (decode_float hs.1 h0 h1 ▸ hd hs.1)
theorem roundTrip_system {α : Type} {mk : α → Instr} {g : α} (hw : (mk g).wf = true) (hs : HasSlot (mk g) op) (h0 : 0x60 ≤ op.toNat)
    (h1 : op.toNat < 0x80)
    (hd : opOf (slotOf (mk g)) = op → Exact mk (slotOf (mk g)) (literalOf (mk g)) (decodeSystem (slotOf (mk g)))) : RoundTrip (mk g) :=
  roundTrip_of_exact hw hs (decode_system hs.1 h0 h1 ▸ hd hs.1)
theorem roundTrip_vector {α : Type} {mk : α → Instr} {g : α} (hw : (mk g).wf = true) (hs : HasSlot (mk g) op) (h0 : 0x80 ≤ op.toNat)
    (h1 : op.toNat < 0xC0)
    (hd : opOf (slotOf (mk g)) = op → Exact mk (slotOf (mk g)) (literalOf (mk g)) (decodeVector (slotOf (mk g)) (literalOf (mk g)))) :
      RoundTrip (mk g) :=
  roundTrip_of_exact hw hs (decode_vector hs.1 h0 h1 ▸ hd hs.1)
theorem roundTrip_memory {α : Type} {mk : α → Instr} {g : α} (hw : (mk g).wf = true) (hs : HasSlot (mk g) op) (h0 : 0xC0 ≤ op.toNat)
    (h1 : op.toNat < 0xE0)
    (hd : opOf (slotOf (mk g)) = op → Exact mk (slotOf (mk g)) (literalOf (mk g)) (decodeMemory (slotOf (mk g)))) : RoundTrip (mk g) :=
  roundTrip_of_exact hw hs (decode_memory hs.1 h0 h1 ▸ hd hs.1)
theorem roundTrip_engine {α : Type} {mk : α → Instr} {g : α} (hw : (mk g).wf = true) (hs : HasSlot (mk g) op) (h0 : 0xE0 ≤ op.toNat)
    (hd : opOf (slotOf (mk g)) = op → Exact mk (slotOf (mk g)) (literalOf (mk g)) (decodeEngine (slotOf (mk g)))) : RoundTrip (mk g) :=
  roundTrip_of_exact hw hs (decode_engine hs.1 h0 ▸ hd hs.1)

/-! The first slots, by format. -/

@[simp] theorem opOf_encA (op : BitVec 8) (h : Hdr) (fn : BitVec 12) (rd r1 r2 r3 : BitVec 8) (imm : BitVec 32) :
    opOf (encA op h fn rd r1 r2 r3 imm) = op := FmtA.bits_op _
theorem fn_encA (op : BitVec 8) (h : Hdr) (fn : BitVec 12) (rd r1 r2 r3 : BitVec 8) (imm : BitVec 32) :
    (FmtA.of (encA op h fn rd r1 r2 r3 imm)).fn = fn := congrArg FmtA.fn (FmtA.of_bits _)
theorem fn_encB (op : BitVec 8) (h : Hdr) (fn : BitVec 4) (r1 r2 : BitVec 8) (aux : BitVec 20) (t : Target) :
    (FmtB.of (encB op h fn r1 r2 aux t)).fn = fn := congrArg FmtB.fn (FmtB.of_bits _)
theorem fn_bitsL (f : FmtL) : (FmtL.of f.bits).fn = f.fn := congrArg FmtL.fn f.of_bits
theorem fn_encM (op : BitVec 8) (h : Hdr) (fn rd : BitVec 8) (ci : Cls) (ad : Addr) (size : BitVec 3) :
    (FmtM.of (encM op h fn rd ci ad size)).fn = fn := congrArg FmtM.fn (FmtM.of_bits _)
theorem fn_encE (op : BitVec 8) (h : Hdr) (fn : BitVec 8) (hd : BitVec 3) (a b c d : BitVec 8) (imm : BitVec 32) :
    (FmtE.of (encE op h fn hd a b c d imm)).fn = fn := congrArg FmtE.fn (FmtE.of_bits _)
theorem imm_encE (op : BitVec 8) (h : Hdr) (fn : BitVec 8) (hd : BitVec 3) (a b c d : BitVec 8) (imm : BitVec 32) :
    (FmtE.of (encE op h fn hd a b c d imm)).imm = imm := congrArg FmtE.imm (FmtE.of_bits _)

theorem roundTrip_of_fnA {fn : BitVec 12} (h : (FmtA.of (slotOf i)).fn = fn) (hd : (FmtA.of (slotOf i)).fn = fn → RoundTrip i) : RoundTrip i := hd h
theorem roundTrip_of_fnB {fn : BitVec 4} (h : (FmtB.of (slotOf i)).fn = fn) (hd : (FmtB.of (slotOf i)).fn = fn → RoundTrip i) : RoundTrip i := hd h
theorem roundTrip_of_fnL {fn : BitVec 4} (h : (FmtL.of (slotOf i)).fn = fn) (hd : (FmtL.of (slotOf i)).fn = fn → RoundTrip i) : RoundTrip i := hd h
theorem roundTrip_of_fnE {fn : BitVec 8} (h : (FmtE.of (slotOf i)).fn = fn) (hd : (FmtE.of (slotOf i)).fn = fn → RoundTrip i) : RoundTrip i := hd h
theorem roundTrip_of_imm {imm : BitVec 32} (h : (FmtE.of (slotOf i)).imm = imm) (hd : (FmtE.of (slotOf i)).imm = imm → RoundTrip i) : RoundTrip i
    := hd h
theorem cellFn_parts {x : BitVec 8} {b : Bool} {k : BitVec 4} (h : x = cellFn b k) : field x 5 3 = 0 ∧ field x 0 4 = k := by
  obtain ⟨⟨hhigh, -⟩, hlow⟩ := (fn_cell_iff x b k).mp h
  exact ⟨hhigh, hlow⟩
theorem hasSlot_of_single {x : SlotBits} (h : encode i = [x]) (hop : opOf x = op) (hl : isLitForm x = false) : HasSlot i op := by
  simp [HasSlot, slotOf, literalOf, h, hop, hl]
theorem hasSlot_of_pair {x l : SlotBits} (h : encode i = [x, l]) (hop : opOf x = op) (hl : isLitForm x = true) : HasSlot i op := by
  simp [HasSlot, slotOf, literalOf, h, hop, hl]
theorem hasSlot_of_noLiteral {x : SlotBits} (h : encode i = [x]) (hop : opOf x = op) (hn : noLiteral op = true) : HasSlot i op :=
  hasSlot_of_single h hop (isLitForm_of_noLiteral hop hn)
theorem hasSlot_encA {h : Hdr} {fn : BitVec 12} {rd r1 r2 r3 : BitVec 8} {imm : BitVec 32} (henc : encode i = [encA op h fn rd r1 r2 r3 imm])
    (hn : noLiteral op = true) : HasSlot i op := hasSlot_of_noLiteral henc (opOf_encA ..) hn
theorem hasSlot_encB {h : Hdr} {fn : BitVec 4} {r1 r2 : BitVec 8} {aux : BitVec 20} {t : Target} (henc : encode i = [encB op h fn r1 r2 aux t])
    (hn : noLiteral op = true) : HasSlot i op := hasSlot_of_noLiteral henc (FmtB.bits_op _) hn
theorem hasSlot_encM {h : Hdr} {fn rd : BitVec 8} {ci : Cls} {ad : Addr} {size : BitVec 3} (henc : encode i = [encM op h fn rd ci ad size])
    (hn : noLiteral op = true) : HasSlot i op := hasSlot_of_noLiteral henc (FmtM.bits_op _) hn
theorem hasSlot_encE {h : Hdr} {fn : BitVec 8} {hd : BitVec 3} {a b c d : BitVec 8} {imm : BitVec 32}
    (henc : encode i = [encE op h fn hd a b c d imm]) (hn : noLiteral op = true) : HasSlot i op :=
  hasSlot_of_noLiteral henc (FmtE.bits_op _) hn
theorem hasSlot_li (g : LoadImm) : HasSlot (.li g) 0x26 := hasSlot_of_noLiteral rfl (FmtW.bits_op _) rfl
theorem hasSlot_loopi (g : LoopImm) : HasSlot (.loopi g) 0x5B := hasSlot_of_noLiteral rfl (FmtL.bits_op _) rfl
theorem hasSlot_encTwo {h : Hdr} {rd : BitVec 5} {a : Reg} {b : Opnd} {r3 : BitVec 8} (henc : encode i = encTwo op h rd a b r3)
    (hl : intLiteral op = true) : HasSlot i op := by
  cases b with
  | reg r => exact hasSlot_of_single henc (opOf_encA ..) (by rw [isLitForm_of_intLiteral (opOf_encA ..) hl, fn_encA]; rfl)
  | imm v => exact hasSlot_of_single henc (opOf_encA ..) (by rw [isLitForm_of_intLiteral (opOf_encA ..) hl, fn_encA]; rfl)
  | lit v => exact hasSlot_of_pair henc (opOf_encA ..) (by rw [isLitForm_of_intLiteral (opOf_encA ..) hl, fn_encA]; rfl)
theorem hasSlot_eVOp {h : Hdr} {fmt : BitVec 4} {rd : BitVec 5} {a : Reg} {b : VOpnd} {r3 : BitVec 8} (henc : encode i = eVOp op h fmt rd a b r3)
    (hn : noLiteral op = true) : HasSlot i op := by
  cases b <;> exact hasSlot_encA henc hn
theorem hasSlot_pcmp (g : CmpI) : HasSlot (.pcmp g) 0x50 := by
  obtain ⟨h, cc, rd, a, b⟩ := g
  cases b <;> exact hasSlot_encA rfl rfl
theorem hasSlot_vext (g : VExt) : HasSlot (.vext g) 0x9C := by
  obtain ⟨h, fmt, rd, a, s⟩ := g
  cases s <;> exact hasSlot_encA rfl rfl
theorem hasSlot_vins (g : VIns) : HasSlot (.vins g) 0x9D := by
  obtain ⟨h, fmt, rd, a, s, k⟩ := g
  cases k <;> exact hasSlot_encA rfl rfl
theorem hasSlot_vbcast (g : VBcast) : HasSlot (.vbcast g) 0x9B := by
  have hreg : ∀ fmt : BitVec 4, (vfn fmt).getLsbD 11 = false := by decide
  have hlit : ∀ fmt : BitVec 4, (0x80#8 ++ fmt).getLsbD 11 = true := by decide
  obtain ⟨h, fmt, rd, s⟩ := g
  cases s with
  | reg r =>
    refine hasSlot_of_single rfl (opOf_encA ..) ?_
    rw [isLitForm_eq, opOf_encA, fn_encA, hreg, Bool.and_false, Bool.or_false]
    exact Bool.and_false _
  | lit v => exact hasSlot_of_pair rfl (opOf_encA ..) (by rw [isLitForm_eq, opOf_encA, fn_encA, hlit]; exact Bool.or_true _)
end

/-- A well-formed instruction that a slot encodes decodes from its words. -/
theorem roundTrip_of_wf {i : Instr} (hw : i.wf = true) (hcode : i = .nop ∨ i.hdr?.isSome = true) : RoundTrip i := by
  cases i
  case nop => exact ⟨rfl, rfl⟩
  case add f | sub f | mul f | mulh f | mulhn f | div f | divn f | rem f | remn f | and f | or f | xor f | andn f | orn f | shl f |
      shr f | sra f | rol f | ror f | bext f | min f | max f | minn f | maxn f | seq f | sne f | slt f | sltn f | sle f |
      slen f =>
    refine roundTrip_int hw (hasSlot_encTwo rfl rfl) (by decide) (by decide) fun hop => ?_
    rw [decodeInt, FmtA.of_op, hop]
    exact dIntBin_exact (fun _ => rfl) (fun _ => rfl) hop rfl
  case bins f | sel f =>
    refine roundTrip_int hw (hasSlot_encTwo rfl rfl) (by decide) (by decide) fun hop => ?_
    rw [decodeInt, FmtA.of_op, hop]
    exact dIntTri_exact (fun _ => rfl) (fun _ => rfl) hop rfl
  case clz f | ctz f | popc f | bswap f | abs f | mov f =>
    refine roundTrip_int hw (hasSlot_encA rfl rfl) (by decide) (by decide) fun hop => ?_
    rw [decodeInt, FmtA.of_op, hop]
    exact dUn_exact (fun _ => rfl) (fun _ => rfl) hop rfl
  case li f =>
    refine roundTrip_int hw (hasSlot_li f) (by decide) (by decide) fun hop => ?_
    rw [decodeInt, FmtA.of_op, hop]
    exact dLi_exact hop
  case lea f =>
    refine roundTrip_int hw (hasSlot_encM rfl rfl) (by decide) (by decide) fun hop => ?_
    rw [decodeInt, FmtA.of_op, hop]
    exact dLea_exact hop
  case fadd f | fsub f | fmul f | fdiv f | fmin f | fmax f | pand f | por f | pxor f =>
    refine roundTrip_float hw (hasSlot_encA rfl rfl) (by decide) (by decide) fun hop => ?_
    rw [decodeFloat, FmtA.of_op, hop]
    exact dBin_exact (fun _ => rfl) (fun _ => rfl) hop rfl
  case ffma f =>
    refine roundTrip_float hw (hasSlot_encA rfl rfl) (by decide) (by decide) fun hop => ?_
    rw [decodeFloat, FmtA.of_op, hop]
    exact dTri_exact (fun _ => rfl) (fun _ => rfl) hop rfl
  case fsqrt f | frsqe f | frcpe f | fclass f | fabs f | fneg f | pnot f | pset f | pget f =>
    refine roundTrip_float hw (hasSlot_encA rfl rfl) (by decide) (by decide) fun hop => ?_
    rw [decodeFloat, FmtA.of_op, hop]
    exact dUn_exact (fun _ => rfl) (fun _ => rfl) hop rfl
  case fcmp f =>
    refine roundTrip_float hw (hasSlot_encA rfl rfl) (by decide) (by decide) fun hop => ?_
    rw [decodeFloat, FmtA.of_op, hop]
    exact dFcmp_exact hop
  case fcvt f =>
    refine roundTrip_float hw (hasSlot_encA rfl rfl) (by decide) (by decide) fun hop => ?_
    rw [decodeFloat, FmtA.of_op, hop]
    exact dFcvt_exact hop
  case pcmp f =>
    refine roundTrip_float hw (hasSlot_pcmp f) (by decide) (by decide) fun hop => ?_
    rw [decodeFloat, FmtA.of_op, hop]
    exact dPcmp_exact hop
  case br f | call f =>
    refine roundTrip_of_fnB (fn_encB ..) fun hfn => roundTrip_float hw (hasSlot_encB rfl rfl) (by decide) (by decide) fun hop => ?_
    rw [decodeFloat, FmtA.of_op, hop, hfn]
    exact dJump_exact (fun _ => rfl) (fun _ => rfl) hop rfl hfn
  case brp f | brz f | brnz f =>
    refine roundTrip_of_fnB (fn_encB ..) fun hfn => roundTrip_float hw (hasSlot_encB rfl rfl) (by decide) (by decide) fun hop => ?_
    rw [decodeFloat, FmtA.of_op, hop, hfn]
    exact dBranch1_exact (fun _ => rfl) (fun _ => rfl) hop rfl hfn
  case beq f | bne f | blt f =>
    refine roundTrip_of_fnB (fn_encB ..) fun hfn => roundTrip_float hw (hasSlot_encB rfl rfl) (by decide) (by decide) fun hop => ?_
    rw [decodeFloat, FmtA.of_op, hop, hfn]
    exact dBranch2_exact (fun _ => rfl) (fun _ => rfl) hop hfn
  case callr f =>
    refine roundTrip_of_fnA (fn_encA ..) fun hfn => roundTrip_float hw (hasSlot_encA rfl rfl) (by decide) (by decide) fun hop => ?_
    rw [decodeFloat, FmtA.of_op, hop, hfn]
    exact dUn_exact (fun _ => rfl) (fun _ => rfl) hop rfl
  case jmpr f | ret f =>
    refine roundTrip_of_fnA (fn_encA ..) fun hfn => roundTrip_float hw (hasSlot_encA rfl rfl) (by decide) (by decide) fun hop => ?_
    rw [decodeFloat, FmtA.of_op, hop, hfn]
    exact dJumpReg_exact (fun _ => rfl) (fun _ => rfl) hop hfn
  case loop f =>
    refine roundTrip_of_fnB (fn_encB ..) fun hfn => roundTrip_float hw (hasSlot_encB rfl rfl) (by decide) (by decide) fun hop => ?_
    rw [decodeFloat, FmtA.of_op, hop, hfn]
    exact dLoop_exact hop hfn
  case loopi f =>
    refine roundTrip_of_fnB (fn_bitsL _) fun hfn => roundTrip_float hw (hasSlot_loopi f) (by decide) (by decide) fun hop => ?_
    rw [decodeFloat, FmtA.of_op, hop, hfn]
    exact dLoopi_exact hop hfn
  case mfs f =>
    refine roundTrip_of_fnA (fn_encA ..) fun hfn => roundTrip_system hw (hasSlot_encA rfl rfl) (by decide) (by decide) fun hop => ?_
    rw [decodeSystem, FmtA.of_op, hop, hfn]
    exact dMfs_exact hop hfn
  case mts f =>
    refine roundTrip_of_fnA (fn_encA ..) fun hfn => roundTrip_system hw (hasSlot_encA rfl rfl) (by decide) (by decide) fun hop => ?_
    rw [decodeSystem, FmtA.of_op, hop, hfn]
    exact dMts_exact hop hfn
  case mtsb f | mtsc f =>
    refine roundTrip_of_fnA (fn_encA ..) fun hfn => roundTrip_system hw (hasSlot_encA rfl rfl) (by decide) (by decide) fun hop => ?_
    rw [decodeSystem, FmtA.of_op, hop, hfn]
    exact dSysMod_exact (fun _ => rfl) (fun _ => rfl) hop hfn
  case ecall f | ebreak f =>
    refine roundTrip_of_fnA (fn_encA ..) fun hfn => roundTrip_system hw (hasSlot_encA rfl rfl) (by decide) (by decide) fun hop => ?_
    rw [decodeSystem, FmtA.of_op, hop, hfn]
    exact dService_exact (fun _ => rfl) (fun _ => rfl) hop hfn
  case eret f | wfi f =>
    refine roundTrip_of_fnA (fn_encA ..) fun hfn => roundTrip_system hw (hasSlot_encA rfl rfl) (by decide) (by decide) fun hop => ?_
    rw [decodeSystem, FmtA.of_op, hop, hfn]
    exact dPlain_exact (fun _ => rfl) (fun _ => rfl) hop rfl hfn
  case ipi f | ctxsave f | ctxload f | preemptHalt f =>
    refine roundTrip_system hw (hasSlot_encA rfl rfl) (by decide) (by decide) fun hop => ?_
    rw [decodeSystem, FmtA.of_op, hop]
    exact dBin_exact (fun _ => rfl) (fun _ => rfl) hop rfl
  case fenceI f | retire f | yield f =>
    refine roundTrip_system hw (hasSlot_encA rfl rfl) (by decide) (by decide) fun hop => ?_
    rw [decodeSystem, FmtA.of_op, hop]
    exact dPlain0_exact (fun _ => rfl) (fun _ => rfl) hop rfl
  case tlbinv f =>
    refine roundTrip_system hw (hasSlot_encA rfl rfl) (by decide) (by decide) fun hop => ?_
    rw [decodeSystem, FmtA.of_op, hop]
    exact dSrc2_exact (fun _ => rfl) (fun _ => rfl) hop rfl
  case ptsync f | logreplay f | strandkill f =>
    refine roundTrip_system hw (hasSlot_encA rfl rfl) (by decide) (by decide) fun hop => ?_
    rw [decodeSystem, FmtA.of_op, hop]
    exact dUn_exact (fun _ => rfl) (fun _ => rfl) hop rfl
  case strandnew f =>
    refine roundTrip_system hw (hasSlot_encA rfl rfl) (by decide) (by decide) fun hop => ?_
    rw [decodeSystem, FmtA.of_op, hop]
    exact dTri_exact (fun _ => rfl) (fun _ => rfl) hop rfl
  case freeze f =>
    refine roundTrip_system hw (hasSlot_encB rfl rfl) (by decide) (by decide) fun hop => ?_
    rw [decodeSystem, FmtA.of_op, hop]
    exact dFreeze_exact hop
  case itemq f =>
    refine roundTrip_system hw (hasSlot_encA rfl rfl) (by decide) (by decide) fun hop => ?_
    rw [decodeSystem, FmtA.of_op, hop]
    exact dQuery_exact (by decide) (by decide) (fun _ => rfl) (fun _ => rfl) hop rfl
  case scfg f | scfgi f | ssave f | srest f | sseek f =>
    refine roundTrip_of_fnA (fn_encA ..) fun hfn => roundTrip_system hw (hasSlot_encA rfl rfl) (by decide) (by decide) fun hop => ?_
    rw [decodeSystem, FmtA.of_op, hop, hfn]
    exact dStreamReg_exact (fun _ => rfl) (fun _ => rfl) hop rfl hfn
  case sbind f =>
    refine roundTrip_system hw (hasSlot_encA rfl rfl) (by decide) (by decide) fun hop => ?_
    rw [decodeSystem, FmtA.of_op, hop]
    exact dSbind_exact hop
  case sunbind f =>
    refine roundTrip_system hw (hasSlot_encA rfl rfl) (by decide) (by decide) fun hop => ?_
    rw [decodeSystem, FmtA.of_op, hop]
    exact dSunbind_exact hop
  case sstat f =>
    refine roundTrip_of_fnA (fn_encA ..) fun hfn => roundTrip_system hw (hasSlot_encA rfl rfl) (by decide) (by decide) fun hop => ?_
    rw [decodeSystem, FmtA.of_op, hop, hfn]
    exact dSstat_exact hop hfn
  case rep f =>
    refine roundTrip_system hw (hasSlot_encA rfl rfl) (by decide) (by decide) fun hop => ?_
    rw [decodeSystem, FmtA.of_op, hop]
    exact dRep_exact hop
  case vadd f | vsub f | vmul f | vmin f | vmax f =>
    refine roundTrip_vector hw (hasSlot_eVOp rfl rfl) (by decide) (by decide) fun hop => ?_
    rw [decodeVector, FmtA.of_op, hop]
    exact dVBin_exact fmtReserved_of_fmtFI (fun _ => rfl) (fun _ => rfl) hop rfl
  case vand f | vor f | vxor f | vandn f | vshl f | vshr f | vsra f =>
    refine roundTrip_vector hw (hasSlot_eVOp rfl rfl) (by decide) (by decide) fun hop => ?_
    rw [decodeVector, FmtA.of_op, hop]
    exact dVBin_exact fmtReserved_of_fmtI (fun _ => rfl) (fun _ => rfl) hop rfl
  case vfma f | vfms f =>
    refine roundTrip_vector hw (hasSlot_eVOp rfl rfl) (by decide) (by decide) fun hop => ?_
    rw [decodeVector, FmtA.of_op, hop]
    exact dVTri_exact (fun _ => Bool.and_true _) (fun _ => rfl) hop rfl
  case vneg f | vabs f =>
    refine roundTrip_vector hw (hasSlot_encA rfl rfl) (by decide) (by decide) fun hop => ?_
    rw [decodeVector, FmtA.of_op, hop]
    exact dVUn_exact fmtReserved_of_fmtFS (fun _ => rfl) (fun _ => rfl) hop rfl
  case vrcpe f | vrsqe f =>
    refine roundTrip_vector hw (hasSlot_encA rfl rfl) (by decide) (by decide) fun hop => ?_
    rw [decodeVector, FmtA.of_op, hop]
    exact dVUn_exact fmtReserved_of_fmtF (fun _ => rfl) (fun _ => rfl) hop rfl
  case vcompress f | vexpand f | vmov f =>
    refine roundTrip_vector hw (hasSlot_encA rfl rfl) (by decide) (by decide) fun hop => ?_
    rw [decodeVector, FmtA.of_op, hop]
    exact dVUn_exact fmtReserved_of_fmtM (fun _ => rfl) (fun _ => rfl) hop rfl
  case vti f =>
    refine roundTrip_vector hw (hasSlot_encA rfl rfl) (by decide) (by decide) fun hop => ?_
    rw [decodeVector, FmtA.of_op, hop]
    exact dVti_exact hop
  case vtload f =>
    refine roundTrip_vector hw (hasSlot_encA rfl rfl) (by decide) (by decide) fun hop => ?_
    rw [decodeVector, FmtA.of_op, hop]
    exact dVtload_exact hop
  case vcvt f =>
    refine roundTrip_vector hw (hasSlot_encA rfl rfl) (by decide) (by decide) fun hop => ?_
    rw [decodeVector, FmtA.of_op, hop]
    exact dVcvt_exact hop
  case vcmp f =>
    refine roundTrip_vector hw (hasSlot_encA rfl rfl) (by decide) (by decide) fun hop => ?_
    rw [decodeVector, FmtA.of_op, hop]
    exact dVcmp_exact hop
  case vsel f =>
    refine roundTrip_vector hw (hasSlot_encA rfl rfl) (by decide) (by decide) fun hop => ?_
    rw [decodeVector, FmtA.of_op, hop]
    exact dVsel_exact hop
  case vdot4 f =>
    refine roundTrip_vector hw (hasSlot_encA rfl rfl) (by decide) (by decide) fun hop => ?_
    rw [decodeVector, FmtA.of_op, hop]
    exact dV3_exact fmtReserved_of_fmtByte (fun _ => Bool.and_true _) (fun _ => rfl) hop rfl
  case vshuf f =>
    refine roundTrip_vector hw (hasSlot_encA rfl rfl) (by decide) (by decide) fun hop => ?_
    rw [decodeVector, FmtA.of_op, hop]
    exact dV3_exact fmtReserved_of_fmtM (fun _ => Bool.and_true _) (fun _ => rfl) hop rfl
  case vperm f =>
    refine roundTrip_vector hw (hasSlot_encA rfl rfl) (by decide) (by decide) fun hop => ?_
    rw [decodeVector, FmtA.of_op, hop]
    exact dV2_exact fmtReserved_of_fmtM (fun _ => Bool.and_true _) (fun _ => rfl) hop rfl
  case vredAdd f | vredMax f =>
    refine roundTrip_vector hw (hasSlot_encA rfl rfl) (by decide) (by decide) fun hop => ?_
    rw [decodeVector, FmtA.of_op, hop]
    exact dVRed_exact fmtReserved_of_fmtFI (fun _ => Bool.and_true _) (fun _ => rfl) hop rfl
  case vredoAdd f =>
    refine roundTrip_vector hw (hasSlot_encA rfl rfl) (by decide) (by decide) fun hop => ?_
    rw [decodeVector, FmtA.of_op, hop]
    exact dVRed_exact fmtReserved_of_fmtF (fun _ => Bool.and_true _) (fun _ => rfl) hop rfl
  case vbcast f =>
    refine roundTrip_vector hw (hasSlot_vbcast f) (by decide) (by decide) fun hop => ?_
    rw [decodeVector, FmtA.of_op, hop]
    exact dVbcast_exact hop
  case vext f =>
    refine roundTrip_vector hw (hasSlot_vext f) (by decide) (by decide) fun hop => ?_
    rw [decodeVector, FmtA.of_op, hop]
    exact dVext_exact hop
  case vins f =>
    refine roundTrip_vector hw (hasSlot_vins f) (by decide) (by decide) fun hop => ?_
    rw [decodeVector, FmtA.of_op, hop]
    exact dVins_exact hop
  case viota f | vpopc f =>
    refine roundTrip_vector hw (hasSlot_encA rfl rfl) (by decide) (by decide) fun hop => ?_
    rw [decodeVector, FmtA.of_op, hop]
    exact dVNull_exact (fun _ => rfl) (fun _ => Bool.and_true _) (fun _ => rfl) hop rfl
  case ldl f | ldc f | ldg f | ldaq f | ldlf f | ldlt f =>
    refine roundTrip_memory hw (hasSlot_encM rfl rfl) (by decide) (by decide) fun hop => ?_
    rw [decodeMemory, FmtA.of_op, hop]
    exact dLoad_exact (fun _ => Bool.and_true _) (fun _ => rfl) hop rfl
  case stl f | stc f | stg f | strl f | stlf f =>
    refine roundTrip_memory hw (hasSlot_encM rfl rfl) (by decide) (by decide) fun hop => ?_
    rw [decodeMemory, FmtA.of_op, hop]
    exact dStore_exact (fun _ => rfl) (fun _ => rfl) hop rfl
  case vldl f | vldg f =>
    refine roundTrip_memory hw (hasSlot_encM rfl rfl) (by decide) (by decide) fun hop => ?_
    rw [decodeMemory, FmtA.of_op, hop]
    exact dVLoad_exact (fun _ => Bool.and_true _) (fun _ => rfl) hop rfl
  case vgathl f =>
    refine roundTrip_memory hw (hasSlot_encM rfl rfl) (by decide) (by decide) fun hop => ?_
    rw [decodeMemory, FmtA.of_op, hop]
    exact dVLoad_exact wf_vgathl (fun _ => rfl) hop rfl
  case vstl f | vstg f =>
    refine roundTrip_memory hw (hasSlot_encM rfl rfl) (by decide) (by decide) fun hop => ?_
    rw [decodeMemory, FmtA.of_op, hop]
    exact dVStore_exact (fun _ => rfl) (fun _ => rfl) hop rfl
  case vscatl f =>
    refine roundTrip_memory hw (hasSlot_encM rfl rfl) (by decide) (by decide) fun hop => ?_
    rw [decodeMemory, FmtA.of_op, hop]
    exact dVStore_exact wf_vscatl (fun _ => rfl) hop rfl
  case empty f | bwake f =>
    refine roundTrip_memory hw (hasSlot_encA rfl rfl) (by decide) (by decide) fun hop => ?_
    rw [decodeMemory, FmtA.of_op, hop]
    exact dSrc2_exact (fun _ => rfl) (fun _ => rfl) hop rfl
  case balloc f =>
    refine roundTrip_memory hw (hasSlot_encA rfl rfl) (by decide) (by decide) fun hop => ?_
    rw [decodeMemory, FmtA.of_op, hop]
    exact dBalloc_exact hop
  case bfree f =>
    refine roundTrip_memory hw (hasSlot_encA rfl rfl) (by decide) (by decide) fun hop => ?_
    rw [decodeMemory, FmtA.of_op, hop]
    exact dBin_exact (fun _ => rfl) (fun _ => rfl) hop rfl
  case prefg f =>
    refine roundTrip_memory hw (hasSlot_encM rfl rfl) (by decide) (by decide) fun hop => ?_
    rw [decodeMemory, FmtA.of_op, hop]
    exact dPref_exact hop
  case amol f | amog f =>
    refine roundTrip_memory hw (hasSlot_encM rfl rfl) (by decide) (by decide) fun hop => ?_
    rw [decodeMemory, FmtA.of_op, hop]
    exact dAmo_exact (fun _ => Bool.and_true _) (fun _ => rfl) hop rfl
  case faddx f =>
    refine roundTrip_memory hw (hasSlot_encM rfl rfl) (by decide) (by decide) fun hop => ?_
    rw [decodeMemory, FmtA.of_op, hop]
    exact dFaddx_exact hop
  case rdx f =>
    refine roundTrip_memory hw (hasSlot_encM rfl rfl) (by decide) (by decide) fun hop => ?_
    have hfn : field (FmtM.of (slotOf (.rdx f))).fn 5 3 = 0 ∧ field (FmtM.of (slotOf (.rdx f))).fn 0 4 = 0 :=
      cellFn_parts (fn_encM ..)
    rw [decodeMemory, FmtA.of_op, hop]
    exact dCell_rdx_exact hop hfn
  case clrx f =>
    refine roundTrip_memory hw (hasSlot_encM rfl rfl) (by decide) (by decide) fun hop => ?_
    have hfn : field (FmtM.of (slotOf (.clrx f))).fn 5 3 = 0 ∧ field (FmtM.of (slotOf (.clrx f))).fn 0 4 = 1 :=
      cellFn_parts (fn_encM ..)
    rw [decodeMemory, FmtA.of_op, hop]
    exact dCell_clrx_exact hop hfn
  case fenceC f | fenceK f | fenceD f | fenceP f | fenceY f | fenceW f | sync f =>
    refine roundTrip_of_fnA (fn_encA ..) fun hfn => roundTrip_memory hw (hasSlot_encA rfl rfl) (by decide) (by decide) fun hop => ?_
    rw [decodeMemory, FmtA.of_op, hop, hfn]
    exact dPlain_exact (fun _ => rfl) (fun _ => rfl) hop rfl hfn
  case syncX f | voteAnd f | voteOr f | voteAdd f | voteMax f =>
    refine roundTrip_of_fnA (fn_encA ..) fun hfn => roundTrip_memory hw (hasSlot_encA rfl rfl) (by decide) (by decide) fun hop => ?_
    rw [decodeMemory, FmtA.of_op, hop, hfn]
    exact vote_exact (fun _ => rfl) (fun _ => rfl) hop rfl hfn
  case cpy f =>
    refine roundTrip_engine hw (hasSlot_encE rfl rfl) (by decide) fun hop => ?_
    rw [decodeEngine, FmtA.of_op, hop]
    exact dCpy_exact hop
  case cpym f =>
    refine roundTrip_engine hw (hasSlot_encE rfl rfl) (by decide) fun hop => ?_
    rw [decodeEngine, FmtA.of_op, hop]
    exact dCpym_exact hop
  case cpyc f =>
    refine roundTrip_engine hw (hasSlot_encE rfl rfl) (by decide) fun hop => ?_
    rw [decodeEngine, FmtA.of_op, hop]
    exact dCpyc_exact hop
  case cpyf f =>
    refine roundTrip_engine hw (hasSlot_encE rfl rfl) (by decide) fun hop => ?_
    rw [decodeEngine, FmtA.of_op, hop]
    exact dCpyf_exact hop
  case tslot f =>
    refine roundTrip_engine hw (hasSlot_encE rfl rfl) (by decide) fun hop => ?_
    rw [decodeEngine, FmtA.of_op, hop]
    exact dTslot_exact hop
  case tzero f =>
    refine roundTrip_engine hw (hasSlot_encE rfl rfl) (by decide) fun hop => ?_
    rw [decodeEngine, FmtA.of_op, hop]
    exact dTzero_exact hop
  case tldacc f =>
    refine roundTrip_engine hw (hasSlot_encE rfl rfl) (by decide) fun hop => ?_
    rw [decodeEngine, FmtA.of_op, hop]
    exact dTldacc_exact hop
  case fwait f | ftest f | fexp f =>
    refine roundTrip_of_fnA (fn_encA ..) fun hfn => roundTrip_engine hw (hasSlot_encA rfl rfl) (by decide) fun hop => ?_
    rw [decodeEngine, FmtA.of_op, hop, hfn]
    exact dHandleRead_exact (fun _ => rfl) (fun _ => rfl) hop rfl hfn
  case fcancel f =>
    refine roundTrip_of_fnA (fn_encA ..) fun hfn => roundTrip_engine hw (hasSlot_encA rfl rfl) (by decide) fun hop => ?_
    rw [decodeEngine, FmtA.of_op, hop, hfn]
    exact dFcancel_exact hop hfn
  case fimp f =>
    refine roundTrip_of_fnA (fn_encA ..) fun hfn => roundTrip_engine hw (hasSlot_encA rfl rfl) (by decide) fun hop => ?_
    rw [decodeEngine, FmtA.of_op, hop, hfn]
    exact dFimp_exact hop hfn
  case tmma f | tmmas f =>
    refine roundTrip_engine hw (hasSlot_encE rfl rfl) (by decide) fun hop => ?_
    rw [decodeEngine, FmtA.of_op, hop]
    exact dAccMul_exact (fun _ => rfl) (fun _ => rfl) hop rfl
  case tdrain f =>
    refine roundTrip_engine hw (hasSlot_encE rfl rfl) (by decide) fun hop => ?_
    rw [decodeEngine, FmtA.of_op, hop]
    exact dAccDrain_exact (fun _ => rfl) (fun _ => rfl) hop rfl
  case tdraint f =>
    refine roundTrip_engine hw (hasSlot_encE rfl rfl) (by decide) fun hop => ?_
    rw [decodeEngine, FmtA.of_op, hop]
    exact dAccDrain_exact wf_tdraint (fun _ => rfl) hop rfl
  case tqry f =>
    refine roundTrip_engine hw (hasSlot_encA rfl rfl) (by decide) fun hop => ?_
    rw [decodeEngine, FmtA.of_op, hop]
    exact dQuery_exact (by decide) (by decide) (fun _ => rfl) (fun _ => rfl) hop rfl
  case enq f | xinbox f | dcadd f =>
    refine roundTrip_of_fnE (fn_encE ..) fun hfn => roundTrip_engine hw (hasSlot_encE rfl rfl) (by decide) fun hop => ?_
    rw [decodeEngine, FmtA.of_op, hop, hfn]
    exact dEng2_exact (fun _ => rfl) (fun _ => rfl) hop rfl hfn
  case enqres f | dcdec f =>
    refine roundTrip_of_fnE (fn_encE ..) fun hfn => roundTrip_engine hw (hasSlot_encE rfl rfl) (by decide) fun hop => ?_
    rw [decodeEngine, FmtA.of_op, hop, hfn]
    exact dEng1_exact clean_noImm_iff (fun _ => rfl) (fun _ => rfl) hop rfl hfn
  case enqpub f =>
    refine roundTrip_of_fnE (fn_encE ..) fun hfn => roundTrip_engine hw (hasSlot_encE rfl rfl) (by decide) fun hop => ?_
    rw [decodeEngine, FmtA.of_op, hop, hfn]
    exact dEng3_exact clean_noImm_iff (fun _ => rfl) (fun _ => rfl) hop rfl hfn
  case dcnew f | gather f | scatadd f =>
    refine roundTrip_of_fnE (fn_encE ..) fun hfn => roundTrip_engine hw (hasSlot_encE rfl rfl) (by decide) fun hop => ?_
    rw [decodeEngine, FmtA.of_op, hop, hfn]
    exact dEng4_exact (fun _ => rfl) (fun _ => rfl) hop rfl hfn
  case taskdep f =>
    refine roundTrip_of_imm (imm_encE ..) fun himm => roundTrip_of_fnE (fn_encE ..) fun hfn =>
      roundTrip_engine hw (hasSlot_encE rfl rfl) (by decide) fun hop => ?_
    rw [decodeEngine, FmtA.of_op, hop, hfn]
    exact dTaskdep_dep_exact hop hfn (congrArg (field · 0 2) himm)
  case taskdepReg f =>
    refine roundTrip_of_imm (imm_encE ..) fun himm => roundTrip_of_fnE (fn_encE ..) fun hfn =>
      roundTrip_engine hw (hasSlot_encE rfl rfl) (by decide) fun hop => ?_
    rw [decodeEngine, FmtA.of_op, hop, hfn]
    exact dTaskdep_reg_exact hop hfn (congrArg (field · 0 2) himm)
  case taskdepUnreg f =>
    refine roundTrip_of_imm (imm_encE ..) fun himm => roundTrip_of_fnE (fn_encE ..) fun hfn =>
      roundTrip_engine hw (hasSlot_encE rfl rfl) (by decide) fun hop => ?_
    rw [decodeEngine, FmtA.of_op, hop, hfn]
    exact dTaskdep_unreg_exact hop hfn (congrArg (field · 0 2) himm)
  case deq f =>
    refine roundTrip_of_fnE (fn_encE ..) fun hfn => roundTrip_engine hw (hasSlot_encE rfl rfl) (by decide) fun hop => ?_
    rw [decodeEngine, FmtA.of_op, hop, hfn]
    exact dDeq_exact hop hfn
  case xsend f =>
    refine roundTrip_of_fnE (fn_encE ..) fun hfn => roundTrip_engine hw (hasSlot_encE rfl rfl) (by decide) fun hop => ?_
    rw [decodeEngine, FmtA.of_op, hop, hfn]
    exact dXsend_exact hop hfn
  case xrecv f =>
    refine roundTrip_of_fnE (fn_encE ..) fun hfn => roundTrip_engine hw (hasSlot_encE rfl rfl) (by decide) fun hop => ?_
    rw [decodeEngine, FmtA.of_op, hop, hfn]
    exact dXrecv_exact hop hfn
  case work f | done f | idemb f | ideme f =>
    refine roundTrip_of_fnA (fn_encA ..) fun hfn => roundTrip_engine hw (hasSlot_encA rfl rfl) (by decide) fun hop => ?_
    rw [decodeEngine, FmtA.of_op, hop, hfn]
    exact dBare_exact (fun _ => rfl) (fun _ => rfl) hop rfl hfn
  all_goals exact hcode.elim nofun (absurd · Bool.false_ne_true)

/-- Settles O55: each form's decoder answers exactly the well-formed instructions of the form that have the words read, and
each opcode and FN has one form. -/
theorem encodingsAndInstructionsAgree : Obligations.EncodingsAndInstructionsAgree :=
  ⟨fun _ => roundTrip_of_wf, fun _ _ _ => decode_agrees⟩

/-- Settles O54, by running the decoder on the words. -/
theorem wordsOfTheSpecDecode : Obligations.WordsOfTheSpecDecode := by
  unfold Obligations.WordsOfTheSpecDecode
  decide

end Sys2Proof

/-! ## The forms of S and M in U (R111, R150) -/

namespace Sys2Proof.Machine

section
variable {s : State}

theorem needSM_u (hu : s.me.mode = .u) (tval : Word) : needSM tval s = .error (.trap { cause := cPrivilege, tval }) := by
  simp only [needSM, M.bind_ok (getMe_run s), hu, if_true]
  rfl
/-- A form of S and M, of any operands and any effect, takes PRIVILEGE in U. -/
theorem privInstr_needSM_u (hu : s.me.mode = .u) (hw : s.me.windows = []) (sh : Shape) (body : M (Option Word))
    (hg : s.me.executes sh.h = true) : privInstr sh (needSM 0) body s = .next (takeTrap { cause := 0x06, tval := 0 } s) :=
  privInstr_refused hw hg (needSM_u hu 0)
end

/-- Settles O59: the mode is looked at before the sources, in each form. -/
theorem privilegedFormsTrapInU : Obligations.PrivilegedFormsTrapInU := by
  unfold Obligations.PrivilegedFormsTrapInU
  intro s hu hw
  have refused := privInstr_needSM_u hu hw
  refine ⟨?_, ?_, ?_, ?_, ?_, ?_, ?_, ?_, ?_, ?_⟩ <;> rintro f h ⟨⟩ hx
  · exact refused ⟨f.h, [], none⟩ _ hx
  · exact refused (binShape f) _ hx
  · exact refused ⟨f.h, [(1, .g, f.a), (2, .g, f.b)], none⟩ _ hx
  · exact refused (unShape f) _ hx
  · exact refused (unShape f) _ hx
  · exact refused (binShape f) _ hx
  · exact refused (binShape f) _ hx
  · exact refused (binShape f) _ hx
  · exact refused (triShape f) _ hx
  · exact refused (unShape f) _ hx

end Sys2Proof.Machine

/-! ## Guarded-off instructions, invalid guards and sources, lookahead windows (R103 to R109, R171) -/

namespace Sys2Proof.Machine

/-! ### Registers released -/

/-- The files hold what `r0` holds, and no valid bit has risen. -/
structure Regs.Released (r r0 : Regs) : Prop where
  g : r.g = r0.g
  v : r.v = r0.v
  p : r.p = r0.p
  gv : r.gv &&& ~~~r0.gv = 0
  vv : r.vv &&& ~~~r0.vv = 0
  pv : r.pv &&& ~~~r0.pv = 0

theorem andNot_trans {w : Nat} {a b c : BitVec w} (hab : a &&& ~~~b = 0) (hbc : b &&& ~~~c = 0) : a &&& ~~~c = 0 := by
  refine BitVec.eq_of_getLsbD_eq fun i hi => ?_
  have ha := congrArg (·.getLsbD i) hab
  have hb := congrArg (·.getLsbD i) hbc
  simp [hi] at ha hb ⊢
  tauto
theorem bitOff_andNot {w : Nat} (x : BitVec w) (n : Nat) : bitOff x n &&& ~~~x = 0 := by
  refine BitVec.eq_of_getLsbD_eq fun i hi => ?_
  simp [bitOff, hi]
  tauto

theorem Regs.Released.refl (r : Regs) : r.Released r := ⟨rfl, rfl, rfl, BitVec.and_not_self _, BitVec.and_not_self _, BitVec.and_not_self _⟩
theorem Regs.Released.trans {r s t : Regs} (h : r.Released s) (k : s.Released t) : r.Released t :=
  ⟨h.g.trans k.g, h.v.trans k.v, h.p.trans k.p, andNot_trans h.gv k.gv, andNot_trans h.vv k.vv, andNot_trans h.pv k.pv⟩
theorem Regs.released_drop (r : Regs) (c : Cls) (n : BitVec 5) : (r.drop c n).Released r := by
  cases c with
  | g => exact ⟨rfl, rfl, rfl, bitOff_andNot .., BitVec.and_not_self _, BitVec.and_not_self _⟩
  | v => exact ⟨rfl, rfl, rfl, BitVec.and_not_self _, bitOff_andNot .., BitVec.and_not_self _⟩
  | p => exact ⟨rfl, rfl, rfl, BitVec.and_not_self _, BitVec.and_not_self _, bitOff_andNot ..⟩
  | x => exact .refl r

/-- A last-read mark, with no window open, at most releases a register. -/
theorem release1_released {x : Slot} (hw : x.windows = []) (dst : Option (Cls × BitVec 5)) (c : Cls) (r : Reg) :
    ∃ regs : Regs, release1 dst x c r = { x with regs := regs } ∧ regs.Released x.regs := by
  unfold release1
  split
  · refine ⟨x.regs.drop c r.n, ?_, x.regs.released_drop c r.n⟩
    simp only [hw, List.filter_nil]
  · exact ⟨x.regs, rfl, .refl _⟩
theorem Slot.releaseMarks_released {x : Slot} (hw : x.windows = []) (sh : Shape) :
    ∃ regs : Regs, x.releaseMarks sh = { x with regs := regs } ∧ regs.Released x.regs := by
  unfold Slot.releaseMarks
  generalize sh.srcs = srcs
  induction srcs generalizing x with
  | nil => exact ⟨x.regs, rfl, .refl _⟩
  | cons m srcs ih =>
    obtain ⟨regs, heq, hrel⟩ := release1_released hw sh.dst m.2.1 m.2.2
    obtain ⟨regs', heq', hrel'⟩ := ih (x := { x with regs := regs }) hw
    refine ⟨regs', ?_, hrel'.trans hrel⟩
    rw [List.foldl_cons, heq, heq']

/-! ### Off, and with an invalid guard -/

/-- The instruction completes, and of the machine only its strand changes: its pc goes on, and valid bits fall. -/
def GoesPast (s : State) (i : Instr) : Prop :=
  ∃ x : Slot, exec i s = .next (s.setMe x) ∧ x = { s.me.goOn (nextOf s.line s.me.pc) with regs := x.regs } ∧
    x.regs.g = s.me.regs.g ∧ x.regs.v = s.me.regs.v ∧ x.regs.p = s.me.regs.p ∧
    x.regs.gv &&& ~~~s.me.regs.gv = 0 ∧ x.regs.vv &&& ~~~s.me.regs.vv = 0 ∧ x.regs.pv &&& ~~~s.me.regs.pv = 0
/-- The trap of an invalid guard: its specifier at position 7 (R108). -/
def guardTrap (h : Hdr) : Trap := { cause := 0x05, tval := BitVec.ofNat 64 ((dstOf .p (guardReg h)).toNat + 7 * 256) }

section
variable {s : State} {i : Instr}

theorem goesPast_of_release {sh : Shape} (hw : s.me.windows = [])
    (he : exec i s = .next (s.setMe ((s.me.releaseMarks sh).goOn (nextOf s.line s.me.pc)))) : GoesPast s i := by
  obtain ⟨regs, heq, hrel⟩ := Slot.releaseMarks_released hw sh
  rw [heq] at he
  exact ⟨_, he, rfl, hrel.g, hrel.v, hrel.p, hrel.gv, hrel.vv, hrel.pv⟩

theorem guardPred_invalid (hw : s.me.windows = []) {h : Hdr} (hv : s.me.regs.validP (guardReg h) = false) :
    guardPred h s = .error (.trap (guardTrap h)) := by
  have hn : guardReg h ≠ 0 := by
    intro h0
    simp [h0, Regs.validP] at hv
  unfold guardPred
  rw [show (field h.gd 0 3).setWidth 5 = guardReg h from rfl]
  simp only [hn, if_false]
  rw [M.bind_ok (peekReg_run hw .p _)]
  simp only [Regs.peek, hv]
  rfl
theorem guardOn_invalid (hw : s.me.windows = []) {h : Hdr} (hv : s.me.regs.validP (guardReg h) = false) :
    guardOn h s = .error (.trap (guardTrap h)) := M.bind_error (guardPred_invalid hw hv)
theorem laneMask_invalid (hw : s.me.windows = []) {h : Hdr} (hv : s.me.regs.validP (guardReg h) = false) :
    laneMask h s = .error (.trap (guardTrap h)) := M.bind_error (guardPred_invalid hw hv)
end

/-! ### Every instruction looks at its guard first -/

/-- What an instruction under a scalar guard does when the guard is off and when it is invalid. -/
structure ScalarGuard (i : Instr) (h : Hdr) : Prop where
  off : ∀ s : State, s.me.steady = true → s.me.guardedOff h = true → GoesPast s i
  invalid : ∀ s : State, s.me.windows = [] → s.me.regs.validP (guardReg h) = false → exec i s = .next (takeTrap (guardTrap h) s)
/-- The same under a lane mask. -/
structure LaneGuard (i : Instr) (h : Hdr) : Prop where
  off : ∀ s : State, s.me.steady = true → s.me.regs.validP (guardReg h) = true → s.me.lanes h = 0 → GoesPast s i
  invalid : ∀ s : State, s.me.windows = [] → s.me.regs.validP (guardReg h) = false → exec i s = .next (takeTrap (guardTrap h) s)

section
variable {i : Instr}

theorem scalarGuard_of_privInstr {sh : Shape} {allowed : M Unit} {body : M (Option Word)} (he : exec i = privInstr sh allowed body) :
    ScalarGuard i sh.h where
  off s hs hg := goesPast_of_release (Slot.steady_windows hs) (by rw [he, privInstr_off hs hg])
  invalid s hw hv := by
    rw [he]
    exact outcome_trap (M.bind_error (guardOn_invalid hw hv))
theorem scalarGuard_prefg (f : Pref) : ScalarGuard (.prefg f) f.h where
  off s hs hg := by
    have hw := Slot.steady_windows hs
    simp only [Slot.guardedOff, Bool.and_eq_true, beq_iff_eq] at hg
    obtain ⟨hv, hoff⟩ := hg
    refine goesPast_of_release (sh := { (⟨f.h, addrSrc f.ad, none⟩ : Shape) with h := { f.h with la := 0 } }) hw ?_
    refine outcome_ok ?_
    dsimp only
    rw [M.bind_ok (guardOn_run hw f.h hv)]
    simp only [hoff, bne_self_eq_false, Bool.false_eq_true, if_false]
    rw [retireOff, retireAt_next (State.IsAt.refl s) hs]
    rfl
  invalid s hw hv := outcome_trap (M.bind_error (guardOn_invalid hw hv))
/-- An instruction whose elements are all off. -/
theorem goesPast_of_vecInstr {s : State} {sh : Shape} {active : Word → Bool} {body : Word → M Unit} (he : exec i = vecInstr sh active body)
    (hs : s.me.steady = true) (hv : s.me.regs.validP (guardReg sh.h) = true) (hl : active (s.me.lanes sh.h) = false) : GoesPast s i :=
  goesPast_of_release (Slot.steady_windows hs) (by rw [he, vecInstr_off hs hv hl])
theorem anyActive_eq_false {w : Nat} {mask : Word} : anyActive w mask = false ↔ ∀ j, j < 64 / w → mask.getLsbD (w * j) = false := by
  simp [anyActive, lanesOf, activeAt]
theorem anyActive_zero (w : Nat) : anyActive w 0 = false := anyActive_eq_false.mpr fun _ _ => BitVec.getLsbD_zero
theorem laneGuard_of_vecInstr {sh : Shape} {active : Word → Bool} {body : Word → M Unit} (he : exec i = vecInstr sh active body)
    (hnone : active 0 = false) : LaneGuard i sh.h where
  off s hs hv hl := goesPast_of_vecInstr he hs hv (hl ▸ hnone)
  invalid s hw hv := by
    rw [he]
    exact outcome_trap (M.bind_error (laneMask_invalid hw hv))
end

/-- The opcodes of the vector group and of the vector loads and stores, whose guard is a lane mask (R171). -/
@[reducible] def ByLane (op : Nat) : Prop := (0x80 ≤ op ∧ op ≤ 0xBF) ∨ (0xC4 ≤ op ∧ op ≤ 0xC7) ∨ op = 0xD2 ∨ op = 0xD3
/-- The opcode says which guard the instruction has. -/
def GuardForm (i : Instr) (h : Hdr) : Prop :=
  ByLane (natField ((encode i).headD 0) 88 8) ∧ LaneGuard i h ∨ ¬ByLane (natField ((encode i).headD 0) 88 8) ∧ ScalarGuard i h

section
variable {i : Instr} {op : BitVec 8} {h : Hdr} {sh : Shape}

theorem opcode_of_hasSlot (hs : HasSlot i op) : natField ((encode i).headD 0) 88 8 = op.toNat :=
  (natField_eq ..).trans (congrArg BitVec.toNat hs.1)
theorem guardForm_scalar {allowed : M Unit} {body : M (Option Word)} (hs : HasSlot i op) (hop : ¬ByLane op.toNat)
    (he : exec i = privInstr sh allowed body) (hsh : sh.h = h) : GuardForm i h :=
  .inr ⟨opcode_of_hasSlot hs ▸ hop, hsh ▸ scalarGuard_of_privInstr he⟩
theorem guardForm_lane {w : Nat} {body : Word → M Unit} (hs : HasSlot i op) (hop : ByLane op.toNat)
    (he : exec i = vecInstr sh (anyActive w) body) (hsh : sh.h = h) : GuardForm i h :=
  .inl ⟨opcode_of_hasSlot hs ▸ hop, hsh ▸ laneGuard_of_vecInstr he (anyActive_zero w)⟩
theorem guardForm_prefg (f : Pref) : GuardForm (.prefg f) f.h := by
  have hop := opcode_of_hasSlot (i := .prefg f) (hasSlot_encM rfl rfl)
  exact .inr ⟨by rw [hop]; decide, scalarGuard_prefg f⟩
/-- An element of `vcvt` is one of the wider format (R182). -/
theorem guardForm_vcvt (f : VCvt) : GuardForm (.vcvt f) f.h := by
  have hop := opcode_of_hasSlot (i := .vcvt f) (hasSlot_encA rfl rfl)
  exact .inl ⟨by rw [hop]; decide, laneGuard_of_vecInstr (sh := ⟨f.h, [(1, .v, f.a)], some (.v, f.rd)⟩) rfl (by simp)⟩

/-- Every instruction but `rep` looks at its guard before all else. -/
theorem guardForm_of_hdr (hh : i.hdr? = some h) (hrep : ∀ f, i ≠ .rep f) : GuardForm i h := by
  cases i
  case rep f => exact absurd rfl (hrep f)
  case prefg f =>
    cases hh
    exact guardForm_prefg f
  case vcvt f =>
    cases hh
    exact guardForm_vcvt f
  case add f | sub f | mul f | mulh f | mulhn f | div f | divn f | rem f | remn f | and f | or f | xor f | andn f | orn f | shl f |
      shr f | sra f | rol f | ror f | bext f | min f | max f | minn f | maxn f | seq f | sne f | slt f | sltn f | sle f | slen f |
      bins f | sel f =>
    cases hh
    exact guardForm_scalar (hasSlot_encTwo rfl rfl) (by decide) rfl rfl
  case clz f | ctz f | popc f | bswap f | abs f | mov f | fadd f | fsub f | fmul f | fdiv f | fmin f | fmax f | pand f | por f | pxor f |
      ffma f | fsqrt f | frsqe f | frcpe f | fclass f | fabs f | fneg f | pnot f | pset f | pget f | fcmp f | fcvt f | callr f | jmpr f |
      ret f | mfs f | mts f | mtsb f | mtsc f | ecall f | ebreak f | eret f | wfi f | ipi f | ctxsave f | ctxload f | preemptHalt f |
      fenceI f | retire f | yield f | tlbinv f | ptsync f | logreplay f | strandkill f | strandnew f | itemq f | scfg f | scfgi f |
      ssave f | srest f | sseek f | sbind f | sunbind f | sstat f | empty f | bwake f | balloc f | bfree f | fenceC f | fenceK f |
      fenceD f | fenceP f | fenceY f | fenceW f | sync f | syncX f | voteAnd f | voteOr f | voteAdd f | voteMax f | fwait f | ftest f |
      fexp f | fcancel f | fimp f | tqry f | work f | done f | idemb f | ideme f =>
    cases hh
    exact guardForm_scalar (hasSlot_encA rfl rfl) (by decide) rfl rfl
  case li f =>
    cases hh
    exact guardForm_scalar (hasSlot_li f) (by decide) rfl rfl
  case lea f | ldl f | ldc f | ldg f | ldaq f | ldlf f | ldlt f | stl f | stc f | stg f | strl f | stlf f | amol f | amog f | faddx f |
      rdx f | clrx f =>
    cases hh
    exact guardForm_scalar (hasSlot_encM rfl rfl) (by decide) rfl rfl
  case pcmp f =>
    cases hh
    exact guardForm_scalar (hasSlot_pcmp f) (by decide) rfl rfl
  case br f | call f | brp f | brz f | brnz f | beq f | bne f | blt f | loop f | freeze f =>
    cases hh
    exact guardForm_scalar (hasSlot_encB rfl rfl) (by decide) rfl rfl
  case loopi f =>
    cases hh
    exact guardForm_scalar (hasSlot_loopi f) (by decide) rfl rfl
  case vadd f | vsub f | vmul f | vmin f | vmax f | vand f | vor f | vxor f | vandn f | vshl f | vshr f | vsra f | vfma f | vfms f =>
    cases hh
    exact guardForm_lane (hasSlot_eVOp rfl rfl) (by decide) rfl rfl
  case vneg f | vabs f | vrcpe f | vrsqe f | vcompress f | vexpand f | vmov f | vti f | vtload f | vcmp f | vsel f | vdot4 f |
      vshuf f | vperm f | vredAdd f | vredMax f | vredoAdd f | viota f | vpopc f =>
    cases hh
    exact guardForm_lane (hasSlot_encA rfl rfl) (by decide) rfl rfl
  case vbcast f =>
    cases hh
    exact guardForm_lane (hasSlot_vbcast f) (by decide) rfl rfl
  case vext f =>
    cases hh
    exact guardForm_lane (hasSlot_vext f) (by decide) rfl rfl
  case vins f =>
    cases hh
    exact guardForm_lane (hasSlot_vins f) (by decide) rfl rfl
  case vldl f | vldg f | vgathl f | vstl f | vstg f | vscatl f =>
    cases hh
    exact guardForm_lane (hasSlot_encM rfl rfl) (by decide) rfl rfl
  case cpy f | cpym f | cpyc f | cpyf f | tslot f | tzero f | tldacc f | tmma f | tmmas f | tdrain f | tdraint f | enq f | xinbox f |
      dcadd f | enqres f | dcdec f | enqpub f | dcnew f | gather f | scatadd f | taskdep f | taskdepReg f | taskdepUnreg f | deq f |
      xsend f | xrecv f =>
    cases hh
    exact guardForm_scalar (hasSlot_encE rfl rfl) (by decide) rfl rfl
  all_goals exact absurd hh nofun
end

/-! ### Elements that are off (R171, R174, R178, R179) -/

/-- The guard is valid, and no element of this width is on. -/
def IdleLanes (s : State) (h : Hdr) (w : Nat) : Prop :=
  s.me.regs.validP (guardReg h) = true ∧ ∀ j, j < 64 / w → (s.me.lanes h).getLsbD (w * j) = false

theorem goesPast_of_idle {s : State} {i : Instr} {sh : Shape} {w : Nat} {body : Word → M Unit} (hs : s.me.steady = true)
    (he : exec i = vecInstr sh (anyActive w) body) (hidle : IdleLanes s sh.h w) : GoesPast s i :=
  goesPast_of_vecInstr he hs hidle.1 (anyActive_eq_false.mpr hidle.2)

section
variable {s : State} (hs : s.me.steady = true)
include hs

theorem goesPast_binary {f : VBin} (h : IdleLanes s f.h (fmtBytes f.fmt)) :
    GoesPast s (.vadd f) ∧ GoesPast s (.vsub f) ∧ GoesPast s (.vmul f) ∧ GoesPast s (.vmin f) ∧ GoesPast s (.vmax f) ∧
      GoesPast s (.vand f) ∧ GoesPast s (.vor f) ∧ GoesPast s (.vxor f) ∧ GoesPast s (.vandn f) ∧ GoesPast s (.vshl f) ∧
      GoesPast s (.vshr f) ∧ GoesPast s (.vsra f) := by
  refine ⟨?_, ?_, ?_, ?_, ?_, ?_, ?_, ?_, ?_, ?_, ?_, ?_⟩ <;> exact goesPast_of_idle hs rfl h
theorem goesPast_unary {f : VUn} (h : IdleLanes s f.h (fmtBytes f.fmt)) :
    GoesPast s (.vneg f) ∧ GoesPast s (.vabs f) ∧ GoesPast s (.vrcpe f) ∧ GoesPast s (.vrsqe f) ∧ GoesPast s (.vmov f) := by
  refine ⟨?_, ?_, ?_, ?_, ?_⟩ <;> exact goesPast_of_idle hs rfl h
theorem goesPast_fused {f : VTri} (h : IdleLanes s f.h (fmtBytes f.fmt)) : GoesPast s (.vfma f) ∧ GoesPast s (.vfms f) :=
  ⟨goesPast_of_idle hs rfl h, goesPast_of_idle hs rfl h⟩
end

/-! ### An invalid guard of `rep`, whose body is fetched before (R205) -/

theorem fetchBody_run {s s1 : State} {n : Nat} {b : List BodySlot} (hrep : s.me.rep.mode ≠ .running) (hnext : nextOf s.line s.me.pc ≠ 0)
    (hb : collectBody 40 n (nextOf s.line s.me.pc) s = .ok (b, s1)) : fetchBody n s = .ok (.ok b, s1) := by
  have hpc : nextPc s = .ok (nextOf s.line s.me.pc, s) := by
    unfold nextPc
    rw [M.bind_ok (M.get_run s)]
    revert hrep
    cases s.me.rep.mode with
    | running => exact absurd rfl
    | off => exact fun _ => rfl
    | reload => exact fun _ => rfl
  have hon : onward (nextOf s.line s.me.pc) s = .ok (nextOf s.line s.me.pc, s) := by
    rw [onward, if_neg hnext]
    rfl
  have hrun : (do collectBody 40 n (← onward (← nextPc)) : M (List BodySlot)) s = .ok (b, s1) := by
    rw [M.bind_ok hpc, M.bind_ok hon, hb]
  unfold fetchBody
  rw [hrun]
theorem rep_invalid_guard {s s1 : State} {f : RepOp} {b : List BodySlot} (hrep : s.me.rep.mode ≠ .running)
    (hnext : nextOf s.line s.me.pc ≠ 0) (hb : collectBody 40 f.len.toNat (nextOf s.line s.me.pc) s = .ok (b, s1))
    (hw : s1.me.windows = []) (hv : s1.me.regs.validP (guardReg f.h) = false) :
    exec (.rep f) s = .next (takeTrap (guardTrap f.h) s) :=
  outcome_trap (by rw [M.bind_ok (fetchBody_run hrep hnext hb), M.bind_error (guardOn_invalid hw hv)])

/-! ### An invalid source (R108, R111) -/

/-- The trap of an invalid source: its specifier at its position (R108). -/
def sourceTrap (pos : Nat) (c : Cls) (r : Reg) : Trap := { cause := 0x05, tval := BitVec.ofNat 64 (specWord c r + pos * 256) }

theorem checkSources_invalid {s : State} (hw : s.me.windows = []) {pre post : List Src} {pos : Nat} {c : Cls} {r : Reg}
    (hpre : (pre.all fun m => s.me.readable m.2.1 m.2.2.n) = true) (h0 : ¬(c ≠ .v ∧ r.n = 0)) (hb : s.me.boundTo c r.n = none)
    (hv : (s.me.regs.peek c r.n).2 = false) : checkSources (pre ++ (pos, c, r) :: post) s = .error (.trap (sourceTrap pos c r)) := by
  induction pre with
  | nil =>
    have htrap := checkSource_invalid hw pos c r h0 hb hv
    rw [Nat.mul_comm] at htrap
    exact M.bind_error htrap
  | cons m pre ih =>
    simp only [List.all_cons, Bool.and_eq_true] at hpre
    obtain ⟨hm, hpre⟩ := hpre
    rw [List.cons_append, checkSources, M.bind_ok (checkSource_run hw m hm)]
    exact ih hpre
theorem plainInstr_invalid {s : State} {sh : Shape} {body : M Unit} (hw : s.me.windows = []) (hg : s.me.executes sh.h = true)
    {pre post : List Src} {pos : Nat} {c : Cls} {r : Reg} (hsrcs : sh.srcs = pre ++ (pos, c, r) :: post)
    (hpre : (pre.all fun m => s.me.readable m.2.1 m.2.2.n) = true) (h0 : ¬(c ≠ .v ∧ r.n = 0)) (hb : s.me.boundTo c r.n = none)
    (hv : (s.me.regs.peek c r.n).2 = false) : plainInstr sh body s = .next (takeTrap (sourceTrap pos c r) s) := by
  simp only [Slot.executes, Bool.and_eq_true] at hg
  obtain ⟨hvalid, hon⟩ := hg
  refine outcome_trap ?_
  rw [M.bind_ok (guardOn_run hw sh.h hvalid)]
  simp only [hon, if_true]
  rw [M.bind_ok (M.pure_run () s), hsrcs, M.bind_error (checkSources_invalid hw hpre h0 hb hv)]

section
variable {s : State} {i : Instr} {pos : Nat} {c : Cls} {r : Reg}

theorem intBinary_invalid {fn : Word → Word → Word} {f : IntBin} (he : exec i = intBinary fn f) (hw : s.me.windows = [])
    (h0 : c = .v ∨ r.n ≠ 0) (hb : s.me.boundTo c r.n = none) (hv : (s.me.regs.peek c r.n).2 = false) (hg : s.me.executes f.h = true)
    (hpos : pos = 1 ∧ c = .g ∧ r = f.a ∨ pos = 2 ∧ c = .g ∧ f.b = .reg r ∧ s.me.readable .g f.a.n = true) :
    exec i s = .next (takeTrap (sourceTrap pos c r) s) := by
  have hn : ¬(c ≠ .v ∧ r.n = 0) := fun ⟨hc, hz⟩ => h0.elim hc (· hz)
  rw [he]
  obtain ⟨rfl, rfl, rfl⟩ | ⟨rfl, rfl, hreg, ha⟩ := hpos
  · exact plainInstr_invalid (sh := intBinShape f) (pre := []) hw hg rfl rfl hn hb hv
  · exact plainInstr_invalid (sh := intBinShape f) (pre := [(1, .g, f.a)]) (post := []) hw hg (by simp [intBinShape, hreg, opndSrc])
      (by simp [ha]) hn hb hv
theorem scalarLoad_invalid {get : Int → Nat → M (List Byte)} {f : Load} (he : exec i = scalarLoad get f) (hw : s.me.windows = [])
    (h0 : c = .v ∨ r.n ≠ 0) (hb : s.me.boundTo c r.n = none) (hv : (s.me.regs.peek c r.n).2 = false) (hg : s.me.executes f.h = true)
    (hpos : pos = 1 ∧ c = .g ∧ r = f.ad.base ∨ pos = 2 ∧ c = .g ∧ r = f.ad.index ∧ s.me.readable .g f.ad.base.n = true) :
    exec i s = .next (takeTrap (sourceTrap pos c r) s) := by
  have hn : ¬(c ≠ .v ∧ r.n = 0) := fun ⟨hc, hz⟩ => h0.elim hc (· hz)
  rw [he]
  obtain ⟨rfl, rfl, rfl⟩ | ⟨rfl, rfl, rfl, hbase⟩ := hpos
  · exact plainInstr_invalid (sh := loadShape f) (pre := []) hw hg rfl rfl hn hb hv
  · exact plainInstr_invalid (sh := loadShape f) (pre := [(1, .g, f.ad.base)]) hw hg rfl (by simp [hbase]) hn hb hv
theorem scalarStore_invalid {put : Int → List Byte → M Unit} {f : Store} (he : exec i = scalarStore put f) (hw : s.me.windows = [])
    (h0 : c = .v ∨ r.n ≠ 0) (hb : s.me.boundTo c r.n = none) (hv : (s.me.regs.peek c r.n).2 = false) (hg : s.me.executes f.h = true)
    (hpos : pos = 0) (hc : c = .g) (hr : r = f.src) (hbase : s.me.readable .g f.ad.base.n = true)
    (hindex : s.me.readable .g f.ad.index.n = true) : exec i s = .next (takeTrap (sourceTrap pos c r) s) := by
  have hn : ¬(c ≠ .v ∧ r.n = 0) := fun ⟨hc, hz⟩ => h0.elim hc (· hz)
  subst hpos hc hr
  rw [he]
  exact plainInstr_invalid (sh := storeShape f) (pre := addrSrc f.ad) hw hg rfl (by simp [addrSrc, hbase, hindex]) hn hb hv
end

/-! ### With one lookahead window open (R105, R106) -/

/-- `t` is `s` but for the slot of its strand, which is `y`, and the choices taken. -/
structure State.OnlyMe (t s : State) (y : Slot) : Prop where
  me : t.me = y
  rest : t = { s with slots := t.slots, tick := t.tick }

theorem State.OnlyMe.refl (s : State) : s.OnlyMe s s.me := ⟨rfl, rfl⟩
theorem State.OnlyMe.setMe {t s : State} {y : Slot} (h : t.OnlyMe s y) (x : Slot) : (t.setMe x).OnlyMe s x :=
  ⟨t.me_setMe x, by
    obtain ⟨-, hrest⟩ := h
    generalize t.slots = slots, t.tick = tick at hrest
    subst hrest
    rfl⟩
theorem State.OnlyMe.line {t s : State} {y : Slot} (h : t.OnlyMe s y) : t.line = s.line := by rw [h.rest]
theorem State.onlyMe_tick (s : State) (k : Nat) : ({ s with tick := k } : State).OnlyMe s s.me := ⟨rfl, rfl⟩

section
variable {s : State} {w : Window} {n : BitVec 5}

/-- A register that the window does not name reads as its content. -/
theorem peekReg_other {c : Cls} (h : s.me.windows.find? (fun v => v.cls == c && v.num == n.toNat) = none) :
    peekReg c n s = .ok (s.me.regs.peek c n, s) := by
  unfold peekReg
  rw [M.bind_ok (getMe_run s)]
  simp only [h]
  rfl
theorem guardOn_window (hwin : s.me.windows = [w]) (hcls : w.cls = .g) {h : Hdr} (hg : s.me.executes h = true) :
    guardOn h s = .ok (true, s) := by
  simp only [Slot.executes, Bool.and_eq_true] at hg
  obtain ⟨hv, hon⟩ := hg
  have hpred : guardPred h s = .ok (s.me.regs.getP (guardReg h), s) := by
    unfold guardPred
    rw [show (field h.gd 0 3).setWidth 5 = guardReg h from rfl]
    by_cases h0 : guardReg h = 0
    · simp only [h0, if_true]
      rfl
    · simp only [h0, if_false]
      rw [M.bind_ok (peekReg_other (by simp [hwin, hcls]))]
      simp [Regs.peek, hv, word]
  rw [guardOn, M.bind_ok hpred, hon]
  rfl

/-- A read of the window's destination obtains the new or the prior value, and from then on the new one if it did so. -/
theorem peekReg_window (hwin : s.me.windows = [w]) (hcls : w.cls = .g) (hnum : w.num = n.toNat) :
    ∃ (new : Bool) (t : State), peekReg .g n s = .ok (if new then s.me.regs.peek .g n else (w.prior, w.priorValid), t) ∧
      t.OnlyMe s { s.me with windows := [{ w with seen := new }] } ∧ (w.seen = true → new = true) := by
  have hfind : s.me.windows.find? (fun v => v.cls == .g && v.num == n.toNat) = some w := by simp [hwin, hcls, hnum]
  have hsame : ∀ b, w.seen = b → s.me = { s.me with windows := [{ w with seen := b }] } := by
    rintro _ rfl
    rw [← hwin]
  have hpeek : peekReg .g n s = (if w.seen then return s.me.regs.peek .g n
      else do
        if ← freshBit then
          modMe fun y => { y with windows := y.windows.map fun v => if v.cls == .g && v.num == n.toNat then { v with seen := true } else v }
          return s.me.regs.peek .g n
        else return (w.prior, w.priorValid) : M (Nat × Bool)) s := by
    unfold peekReg
    rw [M.bind_ok (getMe_run s)]
    simp only [hfind]
  rw [hpeek]
  cases hseen : w.seen with
  | true => exact ⟨true, s, rfl, ⟨hsame true hseen, rfl⟩, fun _ => rfl⟩
  | false =>
    have hbit : freshBit s = .ok (Config.freeBit s.tick, { s with tick := s.tick + 1 }) := rfl
    simp only [Bool.false_eq_true, if_false]
    rw [M.bind_ok hbit]
    cases Config.freeBit s.tick with
    | true =>
      refine ⟨true, _, rfl, ?_, nofun⟩
      have hmap : (s.me.windows.map fun v => if v.cls == .g && v.num == n.toNat then { v with seen := true } else v) =
          [{ w with seen := true }] := by simp [hwin, hcls, hnum]
      rw [← hmap]
      exact (s.onlyMe_tick _).setMe _
    | false => exact ⟨false, _, rfl, ⟨hsame false hseen, rfl⟩, nofun⟩
end

/-- What retires without marks, loops, a repetition and a window of its own goes on at the next instruction, and the windows count down. -/
theorem retireAt_plain {s : State} {sh : Shape} {prior : Nat × Bool} (hmarks : (sh.srcs.all fun m => !m.2.2.mark) = true) (hla : sh.h.la = 0)
    (hrep : s.me.rep.mode = .off) (hdepth : s.me.loops.depth = 0) :
    retireAt sh prior none s = .ok ((), s.setMe (s.me.goOn (nextOf s.line s.me.pc)).tickWindows) := by
  have hpc : nextPc (s.setMe s.me) = .ok (nextOf s.line s.me.pc, s.setMe s.me) := by
    unfold nextPc
    rw [M.bind_ok (M.get_run _)]
    simp only [State.me_setMe, hrep]
    rfl
  have hback : backEdge s.me.pc (s.setMe s.me) = .ok (none, s.setMe s.me) := by
    unfold backEdge
    rw [M.bind_ok (getMe_run _)]
    simp only [State.me_setMe, hdepth, if_true]
    rfl
  unfold retireAt
  rw [M.bind_ok (modMe_run _ s), s.me.releaseMarks_none sh hmarks, M.bind_ok (getMe_run _)]
  simp only [State.me_setMe, hrep]
  rw [M.bind_ok hpc, M.bind_ok hback]
  simp only [Slot.openWindow_zero _ _ _ hla]
  rw [M.bind_ok (modMe_run _ _), modMe_run]
  simp

theorem plainInstr_plain {s t : State} {y : Slot} {sh : Shape} {body : M Unit} (hg : guardOn sh.h s = .ok (true, s))
    (hsrc : checkSources sh.srcs s = .ok ((), s)) (hb : body s = .ok ((), t)) (hmarks : (sh.srcs.all fun m => !m.2.2.mark) = true)
    (hla : sh.h.la = 0) (ht : t.OnlyMe s y) (hrep : y.rep.mode = .off) (hdepth : y.loops.depth = 0) :
    ∃ u, plainInstr sh body s = .next u ∧ u.OnlyMe s (y.goOn (nextOf s.line y.pc)).tickWindows := by
  refine ⟨_, ?_, ht.setMe _⟩
  refine outcome_ok ?_
  rw [M.bind_ok hg]
  simp only [if_true]
  have hbody : (do body; return none : M (Option Word)) s = .ok (none, t) := by
    rw [M.bind_ok hb]
    rfl
  rw [M.bind_ok (M.pure_run () s), M.bind_ok hsrc, M.bind_ok (priorOf_run sh s), M.bind_ok hbody,
    retireAt_plain hmarks hla (ht.me ▸ hrep) (ht.me ▸ hdepth), ht.me, ht.line]

section
variable {s : State} {w : Window} {n : BitVec 5}

theorem readG_window (hwin : s.me.windows = [w]) (hcls : w.cls = .g) (hnum : w.num = n.toNat) (hn : n ≠ 0) (hb : s.me.boundTo .g n = none)
    (hv : s.me.regs.validG n = true) (hprior : w.priorValid = true) (pos : Nat) :
    ∃ (new : Bool) (t : State), readG pos ⟨n, false⟩ s = .ok (if new then s.me.regs.getG n else BitVec.ofNat 64 w.prior, t) ∧
      t.OnlyMe s { s.me with windows := [{ w with seen := new }] } ∧ (w.seen = true → new = true) := by
  obtain ⟨new, t, hpeek, ht, hseen⟩ := peekReg_window hwin hcls hnum
  refine ⟨new, t, ?_, ht, hseen⟩
  unfold readG
  rw [M.bind_ok (getMe_run s)]
  simp only [hn, if_false, hb]
  rw [M.bind_ok hpeek]
  cases new with
  | true => simp [Regs.peek, hv, word]
  | false => simp [hprior, word]
/-- The check of the sources finds both values of the window's destination valid. -/
theorem checkSource_window (hwin : s.me.windows = [w]) (hcls : w.cls = .g) (hnum : w.num = n.toNat) (hb : s.me.boundTo .g n = none)
    (hv : s.me.regs.validG n = true) (hprior : w.priorValid = true) (pos : Nat) : checkSource (pos, .g, ⟨n, false⟩) s = .ok ((), s) := by
  unfold checkSource
  dsimp only
  rw [M.bind_ok (getMe_run s)]
  simp [hb, hwin, hcls, hnum, Regs.peek, hv, hprior]

/-- A write of a register that the strand owns takes place unless the broken promise says otherwise. -/
theorem writeG_of_breach {t : State} {b : Bool} (hn : n ≠ 0) (hb : s.me.boundTo .g n = none) (hown : s.me.regs.own .g n = true)
    (hbreach : breach .g n s = .ok (b, t)) (v : Word) :
    writeG n v s = .ok ((), if b then t.setMe { t.me with regs := t.me.regs.putG n v } else t) := by
  unfold writeG
  simp only [hn, if_false]
  rw [M.bind_ok (getMe_run s)]
  simp only [hb]
  rw [M.bind_ok (needPhysical_run .g n (s.me.regs.gv.getLsbD n.toNat && !s.me.regs.gs.getLsbD n.toNat) (Bool.or_eq_true_iff.mpr (.inl hown))),
    M.bind_ok hbreach]
  cases b <;> rfl

/-- A write of the window's destination ends the window, and leaves either value. -/
theorem breach_destination (hwin : s.me.windows = [w]) (hcls : w.cls = .g) (hnum : w.num = n.toNat) :
    ∃ (b : Bool) (t : State), breach .g n s = .ok (b, t) ∧ t.OnlyMe s { s.me with windows := [] } := by
  refine ⟨Config.freeBit s.tick, { s.setMe { s.me with windows := [] } with tick := s.tick + 1 }, ?_, ⟨s.me_setMe _, rfl⟩⟩
  unfold breach
  rw [M.bind_ok (getMe_run s)]
  simp only [hwin, hcls, hnum, List.any_cons, beq_self_eq_true, Bool.and_self, Bool.true_or, Bool.not_true, Bool.and_false,
    Bool.false_eq_true, if_false, if_true]
  rw [M.bind_ok (modMe_run _ s)]
  simp only [hwin, hcls, hnum, beq_self_eq_true, Bool.and_self, Bool.not_true, Bool.false_eq_true, not_false_eq_true, List.filter_cons_of_neg,
    List.filter_nil, List.map_nil]
  rfl
/-- A write of another register breaks the promise of the sources that it is. -/
theorem breach_source (hwin : s.me.windows = [w]) (hnum : w.num ≠ n.toNat) :
    ∃ t : State, breach .g n s = .ok (true, t) ∧ t.OnlyMe s { s.me with
      windows := [{ w with srcs := w.srcs.map fun r => if r.names .g n then { r with hit := true } else r }] } := by
  unfold breach
  rw [M.bind_ok (getMe_run s)]
  have hdst : (s.me.windows.any fun v => v.cls == .g && v.num == n.toNat) = false := by simp [hwin, hnum]
  cases hsrc : s.me.windows.any fun v => v.srcs.any fun r => r.names .g n with
  | true =>
    refine ⟨_, ?_, (State.OnlyMe.refl s).setMe _⟩
    simp only [hdst, Bool.not_true, Bool.false_and, Bool.false_eq_true, if_false]
    rw [M.bind_ok (modMe_run _ s)]
    simp [hwin, hnum]
  | false =>
    refine ⟨s, ?_, ?_, rfl⟩
    · simp [hdst]
    · have hid : (w.srcs.map fun r => if r.names .g n then { r with hit := true } else r) = w.srcs := by
        simp only [hwin, List.any_cons, List.any_nil, Bool.or_false, List.any_eq_false] at hsrc
        exact (List.map_congr_left fun r hr => if_neg (hsrc r hr)).trans (List.map_id _)
      rw [hid, ← hwin]
end

/-- The window after one more instruction. -/
theorem tickWindows_one {x : Slot} {w : Window} (h : x.windows = [w]) :
    x.tickWindows.windows = if w.left ≤ 1 then [] else [{ w with left := w.left - 1 }] := by
  by_cases hl : w.left ≤ 1
  · simp [Slot.tickWindows, h, hl, Nat.not_lt.mpr hl]
  · simp [Slot.tickWindows, h, hl, Nat.not_le.mp hl]

section
variable {s : State} {w : Window} {n : BitVec 5} (hwin : s.me.windows = [w]) (hcls : w.cls = .g) (hdepth : s.me.loops.depth = 0)
  (hrep : s.me.rep.mode = .off)
include hwin hcls hdepth hrep

/-- `li` to the window's destination leaves either value, and the window is over (log 53). -/
theorem li_destination (hnum : w.num = n.toNat) (hn : n ≠ 0) (hb : s.me.boundTo .g n = none) (hown : s.me.regs.own .g n = true)
    {f : LoadImm} (hla : f.h.la = 0) (hg : s.me.executes f.h = true) (hrd : f.rd = n) :
    ∃ (kept : Bool) (t : State), exec (.li f) s = .next t ∧ t = { s with slots := t.slots, tick := t.tick } ∧
      t.me.regs.getG n = (if kept then s.me.regs.getG n else f.imm) ∧ t.me.pc = nextOf s.line s.me.pc ∧ t.me.windows = [] := by
  subst hrd
  obtain ⟨b, t, hbreach, ht⟩ := breach_destination hwin hcls hnum
  have hwrite := writeG_of_breach hn hb hown hbreach f.imm
  cases b with
  | true =>
    obtain ⟨u, hu, hat⟩ := plainInstr_plain (sh := ⟨f.h, [], some (.g, f.rd)⟩) (guardOn_window hwin hcls hg) rfl hwrite rfl hla
      (ht.setMe _) (by rw [ht.me]; exact hrep) (by rw [ht.me]; exact hdepth)
    refine ⟨false, u, hu, hat.rest, ?_, ?_, ?_⟩
    · rw [hat.me, ht.me]
      exact Regs.getG_putG_self _ _ hn
    · rw [hat.me, ht.me]
      rfl
    · rw [hat.me, ht.me]
      rfl
  | false =>
    obtain ⟨u, hu, hat⟩ := plainInstr_plain (sh := ⟨f.h, [], some (.g, f.rd)⟩) (guardOn_window hwin hcls hg) rfl hwrite rfl hla ht hrep hdepth
    refine ⟨true, u, hu, hat.rest, ?_, ?_, ?_⟩ <;> rw [hat.me] <;> rfl
/-- `li` to another register breaks the promise of the sources that it is. -/
theorem li_source (hnum : w.num ≠ n.toNat) (hn : n ≠ 0) (hb : s.me.boundTo .g n = none) (hown : s.me.regs.own .g n = true)
    {f : LoadImm} (hla : f.h.la = 0) (hg : s.me.executes f.h = true) (hrd : f.rd = n) :
    ∃ t : State, exec (.li f) s = .next t ∧ t.me.regs.getG n = f.imm ∧ t.me.windows = if w.left ≤ 1 then [] else [{ w with
      left := w.left - 1
      srcs := w.srcs.map fun x => if x.names .g n then { x with hit := true } else x }] := by
  subst hrd
  obtain ⟨t, hbreach, ht⟩ := breach_source hwin hnum
  have hwrite := writeG_of_breach hn hb hown hbreach f.imm
  obtain ⟨u, hu, hat⟩ := plainInstr_plain (sh := ⟨f.h, [], some (.g, f.rd)⟩) (guardOn_window hwin hcls hg) rfl hwrite rfl hla
    (ht.setMe _) (by rw [ht.me]; exact hrep) (by rw [ht.me]; exact hdepth)
  refine ⟨u, hu, ?_, ?_⟩
  · rw [hat.me, ht.me]
    exact Regs.getG_putG_self _ _ hn
  · rw [hat.me, ht.me]
    exact tickWindows_one (w := { w with srcs := w.srcs.map fun r => if r.names .g f.rd then { r with hit := true } else r }) rfl
/-- `add` of the window's destination computes with the new or the prior value. -/
theorem add_window (hnum : w.num = n.toNat) (hn : n ≠ 0) (hb : s.me.boundTo .g n = none) (hown : s.me.regs.own .g n = true)
    (hprior : w.priorValid = true) {f : IntBin} {k : Word} (ha : f.a = ⟨n, false⟩) (hk : f.b = .lit k) (hla : f.h.la = 0) (hrd : f.rd ≠ 0)
    (hne : f.rd ≠ n) (hbd : s.me.boundTo .g f.rd = none) (hownd : s.me.regs.own .g f.rd = true)
    (hsrcs : ∀ x ∈ w.srcs, x.names .g f.rd = false) (hg : s.me.executes f.h = true) :
    ∃ (new : Bool) (t : State), exec (.add f) s = .next t ∧ t = { s with slots := t.slots, tick := t.tick } ∧
      t.me.regs.getG f.rd = (if new then s.me.regs.getG n else BitVec.ofNat 64 w.prior) + k ∧ t.me.pc = nextOf s.line s.me.pc ∧
      (w.seen = true → new = true) ∧
      t.me.windows = if w.left ≤ 1 then [] else [{ w with left := w.left - 1, seen := new }] := by
  have hv : s.me.regs.validG n = true := by
    simp only [Regs.own, Bool.and_eq_true] at hown
    rw [Regs.validG, hown.1, Bool.or_true]
  obtain ⟨new, t, hread, ht, hseen⟩ := readG_window hwin hcls hnum hn hb hv hprior 1
  have hbreach : breach .g f.rd t = .ok (true, t) := by
    have hnum' : w.num ≠ f.rd.toNat := fun h => hne (BitVec.eq_of_toNat_eq (h.symm.trans hnum))
    unfold breach
    rw [M.bind_ok (getMe_run t)]
    simp only [ht.me, List.any_cons, List.any_nil, hcls, beq_self_eq_true, Bool.true_and, beq_false_of_ne hnum', Bool.or_false,
      List.any_eq_false.mpr fun x hx => Bool.not_eq_true _ |>.mpr (hsrcs x hx)]
    rfl
  have hwrite := writeG_of_breach hrd (by rw [ht.me]; exact hbd) (by rw [ht.me]; exact hownd) hbreach
    ((if new then s.me.regs.getG n else BitVec.ofNat 64 w.prior) + k)
  have hbody : (do writeG f.rd ((← readG 1 f.a) + (← readOpnd 2 f.b)) : M Unit) s =
      .ok ((), t.setMe { t.me with regs := t.me.regs.putG f.rd ((if new then s.me.regs.getG n else BitVec.ofNat 64 w.prior) + k) }) := by
    rw [ha, hk, M.bind_ok hread]
    exact hwrite
  have hcheck : checkSources (intBinShape f).srcs s = .ok ((), s) := by
    simp only [intBinShape, ha, hk, opndSrc, checkSources]
    rw [M.bind_ok (checkSource_window hwin hcls hnum hb hv hprior 1)]
    rfl
  obtain ⟨u, hu, hat⟩ := plainInstr_plain (sh := intBinShape f) (guardOn_window hwin hcls hg) hcheck hbody
    (by simp [intBinShape, ha, hk, opndSrc]) hla (ht.setMe _) (by rw [ht.me]; exact hrep) (by rw [ht.me]; exact hdepth)
  refine ⟨new, u, hu, hat.rest, ?_, ?_, hseen, ?_⟩
  · rw [hat.me, ht.me]
    exact Regs.getG_putG_self _ _ hrd
  · rw [hat.me, ht.me]
    rfl
  · rw [hat.me, ht.me]
    exact tickWindows_one (w := { w with seen := new }) rfl
end

/-! ### Broken promises made good (R106) -/

/-- The registers that the window's instruction writes; a p register number counts modulo 8. -/
def Window.Covers (w : Window) (c : Cls) (n : BitVec 5) : Prop := w.cls = c ∧ (BitVec.ofNat 5 w.num = n ∨ c = .p ∧ w.num % 8 = n.toNat % 8)

theorem getLsbD_bitOn_ne {k : Nat} (x : BitVec k) {a b : Nat} (h : a ≠ b) : (bitOn x a).getLsbD b = x.getLsbD b := by
  simp [bitOn, BitVec.getLsbD_twoPow, h]

theorem Regs.peek_putG_ne (r : Regs) {n m : BitVec 5} (v : Word) (h : n ≠ m) : (r.putG n v).peek .g m = r.peek .g m := by
  have hval : (r.putG n v).validG m = r.validG m := by
    unfold Regs.putG Regs.validG
    split
    · rfl
    · simp only [getLsbD_bitOn_ne r.gv (fun he => h (BitVec.eq_of_toNat_eq he))]
  simp only [Regs.peek, Regs.getG_putG_ne r v (Ne.symm h), hval]
theorem Regs.peek_putV_ne (r : Regs) {n m : BitVec 5} (v : Vec) (h : n ≠ m) : (r.putV n v).peek .v m = r.peek .v m := by
  have hne : n.toNat ≠ m.toNat := fun he => h (BitVec.eq_of_toNat_eq he)
  simp only [Regs.peek, Regs.getV, Regs.validV, Regs.putV, getLsbD_bitOn_ne r.vv hne, Vector.getElem_set_ne _ _ hne]
theorem Regs.peek_putP_ne (r : Regs) {n m : BitVec 5} (v : Word) (h : n.toNat % 8 ≠ m.toNat % 8) :
    (r.putP n v).peek .p m = r.peek .p m := by
  unfold Regs.putP
  split
  · rfl
  · have hne : n.toNat ≠ m.toNat := fun he => h (by rw [he])
    simp only [Regs.peek, Regs.getP, Regs.validP, getLsbD_bitOn_ne r.pv hne, Vector.getElem_set_ne _ _ h]
theorem Regs.peek_putG_cls (r : Regs) {c : Cls} (n m : BitVec 5) (v : Word) (h : c ≠ .g) : (r.putG n v).peek c m = r.peek c m := by
  unfold Regs.putG
  split
  · rfl
  · cases c with
    | g => exact absurd rfl h
    | v | p | x => rfl
theorem Regs.peek_putV_cls (r : Regs) {c : Cls} (n m : BitVec 5) (v : Vec) (h : c ≠ .v) : (r.putV n v).peek c m = r.peek c m := by
  cases c with
  | v => exact absurd rfl h
  | g | p | x => rfl
theorem Regs.peek_putP_cls (r : Regs) {c : Cls} (n m : BitVec 5) (v : Word) (h : c ≠ .p) : (r.putP n v).peek c m = r.peek c m := by
  unfold Regs.putP
  split
  · rfl
  · cases c with
    | p => exact absurd rfl h
    | g | v | x => rfl
/-- A register set by a file's value leaves the others. -/
theorem Regs.peek_copyFrom (r r' : Regs) {w : Window} {c : Cls} {n : BitVec 5} (h : ¬w.Covers c n) :
    (r.copyFrom r' w.cls w.num).peek c n = r.peek c n := by
  have hnum : w.cls = c → BitVec.ofNat 5 w.num ≠ n := fun hc hn => h ⟨hc, .inl hn⟩
  unfold Regs.copyFrom
  by_cases hc : w.cls = c
  · subst hc
    cases hcls : w.cls with
    | g => exact r.peek_putG_ne _ (hnum rfl)
    | v => exact r.peek_putV_ne _ (hnum rfl)
    | p =>
      refine r.peek_putP_ne _ fun he => h ⟨rfl, .inr ⟨hcls, ?_⟩⟩
      rw [← he, BitVec.toNat_ofNat]
      exact (Nat.mod_mod_of_dvd _ (by decide)).symm
    | x => rfl
  · cases hcls : w.cls with
    | g => exact r.peek_putG_cls _ _ _ fun hg => hc (hcls.trans hg.symm)
    | v => exact r.peek_putV_cls _ _ _ fun hv => hc (hcls.trans hv.symm)
    | p => exact r.peek_putP_cls _ _ _ fun hp => hc (hcls.trans hp.symm)
    | x => rfl

/-- `t'` is `t` but for choices taken and the registers of its strand, of which at most those that some window covers differ. -/
structure State.MadeGood (ws : List Window) (t' t : State) : Prop where
  rest : t' = { t with slots := t'.slots, tick := t'.tick }
  others : ∀ sid, sid ≠ t.cur → t'.slot sid = t.slot sid
  me : t'.me = { t.me with regs := t'.me.regs }
  peek : ∀ c n, (∀ w ∈ ws, ¬w.Covers c n) → t'.me.regs.peek c n = t.me.regs.peek c n

theorem State.MadeGood.refl (ws : List Window) (t : State) : State.MadeGood ws t t := ⟨rfl, fun _ _ => rfl, rfl, fun _ _ _ => rfl⟩
theorem State.MadeGood.cur {ws : List Window} {t' t : State} (h : State.MadeGood ws t' t) : t'.cur = t.cur := by rw [h.rest]
theorem State.MadeGood.cons {w : Window} {ws : List Window} {t'' t' t : State} (h' : State.MadeGood ws t'' t') (h : State.MadeGood [w] t' t) :
    State.MadeGood (w :: ws) t'' t where
  rest := by conv_lhs => rw [h'.rest, h.rest]
  others sid hne := (h'.others sid (h.cur ▸ hne)).trans (h.others sid hne)
  me := by conv_lhs => rw [h'.me, h.me]
  peek c n hn := (h'.peek c n fun v hv => hn v (List.mem_cons_of_mem w hv)).trans
    (h.peek c n fun v hv => hn v (List.mem_singleton.mp hv ▸ List.mem_cons_self))

theorem State.madeGood_tick (ws : List Window) (t : State) (k : Nat) : State.MadeGood ws { t with tick := k } t :=
  ⟨rfl, fun _ _ => rfl, rfl, fun _ _ _ => rfl⟩
theorem State.madeGood_copyFrom (t : State) (k : Nat) (w : Window) (r : Regs) :
    State.MadeGood [w] (({ t with tick := k } : State).setMe { t.me with regs := t.me.regs.copyFrom r w.cls w.num }) t where
  rest := rfl
  others sid hne := State.slot_setSlot_ne _ _ hne
  me := by simp
  peek c n hn := by
    rw [State.me_setMe]
    exact Regs.peek_copyFrom _ _ (hn w List.mem_cons_self)

/-- The instruction executed again changes the destination of its window alone. -/
theorem reread_madeGood (run : Instr → State → Out) (t : State) (w : Window) : State.MadeGood [w] (State.reread run t w) t := by
  unfold State.reread
  cases w.ins with
  | none => exact .refl ..
  | some i =>
    dsimp only
    split
    · split
      · split
        · exact t.madeGood_copyFrom ..
        · exact t.madeGood_tick ..
      · exact t.madeGood_tick ..
    · exact t.madeGood_tick ..
theorem foldl_reread_madeGood (run : Instr → State → Out) (ws : List Window) (t : State) :
    State.MadeGood ws (ws.foldl (State.reread run) t) t := by
  induction ws generalizing t with
  | nil => exact .refl ..
  | cons w ws ih => exact (ih _).cons (reread_madeGood run t w)

/-- A promise of some window of `x` on this register is broken. -/
def Slot.Broken (x : Slot) (c : Cls) (n : BitVec 5) : Prop :=
  ∃ w ∈ x.windows, w.cls = c ∧ (BitVec.ofNat 5 w.num = n ∨ c = .p ∧ w.num % 8 = n.toNat % 8) ∧ ∃ x ∈ w.srcs, x.hit = true
/-- A window with its instruction, which is the one that has just issued if it had none. -/
def Window.ownedBy (w : Window) (i : Instr) (s t : State) : Window :=
  if w.ins.isNone then { w with ins := some i, popped := s.popped t } else w

theorem Window.ownedBy_keeps (w : Window) (i : Instr) (s t : State) :
    (w.ownedBy i s t).cls = w.cls ∧ (w.ownedBy i s t).num = w.num ∧ (w.ownedBy i s t).srcs = w.srcs := by
  unfold Window.ownedBy
  split <;> exact ⟨rfl, rfl, rfl⟩
/-- What issues changes of its strand the account of its windows and of the words read early, and then makes good broken promises. -/
theorem issued_eq (run : Instr → State → Out) (s t : State) (i : Instr) : ∃ early t1,
    t1 = t.setMe { t.me with windows := t.me.windows.map (·.ownedBy i s t), sched := { t.me.sched with early := early } } ∧
      State.issued run i s t = (t1.me.windows.filter fun w => w.newlyHit s.me.windows).foldl (State.reread run) t1 := by
  unfold State.issued
  by_cases h : t.holding t.cur = true
  · exact ⟨t.me.sched.early, _, rfl, by rw [if_pos h]; rfl⟩
  · exact ⟨[], _, rfl, by rw [if_neg h]; rfl⟩

theorem issued_madeGood (run : Instr → State → Out) (s t : State) (i : Instr) :
    let u := State.issued run i s t
    u = { t with slots := u.slots, tick := u.tick } ∧ (∀ sid, sid ≠ t.cur → u.slot sid = t.slot sid) ∧
      (∃ ws early, u.me = { t.me with regs := u.me.regs, windows := ws, sched := { t.me.sched with early := early } }) ∧
      ∀ c n, ¬t.me.Broken c n → u.me.regs.peek c n = t.me.regs.peek c n := by
  intro u
  obtain ⟨early, t1, ht1, hu⟩ := issued_eq run s t i
  have hmade : State.MadeGood (t1.me.windows.filter fun w => w.newlyHit s.me.windows) u t1 := by
    unfold u
    rw [hu]
    exact foldl_reread_madeGood run _ _
  have hme : t1.me = { t.me with windows := t.me.windows.map (·.ownedBy i s t), sched := { t.me.sched with early := early } } := by
    rw [ht1, State.me_setMe]
  have hcur : t1.cur = t.cur := by rw [ht1]; rfl
  refine ⟨?_, fun sid hne => ?_, ⟨t.me.windows.map (·.ownedBy i s t), early, ?_⟩, fun c n hn => ?_⟩
  · conv_lhs => rw [hmade.rest, ht1]
    rfl
  · rw [hmade.others sid (hcur ▸ hne), ht1]
    exact State.slot_setSlot_ne _ _ hne
  · conv_lhs => rw [hmade.me, hme]
  · rw [hmade.peek c n fun w hw hcov => ?_, hme]
    obtain ⟨hmem, hhit⟩ := List.mem_filter.mp hw
    rw [hme] at hmem
    obtain ⟨v, hv, rfl⟩ := List.mem_map.mp hmem
    obtain ⟨hcls, hnum, hsrcs⟩ := v.ownedBy_keeps i s t
    simp only [Window.newlyHit, Bool.and_eq_true, List.any_eq_true] at hhit
    obtain ⟨⟨-, x, hx, hset⟩, -⟩ := hhit
    obtain ⟨hc, hcovers⟩ := hcov
    exact hn ⟨v, hv, hcls ▸ hc, hnum ▸ hcovers, x, hsrcs ▸ hx, hset⟩

/-! ### An `add` executed again (R106, log 12) -/

theorem Slot.openWindow_windows (x : Slot) (sh : Shape) (prior : Nat × Bool) : ∃ ws, x.openWindow sh prior = { x with windows := ws } := by
  unfold Slot.openWindow
  split
  · split
    · exact ⟨x.windows, rfl⟩
    · exact ⟨_, rfl⟩
  · exact ⟨x.windows, rfl⟩
/-- Retirement keeps what the strand is at and what its registers hold. -/
theorem Slot.pass_keeps {y : Slot} (hw : y.windows = []) (sh : Shape) (prior : Nat × Bool) (next : Word) :
    (y.pass sh prior next).phase = y.phase ∧ (y.pass sh prior next).sched.vecFetch = y.sched.vecFetch ∧
      (y.pass sh prior next).regs.g = y.regs.g := by
  obtain ⟨regs, hrel, hkeep⟩ := y.releaseMarks_released hw sh
  obtain ⟨ws, hopen⟩ := ((y.releaseMarks sh).goOn next).openWindow_windows sh prior
  rw [Slot.pass, hopen, hrel]
  exact ⟨rfl, rfl, hkeep.g⟩

/-- An unguarded `add` with a literal is ready where the strand is in order and owns its registers. -/
theorem ready_add {s : State} {f : IntBin} {k : Word} (hs : s.me.steady = true) (hgd : f.h.gd = 0) (hk : f.b = .lit k)
    (hba : s.me.boundTo .g f.a.n = none) (hbd : s.me.boundTo .g f.rd = none) (hoa : s.me.regs.own .g f.a.n = true)
    (hod : s.me.regs.own .g f.rd = true) : s.ready (intBinShape f) = true := by
  have hv : s.me.regs.validG f.a.n = true := by
    simp only [Regs.own, Bool.and_eq_true] at hoa
    rw [Regs.validG, hoa.1, Bool.or_true]
  have hg : s.me.executes f.h = true := by
    have h0 : guardReg f.h = 0 := by
      rw [guardReg, hgd]
      rfl
    simp [Slot.executes, h0, hgd, Regs.validP, Regs.getP]
  simp [State.ready, intBinShape, hs, hg, hk, opndSrc, Slot.readableAll, Slot.readable, hba, Regs.peek, hv, State.dstOk, State.writable, hbd, hod]

/-- A ready `add` leaves its sum in its destination. -/
theorem add_result {s : State} {f : IntBin} {k : Word} (hready : s.ready (intBinShape f) = true) (hk : f.b = .lit k) (hrd : f.rd ≠ 0) :
    ∃ u, exec (.add f) s = .next u ∧ u.me.phase = s.me.phase ∧ u.me.sched.vecFetch = s.me.sched.vecFetch ∧
      u.me.regs.getG f.rd = s.me.regs.getG f.a.n + k := by
  obtain ⟨hs, -, -, -⟩ := State.ready_parts hready
  refine ⟨_, intBinary_run (fun a b => a + b) f hready, ?_⟩
  rw [State.retires, State.me_setMe, hk]
  obtain ⟨hphase, hfetch, hg⟩ := Slot.pass_keeps (y := s.me.withG f.rd (s.me.regs.getG f.a.n + k)) (Slot.steady_windows hs) (intBinShape f)
    ((intBinShape f).prior s.me) (nextOf s.line s.me.pc)
  refine ⟨hphase, hfetch, ?_⟩
  have hval := Regs.getG_putG_self s.me.regs (s.me.regs.getG f.a.n + k) hrd
  simp only [Regs.getG, hrd, if_false] at hval ⊢
  exact (congrArg (fun g : Vector Word 32 => g[f.rd.toNat]) hg).trans hval

/-- The strand at the state in which the instruction of a window is executed again, every source with its new value. -/
def Slot.again (x : Slot) : Slot := { x with windows := [], rep := { x.rep with mode := .off } }

theorem reread_add_eq {t : State} {w : Window} {f : IntBin} {c : Cls} {num val : Nat} (hins : w.ins = some (.add f))
    (hsrcs : w.srcs = [⟨c, num, val, true⟩]) (hpop : w.popped = []) :
    let t1 : State := { t with tick := t.tick + 1 }
    State.reread exec t w = if Config.freeBit t.tick then
      match exec (.add f) (t1.setMe t.me.again) with
      | .next u => if u.me.phase = .ready ∧ u.me.sched.vecFetch = false then
          t1.setMe { t.me with regs := t.me.regs.copyFrom u.me.regs w.cls w.num } else t1
      | _ => t1
    else t1 := by
  intro t1
  have hfound : t1.asFound w = t1 := by simp [State.asFound, hins]
  unfold State.reread
  rw [hins, hsrcs, hpop]
  simp only [List.length_singleton, List.range_one, List.zip_cons_cons, List.zip_nil_right, List.any_cons, List.any_nil, Bool.true_and,
    Bool.or_false, Nat.add_zero, List.foldl_cons, List.foldl_nil]
  rw [show ({ t with tick := t.tick + 1 } : State) = t1 from rfl, hfound]
  cases Config.freeBit t.tick <;> rfl
theorem reread_add {t : State} {w : Window} {f : IntBin} {k : Word} {c : Cls} {num val : Nat} (hins : w.ins = some (.add f)) (hcls : w.cls = .g)
    (hnum : w.num = f.rd.toNat) (hk : f.b = .lit k) (hsrcs : w.srcs = [⟨c, num, val, true⟩]) (hpop : w.popped = [])
    (hrd : f.rd ≠ 0) (hphase : t.me.phase = .ready) (hfetch : t.me.sched.vecFetch = false) (hdepth : t.me.loops.depth = 0)
    (hgd : f.h.gd = 0) (hba : t.me.boundTo .g f.a.n = none) (hbd : t.me.boundTo .g f.rd = none) (hoa : t.me.regs.own .g f.a.n = true)
    (hod : t.me.regs.own .g f.rd = true) :
    ∃ new : Bool, (State.reread exec t w).me.regs.getG f.rd = if new then t.me.regs.getG f.a.n + k else t.me.regs.getG f.rd := by
  refine ⟨Config.freeBit t.tick, ?_⟩
  rw [reread_add_eq hins hsrcs hpop]
  cases Config.freeBit t.tick with
  | false => rfl
  | true =>
    generalize hs : ({ t with tick := t.tick + 1 } : State).setMe t.me.again = s
    have hme : s.me = t.me.again := hs ▸ State.me_setMe ..
    have hsteady : s.me.steady = true := by simp [hme, Slot.steady, Slot.again, hdepth]
    have hready : s.ready (intBinShape f) = true :=
      ready_add hsteady hgd hk (by rw [hme]; exact hba) (by rw [hme]; exact hbd) (by rw [hme]; exact hoa) (by rw [hme]; exact hod)
    obtain ⟨u, hu, hph, hvf, hsum⟩ := add_result hready hk hrd
    rw [hme] at hph hvf hsum
    have hdone : u.me.phase = .ready ∧ u.me.sched.vecFetch = false := ⟨hph.trans hphase, hvf.trans hfetch⟩
    have hrdnum : BitVec.ofNat 5 w.num = f.rd := by rw [hnum, BitVec.ofNat_toNat, BitVec.setWidth_eq]
    simp only [if_true, hu, hdone, and_self, State.me_setMe, Regs.copyFrom, hcls, hrdnum]
    rw [Regs.getG_putG_self _ _ hrd, hsum]
    rfl

/-! ### The obligation, clause by clause -/

section
variable {s : State} {i : Instr} {h : Hdr}

theorem goesPast_of_guardedOff (hs : s.me.steady = true) (hh : i.hdr? = some h) (hrep : ∀ f, i ≠ .rep f)
    (hoff : if ByLane (natField ((encode i).headD 0) 88 8) then s.me.regs.validP (guardReg h) = true ∧ s.me.lanes h = 0
      else s.me.guardedOff h = true) : GoesPast s i := by
  rcases guardForm_of_hdr hh hrep with ⟨hop, hguard⟩ | ⟨hop, hguard⟩
  · rw [if_pos hop] at hoff
    exact hguard.off s hs hoff.1 hoff.2
  · rw [if_neg hop] at hoff
    exact hguard.off s hs hoff
theorem exec_invalid_guard (hh : i.hdr? = some h) (hrep : ∀ f, i ≠ .rep f) (hw : s.me.windows = [])
    (hv : s.me.regs.validP (guardReg h) = false) : exec i s = .next (takeTrap (guardTrap h) s) := by
  rcases guardForm_of_hdr hh hrep with ⟨-, hguard⟩ | ⟨-, hguard⟩
  · exact hguard.invalid s hw hv
  · exact hguard.invalid s hw hv
theorem exec_invalid_source {pos : Nat} {c : Cls} {r : Reg} (hw : s.me.windows = []) (hg : s.me.executes h = true) (h0 : c = .v ∨ r.n ≠ 0)
    (hb : s.me.boundTo c r.n = none) (hv : (s.me.regs.peek c r.n).2 = false)
    (hi : (∃ f : IntBin, h = f.h ∧ (i = .add f ∨ i = .sub f ∨ i = .and f) ∧
          (pos = 1 ∧ c = .g ∧ r = f.a ∨ pos = 2 ∧ c = .g ∧ f.b = .reg r ∧ s.me.readable .g f.a.n = true)) ∨
        (∃ f : Load, h = f.h ∧ (i = .ldl f ∨ i = .ldg f) ∧
          (pos = 1 ∧ c = .g ∧ r = f.ad.base ∨ pos = 2 ∧ c = .g ∧ r = f.ad.index ∧ s.me.readable .g f.ad.base.n = true)) ∨
        (∃ f : Store, h = f.h ∧ (i = .stl f ∨ i = .stg f) ∧ pos = 0 ∧ c = .g ∧ r = f.src ∧ s.me.readable .g f.ad.base.n = true ∧
          s.me.readable .g f.ad.index.n = true)) :
    exec i s = .next (takeTrap (sourceTrap pos c r) s) := by
  obtain ⟨f, rfl, hi, hpos⟩ | ⟨f, rfl, hi, hpos⟩ | ⟨f, rfl, hi, hpos, hc, hr, hbase, hindex⟩ := hi
  · obtain rfl | rfl | rfl := hi <;> exact intBinary_invalid rfl hw h0 hb hv hg hpos
  · obtain rfl | rfl := hi
    · exact scalarLoad_invalid (get := fun ea n => loadSpace .l ea n n) rfl hw h0 hb hv hg hpos
    · exact scalarLoad_invalid (get := fun ea n => loadSpace .g ea n 1) rfl hw h0 hb hv hg hpos
  · obtain rfl | rfl := hi
    · exact scalarStore_invalid (put := fun ea bs => storeSpace .store .l ea bs.length bs) rfl hw h0 hb hv hg hpos hc hr hbase hindex
    · exact scalarStore_invalid (put := fun ea bs => storeSpace .store .g ea 1 bs) rfl hw h0 hb hv hg hpos hc hr hbase hindex
end

/-- Settles O58: every instruction looks at its guard first; a lookahead window answers a read with either value; what a broken promise
covers is the destination of its window. -/
theorem guardedOffChangesOnlyMarksAndPc : Obligations.GuardedOffChangesOnlyMarksAndPc := by
  unfold Obligations.GuardedOffChangesOnlyMarksAndPc
  refine ⟨fun s hs => ⟨fun i h hh hrep hoff => ?_, fun f => goesPast_binary hs, fun f => goesPast_unary hs, fun f => goesPast_fused hs⟩,
    fun s s1 f b _ hrep hnext hb => rep_invalid_guard hrep hnext hb, fun s i h => exec_invalid_guard,
    fun s pos c r i h hs => exec_invalid_source (Slot.steady_windows hs), fun s w hwin hcls hdepth hrep hlt hn hb hown hprior => ?_,
    issued_madeGood exec, ?_⟩
  · refine goesPast_of_guardedOff hs hh hrep ?_
    split_ifs at hoff ⊢ <;> exact hoff
  · have hnum : w.num = (BitVec.ofNat 5 w.num).toNat := by
      rw [BitVec.toNat_ofNat]
      exact (Nat.mod_eq_of_lt hlt).symm
    refine ⟨fun f k ha hk hla hrd hne hbd hownd hsrcs => add_window hwin hcls hdepth hrep hnum hn hb hown hprior ha hk hla hrd hne hbd hownd hsrcs,
      fun f hla hg => ⟨fun hrd => li_destination hwin hcls hdepth hrep hnum hn hb hown hla hg hrd, fun hrd hne hbd hownd => ?_⟩⟩
    exact li_source hwin hcls hdepth hrep (fun he => hne (BitVec.eq_of_toNat_eq (he.symm.trans hnum))) hrd hbd hownd hla hg rfl
  · intro t w f k v hins hcls hnum hk hsrcs hpop _ hrd hphase hfetch hdepth hgd hba hbd hoa hod
    exact reread_add hins hcls hnum hk hsrcs hpop hrd hphase hfetch hdepth hgd hba hbd hoa hod

end Sys2Proof.Machine

/-! ## The two-operand integer forms (R130, R132) -/

namespace Sys2Proof.Machine

/-! ### The functions of the table -/

theorem divSigned_eq (a b : Word) : divSigned a b = if b = 0 then BitVec.allOnes 64 else BitVec.ofInt 64 (a.toInt.tdiv b.toInt) := by
  unfold divSigned
  split
  · rfl
  · refine BitVec.eq_of_toInt_eq ?_
    rw [BitVec.toInt_sdiv, BitVec.toInt_ofInt]
theorem remSigned_eq (a b : Word) : remSigned a b = if b = 0 then a else BitVec.ofInt 64 (a.toInt.tmod b.toInt) := by
  unfold remSigned
  split
  · rfl
  · rw [← BitVec.toInt_srem, BitVec.ofInt_toInt]
theorem divUnsigned_eq (a b : Word) : divUnsigned a b = if b = 0 then BitVec.allOnes 64 else a / b := by
  unfold divUnsigned word
  split
  · rfl
  · refine BitVec.eq_of_toNat_eq ?_
    rw [BitVec.toNat_udiv, BitVec.toNat_ofNat]
    exact Nat.mod_eq_of_lt (lt_of_le_of_lt (Nat.div_le_self _ _) a.isLt)
theorem remUnsigned_eq (a b : Word) : remUnsigned a b = if b = 0 then a else a % b := by
  unfold remUnsigned word
  split
  · rfl
  · refine BitVec.eq_of_toNat_eq ?_
    rw [BitVec.toNat_umod, BitVec.toNat_ofNat]
    exact Nat.mod_eq_of_lt (lt_of_le_of_lt (Nat.mod_le _ _) a.isLt)
theorem rotateLeft_shiftCount (a b : Word) :
    a.rotateLeft (shiftCount b) = a <<< (b.toNat % 64) ||| a >>> (64 - b.toNat % 64) := by
  rw [shiftCount, BitVec.rotateLeft_def, Nat.mod_mod]
theorem rotateRight_shiftCount (a b : Word) :
    a.rotateRight (shiftCount b) = a >>> (b.toNat % 64) ||| a <<< (64 - b.toNat % 64) := by
  rw [shiftCount, BitVec.rotateRight_def, Nat.mod_mod]
theorem fieldPos_eq (c : Word) : fieldPos c = c.toNat % 64 := by simp [fieldPos, natField]
theorem fieldWidth_eq (c : Word) : fieldWidth c = Nat.min (c.toNat / 256 % 64 + 1) (64 - c.toNat % 64) := by
  simp [fieldWidth, fieldPos_eq, natField]
theorem min_signed (a b : Word) : (if a.slt b then a else b) = if a.toInt ≤ b.toInt then a else b := by
  by_cases h : a.toInt = b.toInt
  · simp [BitVec.eq_of_toInt_eq h]
  · simp only [BitVec.slt_iff_toInt_lt, Int.lt_iff_le_and_ne, h, ne_eq, not_false_eq_true, and_true]
theorem max_signed (a b : Word) : (if a.slt b then b else a) = if a.toInt ≤ b.toInt then b else a := by
  by_cases h : a.toInt = b.toInt
  · simp [BitVec.eq_of_toInt_eq h]
  · simp only [BitVec.slt_iff_toInt_lt, Int.lt_iff_le_and_ne, h, ne_eq, not_false_eq_true, and_true]
theorem min_unsigned (a b : Word) : (if a.ult b then a else b) = if a.toNat ≤ b.toNat then a else b := by
  by_cases h : a.toNat = b.toNat
  · simp [BitVec.eq_of_toNat_eq h]
  · simp only [BitVec.ult_iff_lt, BitVec.lt_def, Nat.lt_iff_le_and_ne, h, ne_eq, not_false_eq_true, and_true]
theorem max_unsigned (a b : Word) : (if a.ult b then b else a) = if a.toNat ≤ b.toNat then b else a := by
  by_cases h : a.toNat = b.toNat
  · simp [BitVec.eq_of_toNat_eq h]
  · simp only [BitVec.ult_iff_lt, BitVec.lt_def, Nat.lt_iff_le_and_ne, h, ne_eq, not_false_eq_true, and_true]

/-- Settles O1: each form is the shared body of the two-operand forms with its own function, and the function is the table's. -/
theorem integerTwoOperandResults : Obligations.IntegerTwoOperandResults := by
  unfold Obligations.IntegerTwoOperandResults
  intro s f hr a b gives cnt pos w
  have run (fn : Word → Word → Word) (i : Instr) (he : exec i = intBinary fn f) : gives i (fn a b) := by
    unfold gives
    rw [he]
    exact intBinary_run fn f hr
  have runs (fn : Word → Word → Word) (i : Instr) (he : exec i = intBinary fn f) {v : Word} (hv : fn a b = v) : gives i v := hv ▸ run fn i he
  refine ⟨run (fun a b => a + b) _ rfl, run (fun a b => a - b) _ rfl, run (fun a b => a * b) _ rfl, run mulHigh _ rfl,
    run mulHighUnsigned _ rfl, runs divSigned _ rfl (divSigned_eq a b), runs divUnsigned _ rfl (divUnsigned_eq a b),
    runs remSigned _ rfl (remSigned_eq a b), runs remUnsigned _ rfl (remUnsigned_eq a b), run (fun a b => a &&& b) _ rfl,
    run (fun a b => a ||| b) _ rfl, run (fun a b => a ^^^ b) _ rfl, run (fun a b => a &&& ~~~b) _ rfl, run (fun a b => a ||| ~~~b) _ rfl,
    run (fun a b => a <<< shiftCount b) _ rfl, run (fun a b => a >>> shiftCount b) _ rfl, run (fun a b => a.sshiftRight (shiftCount b)) _ rfl,
    runs (fun a b => a.rotateLeft (shiftCount b)) _ rfl (rotateLeft_shiftCount a b),
    runs (fun a b => a.rotateRight (shiftCount b)) _ rfl (rotateRight_shiftCount a b), runs bitExtract _ rfl ?_,
    runs (fun a b => if a.slt b then a else b) _ rfl (min_signed a b), runs (fun a b => if a.slt b then b else a) _ rfl (max_signed a b),
    runs (fun a b => if a.ult b then a else b) _ rfl (min_unsigned a b), runs (fun a b => if a.ult b then b else a) _ rfl (max_unsigned a b),
    runs (fun a b => boolWord (a == b)) _ rfl ?_, runs (fun a b => boolWord (a != b)) _ rfl ?_, runs (fun a b => boolWord (a.slt b)) _ rfl ?_,
    runs (fun a b => boolWord (a.ult b)) _ rfl ?_, runs (fun a b => boolWord (a.sle b)) _ rfl ?_, runs (fun a b => boolWord (a.ule b)) _ rfl ?_⟩
  · rw [bitExtract, fieldPos_eq, fieldWidth_eq]
    rfl
  · simp [boolWord]
  · simp [boolWord, bne, apply_ite]
  · simp [boolWord, BitVec.slt_iff_toInt_lt]
  · simp [boolWord, BitVec.ult_iff_lt, BitVec.lt_def]
  · simp [boolWord, BitVec.sle_iff_toInt_le]
  · simp [boolWord, BitVec.ule_iff_le, BitVec.le_def]

end Sys2Proof.Machine

/-! ## The unary, field, select, immediate and address forms (R110, R131 to R135) -/

namespace Sys2Proof

/-! ### Bits of numbers in a word -/

/-- The bits of a word whose field has been replaced. -/
theorem getLsbD_setField {w : Nat} (x : BitVec w) (lo n v : Nat) {k : Nat} (hk : k < w) :
    (setField x lo n v).getLsbD k = if lo ≤ k ∧ k < lo + n then v.testBit (k - lo) else x.getLsbD k := by
  have split : x.toNat - natField x lo n * 2 ^ lo + (v % 2 ^ n) * 2 ^ lo =
      2 ^ lo * (2 ^ n * (x.toNat / 2 ^ lo / 2 ^ n) + v % 2 ^ n) + x.toNat % 2 ^ lo := by
    have hlow := Nat.div_add_mod x.toNat (2 ^ lo)
    have hmid := Nat.div_add_mod (x.toNat / 2 ^ lo) (2 ^ n)
    have hfield : natField x lo n = x.toNat / 2 ^ lo % 2 ^ n := rfl
    rw [hfield]
    generalize x.toNat / 2 ^ lo = q at hlow hmid ⊢
    generalize q / 2 ^ n = t at hmid ⊢
    generalize q % 2 ^ n = m at hmid ⊢
    generalize x.toNat % 2 ^ lo = r at hlow ⊢
    rw [← hlow, ← hmid, Nat.mul_add, Nat.mul_comm (2 ^ lo) m, Nat.mul_add, Nat.mul_comm (2 ^ lo) (v % 2 ^ n)]
    omega
  rw [setField, BitVec.getLsbD_ofNat, split, Nat.testBit_two_pow_mul_add _ (Nat.mod_lt _ (Nat.two_pow_pos lo)),
    Nat.testBit_two_pow_mul_add _ (Nat.mod_lt _ (Nat.two_pow_pos n))]
  by_cases h1 : k < lo
  · simp [h1, hk, Nat.not_le.mpr h1, BitVec.getLsbD]
  · by_cases h2 : k < lo + n
    · simp [h1, hk, h2, show k - lo < n by omega, Nat.not_lt.mp h1]
    · simp only [hk, decide_true, h1, if_false, show ¬k - lo < n by omega, h2, and_false, Bool.true_and, Nat.testBit_div_two_pow,
        show k - lo - n + n + lo = k by omega]
      rfl

theorem ofBytes_lt (bs : List Byte) : ofBytes bs < 256 ^ bs.length := by
  induction bs with
  | nil => simp [ofBytes]
  | cons b bs ih =>
    have := b.isLt
    simp only [ofBytes, List.length_cons, Nat.pow_succ]
    omega
/-- A byte of the number that a list of bytes spells. -/
theorem ofBytes_div_mod (bs : List Byte) (k : Nat) : ofBytes bs / 256 ^ k % 256 = (bs.getD k 0).toNat := by
  induction bs generalizing k with
  | nil => simp [ofBytes]
  | cons b bs ih =>
    have hb := b.isLt
    cases k with
    | zero => simp [ofBytes]; omega
    | succ k =>
      rw [Nat.pow_succ, Nat.mul_comm, ← Nat.div_div_eq_div_mul, ofBytes, Nat.add_mul_div_left _ _ (by decide),
        Nat.div_eq_of_lt (show b.toNat < 256 by omega), Nat.zero_add, ih]
      rfl
@[simp] theorem toBytes_length (n v : Nat) : (toBytes n v).length = n := by
  induction n generalizing v with
  | zero => rfl
  | succ n ih => rw [toBytes, List.length_cons, ih]
theorem toBytes_getD (n v : Nat) {k : Nat} (hk : k < n) : (toBytes n v).getD k 0 = BitVec.ofNat 8 (v / 256 ^ k) := by
  induction n generalizing v k with
  | zero => omega
  | succ n ih =>
    cases k with
    | zero => simp [toBytes]
    | succ k =>
      rw [toBytes, List.getD_cons_succ, ih _ (by omega), Nat.pow_succ, Nat.mul_comm, Nat.div_div_eq_div_mul]
/-- Byte `k` of a word as a number. -/
theorem extractLsb'_byte {w : Nat} (x : BitVec w) (k : Nat) : x.extractLsb' (8 * k) 8 = BitVec.ofNat 8 (x.toNat / 256 ^ k) := by
  refine BitVec.eq_of_toNat_eq ?_
  rw [BitVec.extractLsb'_toNat, BitVec.toNat_ofNat, Nat.shiftRight_eq_div_pow, Nat.pow_mul]

namespace Machine

theorem byteSwap_byte (a : Word) {k : Nat} (hk : k < 8) : (byteSwap a).extractLsb' (8 * (7 - k)) 8 = a.extractLsb' (8 * k) 8 := by
  have hlt := ofBytes_lt (toBytes 8 a.toNat).reverse
  rw [List.length_reverse, toBytes_length, show 256 ^ 8 = 2 ^ 64 by decide] at hlt
  have hget : (toBytes 8 a.toNat).reverse.getD (7 - k) 0 = (toBytes 8 a.toNat).getD k 0 := by
    rw [List.getD_eq_getElem?_getD, List.getElem?_reverse (by simp; omega), ← List.getD_eq_getElem?_getD, toBytes_length,
      show 8 - 1 - (7 - k) = k by omega]
  rw [extractLsb'_byte, extractLsb'_byte, ← toBytes_getD 8 a.toNat hk, ← hget, byteSwap, word, BitVec.toNat_ofNat, Nat.mod_eq_of_lt hlt]
  refine BitVec.eq_of_toNat_eq ?_
  rw [BitVec.toNat_ofNat]
  exact ofBytes_div_mod _ _

/-! ### Counts of bits -/

theorem findIdx_range {p : Nat → Bool} {n k : Nat} (hk : k < n) (hp : p k = true) (hlt : ∀ j, j < k → p j = false) :
    (List.range n).findIdx p = k := by
  refine (List.findIdx_eq (by simpa using hk)).mpr ⟨by simpa using hp, fun j hj => ?_⟩
  simpa using hlt j hj
theorem findIdx_range_none {p : Nat → Bool} {n : Nat} (h : ∀ k, k < n → p k = false) : (List.range n).findIdx p = n := by
  conv_rhs => rw [← List.length_range (n := n)]
  exact List.findIdx_eq_length.mpr fun k hk => h k (List.mem_range.mp hk)

theorem leadingZeros_eq (a : Word) : leadingZeros a = (List.range 64).findIdx fun k => a.getLsbD (63 - k) := by
  unfold leadingZeros
  split
  case isTrue h0 =>
    subst h0
    exact (findIdx_range_none fun k _ => BitVec.getLsbD_zero).symm
  case isFalse h0 =>
    have hn : a.toNat ≠ 0 := fun h => h0 (BitVec.eq_of_toNat_eq h)
    have hlog : a.toNat.log2 < 64 := (Nat.log2_lt hn).mpr a.isLt
    refine (findIdx_range (by omega) ?_ fun j hj => ?_).symm
    · rw [show 63 - (64 - 1 - a.toNat.log2) = a.toNat.log2 by omega]
      exact Nat.testBit_log2 hn
    · exact Nat.testBit_lt_two_pow ((Nat.log2_lt hn).mp (show a.toNat.log2 < 63 - j by omega))
theorem trailingZeros_eq (a : Word) : trailingZeros a = (List.range 64).findIdx fun k => a.getLsbD k := by
  unfold trailingZeros lowestSet
  split
  case isTrue h0 =>
    subst h0
    exact (findIdx_range_none fun k _ => BitVec.getLsbD_zero).symm
  case isFalse h0 =>
    cases hf : (List.range 64).find? a.getLsbD with
    | none =>
      refine absurd (BitVec.eq_of_getLsbD_eq fun k hk => ?_) h0
      simpa using List.find?_eq_none.mp hf k (List.mem_range.mpr hk)
    | some k =>
      obtain ⟨hp, hmem, hlt⟩ := List.find?_range_eq_some.mp hf
      rw [findIdx_range (List.mem_range.mp hmem) hp fun j hj => by simpa using hlt j hj]
      simp
theorem abs_eq (a : Word) : (if a.msb then -a else a) = BitVec.ofInt 64 |a.toInt| := by
  by_cases h : a.msb = true
  · have hneg : a.toInt < 0 := by simpa [BitVec.msb_eq_toInt] using h
    rw [if_pos h, abs_of_neg hneg, BitVec.ofInt_neg, BitVec.ofInt_toInt]
  · have hpos : 0 ≤ a.toInt := by
      rw [BitVec.toInt_eq_msb_cond, if_neg h]
      exact Int.natCast_nonneg _
    rw [if_neg h, abs_of_nonneg hpos, BitVec.ofInt_toInt]
theorem getLsbD_bitInsert (a c x : Word) {k : Nat} (hk : k < 64) :
    (bitInsert a c x).getLsbD k = if fieldPos c ≤ k ∧ k < fieldPos c + fieldWidth c then x.getLsbD (k - fieldPos c) else a.getLsbD k :=
  getLsbD_setField a _ _ _ hk

/-! ### The forms that only write a g register -/

section
variable {s : State}

theorem li_run {f : LoadImm} (hr : s.ready ⟨f.h, [], some (.g, f.rd)⟩ = true) :
    exec (.li f) s = .next (s.retires ⟨f.h, [], some (.g, f.rd)⟩ (s.me.withG f.rd f.imm)) := plainInstr_writeG hr rfl
/-- The address modulo 2^64 (R135). -/
theorem wordI_effAddr (base index : Word) (scale : BitVec 3) (disp : BitVec 40) :
    wordI (effAddr base index scale disp) = base + (index <<< scale.toNat) + disp.signExtend 64 := by
  have hpow : BitVec.ofInt 64 (2 ^ scale.toNat) = BitVec.twoPow 64 scale.toNat := by
    refine BitVec.eq_of_toNat_eq ?_
    rw [show (2 : Int) ^ scale.toNat = ((2 ^ scale.toNat : Nat) : Int) by push_cast; rfl, BitVec.ofInt_natCast, BitVec.toNat_ofNat,
      BitVec.toNat_twoPow]
  rw [wordI, effAddr, BitVec.ofInt_add, BitVec.ofInt_add, BitVec.ofInt_mul, BitVec.ofInt_natCast, BitVec.ofInt_natCast, hpow,
    BitVec.ofNat_toNat, BitVec.ofNat_toNat, BitVec.setWidth_eq, BitVec.setWidth_eq, ← BitVec.shiftLeft_eq_mul_twoPow]
  rfl
theorem lea_run {f : LeaOp} (hr : s.ready ⟨f.h, addrSrc f.ad, some (.g, f.rd)⟩ = true) :
    exec (.lea f) s = .next (s.retires ⟨f.h, addrSrc f.ad, some (.g, f.rd)⟩ (s.me.withG f.rd
      (s.me.regs.getG f.ad.base.n + (s.me.regs.getG f.ad.index.n <<< f.ad.scale.toNat) + f.ad.disp.signExtend 64))) := by
  obtain ⟨hs, -, hsrc, -⟩ := State.ready_parts hr
  simp only [addrSrc, Slot.readableAll, List.all_cons, List.all_nil, Bool.and_true, Bool.and_eq_true] at hsrc
  rw [← wordI_effAddr]
  refine plainInstr_writeG hr ?_
  rw [M.bind_ok (readAddr_run (Slot.steady_windows hs) f.ad hsrc.1 hsrc.2)]
/-- `nop` has no guard, no source and no destination (R110). -/
theorem nop_run (hs : s.me.steady = true) : exec .nop s = .next (s.setMe (s.me.goOn (nextOf s.line s.me.pc))) :=
  plainInstr_run (y := s.me) (sh := ⟨⟨0, 0⟩, [], none⟩) hs (by simp [Slot.executes, guardReg, field, Regs.validP, Regs.getP]) rfl rfl (State.IsAt.refl s) hs rfl
end

/-- Settles O2: the shared bodies of the unary and ternary forms with the functions of the tables; `nop` retires. -/
theorem integerUnaryAndTernaryResults : Obligations.IntegerUnaryAndTernaryResults := by
  unfold Obligations.IntegerUnaryAndTernaryResults
  refine ⟨fun s f hr => ?_, fun s f hr => ?_, fun s f hr => li_run hr, fun s f hr => lea_run hr, fun s hs => nop_run hs⟩
  · intro a gives
    have runs (fn : Word → Word) (i : Instr) (he : exec i = intUnary fn f) {v : Word} (hv : fn a = v) : gives i v := by
      rw [← hv]
      unfold gives
      rw [he]
      exact intUnary_run fn f hr
    exact ⟨runs (fun a => word (leadingZeros a)) _ rfl (congrArg word (leadingZeros_eq a)),
      runs (fun a => word (trailingZeros a)) _ rfl (congrArg word (trailingZeros_eq a)), runs (fun a => word (popCount a)) _ rfl rfl,
      ⟨_, runs byteSwap _ rfl rfl, fun k hk => byteSwap_byte a hk⟩, runs (fun a => if a.msb then -a else a) _ rfl (abs_eq a),
      runs (fun a => a) _ rfl rfl⟩
  · intro a b c pos w
    refine ⟨⟨_, intTernary_run bitInsert f hr, fun k hk => ?_⟩, intTernary_run (fun a b c => if c = 0 then b else a) f hr⟩
    rw [getLsbD_bitInsert a b c hk, fieldPos_eq, fieldWidth_eq]
end Machine
end Sys2Proof

/-! ## The scalar FP32 group (R63, R128, R136 to R141) -/

namespace Sys2Proof.Machine

/-! ### A result with its flags -/

theorem State.IsAt.trans {u t s : State} {x y : Slot} (h : u.IsAt t y) (k : t.IsAt s x) : u.IsAt s y :=
  ⟨h.me, fun z => (h.rest z).trans (k.rest z)⟩
/-- A g register written and flags added. -/
theorem writeG_orFlags_run {s : State} (hw : s.me.windows = []) {n : BitVec 5} (hd : s.writable .g n = true) (v : Word) (fl : Fl) :
    ∃ t, (do writeG n v; orFlags fl : M Unit) s = .ok ((), t) ∧ t.IsAt s ((s.me.withG n v).withFlags fl) := by
  obtain ⟨t, ht, hat⟩ := writeG_run hw n v hd
  refine ⟨t.setMe (t.me.withFlags fl), ?_, ?_⟩
  · rw [M.bind_ok ht]
    rfl
  · rw [hat.me]
    exact hat.setMe _
/-- A body that writes a g register and adds flags. -/
theorem plainInstr_writeFlags {s : State} {h : Hdr} {srcs : List Src} {rd : BitVec 5} {v : Word} {fl : Fl} {body : M Unit}
    (hr : s.ready ⟨h, srcs, some (.g, rd)⟩ = true) (hb : body s = (do writeG rd v; orFlags fl : M Unit) s) :
    plainInstr ⟨h, srcs, some (.g, rd)⟩ body s = .next (s.retires ⟨h, srcs, some (.g, rd)⟩ ((s.me.withG rd v).withFlags fl)) := by
  obtain ⟨hs, hg, hsrc, hd⟩ := State.ready_parts hr
  obtain ⟨t, ht, hat⟩ := writeG_orFlags_run (Slot.steady_windows hs) hd v fl
  exact plainInstr_run hs hg hsrc (hb.trans ht) hat hs rfl

/-! ### The shapes of the group -/

section
variable {s : State}

theorem readG_two {a b : Reg} (hw : s.me.windows = []) (ha : s.me.readable .g a.n = true) (hb : s.me.readable .g b.n = true)
    {α : Type} (k : Word → Word → M α) :
    (do k (← readG 1 a) (← readG 2 b) : M α) s = k (s.me.regs.getG a.n) (s.me.regs.getG b.n) s := by
  rw [M.bind_ok (readG_run hw 1 a ha), M.bind_ok (readG_run hw 2 b hb)]

theorem binShape_run {f : Bin} (hr : s.ready (binShape f) = true) {body : Word → Word → M Unit} {v : Word} {fl : Fl}
    (hb : body (s.me.regs.getG f.a.n) (s.me.regs.getG f.b.n) s = (do writeG f.rd v; orFlags fl : M Unit) s) :
    plainInstr (binShape f) (do body (← readG 1 f.a) (← readG 2 f.b)) s =
      .next (s.retires (binShape f) ((s.me.withG f.rd v).withFlags fl)) := by
  obtain ⟨hs, -, hsrc, -⟩ := State.ready_parts hr
  simp only [binShape, Slot.readableAll, List.all_cons, List.all_nil, Bool.and_true, Bool.and_eq_true] at hsrc
  exact plainInstr_writeFlags hr ((readG_two (Slot.steady_windows hs) hsrc.1 hsrc.2 body).trans hb)
theorem unShape_run {f : Un} (hr : s.ready (unShape f) = true) {body : Word → M Unit} {v : Word} {fl : Fl}
    (hb : body (s.me.regs.getG f.a.n) s = (do writeG f.rd v; orFlags fl : M Unit) s) :
    plainInstr (unShape f) (do body (← readG 1 f.a)) s = .next (s.retires (unShape f) ((s.me.withG f.rd v).withFlags fl)) := by
  obtain ⟨hs, -, hsrc, -⟩ := State.ready_parts hr
  simp only [unShape, Slot.readableAll, List.all_cons, List.all_nil, Bool.and_true] at hsrc
  exact plainInstr_writeFlags hr ((M.bind_ok (readG_run (Slot.steady_windows hs) 1 f.a hsrc)).trans hb)
theorem ffma_run {f : Tri} (hr : s.ready (triShape f) = true) {r : Nat × Fl}
    (he : FFmt.fp32.fma (Rnd.ofRM s.me.rm) (fp32Of (s.me.regs.getG f.a.n)) (fp32Of (s.me.regs.getG f.b.n)) (fp32Of (s.me.regs.getG f.c.n)) = r) :
    exec (.ffma f) s = .next (s.retires (triShape f) ((s.me.withG f.rd (word (r.1 % 2 ^ 32))).withFlags r.2)) := by
  obtain ⟨hs, -, hsrc, -⟩ := State.ready_parts hr
  simp only [triShape, Slot.readableAll, List.all_cons, List.all_nil, Bool.and_true, Bool.and_eq_true] at hsrc
  obtain ⟨ha, hb, hc⟩ := hsrc
  have hw := Slot.steady_windows hs
  refine plainInstr_writeFlags hr ?_
  rw [M.bind_ok (readG_run hw 1 f.a ha), M.bind_ok (readG_run hw 2 f.b hb), M.bind_ok (readG_run hw 3 f.c hc), ← he]
  rfl
theorem fcmp_run {f : CmpF} (hr : s.ready ⟨f.h, [(1, .g, f.a), (2, .g, f.b)], some (.g, f.rd)⟩ = true) {r : Bool × Fl}
    (he : floatCond f.cc (fp32Of (s.me.regs.getG f.a.n)) (fp32Of (s.me.regs.getG f.b.n)) = r) :
    exec (.fcmp f) s = .next (s.retires ⟨f.h, [(1, .g, f.a), (2, .g, f.b)], some (.g, f.rd)⟩
      ((s.me.withG f.rd (boolWord r.1)).withFlags r.2)) := by
  obtain ⟨hs, -, hsrc, -⟩ := State.ready_parts hr
  simp only [Slot.readableAll, List.all_cons, List.all_nil, Bool.and_true, Bool.and_eq_true] at hsrc
  obtain ⟨ha, hb⟩ := hsrc
  have hw := Slot.steady_windows hs
  refine plainInstr_writeFlags hr ?_
  rw [M.bind_ok (readG_run hw 1 f.a ha), M.bind_ok (readG_run hw 2 f.b hb), ← he]
end

/-! ### Signs (R141) -/

/-- The sign of a value that is no NaN is the top bit of its encoding. -/
theorem neg_read {x : Nat} (h : (FFmt.fp32.read x).isNan = false) : (FFmt.fp32.read x).neg = (x / 2 ^ 31 % 2 == 1) := by
  revert h
  unfold FFmt.read
  dsimp only
  split_ifs <;> simp [FVal.isNan, FVal.neg, FFmt.signBit, FFmt.fp32]
theorem signForm_nan {x : Nat} (clear : Bool) (h : (FFmt.fp32.read x).isNan = true) :
    signForm clear x .fp32 = (0x7FC00000, if (FFmt.fp32.read x).signalling then 16 else 0) := by
  revert h
  unfold signForm
  cases FFmt.fp32.read x with
  | nan sig => exact fun _ => rfl
  | inf neg | fin neg mant e => exact fun h => absurd h (by simp [FVal.isNan])
theorem signForm_num {x : Nat} (clear : Bool) (h : (FFmt.fp32.read x).isNan = false) :
    signForm clear x .fp32 = (x % 2 ^ 31 + (if !clear && !(FFmt.fp32.read x).neg then 2 ^ 31 else 0), 0) := by
  revert h
  unfold signForm
  cases FFmt.fp32.read x with
  | nan sig => exact fun h => absurd h (by simp [FVal.isNan])
  | inf neg | fin neg mant e => exact fun _ => rfl
theorem signForm_abs (x : Nat) : signForm true x .fp32 =
    if (FFmt.fp32.read x).isNan then (0x7FC00000, if (FFmt.fp32.read x).signalling then 16 else 0) else (x % 2 ^ 31, 0) := by
  cases h : (FFmt.fp32.read x).isNan with
  | true => exact signForm_nan true h
  | false => exact signForm_num true h
theorem signForm_neg {x : Nat} (hx : x < 2 ^ 32) : signForm false x .fp32 =
    if (FFmt.fp32.read x).isNan then (0x7FC00000, if (FFmt.fp32.read x).signalling then 16 else 0)
    else (if x < 2 ^ 31 then x + 2 ^ 31 else x - 2 ^ 31, 0) := by
  cases h : (FFmt.fp32.read x).isNan with
  | true => exact signForm_nan false h
  | false =>
    rw [signForm_num false h, neg_read h]
    by_cases hlt : x < 2 ^ 31
    · rw [Nat.mod_eq_of_lt hlt, Nat.div_eq_of_lt hlt, if_pos hlt]
      rfl
    · have hdiv : x / 2 ^ 31 = 1 := by omega
      have hmod : x % 2 ^ 31 = x - 2 ^ 31 := by omega
      rw [hdiv, hmod, if_neg hlt, if_neg (by decide), Nat.add_zero, if_neg Bool.false_ne_true]
theorem lo32_lt (x : Word) : lo32 x < 2 ^ 32 := Nat.mod_lt _ (by decide)

/-! ### Conversions (R139) -/

/-- The integer formats are the codes from 5 on (R50). -/
theorem floatFmt_isSome (c : BitVec 4) : (floatFmt false c).isSome = !decide (5 ≤ c.toNat) := by
  revert c
  decide
theorem conversionDraws_eq (dst src : BitVec 4) : conversionDraws dst src = !(decide (5 ≤ dst.toNat) && decide (5 ≤ src.toNat)) := by
  rw [conversionDraws, floatFmt_isSome, floatFmt_isSome, Bool.not_and]
theorem extendResult_eq (dst : BitVec 4) (v : Nat) :
    extendResult dst v = if decide (5 ≤ dst.toNat) && decide (dst.toNat < 8) then wordI (intRead dst v) else word v := by
  rw [extendResult, ← Option.not_isSome, floatFmt_isSome, Bool.not_not]

/-- The rounding field of a conversion that takes no draw (R55). -/
theorem conversionMode_still {s : State} {rnd : BitVec 3} {draws : Bool} (h : (rnd == 4 && draws) = false) :
    conversionMode rnd draws s = .ok (if rnd = 7 then Rnd.ofRM s.me.rm else Rnd.ofRM rnd.toNat, s) := by
  unfold conversionMode
  by_cases h7 : rnd = 7
  · rw [if_pos h7, if_pos h7]
    rfl
  · rw [if_neg h7, if_neg h7]
    by_cases h4 : rnd = 4
    · have hd : draws = false := by simpa [h4] using h
      subst h4
      rw [hd]
      rfl
    · rw [if_neg h4]
      rfl
/-- One that takes a draw of SEED (R63). -/
theorem conversionMode_draws {s : State} {rnd : BitVec 3} {draws : Bool} (h : (rnd == 4 && draws) = true) :
    conversionMode rnd draws s =
      .ok (.rstoch (seedDraw (field s.me.ctl.seed 0 32)).toNat, s.setMe (s.me.withSeed (seedDraw (field s.me.ctl.seed 0 32)))) := by
  simp only [Bool.and_eq_true, beq_iff_eq] at h
  obtain ⟨rfl, rfl⟩ := h
  rfl
/-- A register of its own, or g0, is writable whatever the pool holds. -/
theorem State.writable_of_own {s : State} {c : Cls} {n : BitVec 5} (hb : (decide (c ≠ .v) && n == 0) = false → s.me.boundTo c n = none)
    (hown : (decide (c ≠ .v) && n == 0) = true ∨ s.me.regs.own c n = true) : s.writable c n = true := by
  unfold State.writable
  cases h0 : (decide (c ≠ .v) && n == 0) with
  | true => rfl
  | false =>
    rw [hb h0, hown.resolve_left (by rw [h0]; exact Bool.false_ne_true)]
    rfl
/-- What is writable and the strand's own stays so when only other parts of its slot change. -/
theorem State.IsAt.writable_own {t s : State} {y : Slot} (h : t.IsAt s y) {n : BitVec 5} (hd : s.writable .g n = true)
    (hown : n = 0 ∨ s.me.regs.own .g n = true) (hregs : y.regs = s.me.regs) (hstr : y.streams = s.me.streams) : t.writable .g n = true := by
  refine State.writable_of_own (fun h0 => ?_) (hown.imp (fun hz => by simp [hz]) fun ho => by rw [h.me, hregs]; exact ho)
  rw [h.me]
  simp only [State.writable, h0, Bool.false_or, Bool.and_eq_true, Option.isNone_iff_eq_none] at hd
  have hbound : y.boundTo .g n = s.me.boundTo .g n := by
    simp only [Slot.boundTo, Slot.stream, hstr]
    rfl
  exact hbound.trans hd.1

/-- What FCVT makes of its operand, in the slot `x` that its rounding has left. -/
theorem fcvt_run {s s1 : State} {x : Slot} {f : CvtF} {mode : Rnd} (hr : s.ready ⟨f.h, [(1, .g, f.a)], some (.g, f.rd)⟩ = true)
    (hm : conversionMode f.rnd (conversionDraws f.dst f.src) s = .ok (mode, s1)) (h1 : s1.IsAt s x) (hx : x.steady = true) (hpc : x.pc = s.me.pc)
    (hd : s1.writable .g f.rd = true) {r : Nat × Fl}
    (he : convertFmt x.nspec f.dst f.src mode (natField (s.me.regs.getG f.a.n) 0 (8 * fmtBytes f.src)) = r) :
    exec (.fcvt f) s = .next (s.retires ⟨f.h, [(1, .g, f.a)], some (.g, f.rd)⟩
      ((x.withG f.rd (extendResult f.dst r.1)).withFlags r.2)) := by
  obtain ⟨hs, hg, hsrc, -⟩ := State.ready_parts hr
  have ha := hsrc
  simp only [Slot.readableAll, List.all_cons, List.all_nil, Bool.and_true] at ha
  obtain ⟨t, ht, hat⟩ := writeG_orFlags_run (s := s1) (h1.me ▸ Slot.steady_windows hx) hd (extendResult f.dst r.1) r.2
  rw [h1.me] at hat
  refine plainInstr_run (t' := t) hs hg hsrc ?_ (hat.trans h1) hx hpc
  rw [M.bind_ok (readG_run (Slot.steady_windows hs) 1 f.a ha), M.bind_ok hm, M.bind_ok (getMe_run s1), h1.me, he]
  exact ht

/-- Settles O3: each form reads its operands, computes, writes and adds its flags; a conversion under RSTOCH draws before. -/
theorem scalarFloatResults : Obligations.ScalarFloatResults := by
  unfold Obligations.ScalarFloatResults
  refine ⟨fun s f hr => ?_, fun s f hr => ?_, fun s f hr => ffma_run hr rfl, fun s f hr => fcmp_run hr rfl, fun s f hr => ?_⟩
  · exact ⟨binShape_run hr rfl, binShape_run hr rfl, binShape_run hr rfl, binShape_run hr rfl, binShape_run hr rfl, binShape_run hr rfl⟩
  · refine ⟨unShape_run hr rfl, unShape_run hr rfl, unShape_run hr rfl, ?_, ?_, ?_⟩
    · rw [← signForm_abs]
      exact unShape_run hr rfl
    · rw [← signForm_neg (x := natField (s.me.regs.getG f.a.n) 0 32) (lo32_lt _)]
      exact unShape_run hr rfl
    · exact intUnary_run (fun a => word (2 ^ (fp32Of a).classBit .fp32)) f hr
  · intro isInt draws seed mode r x hown
    obtain ⟨hs, -, -, hd⟩ := State.ready_parts hr
    have hdraws : (f.rnd == 4 && conversionDraws f.dst f.src) = draws := by rw [conversionDraws_eq]
    have hext := extendResult_eq f.dst r.1
    rw [← hdraws] at hown
    by_cases hdr : (f.rnd == 4 && conversionDraws f.dst f.src) = true
    · have hx : x = s.me.withSeed seed := if_pos (hdraws ▸ hdr)
      have hmode : mode = .rstoch seed.toNat := by
        have h7 : f.rnd ≠ 7 := by
          intro h7
          simp [h7] at hdr
        exact (if_neg h7).trans (if_pos (hdraws ▸ hdr))
      have h1 := s.isAt_setMe (s.me.withSeed seed)
      rw [hx]
      exact hext ▸ fcvt_run hr (conversionMode_draws hdr) h1 hs rfl (h1.writable_own hd (hown hdr) rfl rfl) (by rw [← hmode]; rfl)
    · have hx : x = s.me := if_neg (hdraws ▸ hdr)
      have hmode : mode = if f.rnd = 7 then Rnd.ofRM s.me.rm else Rnd.ofRM f.rnd.toNat := by
        refine congrArg (ite _ _) (if_neg (hdraws ▸ hdr))
      rw [hx]
      exact hext ▸ fcvt_run hr (conversionMode_still (Bool.not_eq_true _ ▸ hdr)) (.refl s) hs rfl hd (by rw [← hmode]; rfl)

end Sys2Proof.Machine

/-! ## The predicate forms (R142) -/

namespace Sys2Proof.Machine

/-- A source of a ready instruction is readable. -/
theorem State.ready_source {s : State} {sh : Shape} (hr : s.ready sh = true) {m : Src} (hm : m ∈ sh.srcs) :
    s.me.readable m.2.1 m.2.2.n = true :=
  List.all_eq_true.mp (State.ready_parts hr).2.2.1 m hm
theorem State.ready_windows {s : State} {sh : Shape} (hr : s.ready sh = true) : s.me.windows = [] :=
  Slot.steady_windows (State.ready_parts hr).1

/-- The condition codes of PCMP, by the numbers they compare (R51). -/
theorem intCond_word (cc : BitVec 4) (a b : Word) : intCond cc a b = match cc.toNat with
    | 0 => decide (a = b)
    | 1 => decide (a ≠ b)
    | 2 => decide (a.toInt < b.toInt)
    | 3 => decide (a.toInt ≤ b.toInt)
    | 4 => decide (b.toInt < a.toInt)
    | 5 => decide (b.toInt ≤ a.toInt)
    | 6 => decide (a.toNat < b.toNat)
    | 7 => decide (a.toNat ≤ b.toNat)
    | 8 => decide (b.toNat < a.toNat)
    | _ => decide (b.toNat ≤ a.toNat) := by
  unfold intCond
  generalize cc.toNat = c
  match c with
  | 0 | 2 | 3 | 4 | 5 | 6 | 7 | 8 | _ + 9 => rfl
  | 1 => exact decide_not.symm

/-- The second operand of PCMP, as the strand reads it. -/
def Slot.vopndG (x : Slot) : VOpnd → Word
  | .reg r => x.regs.getG r.n
  | .imm v => sext64 v
theorem readVOpndG_run {s : State} (hw : s.me.windows = []) (pos : Nat) (b : VOpnd)
    (h : ∀ r, b = .reg r → s.me.readable .g r.n = true) :
    readVOpndG pos b s = .ok (s.me.vopndG b, s) := by
  cases b with
  | reg r => exact readG_run hw pos r (h r rfl)
  | imm v => rfl

theorem pcmp_run {s : State} {f : CmpI} (hr : s.ready ⟨f.h, (1, .g, f.a) :: vopndSrc .g 2 f.b, some (.p, f.rd)⟩ = true) :
    exec (.pcmp f) s = .next (s.retires ⟨f.h, (1, .g, f.a) :: vopndSrc .g 2 f.b, some (.p, f.rd)⟩ (s.me.withP f.rd
      (boolMask (intCond f.cc (s.me.regs.getG f.a.n) (s.me.vopndG f.b))))) := by
  have hw := State.ready_windows hr
  have hb : ∀ r, f.b = .reg r → s.me.readable .g r.n = true := fun r h =>
    State.ready_source hr (m := (2, .g, r)) (by simp [h, vopndSrc])
  refine plainInstr_writeP hr ?_
  rw [M.bind_ok (readG_run hw 1 f.a (State.ready_source hr (m := (1, .g, f.a)) (by simp))), M.bind_ok (readVOpndG_run hw 2 f.b hb)]

theorem predBinary_run {s : State} (fn : Word → Word → Word) {f : Bin} (hr : s.ready ⟨f.h, [(1, .p, f.a), (2, .p, f.b)], some (.p, f.rd)⟩ = true) :
    predBinary fn f s = .next (s.retires ⟨f.h, [(1, .p, f.a), (2, .p, f.b)], some (.p, f.rd)⟩
      (s.me.withP f.rd (fn (s.me.regs.getP f.a.n) (s.me.regs.getP f.b.n)))) := by
  have hw := State.ready_windows hr
  refine plainInstr_writeP hr ?_
  rw [M.bind_ok (readP_run hw 1 f.a (State.ready_source hr (m := (1, .p, f.a)) (by simp))),
    M.bind_ok (readP_run hw 2 f.b (State.ready_source hr (m := (2, .p, f.b)) (by simp)))]

/-- Settles O4: each form reads its sources and writes one lane mask, or one g register. -/
theorem predicateResults : Obligations.PredicateResults := by
  unfold Obligations.PredicateResults
  refine ⟨fun s f hr => ?_, fun s f hr => ⟨predBinary_run _ hr, predBinary_run _ hr, predBinary_run _ hr⟩,
    fun s f hr => plainInstr_writeP hr ?_, fun s f hr => plainInstr_writeP hr ?_, fun s f hr => plainInstr_writeG hr ?_,
    fun x => ⟨Regs.getP_zero _, fun v => Regs.putP_zero _ v⟩⟩
  · rw [pcmp_run hr, intCond_word]
    rfl
  · rw [M.bind_ok (readP_run (State.ready_windows hr) 1 f.a (State.ready_source hr (m := (1, .p, f.a)) (by simp)))]
  · rw [M.bind_ok (readG_run (State.ready_windows hr) 1 f.a (State.ready_source hr (m := (1, .g, f.a)) (by simp)))]
  · rw [M.bind_ok (readP_run (State.ready_windows hr) 1 f.a (State.ready_source hr (m := (1, .p, f.a)) (by simp)))]

end Sys2Proof.Machine

/-! ## Transfers: what the statement asks of a slot map that lists a strand out of order (R143) -/

namespace Sys2Proof.Machine

/-- A strand of refill core 8, READY at 0x1000 with every g register but g31, listed after slots of higher numbers. -/
def crowdedSlot : Slot :=
  let x := Tests.slot 0 [] 0
  { x with regs := { x.regs with gv := 0x7FFFFFFF } }
/-- The strand issues with four physical g registers of its core left; no page is mapped. The keys of the slot map do not rise, so that a write of
the strand's slot lists it a second time. -/
def crowded : State :=
  { State.reset with cur := 64, line := setField 0 489 3 5, slots := [(65, Tests.slot 0 [] 0), (66, Tests.slot 0 [] 0), (64, crowdedSlot)] }
/-- CALL to the next line. -/
def crowdedCall : Jump := ⟨⟨0, 0⟩, ⟨1, 0⟩⟩

/-- The slot of the strand after an instruction. -/
def Slot.blockedAfter (o : Out) : Bool :=
  match o with
  | .next t => match t.me.phase with
    | .blocked _ => true
    | _ => false
  | _ => false

set_option maxRecDepth 100000 in
theorem crowded_ready : crowded.me.steady = true ∧ crowded.ready ⟨crowdedCall.h, [], some (.g, 31)⟩ = true := by decide

set_option maxRecDepth 100000 in
theorem crowded_blocks : Slot.blockedAfter (exec (.call crowdedCall) crowded) = true := by decide

set_option maxRecDepth 100000 in
/-- The target is an address that passes the checks, and its line cannot be fetched. -/
theorem crowded_target :
    canonical ((crowded.me.pc &&& ~~~63).toNat + crowdedCall.off.line.toInt * 64 + crowdedCall.off.slot.toNat) = true ∧
    BitVec.ofInt 64 ((crowded.me.pc &&& ~~~63).toNat + crowdedCall.off.line.toInt * 64 + crowdedCall.off.slot.toNat) = 0x1040 ∧
    crowded.fetch crowded.cur 0x1040 = (.trap { cause := 0x13, tval := 0x1040, xinfo := some 0x21 }, crowded) := ⟨rfl, rfl, rfl⟩

/-- Last-read marks leave the registers and the windows to be read, and all else as it was. -/
theorem Slot.releaseMarks_frame (x : Slot) (sh : Shape) :
    ∃ regs ws, x.releaseMarks sh = { x with regs := regs, windows := ws } := by
  unfold Slot.releaseMarks
  generalize sh.srcs = l
  induction l generalizing x with
  | nil => exact ⟨x.regs, x.windows, rfl⟩
  | cons a l ih =>
    have hstep : ∃ regs ws, release1 sh.dst x a.2.1 a.2.2 = { x with regs := regs, windows := ws } := by
      unfold release1
      split
      · exact ⟨_, _, rfl⟩
      · exact ⟨x.regs, x.windows, rfl⟩
    obtain ⟨regs, ws, hstep⟩ := hstep
    obtain ⟨regs', ws', hrest⟩ := ih (release1 sh.dst x a.2.1 a.2.2)
    exact ⟨regs', ws', by rw [List.foldl_cons, hrest, hstep]⟩
/-- A taken transfer changes the registers, the windows and the program counter. -/
theorem Slot.finish_frame (y : Slot) (sh : Shape) (prior : Nat × Bool) (target : Word) :
    ∃ regs ws, y.finish sh prior target = { y with regs := regs, windows := ws, pc := target } := by
  obtain ⟨regs, ws, hrel⟩ := y.releaseMarks_frame sh
  obtain ⟨ws', hopen⟩ := Slot.openWindow_windows { y.releaseMarks sh with pc := target } sh prior
  exact ⟨regs, ws', by rw [Slot.finish, hopen, hrel]⟩
/-- A strand that has transferred waits for nothing. -/
theorem blockedAfter_jumps {s : State} {y : Slot} (h : y.phase = .ready) (sh : Shape) (t : Word) :
    Slot.blockedAfter (.next (s.jumps sh y t)) = false := by
  obtain ⟨regs, ws, hy⟩ := y.finish_frame sh (sh.prior s.me) t
  simp [Slot.blockedAfter, State.jumps, hy, h]

/-- Refutes O5: where the slot map lists the strand after a higher number, the note that the target is still to be checked lists the strand
a second time with the registers it owns, so that no physical register is left for the link, and CALL waits. -/
theorem not_transfersGoToCheckedTargets : ¬ Obligations.TransfersGoToCheckedTargets := by
  unfold Obligations.TransfersGoToCheckedTargets
  intro h
  obtain ⟨hsteady, hready⟩ := crowded_ready
  obtain ⟨hcanon, htarget, hfetch⟩ := crowded_target
  obtain ⟨-, -, -, -, -, hcall, -⟩ := h crowded hsteady
  have hgoes := hcall crowdedCall hready
  dsimp only at hgoes
  rw [if_pos hcanon, htarget, if_neg (by decide), if_neg (by decide), hfetch] at hgoes
  exact absurd (hgoes ▸ crowded_blocks) (by rw [blockedAfter_jumps (by decide)]; decide)

end Sys2Proof.Machine

/-! ## Hardware loops (R146) -/

namespace Sys2Proof.Machine

/-! ### What a fetch leaves as it was -/

/-- The strands, the strand that issues and its line are those of `s`. -/
structure State.SlotsKept (s t : State) : Prop where
  slots : t.slots = s.slots
  cur : t.cur = s.cur
  line : t.line = s.line

theorem State.SlotsKept.refl (s : State) : s.SlotsKept s := ⟨rfl, rfl, rfl⟩
theorem State.SlotsKept.trans {s t u : State} (h : s.SlotsKept t) (k : t.SlotsKept u) : s.SlotsKept u :=
  ⟨k.slots.trans h.slots, k.cur.trans h.cur, k.line.trans h.line⟩
theorem State.SlotsKept.me {s t : State} (h : s.SlotsKept t) : t.me = s.me := by
  unfold State.me State.slot
  rw [h.slots, h.cur]

theorem State.slotsKept_logError (s : State) (die kind nerr unit : Nat) (addr : Word) : s.SlotsKept (s.logError die kind nerr unit addr) := by
  rw [State.logError_frame]
  exact ⟨rfl, rfl, rfl⟩
theorem State.slotsKept_translate {s t : State} {asid ea : Nat} {acc : Access} {mode : Mode} {useTlb : Bool} {x : Xlat}
    (h : s.translate asid ea acc mode useTlb = (x, t)) : s.SlotsKept t := by
  unfold State.translate at h
  dsimp only at h
  split at h
  · split at h <;> (cases h; exact .refl s)
  · split at h
    · cases h
      exact .refl s
    · cases h
      exact .refl s
    · cases h
      split <;> exact ⟨rfl, rfl, rfl⟩
theorem State.slotsKept_fill (s : State) (sid asid va pl : Nat) (user : Bool) (ea : Word) :
    s.SlotsKept (s.fill sid asid va pl user ea).2 := by
  unfold State.fill
  dsimp only
  split
  · exact .refl s
  · split
    · refine .trans (t := if _ then _ else s) ?_ ⟨rfl, rfl, rfl⟩
      split
      · exact .trans (t := s.setCore _ _) ⟨rfl, rfl, rfl⟩ (State.slotsKept_logError ..)
      · exact .refl s
    · exact s.slotsKept_logError ..
/-- A fetch touches the caches, the memory and the error records only. -/
theorem State.slotsKept_fetch {s t : State} {sid : Nat} {ea : Word} {r : Fetched} (h : s.fetch sid ea = (r, t)) : s.SlotsKept t := by
  unfold State.fetch at h
  dsimp only at h
  split at h
  · cases h
    exact .refl s
  · split at h
    · cases h
      exact .refl s
    · split at h
      · rename_i s1 hx
        exact .trans (State.slotsKept_translate hx) (by rw [show t = _ from (congrArg Prod.snd h).symm]; exact s1.slotsKept_fill ..)
      · rename_i hx
        cases h
        exact State.slotsKept_translate hx
      · rename_i hx
        cases h
        exact State.slotsKept_translate hx

/-! ### A line beside the instruction's own that cannot be fetched -/

/-- A trap of a fetch names no stream. -/
theorem State.fetch_stream {s t : State} {sid : Nat} {ea : Word} {e : Trap} (h : s.fetch sid ea = (.trap e, t)) : e.sfault = none := by
  unfold State.fetch at h
  dsimp only at h
  split at h
  · rename_i e' hpc
    cases h
    unfold Slot.pcTrap at hpc
    split at hpc
    · cases hpc; rfl
    · split at hpc
      · cases hpc; rfl
      · split at hpc
        · cases hpc; rfl
        · exact absurd hpc (by simp)
  · split at h
    · cases h
    · split at h
      · unfold State.fill at h
        dsimp only at h
        split at h
        · cases h; rfl
        · split at h
          · cases h
          · cases h; rfl
      · cases h; rfl
      · cases h

/-- A trap that names no stream leaves the streams where they were. -/
theorem unpopped_enter {x : Slot} {e : Trap} (h : e.sfault = none) : (x.enter e).unpopped x = x.enter e := by
  have hstreams : (x.enter e).streams = x.streams := by
    simp only [Slot.enter]
    split
    · rename_i hq
      exact absurd (h.symm.trans hq) (by simp)
    · rfl
  have hzip : x.streams.zipWith (fun t o => { t with pos := o.pos, ahead := o.ahead }) x.streams = x.streams := by
    ext1
    simp
  unfold Slot.unpopped
  rw [hstreams, hzip, ← hstreams]

theorem unretired_takeTrap {s t : State} {e : Trap} (hk : s.SlotsKept t) (he : e.sfault = none) :
    unretired s (takeTrap e t) = takeTrap e t := by
  unfold unretired
  split
  · rfl
  · rw [takeTrap_me, hk.me, unpopped_enter he, takeTrap_eq, State.setMe_setMe, hk.me]

/-! ### END (R93, R146) -/

/-- A canonical exact address is the number of its word. -/
theorem toNat_wordI {a : Int} (h : canonical a = true) : ((wordI a).toNat : Int) = a := by
  simp only [canonical, Bool.and_eq_true, decide_eq_true_eq] at h
  obtain ⟨⟨h0, h1⟩, -⟩ := h
  rw [wordI, BitVec.toNat_ofInt]
  omega

/-- A word without its six low bits, as a number. -/
theorem toNat_lineOf (a : Word) : (lineOf a).toNat = a.toNat / 64 * 64 := by
  have hmask : ∀ i : Fin 64, (~~~(63 : Word)).getLsbD i = decide (6 ≤ i.val) := by decide
  have h : lineOf a = (a >>> 6) <<< 6 := by
    refine BitVec.eq_of_getLsbD_eq fun i hi => ?_
    rw [lineOf, BitVec.getLsbD_and, hmask ⟨i, hi⟩, BitVec.getLsbD_shiftLeft, BitVec.getLsbD_ushiftRight]
    by_cases h6 : 6 ≤ i
    · simp [h6, hi, show ¬i < 6 by omega, show 6 + (i - 6) = i by omega]
    · simp [h6, show i < 6 by omega]
  rw [h, BitVec.toNat_shiftLeft, BitVec.toNat_ushiftRight, Nat.shiftLeft_eq, Nat.shiftRight_eq_div_pow]
  have := a.isLt
  omega

/-- The slot of a Format B target is the slot that its offset names. -/
theorem toNat_slot_targetAddr {off : Target} {pc : Word} (h : canonical (targetAddr off pc) = true) :
    (wordI (targetAddr off pc)).toNat % 64 = off.slot.toNat := by
  have hw := toNat_wordI h
  have hslot := off.slot.isLt
  have hdef : targetAddr off pc = (pc.toNat / 64 * 64 : Nat) + off.line.toInt * 64 + off.slot.toNat := by
    rw [targetAddr, toNat_lineOf]
  omega

theorem slotOf_targetAddr {off : Target} {pc : Word} (h : canonical (targetAddr off pc) = true) :
    slotOf (wordI (targetAddr off pc)) = (wordI (targetAddr off pc) &&& 63).toNat := by
  have hslot := off.slot.isLt
  have hmod := toNat_slot_targetAddr h
  have hand : (wordI (targetAddr off pc) &&& 63).toNat = (wordI (targetAddr off pc)).toNat % 64 := by
    rw [BitVec.toNat_and]
    exact Nat.and_two_pow_sub_one_eq_mod _ 6
  rw [hand, slotOf, natField]
  omega

theorem loopEnd_depth {s : State} (off : Target) (h : 4 ≤ s.me.loops.depth) :
    loopEnd off s = .error (.trap { cause := cLoopDepth, tval := 0 }) := by
  unfold loopEnd
  rw [M.bind_ok (getMe_run s)]
  simp only [h, if_true]
  rfl
theorem targetOf_run {s : State} {off : Target} (h : canonical (targetAddr off s.me.pc) = true) :
    targetOf off s = .ok (wordI (targetAddr off s.me.pc), s) := by
  unfold targetOf
  rw [M.bind_ok (getMe_run s)]
  simp only [h, if_true]
  rfl
theorem targetOf_noncanon {s : State} {off : Target} (h : canonical (targetAddr off s.me.pc) = false) :
    targetOf off s = .error (.trap { cause := cNoncanon, tval := wordI (targetAddr off s.me.pc) }) := by
  unfold targetOf
  rw [M.bind_ok (getMe_run s)]
  simp only [h, Bool.false_eq_true, if_false]
  rfl
/-- With room for a level, what is left of END is its form and its place. -/
theorem loopEnd_room {s : State} (off : Target) (h : ¬4 ≤ s.me.loops.depth) :
    loopEnd off s = (do
      let fin ← targetOf off
      if fin.toNat ≤ s.me.pc.toNat then trap cIllegalTarget fin
      return fin : M Word) s := by
  unfold loopEnd
  rw [M.bind_ok (getMe_run s)]
  simp only [h, if_false]
theorem loopEnd_noncanon {s : State} {off : Target} (hd : ¬4 ≤ s.me.loops.depth) (hc : canonical (targetAddr off s.me.pc) = false) :
    loopEnd off s = .error (.trap { cause := cNoncanon, tval := wordI (targetAddr off s.me.pc) }) := by
  rw [loopEnd_room off hd, M.bind_error (targetOf_noncanon hc)]
theorem loopEnd_backward {s : State} {off : Target} (hd : ¬4 ≤ s.me.loops.depth) (hc : canonical (targetAddr off s.me.pc) = true)
    (hle : (wordI (targetAddr off s.me.pc)).toNat ≤ s.me.pc.toNat) :
    loopEnd off s = .error (.trap { cause := cIllegalTarget, tval := wordI (targetAddr off s.me.pc) }) := by
  rw [loopEnd_room off hd, M.bind_ok (targetOf_run hc)]
  simp only [hle, if_true]
  rfl
theorem loopEnd_run {s : State} {off : Target} (hd : ¬4 ≤ s.me.loops.depth) (hc : canonical (targetAddr off s.me.pc) = true)
    (hle : ¬(wordI (targetAddr off s.me.pc)).toNat ≤ s.me.pc.toNat) :
    loopEnd off s = .ok (wordI (targetAddr off s.me.pc), s) := by
  rw [loopEnd_room off hd, M.bind_ok (targetOf_run hc)]
  simp only [hle, if_false]
  rfl

/-! ### The instruction after END (R89, R146) -/

theorem addressAfter_own {s : State} {a : Word} (hrep : s.me.rep.mode ≠ .running) (h : lineOf a = lineOf s.me.pc) :
    addressAfter a s = onward (nextOf s.line a) s := by
  unfold addressAfter
  rw [M.bind_ok (M.get_run s), if_pos ⟨h, hrep⟩]
theorem addressAfter_last {s : State} {a : Word} (h : lineOf a ≠ lineOf s.me.pc) (hk : 4 ≤ slotOf a) :
    addressAfter a s = onward (lineOf a + 64) s := by
  unfold addressAfter
  rw [M.bind_ok (M.get_run s), if_neg (fun hc => h hc.1), if_pos hk]
/-- Otherwise END's own line says what follows it. -/
theorem addressAfter_fetch {s : State} {a : Word} (h : lineOf a ≠ lineOf s.me.pc) (hk : ¬4 ≤ slotOf a) :
    addressAfter a s = (do onward (nextOf (← fetchLine a) a) : M Word) s := by
  unfold addressAfter
  rw [M.bind_ok (M.get_run s), if_neg (fun hc => h hc.1), if_neg hk]
theorem M.bind_fetchLine {α : Type} (s : State) (a : Word) (f : BitVec 512 → M α) :
    (do f (← fetchLine a) : M α) s = match s.fetch s.cur a with
      | (.line b, t) => f b t
      | (.trap e, t) => .error (.done (takeTrap e t))
      | (.wait w, _) => .error (.wait w false) := by
  have hfetch : fetchLine a s = match s.fetch s.cur a with
      | (.line b, t) => .ok (b, t)
      | (.trap e, t) => .error (.done (takeTrap e t))
      | (.wait w, _) => .error (.wait w false) := by
    unfold fetchLine
    rw [M.bind_ok (M.get_run s)]
    cases s.fetch s.cur a with
    | mk r t => cases r <;> rfl
  cases hf : s.fetch s.cur a with
  | mk r t =>
    rw [hf] at hfetch
    cases r with
    | line b => exact M.bind_ok hfetch
    | trap e => exact M.bind_error hfetch
    | wait w => exact M.bind_error hfetch

theorem onward_zero {s : State} : onward 0 s = .error (.trap { cause := cNoncanon, tval := 0 }) := rfl
theorem onward_run {s : State} {a : Word} (h : a ≠ 0) : onward a s = .ok (a, s) := by
  unfold onward
  rw [if_neg h]
  rfl

/-! ### A level pushed (R146) -/

/-- The entry of one level replaced. -/
theorem getElem_set_level {d : Nat} (v : Vector Word 4) (a : Word) (h : d < 4) (k : Fin 4) :
    (v.set (d % 4) a (Nat.mod_lt _ (by decide)))[k] = if k.val = d then a else v[k] := by
  rw [Fin.getElem_fin, Vector.getElem_set, Nat.mod_eq_of_lt h]
  exact if_congr eq_comm rfl rfl

/-- What a push makes of the state word: the depth one more, the form of the new level, and the other bits as they were. -/
theorem Loops.push_state {l : Loops} (h : l.depth < 4) (start fin count : Word) (imm : Bool) :
    (l.push start fin count imm).depth = l.depth + 1 ∧ (l.push start fin count imm).state.getLsbD (4 + l.depth) = imm ∧
    ∀ k, 4 ≤ k → k ≠ 4 + l.depth → (l.push start fin count imm).state.getLsbD k = l.state.getLsbD k := by
  have hstate : (l.push start fin count imm).state =
      setField (if imm then bitOn l.state (4 + l.depth) else bitOff l.state (4 + l.depth)) 0 3 (l.depth + 1) := by
    simp only [Loops.push, Nat.mod_eq_of_lt h]
  have hbit : ∀ k, 4 ≤ k → (l.push start fin count imm).state.getLsbD k =
      (if imm then bitOn l.state (4 + l.depth) else bitOff l.state (4 + l.depth)).getLsbD k := by
    intro k hk
    by_cases h64 : k < 64
    · rw [hstate, getLsbD_setField _ _ _ _ h64, if_neg (by omega)]
    · rw [BitVec.getLsbD_of_ge _ _ (by omega), BitVec.getLsbD_of_ge _ _ (by omega)]
  refine ⟨?_, ?_, fun k hk hne => ?_⟩
  · have hf : field (l.push start fin count imm).state 0 3 = BitVec.ofNat 3 (l.depth + 1) := by
      ext i hi
      rw [← BitVec.getLsbD_eq_getElem, ← BitVec.getLsbD_eq_getElem, field, BitVec.getLsbD_extractLsb', hstate,
        getLsbD_setField _ _ _ _ (by omega), if_pos (by omega), BitVec.getLsbD_ofNat]
      simp
    rw [Loops.depth, natField_eq, hf, BitVec.toNat_ofNat]
    omega
  · rw [hbit _ (by omega)]
    cases imm <;> simp [bitOn, bitOff, show 4 + l.depth < 64 by omega]
  · rw [hbit k hk]
    cases imm <;> simp [bitOn, bitOff, BitVec.getLsbD_twoPow, Ne.symm hne]
    exact fun h => BitVec.lt_of_getLsbD h

/-! ### A body that ends its instruction (R20, R107) -/

/-- The state that an instruction ends in where it does not retire. -/
def Stop.after (e : Stop) (s : State) : State :=
  match e with
  | .trap t => takeTrap t s
  | .wait w waiting => waitState w waiting s
  | .done t => unretired s t

theorem outcome_error {act : M Unit} {s : State} {e : Stop} (h : act s = .error e) : outcome act s = .next (e.after s) := by
  unfold outcome
  rw [h]
  cases e <;> rfl
theorem privInstr_error {s : State} {sh : Shape} {allowed : M Unit} {body : M (Option Word)} {e : Stop}
    (hw : s.me.windows = []) (hg : s.me.executes sh.h = true) (hr : s.me.readableAll sh = true)
    (ha : allowed s = .ok ((), s)) (hb : body s = .error e) : privInstr sh allowed body s = .next (e.after s) := by
  simp only [Slot.executes, Bool.and_eq_true] at hg
  refine outcome_error ?_
  rw [M.bind_ok (guardOn_run hw sh.h hg.1)]
  simp only [hg.2, if_true]
  rw [M.bind_ok ha, M.bind_ok (checkSources_run hw sh.srcs hr), M.bind_ok (priorOf_run sh s), M.bind_error hb]

/-- Outside a repetition, next_pc is the next instruction of the line in program order (R126). -/
theorem nextPc_run {s : State} (h : s.me.rep.mode ≠ .running) : nextPc s = .ok (nextOf s.line s.me.pc, s) := by
  unfold nextPc
  rw [M.bind_ok (M.get_run s)]
  cases hmode : s.me.rep.mode with
  | running => exact absurd hmode h
  | off | reload => rfl

/-! ### LOOP and LOOPI -/

section
variable {s : State} {i : Instr} {h : Hdr} {srcs : List Src} {off : Target} {count entry : Word} {imm : Bool} {rd : M Word}

/-- The body of LOOP and LOOPI; `rd` answers the count. -/
def loopBody (off : Target) (rd : M Word) (entry : Word) (imm : Bool) : M (Option Word) := do
  let fin ← loopEnd off
  let c ← rd
  loopEnter fin c entry imm

/-- A loop that is refused takes its trap. -/
theorem loop_refused {sh : Shape} {e : Trap} (hr : s.ready sh = true) (he : loopEnd off s = .error (.trap e)) :
    instr sh (loopBody off rd entry imm) s = .next (takeTrap e s) := by
  obtain ⟨hs, hg, hsrc, -⟩ := State.ready_parts hr
  exact privInstr_trap (Slot.steady_windows hs) hg hsrc rfl (M.bind_error he)

variable (hr : s.ready ⟨h, srcs, none⟩ = true) {fin : Word} (hfin : loopEnd off s = .ok (fin, s)) (hrd : rd s = .ok (count, s))
include hr hfin hrd

/-- A zero count goes to the instruction after END. -/
theorem loop_skips {t : State} {next : Word} (h0 : count = 0) (ha : addressAfter fin s = onward next t) (ht : s.SlotsKept t) :
    if next = 0 then instr ⟨h, srcs, none⟩ (loopBody off rd entry imm) s = .next (takeTrap { cause := 0x11, tval := 0 } s)
    else instr ⟨h, srcs, none⟩ (loopBody off rd entry imm) s =
      .next (t.setMe (s.me.finish ⟨h, srcs, none⟩ (Shape.prior ⟨h, srcs, none⟩ s.me) next)) := by
  obtain ⟨hs, hg, hsrc, -⟩ := State.ready_parts hr
  have hw := Slot.steady_windows hs
  have hbody : loopBody off rd entry imm s = (do return some (← addressAfter fin) : M (Option Word)) s := by
    rw [loopBody, M.bind_ok hfin, M.bind_ok hrd, loopEnter, if_pos h0]
  split
  · rename_i hn
    subst hn
    exact privInstr_trap hw hg hsrc rfl (hbody.trans (M.bind_error ha))
  · rename_i hn
    refine privInstr_jump hs hg hsrc rfl (hbody.trans (M.bind_ok (ha.trans (onward_run hn)))) ?_ hw
    exact ht.me ▸ State.IsAt.refl t
/-- Unless END's own line cannot be had. -/
theorem loop_stops {e : Stop} (h0 : count = 0) (ha : addressAfter fin s = .error e) :
    instr ⟨h, srcs, none⟩ (loopBody off rd entry imm) s = .next (e.after s) := by
  obtain ⟨hs, hg, hsrc, -⟩ := State.ready_parts hr
  refine privInstr_error (Slot.steady_windows hs) hg hsrc rfl ?_
  rw [loopBody, M.bind_ok hfin, M.bind_ok hrd, loopEnter, if_pos h0, M.bind_error ha]

/-- Any other count pushes a level. -/
theorem loop_enters (h0 : count ≠ 0) (hd : s.me.loops.depth < 4) (hpc : fin ≠ s.me.pc) :
    instr ⟨h, srcs, none⟩ (loopBody off rd entry imm) s = .next (s.retires ⟨h, srcs, none⟩
      { s.me with loops := s.me.loops.push (nextOf s.line s.me.pc) fin entry imm }) := by
  obtain ⟨hs, hg, hsrc, -⟩ := State.ready_parts hr
  have hsteady : ({ s.me with loops := s.me.loops.push (nextOf s.line s.me.pc) fin entry imm } : Slot).steady = true := by
    have hdepth := (Loops.push_state hd (nextOf s.line s.me.pc) fin entry imm).1
    simp only [Slot.steady, Bool.and_eq_true, List.isEmpty_iff, decide_eq_true_eq, Slot.steady_windows hs, hdepth]
    simp [Loops.push, hpc, Slot.steady_rep hs]
  have hbody : loopBody off rd entry imm s =
      .ok (none, s.setMe { s.me with loops := s.me.loops.push (nextOf s.line s.me.pc) fin entry imm }) := by
    rw [loopBody, M.bind_ok hfin, M.bind_ok hrd, loopEnter, if_neg h0, M.bind_ok (nextPc_run (Slot.steady_rep hs))]
    rfl
  exact privInstr_run hs hg hsrc rfl hbody (s.isAt_setMe _) hsteady

end

/-- Settles O6: the checks of END in their order, the skip of a zero count, and the push of a level otherwise. -/
theorem loopsEnterAndSkip : Obligations.LoopsEnterAndSkip := by
  unfold Obligations.LoopsEnterAndSkip
  intro s hsteady x d runs
  have hd : s.me.loops.depth = d := natField_eq ..
  have key : ∀ (i : Instr) (h : Hdr) (srcs : List Src) (off : Target) (count entry : Word) (imm : Bool) (rd : M Word),
      s.ready ⟨h, srcs, none⟩ = true → exec i s = instr ⟨h, srcs, none⟩ (loopBody off rd entry imm) s → rd s = .ok (count, s) →
      runs i ⟨h, srcs, none⟩ off count entry imm := by
    intro i h srcs off count entry imm rd hr hexec hrd
    show if _ then _ else if _ then _ else if _ then _ else if _ then _ else _
    split
    · rename_i h4
      exact hexec.trans (loop_refused hr (loopEnd_depth off (hd ▸ h4)))
    rename_i h4
    split
    · rename_i hc
      exact hexec.trans (loop_refused hr (loopEnd_noncanon (hd ▸ h4) hc))
    rename_i hc
    have hc : canonical (targetAddr off s.me.pc) = true := Bool.not_eq_false _ ▸ hc
    have hnum : ((wordI (targetAddr off s.me.pc)).toNat : Int) = targetAddr off s.me.pc := toNat_wordI hc
    split
    · rename_i hle
      refine hexec.trans (loop_refused hr (loopEnd_backward (hd ▸ h4) hc ?_))
      have : targetAddr off s.me.pc ≤ s.me.pc.toNat := hle
      omega
    rename_i hle
    have hle : ¬(wordI (targetAddr off s.me.pc)).toNat ≤ s.me.pc.toNat := by
      have : ¬targetAddr off s.me.pc ≤ s.me.pc.toNat := hle
      omega
    have hfin := loopEnd_run (hd ▸ h4) hc hle
    have hne : wordI (targetAddr off s.me.pc) ≠ s.me.pc := fun he => hle (by rw [he])
    split
    · rename_i h0
      have hskips {t : State} {next : Word} (ha : addressAfter (wordI (targetAddr off s.me.pc)) s = onward next t) (ht : s.SlotsKept t) :=
        hexec ▸ loop_skips (entry := entry) (imm := imm) hr hfin hrd h0 ha ht
      have hslot := slotOf_targetAddr hc
      intro skips
      split
      · rename_i hl
        exact hskips (addressAfter_own (Slot.steady_rep hsteady) hl) (.refl s)
      rename_i hl
      split
      · rename_i hk
        exact hskips (addressAfter_last hl (hslot ▸ hk)) (.refl s)
      rename_i hk
      have ha := (addressAfter_fetch hl (fun h4 => hk (hslot ▸ h4))).trans (M.bind_fetchLine s _ _)
      split
      all_goals
        rename_i hf
        rw [hf] at ha
      · exact hskips ha (State.slotsKept_fetch hf)
      · exact hexec.trans (loop_stops hr hfin hrd h0 ha)
      · rw [hexec.trans (loop_stops hr hfin hrd h0 ha), Stop.after, unretired_takeTrap (State.slotsKept_fetch hf) (State.fetch_stream hf)]
    · rename_i h0
      have h4 : s.me.loops.depth < 4 := by omega
      refine ⟨_, hexec.trans (loop_enters hr hfin hrd h0 h4 hne), rfl, ?_⟩
      obtain ⟨hdepth, himm, hbits⟩ := Loops.push_state h4 (nextOf s.line s.me.pc) (wordI (targetAddr off s.me.pc)) entry imm
      rw [← hd]
      exact ⟨(natField_eq ..).symm.trans hdepth, himm, hbits, getElem_set_level _ _ h4, getElem_set_level _ _ h4, getElem_set_level _ _ h4⟩
  refine ⟨fun f hr => ?_, fun f hr => ?_⟩
  · exact key _ _ _ _ _ _ _ (readG 1 f.a) hr rfl (readG_run (State.ready_windows hr) 1 f.a (State.ready_source hr (m := (1, .g, f.a)) (by simp)))
  · exact key _ _ _ _ _ _ _ (pure (zext64 f.imm)) hr rfl rfl

end Sys2Proof.Machine

/-! ## The end of a pass of a hardware loop (R147) -/

namespace Sys2Proof.Machine

/-! ### The retirement that every body leads to (R89, R104) -/

theorem outcome_congr {act act' : M Unit} {s : State} (h : act s = act' s) : outcome act s = outcome act' s := by
  unfold outcome
  rw [h]

theorem instr_retires {s s' : State} {sh : Shape} {body : M (Option Word)} {jump : Option Word} (hw : s.me.windows = [])
    (hg : s.me.executes sh.h = true) (hr : s.me.readableAll sh = true) (hb : body s = .ok (jump, s')) :
    instr sh body s = outcome (fun _ => retireAt sh (sh.prior s.me) jump s') s := by
  simp only [Slot.executes, Bool.and_eq_true] at hg
  refine outcome_congr ?_
  rw [M.bind_ok (guardOn_run hw sh.h hg.1)]
  simp only [hg.2, if_true]
  rw [M.bind_ok (M.pure_run () s), M.bind_ok (checkSources_run hw sh.srcs hr), M.bind_ok (priorOf_run sh s), M.bind_ok hb]
theorem vecInstr_retires {s s' : State} {sh : Shape} {active : Word → Bool} {body : Word → M Unit} (hw : s.me.windows = [])
    (hv : s.me.regs.validP (guardReg sh.h) = true) (hr : s.me.readableAll sh = true) (hl : active (s.me.lanes sh.h) = true)
    (hb : body (s.me.lanes sh.h) s = .ok ((), s')) :
    vecInstr sh active body s = outcome (fun _ => retireAt sh (sh.prior s.me) none s') s := by
  refine outcome_congr ?_
  rw [M.bind_ok (laneMask_run hw sh.h hv)]
  simp only [hl, if_true]
  rw [M.bind_ok (checkSources_run hw sh.srcs hr), M.bind_ok (priorOf_run sh s), M.bind_ok hb]
theorem instr_off {s : State} {sh : Shape} {body : M (Option Word)} (hw : s.me.windows = []) (hg : s.me.guardedOff sh.h = true) :
    instr sh body s = outcome (retireOff sh) s := by
  simp only [Slot.guardedOff, Bool.and_eq_true, beq_iff_eq] at hg
  refine outcome_congr ?_
  rw [M.bind_ok (guardOn_run hw sh.h hg.1)]
  simp only [hg.2, bne_self_eq_false, Bool.false_eq_true, if_false]

/-! ### The retirement by itself -/

/-- The windows move on, and that of the instruction opens (R105). -/
def Slot.opens (sh : Shape) (prior : Nat × Bool) (y : Slot) : Slot := y.tickWindows.openWindow sh prior

theorem retireAt_taken (sh : Shape) (prior : Nat × Bool) (t : Word) (s : State) :
    retireAt sh prior (some t) s = .ok ((), s.setMe (Slot.opens sh prior { s.me.releaseMarks sh with pc := t })) := by
  unfold retireAt
  rw [M.bind_ok (modMe_run _ s), M.bind_ok (getMe_run _)]
  dsimp only
  rw [M.bind_ok (modMe_run _ _)]
  simp only [modMe_run, State.me_setMe, State.setMe_setMe]
  rfl

/-- Without a transfer and a repetition, the marks take effect, and the strand goes where the end of a pass says, else on. -/
def retireBack (sh : Shape) (prior : Nat × Bool) (next : Word) (back : M (Option Word)) : M Unit := do
  match ← back with
  | some t => modMe fun y => { y with pc := t }
  | none => modMe fun y => y.goOn next
  modMe (Slot.opens sh prior)
theorem retireAt_falls {s : State} (sh : Shape) (prior : Nat × Bool) (hrep : s.me.rep.mode ≠ .running) :
    retireAt sh prior none s = retireBack sh prior (nextOf s.line s.me.pc) (backEdge s.me.pc) (s.setMe (s.me.releaseMarks sh)) := by
  obtain ⟨hpc, hmode, -, -, -⟩ := s.me.releaseMarks_keeps sh
  have hz : (s.setMe (s.me.releaseMarks sh)).me.rep.mode ≠ .running := by rwa [State.me_setMe, hmode]
  unfold retireAt
  rw [M.bind_ok (modMe_run _ s), M.bind_ok (getMe_run _), State.me_setMe]
  dsimp only
  have hnext : nextPc (s.setMe (s.me.releaseMarks sh)) = .ok (nextOf s.line s.me.pc, s.setMe (s.me.releaseMarks sh)) := by
    rw [nextPc_run hz, State.me_setMe, State.setMe_line, hpc]
  rw [hpc]
  cases h : (s.me.releaseMarks sh).rep.mode with
  | running => exact absurd h (hmode ▸ hrep)
  | off | reload => exact M.bind_ok hnext

theorem retireBack_some {s u : State} {back : M (Option Word)} {t : Word} (h : back s = .ok (some t, u)) (sh : Shape) (prior : Nat × Bool)
    (next : Word) : retireBack sh prior next back s = .ok ((), u.setMe (Slot.opens sh prior { u.me with pc := t })) := by
  unfold retireBack
  rw [M.bind_ok h]
  dsimp only
  rw [M.bind_ok (modMe_run _ u), modMe_run, State.me_setMe, State.setMe_setMe]
theorem retireBack_none {s u : State} {back : M (Option Word)} (h : back s = .ok (none, u)) (sh : Shape) (prior : Nat × Bool)
    (next : Word) : retireBack sh prior next back s = .ok ((), u.setMe (Slot.opens sh prior (u.me.goOn next))) := by
  unfold retireBack
  rw [M.bind_ok h]
  dsimp only
  rw [M.bind_ok (modMe_run _ u), modMe_run, State.me_setMe, State.setMe_setMe]
theorem retireBack_error {s : State} {back : M (Option Word)} {e : Stop} (h : back s = .error e) (sh : Shape) (prior : Nat × Bool)
    (next : Word) : retireBack sh prior next back s = .error e := by
  unfold retireBack
  rw [M.bind_error h]

theorem backEdge_none {s : State} {pc : Word} (h : s.me.loops.depth ≤ 4)
    (hf : ∀ k : Fin 4, s.me.loops.depth = k.val + 1 → s.me.loops.fin[k] ≠ pc) : backEdge pc s = .ok (none, s) := by
  unfold backEdge
  rw [M.bind_ok (getMe_run s)]
  split
  · rfl
  · rename_i h0
    rw [if_neg ?_]
    · rfl
    · have := hf ⟨s.me.loops.depth - 1, by omega⟩ (by dsimp only; omega)
      simpa [Nat.mod_eq_of_lt (show s.me.loops.depth - 1 < 4 by omega)] using this
theorem backEdge_fin {s : State} {pc : Word} {k : Fin 4} (hd : s.me.loops.depth = k.val + 1) (hf : s.me.loops.fin[k] = pc) :
    backEdge pc s = endOfPass (k.val + 1) s := by
  unfold backEdge
  rw [M.bind_ok (getMe_run s)]
  simp only [hd, Nat.add_one_ne_zero, if_false, Nat.add_sub_cancel, Nat.mod_eq_of_lt k.isLt]
  exact congrFun (if_pos hf) s

/-! ### One level (R147) -/

/-- The count that the end of a pass at level `k` reads, and how it writes one. -/
def Loops.readPass (l : Loops) (k : Nat) : M Word :=
  if l.immForm k then return l.count[k % 4]'(Nat.mod_lt _ (by decide))
  else readCount (BitVec.ofNat 5 (l.count[k % 4]'(Nat.mod_lt _ (by decide))).toNat)
def Loops.writePass (l : Loops) (k : Nat) (v : Word) : M Unit :=
  if l.immForm k then modMe fun x => { x with loops := { x.loops with count := x.loops.count.set (k % 4) v (Nat.mod_lt _ (by decide)) } }
  else writeCount (BitVec.ofNat 5 (l.count[k % 4]'(Nat.mod_lt _ (by decide))).toNat) v

theorem endOfPass_succ (k : Nat) (s : State) : endOfPass (k + 1) s = (do
    let c ← s.me.loops.readPass k
    if c.toNat ≤ 1 then
      s.me.loops.writePass k 0
      modMe fun x => { x with loops := x.loops.withDepth k }
      if 0 < k ∧ s.me.loops.fin[(k - 1) % 4]'(Nat.mod_lt _ (by decide)) = s.me.loops.fin[k % 4]'(Nat.mod_lt _ (by decide))
      then endOfPass k else return none
    else
      s.me.loops.writePass k (c - 1)
      return some (s.me.loops.start[k % 4]'(Nat.mod_lt _ (by decide))) : M (Option Word)) s := rfl

/-- The level below has the same END. -/
def Loops.shared (l : Loops) (k : Fin 4) : Prop := ∃ j : Fin 4, j.val + 1 = k.val ∧ l.fin[j] = l.fin[k]
theorem Loops.shared_iff (l : Loops) (k : Fin 4) : l.shared k ↔
    (0 < k.val ∧ l.fin[(k.val - 1) % 4]'(Nat.mod_lt _ (by decide)) = l.fin[k.val % 4]'(Nat.mod_lt _ (by decide))) := by
  have hk := k.isLt
  simp only [Nat.mod_eq_of_lt hk, Nat.mod_eq_of_lt (show k.val - 1 < 4 by omega)]
  constructor
  · rintro ⟨j, hj, he⟩
    exact ⟨by omega, by simpa [← hj] using he⟩
  · rintro ⟨h0, he⟩
    exact ⟨⟨k.val - 1, by omega⟩, by dsimp only; omega, he⟩

/-- The innermost level ended: the level below is the innermost from then on. -/
def Slot.outOf (k : Nat) (y : Slot) : Slot := { y with loops := y.loops.withDepth k }

/-- The end of a pass at level `k`, where the count reads as `c` and `put` is the slot with a count written (R147). -/
theorem endOfPass_ends {s : State} {k : Fin 4} {c : Word} {put : Word → Slot} (hc : s.me.loops.readPass k.val s = .ok (c, s))
    (hput : ∀ v, s.me.loops.writePass k.val v s = .ok ((), s.setMe (put v))) :
    (1 < c.toNat → endOfPass (k.val + 1) s = .ok (some s.me.loops.start[k], s.setMe (put (c - 1)))) ∧
    (c.toNat ≤ 1 → ¬s.me.loops.shared k → endOfPass (k.val + 1) s = .ok (none, s.setMe ((put 0).outOf k.val))) ∧
    (c.toNat ≤ 1 → s.me.loops.shared k → endOfPass (k.val + 1) s = endOfPass k.val (s.setMe ((put 0).outOf k.val))) := by
  have hdone : (do
      s.me.loops.writePass k.val 0
      modMe fun x => { x with loops := x.loops.withDepth k.val } : M Unit) s = .ok ((), s.setMe ((put 0).outOf k.val)) := by
    rw [M.bind_ok (hput 0), modMe_run, State.me_setMe, State.setMe_setMe]
    rfl
  rw [endOfPass_succ, M.bind_ok hc]
  refine ⟨fun h1 => ?_, fun h1 hs => ?_, fun h1 hs => ?_⟩
  · rw [if_neg (by omega), M.bind_ok (hput (c - 1))]
    simp only [Nat.mod_eq_of_lt k.isLt]
    rfl
  · rw [if_pos h1, M.bind_ok (hput 0), M.bind_ok (modMe_run _ _), if_neg (fun h => hs ((Loops.shared_iff _ k).mpr h)),
      State.me_setMe, State.setMe_setMe]
    rfl
  · rw [if_pos h1, M.bind_ok (hput 0), M.bind_ok (modMe_run _ _), if_pos ((Loops.shared_iff _ k).mp hs),
      State.me_setMe, State.setMe_setMe]
    rfl

/-! ### The two forms of a level -/

/-- The count of an immediate level replaced. -/
def Slot.putImm (x : Slot) (k : Fin 4) (v : Word) : Slot := { x with loops := { x.loops with count := x.loops.count.set k.val v k.isLt } }

theorem readPass_imm {s : State} {k : Fin 4} (h : s.me.loops.state.getLsbD (4 + k.val) = true) :
    s.me.loops.readPass k.val s = .ok (s.me.loops.count[k], s) := by
  unfold Loops.readPass Loops.immForm
  rw [if_pos h]
  simp only [Nat.mod_eq_of_lt k.isLt]
  rfl
theorem writePass_imm {s : State} {k : Fin 4} (h : s.me.loops.state.getLsbD (4 + k.val) = true) (v : Word) :
    s.me.loops.writePass k.val v s = .ok ((), s.setMe (s.me.putImm k v)) := by
  unfold Loops.writePass Loops.immForm
  rw [if_pos h]
  simp only [Nat.mod_eq_of_lt k.isLt]
  rfl

/-- The count register of a level. -/
def Loops.countReg (l : Loops) (k : Fin 4) : BitVec 5 := l.count[k].setWidth 5

theorem readPass_reg {s : State} {k : Fin 4} (h : s.me.loops.state.getLsbD (4 + k.val) = false) :
    s.me.loops.readPass k.val s = readCount (s.me.loops.countReg k) s := by
  unfold Loops.readPass Loops.immForm Loops.countReg
  rw [if_neg (by rw [h]; exact Bool.false_ne_true)]
  simp only [Nat.mod_eq_of_lt k.isLt, BitVec.ofNat_toNat]
  rfl
theorem writePass_reg {s : State} {k : Fin 4} (h : s.me.loops.state.getLsbD (4 + k.val) = false) (v : Word) :
    s.me.loops.writePass k.val v s = writeCount (s.me.loops.countReg k) v s := by
  unfold Loops.writePass Loops.immForm Loops.countReg
  rw [if_neg (by rw [h]; exact Bool.false_ne_true)]
  simp only [Nat.mod_eq_of_lt k.isLt, BitVec.ofNat_toNat]
  rfl

theorem readCount_run {s : State} {r : BitVec 5} (h : s.me.regs.validG r = true) : readCount r s = .ok (s.me.regs.getG r, s) := by
  unfold readCount
  rw [M.bind_ok (getMe_run s), if_pos h]
  rfl
theorem readCount_invalid {s : State} {r : BitVec 5} (h : s.me.regs.validG r = false) :
    readCount r s = .error (.trap { cause := 0x05, tval := BitVec.ofNat 64 (2 * r.toNat + 256 * 5) }) := by
  have hspec : ∀ r : BitVec 5, (dstOf .g r).toNat = 2 * r.toNat := by decide
  unfold readCount
  rw [M.bind_ok (getMe_run s), if_neg (by rw [h]; exact Bool.false_ne_true), invalidReg, hspec]
  rfl
/-- A count register of the strand's own, outside every window. -/
theorem writeCount_run {s : State} {r : BitVec 5} (hw : s.me.windows = []) (hb : s.me.boundTo .g r = none)
    (hown : r = 0 ∨ s.me.regs.own .g r = true) (v : Word) : writeCount r v s = .ok ((), s.setMe (s.me.withG r v)) := by
  have hx : ({ s.me with windows := s.me.windows.filter fun w => !(w.cls == .g && w.num == r.toNat) } : Slot) = s.me := by
    rw [hw, List.filter_nil, ← hw]
  unfold writeCount
  rw [M.bind_ok (modMe_run _ s), hx]
  by_cases h0 : r = 0
  · subst h0
    rfl
  · have hown := hown.resolve_left h0
    rw [writeG_of_breach (t := s.setMe s.me) (b := true) h0 (by rwa [State.me_setMe]) (by rwa [State.me_setMe])
      (breach_run (by rwa [State.me_setMe]) .g r)]
    simp [Slot.withG]

/-- The marks take effect whatever the loops. -/
theorem Slot.releaseMarks_withLoops (x : Slot) (sh : Shape) (l : Loops) :
    ({ x with loops := l } : Slot).releaseMarks sh = { x.releaseMarks sh with loops := l } := by
  unfold Slot.releaseMarks
  generalize sh.srcs = srcs
  induction srcs generalizing x with
  | nil => rfl
  | cons a srcs ih =>
    have hstep : release1 sh.dst { x with loops := l } a.2.1 a.2.2 = { release1 sh.dst x a.2.1 a.2.2 with loops := l } := by
      have hb : Slot.boundTo { x with loops := l } a.2.1 a.2.2.n = x.boundTo a.2.1 a.2.2.n := rfl
      unfold release1
      rw [hb]
      split <;> rfl
    rw [List.foldl_cons, List.foldl_cons, hstep, ih]

theorem Slot.releaseMarks_putImm (x : Slot) (sh : Shape) (k : Fin 4) (v : Word) :
    (x.putImm k v).releaseMarks sh = (x.releaseMarks sh).putImm k v := by
  obtain ⟨-, -, hloops, -, -⟩ := x.releaseMarks_keeps sh
  rw [Slot.putImm, Slot.releaseMarks_withLoops, Slot.putImm, hloops]

/-! ### ADD and NOP at LEND -/

/-- An `add` at the LEND of an immediate level that goes round again. -/
theorem add_pass {s : State} {f : IntBin} {k : Fin 4} (hw : s.me.windows = []) (hrep : s.me.rep.mode ≠ .running)
    (hg : s.me.executes f.h = true) (hsrc : s.me.readableAll (intBinShape f) = true) (hdst : s.dstOk (intBinShape f) = true)
    (hd : s.me.loops.depth = k.val + 1) (hf : s.me.loops.fin[k] = s.me.pc) (himm : s.me.loops.state.getLsbD (4 + k.val) = true)
    (h1 : 1 < s.me.loops.count[k].toNat) :
    exec (.add f) s = .next (s.setMe (Slot.finish ((s.me.withG f.rd (s.me.regs.getG f.a.n + s.me.opnd f.b)).putImm k (s.me.loops.count[k] - 1))
      (intBinShape f) ((intBinShape f).prior s.me) s.me.loops.start[k])) := by
  obtain ⟨t, ht, hat⟩ := writeG_run hw f.rd (s.me.regs.getG f.a.n + s.me.opnd f.b) hdst
  have hbody : (do
      let a ← readG 1 f.a
      let b ← readOpnd 2 f.b
      writeG f.rd (a + b) : M Unit) s = .ok ((), t) := by
    simp only [intBinShape, Slot.readableAll, List.all_cons, Bool.and_eq_true] at hsrc
    rw [M.bind_ok (readG_run hw 1 f.a hsrc.1), M.bind_ok (readOpnd_run hw 2 f.b (opndSrc_readable hsrc.2)), ht]
  have hrun : exec (.add f) s = outcome (fun _ => retireAt (intBinShape f) ((intBinShape f).prior s.me) none t) s :=
    instr_retires (sh := intBinShape f) hw hg hsrc (M.bind_ok hbody)
  refine hrun.trans (outcome_ok ?_)
  obtain ⟨hpc, -, hloops, -, hwin⟩ := t.me.releaseMarks_keeps (intBinShape f)
  have hx : t.me.loops = s.me.loops ∧ t.me.pc = s.me.pc ∧ t.me.rep = s.me.rep := by
    rw [hat.me]
    exact ⟨rfl, rfl, rfl⟩
  obtain ⟨hl, hp, hm⟩ := hx
  generalize hz : t.me.releaseMarks (intBinShape f) = z at hpc hloops hwin
  have hback : backEdge t.me.pc (t.setMe z) = .ok (some s.me.loops.start[k], s.setMe (z.putImm k (s.me.loops.count[k] - 1))) := by
    have hzl : (t.setMe z).me.loops = s.me.loops := by rw [State.me_setMe, hloops, hl]
    rw [backEdge_fin (by rw [hzl, hd]) (by simp only [hzl]; rw [hf, hp])]
    have himm' : (t.setMe z).me.loops.state.getLsbD (4 + k.val) = true := by rw [hzl, himm]
    have := (endOfPass_ends (readPass_imm himm') (writePass_imm himm')).1 (by rw [hzl]; exact h1)
    rw [this, hzl, State.me_setMe, State.setMe_setMe, hat.rest]
  rw [retireAt_falls _ _ (by rw [hm]; exact hrep), hz, retireBack_some hback, State.setMe_setMe,
    State.me_setMe]
  have hw' : z.windows = [] := hwin (by rw [hat.me]; exact hw)
  rw [Slot.opens, Slot.tickWindows_nil (by exact hw'), Slot.finish, Slot.releaseMarks_putImm, ← hat.me, hz]

/-- NOP retires wherever it stands. -/
theorem nop_retires {s : State} (hw : s.me.windows = []) (hrep : s.me.rep.mode ≠ .running) :
    exec .nop s = outcome (fun _ => retireBack ⟨⟨0, 0⟩, [], none⟩ (0, false) (nextOf s.line s.me.pc) (backEdge s.me.pc) (s.setMe s.me)) s := by
  have hg : s.me.executes (⟨0, 0⟩ : Hdr) = true := by simp [Slot.executes, guardReg, field, Regs.validP, Regs.getP]
  refine (instr_retires (sh := ⟨⟨0, 0⟩, [], none⟩) hw hg rfl rfl).trans (outcome_congr ?_)
  exact retireAt_falls _ _ hrep

theorem outcome_ok_eq {act act' : M Unit} {s s' t : State} (h : act s = .ok ((), t)) (h' : act' s' = .ok ((), t)) :
    outcome act s = outcome act' s' := (outcome_ok h).trans (outcome_ok h').symm

/-- The depth does not share a bit with the forms. -/
theorem Loops.withDepth_form (l : Loops) (d j : Nat) : (l.withDepth d).state.getLsbD (4 + j) = l.state.getLsbD (4 + j) := by
  by_cases h : 4 + j < 64
  · rw [Loops.withDepth, getLsbD_setField _ _ _ _ h, if_neg (by omega)]
  · rw [BitVec.getLsbD_of_ge _ _ (by omega), BitVec.getLsbD_of_ge _ _ (by omega)]
theorem Loops.withDepth_depth (l : Loops) {d : Nat} (h : d < 8) : (l.withDepth d).depth = d := by
  have hf : field (l.withDepth d).state 0 3 = BitVec.ofNat 3 d := by
    ext i hi
    rw [← BitVec.getLsbD_eq_getElem, ← BitVec.getLsbD_eq_getElem, field, BitVec.getLsbD_extractLsb', Loops.withDepth,
      getLsbD_setField _ _ _ _ (by omega), if_pos (by omega), BitVec.getLsbD_ofNat]
    simp
  rw [Loops.depth, natField_eq, hf, BitVec.toNat_ofNat]
  omega

/-- Immediate levels end without a fault. -/
theorem endOfPass_imm (k : Nat) (hk : k ≤ 4) (s : State) (h : ∀ j, j < k → s.me.loops.state.getLsbD (4 + j) = true) :
    ∃ r t, endOfPass k s = .ok (r, t) := by
  induction k generalizing s with
  | zero => exact ⟨none, s, rfl⟩
  | succ k ih =>
    have himm := h k (by omega)
    obtain ⟨hmore, hlast, hshared⟩ := endOfPass_ends (k := ⟨k, by omega⟩) (readPass_imm himm) (writePass_imm himm)
    by_cases h1 : 1 < (s.me.loops.count[(⟨k, by omega⟩ : Fin 4)]).toNat
    · exact ⟨_, _, hmore h1⟩
    by_cases hs : s.me.loops.shared ⟨k, by omega⟩
    · rw [hshared (by omega) hs]
      refine ih (by omega) _ fun j hj => ?_
      rw [State.me_setMe, Slot.outOf, Loops.withDepth_form]
      exact h j (by omega)
    · exact ⟨_, _, hlast (by omega) hs⟩

section
variable {s : State} {k : Fin 4} {c : Word} {put : Word → Slot}
variable (hw : s.me.windows = []) (hrep : s.me.rep.mode ≠ .running) (hd : s.me.loops.depth = k.val + 1) (hf : s.me.loops.fin[k] = s.me.pc)
include hw hrep hd hf

/-- NOP at the LEND of a level whose count reads as `c`: round again, out of the level, or out of it with the level below to end. -/
theorem nop_ends (hc : (s.setMe s.me).me.loops.readPass k.val (s.setMe s.me) = .ok (c, s.setMe s.me))
    (hput : ∀ v, (s.setMe s.me).me.loops.writePass k.val v (s.setMe s.me) = .ok ((), (s.setMe s.me).setMe (put v)))
    (hkeep : ∀ v, (put v).windows = [] ∧ (put v).rep = s.me.rep ∧ (put v).loops.fin = s.me.loops.fin ∧
      (put v).loops.state = s.me.loops.state ∧ (put v).pc = s.me.pc) :
    (1 < c.toNat → exec .nop s = .next (s.setMe { put (c - 1) with pc := s.me.loops.start[k] })) ∧
    (c.toNat ≤ 1 → ¬s.me.loops.shared k → exec .nop s = .next (s.setMe (((put 0).outOf k.val).goOn (nextOf s.line s.me.pc)))) ∧
    (c.toNat ≤ 1 → s.me.loops.shared k → (∀ j, j < k.val → s.me.loops.state.getLsbD (4 + j) = true) →
      exec .nop s = exec .nop (s.setMe ((put 0).outOf k.val))) := by
  obtain ⟨hmore, hlast, hshared⟩ := endOfPass_ends hc hput
  simp only [State.me_setMe, State.setMe_setMe] at hmore hlast hshared
  have hback : backEdge s.me.pc (s.setMe s.me) = endOfPass (k.val + 1) (s.setMe s.me) :=
    backEdge_fin (by rw [State.me_setMe, hd]) (by simp only [State.me_setMe]; exact hf)
  have hopens : ∀ (y : Slot), y.windows = [] → Slot.opens ⟨⟨0, 0⟩, [], none⟩ (0, false) y = y := fun y hy => by
    rw [Slot.opens, Slot.tickWindows_nil hy]
    rfl
  rw [nop_retires hw hrep]
  refine ⟨fun h1 => outcome_ok ?_, fun h1 hs => outcome_ok ?_, fun h1 hs himm => ?_⟩
  · rw [retireBack_some (hback.trans (hmore h1)), State.setMe_setMe, State.me_setMe, hopens]
    exact (hkeep _).1
  · rw [retireBack_none (hback.trans (hlast h1 hs)), State.setMe_setMe, State.me_setMe, hopens]
    exact (hkeep _).1
  · obtain ⟨hw0, hrep0, hfin0, hst0, hpc0⟩ := hkeep 0
    obtain ⟨j, hj, hjf⟩ := hs
    have hd' : (s.setMe ((put 0).outOf k.val)).me.loops.depth = j.val + 1 := by
      rw [State.me_setMe, Slot.outOf, Loops.withDepth_depth _ (by omega), hj]
    have hf' : (s.setMe ((put 0).outOf k.val)).me.loops.fin[j] = s.me.pc := by
      rw [State.me_setMe]
      show (put 0).loops.fin[j] = _
      rw [hfin0, hjf, hf]
    rw [nop_retires (s := s.setMe ((put 0).outOf k.val)) (by rw [State.me_setMe]; exact hw0) (by rw [State.me_setMe]; exact hrep0 ▸ hrep)]
    have hback' : backEdge (s.setMe ((put 0).outOf k.val)).me.pc (s.setMe ((put 0).outOf k.val)) =
        endOfPass k.val (s.setMe ((put 0).outOf k.val)) := by
      rw [backEdge_fin hd' (by rw [hf', State.me_setMe]; exact hpc0.symm), hj]
    obtain ⟨r, t, ht⟩ := endOfPass_imm k.val (by omega) (s.setMe ((put 0).outOf k.val)) fun i hi => by
      rw [State.me_setMe, Slot.outOf, Loops.withDepth_form, hst0]
      exact himm i hi
    have hone := hback.trans ((hshared h1 ⟨j, hj, hjf⟩).trans ht)
    have htwo := hback'.trans ht
    have hme : (s.setMe ((put 0).outOf k.val)).setMe (s.setMe ((put 0).outOf k.val)).me = s.setMe ((put 0).outOf k.val) := by
      rw [State.me_setMe, State.setMe_setMe]
    have hnext : nextOf (s.setMe ((put 0).outOf k.val)).line (s.setMe ((put 0).outOf k.val)).me.pc = nextOf s.line s.me.pc := by
      rw [State.me_setMe, State.setMe_line]
      exact congrArg _ hpc0
    simp only [hme, hnext]
    cases r with
    | none => exact outcome_ok_eq (retireBack_none hone ..) (retireBack_none htwo ..)
    | some a => exact outcome_ok_eq (retireBack_some hone ..) (retireBack_some htwo ..)

end

/-- Settles O7: the bodies lead to one retirement, which asks for the end of a pass; that end, level by level; `add` and `nop` by them. -/
theorem loopPassEnds : Obligations.LoopPassEnds := by
  unfold Obligations.LoopPassEnds
  refine ⟨fun s sh hw => ⟨fun body jump s' hg hr hb => instr_retires hw hg hr hb,
    fun active body s' hv hr hl hb => vecInstr_retires hw hv hr hl hb, fun body hg => instr_off hw hg⟩,
    fun s sh prior hrep => ?_, fun s k => ?_, fun s f k => ?_, fun s hw hrep => ?_⟩
  · intro x d z opens next
    obtain ⟨hpc, -, hloops, -, -⟩ := s.me.releaseMarks_keeps sh
    have hd : s.me.loops.depth = d := natField_eq ..
    have hzd : (s.setMe z).me.loops.depth = d := by rw [State.me_setMe, hloops, hd]
    have hzf : ∀ k : Fin 4, (s.setMe z).me.loops.fin[k] = s.me.loops.fin[k] := fun k => by
      simp only [State.me_setMe]
      exact congrArg (fun l : Loops => l.fin[k]) hloops
    refine ⟨fun t => retireAt_taken sh prior t s, fun h4 hf => ?_, fun k hk hf => ?_⟩
    · have hback := backEdge_none (s := s.setMe z) (pc := s.me.pc) (hzd ▸ h4) fun k hk => by rw [hzf]; exact hf k (hzd ▸ hk)
      rw [retireAt_falls sh prior hrep, retireBack_none hback, State.setMe_setMe, State.me_setMe]
      rfl
    · have hback := backEdge_fin (s := s.setMe z) (pc := s.me.pc) (k := k) (hzd.trans hk) ((hzf k).trans hf)
      rw [retireAt_falls sh prior hrep, hk]
      exact ⟨fun start u h => retireBack_some (hback.trans h) sh prior _, fun u h => retireBack_none (hback.trans h) sh prior _,
        fun e h => retireBack_error (hback.trans h) sh prior _⟩
  · intro x imm r shared below putImm ends
    refine ⟨fun h => endOfPass_ends (readPass_imm h) (writePass_imm h), fun h => ⟨fun hv => ?_, fun hw hv hb hown => ?_⟩⟩
    · exact (endOfPass_succ ..).trans (M.bind_error ((readPass_reg h).trans (readCount_invalid hv)))
    · exact endOfPass_ends ((readPass_reg h).trans (readCount_run hv)) fun v => (writePass_reg h v).trans (writeCount_run hw hb hown v)
  · intro x sh hw hrep hg hr hd hdepth hf himm h1
    exact add_pass hw hrep hg hr hd ((natField_eq ..).trans hdepth) hf himm h1
  · intro x d next k hdk hf imm r shared immBelow putImm below
    have hd : s.me.loops.depth = k.val + 1 := (natField_eq ..).trans hdk
    have hform : ∀ b, imm = b → (s.setMe s.me).me.loops.state.getLsbD (4 + k.val) = b := fun b hb => by rw [State.me_setMe]; exact hb
    refine ⟨fun h => ?_, fun h => ⟨fun hv => ?_, fun hv hb hown => ?_⟩⟩
    · have hc := readPass_imm (hform true h)
      have hput := writePass_imm (hform true h)
      simp only [State.me_setMe] at hc hput
      exact nop_ends hw hrep hd hf (by simp only [State.me_setMe]; exact hc) (by simp only [State.me_setMe]; exact hput)
        fun v => ⟨hw, rfl, rfl, rfl, rfl⟩
    · have hinv := (readPass_reg (hform false h)).trans (readCount_invalid (by simp only [State.me_setMe]; exact hv))
      have hback : backEdge s.me.pc (s.setMe s.me) = _ :=
        (backEdge_fin (by rw [State.me_setMe, hd]) (by simp only [State.me_setMe]; exact hf)).trans
          ((endOfPass_succ ..).trans (M.bind_error hinv))
      simp only [State.me_setMe] at hback
      exact (nop_retires hw hrep).trans (outcome_trap (retireBack_error hback ..))
    · have hc := (readPass_reg (hform false h)).trans (readCount_run (by simp only [State.me_setMe]; exact hv))
      have hput := fun v => (writePass_reg (hform false h) v).trans
        (writeCount_run (by simp only [State.me_setMe]; exact hw) (by simp only [State.me_setMe]; exact hb)
          (by simp only [State.me_setMe]; exact hown) v)
      simp only [State.me_setMe] at hc hput
      exact nop_ends hw hrep hd hf (by simp only [State.me_setMe]; exact hc) (by simp only [State.me_setMe]; exact hput)
        fun v => ⟨hw, rfl, rfl, rfl, rfl⟩

end Sys2Proof.Machine

/-! ## Reading system registers (R149) -/

namespace Sys2Proof.Machine

/-! ### Numbers laid out in digits -/

/-- The number with digit `d k` at place `k`, of `n` places in base `b`. -/
def digitSum (b : Nat) (d : Nat → Nat) (n : Nat) : Nat := ((List.range n).map fun k => d k * b ^ k).sum

theorem digitSum_succ (b : Nat) (d : Nat → Nat) (n : Nat) : digitSum b d (n + 1) = digitSum b d n + d n * b ^ n := by
  simp [digitSum, List.range_succ]
theorem digitSum_lt {b : Nat} {d : Nat → Nat} {n : Nat} (hd : ∀ k, k < n → d k < b) : digitSum b d n < b ^ n := by
  induction n with
  | zero => exact Nat.one_pos
  | succ n ih =>
    have hlt := ih fun k hk => hd k (by omega)
    have hle : (d n + 1) * b ^ n ≤ b * b ^ n := Nat.mul_le_mul_right _ (hd n (by omega))
    rw [digitSum_succ, Nat.pow_succ, Nat.mul_comm]
    rw [Nat.add_mul, Nat.one_mul] at hle
    rw [Nat.mul_comm b] at hle
    rw [Nat.mul_comm (b ^ n)]
    omega
/-- A digit of it. -/
theorem digitSum_digit {b : Nat} {d : Nat → Nat} {n j : Nat} (hd : ∀ k, k < n → d k < b) (hj : j < n) :
    digitSum b d n / b ^ j % b = d j := by
  induction n with
  | zero => omega
  | succ n ih =>
    have hlow := digitSum_lt fun k hk => hd k (Nat.lt_succ_of_lt hk)
    have hpos : 0 < b := Nat.lt_of_le_of_lt (Nat.zero_le _) (hd j hj)
    rw [digitSum_succ]
    by_cases hjn : j = n
    · subst hjn
      rw [Nat.add_mul_div_right _ _ (Nat.pow_pos hpos), Nat.div_eq_of_lt hlow, Nat.zero_add, Nat.mod_eq_of_lt (hd j hj)]
    · have hpow : b ^ n = b ^ j * (b * b ^ (n - j - 1)) := by
        rw [← Nat.pow_succ', ← Nat.pow_add]
        congr 1
        omega
      rw [hpow, show d n * (b ^ j * (b * b ^ (n - j - 1))) = b ^ j * (b * (d n * b ^ (n - j - 1))) by ac_rfl,
        Nat.add_mul_div_left _ _ (Nat.pow_pos hpos), Nat.add_mul_mod_self_left]
      exact ih (fun k hk => hd k (by omega)) (by omega)

/-- A field of a number below 2^64, and a bit of it. -/
theorem extract_word {a : Nat} (ha : a < 2 ^ 64) (lo n : Nat) : ((word a).extractLsb' lo n).toNat = a / 2 ^ lo % 2 ^ n := by
  rw [BitVec.extractLsb'_toNat, word, BitVec.toNat_ofNat, Nat.mod_eq_of_lt ha, Nat.shiftRight_eq_div_pow]
theorem bit_word {a : Nat} (ha : a < 2 ^ 64) (k : Nat) : (word a).getLsbD k = decide (a / 2 ^ k % 2 = 1) := by
  rw [← Nat.testBit_eq_decide_div_mod_eq, BitVec.getLsbD, word, BitVec.toNat_ofNat, Nat.mod_eq_of_lt ha]

/-! ### IPEND (R158) -/

/-- IPEND as digits: source 1 is the timer, the others are kinds of messages. -/
def Slot.pending (x : Slot) (now k : Nat) : Bool := if k = 1 then decide (x.ctl.timecmp.toNat ≤ now) else x.hasMsg k
theorem Slot.ipend_eq (x : Slot) (now : Nat) : x.ipend now = word (digitSum 2 (fun k => (x.pending now k).toNat) 6) := by
  have hdigit : ∀ (b : Bool) (k : Nat), (if b then 2 ^ k else 0) = b.toNat * 2 ^ k := fun b k => by cases b <;> simp
  unfold Slot.ipend digitSum
  exact congrArg (fun l : List Nat => word l.sum) (List.map_congr_left fun k _ => hdigit _ k)
theorem Slot.ipend_bit (x : Slot) (now k : Nat) : (x.ipend now).getLsbD k = (decide (k < 6) && x.pending now k) := by
  have hd : ∀ k, k < 6 → (x.pending now k).toNat < 2 := fun k _ => Bool.toNat_lt _
  have hlt := digitSum_lt hd
  rw [x.ipend_eq, bit_word (by omega)]
  by_cases hk : k < 6
  · rw [digitSum_digit hd hk]
    simp [hk]
  · have hpow : 2 ^ 6 ≤ 2 ^ k := Nat.pow_le_pow_right (by decide) (by omega)
    rw [Nat.div_eq_of_lt (by omega)]
    simp [hk]

/-! ### SLOTSTATE (R23) -/

theorem Slot.prio_le (x : Slot) : x.prio ≤ 3 := by
  have := Nat.mod_lt (x.ctl.status.toNat / 2 ^ 8) (show 0 < 2 ^ 2 by decide)
  unfold Slot.prio
  dsimp only
  split
  · omega
  · unfold natField
    omega
theorem Core.eprio_le (c : Core) (x : Slot) : c.eprio x ≤ 3 := by
  have hp := x.prio_le
  have hq : x.promoted ≤ 3 := by
    unfold Slot.promoted
    split
    · exact Nat.max_le.mpr ⟨hp, by decide⟩
    · exact hp
  unfold Core.eprio
  split
  · omega
  · exact hq

/-- The state and the priority of a slot of the core, as SLOTSTATE shows them. -/
def State.slotCode (s : State) (k : Nat) : Nat :=
  let x := s.slot (8 * coreOf s.cur + k)
  if x.phase = .free then 0 else if 8 * coreOf s.cur + k = s.cur then 2 else x.phase.code
def State.slotPrio (s : State) (k : Nat) : Nat :=
  let x := s.slot (8 * coreOf s.cur + k)
  if x.phase = .free then 0 else s.myCore.eprio x
theorem State.slotCode_lt (s : State) (k : Nat) : s.slotCode k < 16 := by
  unfold State.slotCode Phase.code
  dsimp only
  split
  · decide
  · split
    · decide
    · split <;> decide
theorem State.slotPrio_lt (s : State) (k : Nat) : s.slotPrio k < 4 := by
  unfold State.slotPrio
  dsimp only
  split
  · decide
  · exact Nat.lt_succ_of_le (Core.eprio_le ..)

theorem State.slotState_eq (s : State) : s.slotState = word (digitSum 16 s.slotCode 8 + 2 ^ 32 * digitSum 4 s.slotPrio 8) := by
  have hpart : ∀ k, (if (s.slot (8 * coreOf s.cur + k)).phase = .free then 0
      else (if 8 * coreOf s.cur + k = s.cur then 2 else (s.slot (8 * coreOf s.cur + k)).phase.code) * 2 ^ (4 * k) +
        s.myCore.eprio (s.slot (8 * coreOf s.cur + k)) * 2 ^ (32 + 2 * k)) = s.slotCode k * 16 ^ k + 2 ^ 32 * (s.slotPrio k * 4 ^ k) := by
    intro k
    unfold State.slotCode State.slotPrio
    dsimp only
    rw [Nat.pow_mul, Nat.pow_add, Nat.pow_mul]
    split
    · simp
    · rw [Nat.mul_left_comm]
  unfold State.slotState digitSum
  simp only [hpart, List.sum_map_add, List.sum_map_mul_left]

theorem State.slotState_fields (s : State) {k : Nat} (hk : k < 8) :
    (s.slotState.extractLsb' (4 * k) 4).toNat = s.slotCode k ∧ (s.slotState.extractLsb' (32 + 2 * k) 2).toNat = s.slotPrio k := by
  have hc := digitSum_lt (n := 8) fun k _ => s.slotCode_lt k
  have hp := digitSum_lt (n := 8) fun k _ => s.slotPrio_lt k
  have dc := digitSum_digit (fun k _ => s.slotCode_lt k) hk
  have dp := digitSum_digit (fun k _ => s.slotPrio_lt k) hk
  rw [s.slotState_eq, extract_word (by omega), extract_word (by omega), ← dc, ← dp]
  generalize digitSum 16 s.slotCode 8 = a at *
  generalize digitSum 4 s.slotPrio 8 = b at *
  constructor
  · interval_cases k <;> omega
  · interval_cases k <;> omega
theorem State.slotState_top (s : State) : s.slotState.extractLsb' 48 16 = 0 := by
  have hc := digitSum_lt (n := 8) fun k _ => s.slotCode_lt k
  have hp := digitSum_lt (n := 8) fun k _ => s.slotPrio_lt k
  refine BitVec.eq_of_toNat_eq ?_
  rw [s.slotState_eq, extract_word (by omega), Nat.div_eq_of_lt (by omega)]
  rfl

/-! ### BMGRP (R228) -/

theorem Cluster.bankCode_lt (c : Cluster) (b : Nat) : c.bankCode b < 4 := by
  unfold Cluster.bankCode
  split <;> decide

/-- The allocation of a group, as BMGRP shows it. -/
def regionBits : Option Region → Nat
  | some r => r.first % 256 * 2 ^ 16 + r.stripe % 8 * 2 ^ 9 + 2 ^ 8
  | none => 0
/-- Its fields: the first bank group, the stripe code, and whether the group is allocated. -/
theorem regionBits_eq (o : Option Region) : ∃ a b, a < 256 ∧ b < 8 ∧ regionBits o = a * 2 ^ 16 + b * 2 ^ 9 + o.isSome.toNat * 2 ^ 8 ∧
    ∀ r, o = some r → a = r.first % 256 ∧ b = r.stripe % 8 := by
  cases o with
  | none => exact ⟨0, 0, by decide, by decide, rfl, fun r h => absurd h (by simp)⟩
  | some r =>
    refine ⟨r.first % 256, r.stripe % 8, Nat.mod_lt _ (by decide), Nat.mod_lt _ (by decide), ?_, fun q h => ?_⟩
    · simp [regionBits]
    · cases h
      exact ⟨rfl, rfl⟩

theorem State.groupWord_eq (s : State) (cl g : Nat) : s.groupWord cl g =
    word (digitSum 2 (fun k => ((s.cluster cl).failed.contains (8 * g + k)).toNat) 8 * 2 ^ 40 +
      digitSum 4 (fun k => (s.cluster cl).bankCode (8 * g + k)) 8 * 2 ^ 24 + regionBits ((s.cluster cl).groups.find g) +
      (s.groupHeld cl g).toNat) := by
  have hdigit : ∀ (b : Bool) (k : Nat), (if b then 2 ^ k else 0) = b.toNat * 2 ^ k := fun b k => by cases b <;> simp
  have hheld : (if s.groupHeld cl g = true then 1 else 0) = (s.groupHeld cl g).toNat := by cases s.groupHeld cl g <;> rfl
  have hregion : (match (s.cluster cl).groups.find g with
      | some r => r.first % 256 * 2 ^ 16 + r.stripe % 8 * 2 ^ 9 + 2 ^ 8
      | none => 0) = regionBits ((s.cluster cl).groups.find g) := by
    cases (s.cluster cl).groups.find g <;> rfl
  unfold State.groupWord digitSum
  simp only [hdigit, hheld]
  exact congrArg (fun n => word (_ + n + _)) hregion

/-- The fields of BMGRP. -/
theorem State.groupWord_fields (s : State) (cl g : Nat) :
    (s.groupWord cl g).getLsbD 0 = s.groupHeld cl g ∧
    (s.groupWord cl g).getLsbD 8 = ((s.cluster cl).groups.find g).isSome ∧
    (∀ r, (s.cluster cl).groups.find g = some r →
      ((s.groupWord cl g).extractLsb' 16 8).toNat = r.first % 256 ∧ ((s.groupWord cl g).extractLsb' 9 3).toNat = r.stripe % 8) ∧
    ∀ k, k < 8 → (s.groupWord cl g).getLsbD (40 + k) = (s.cluster cl).failed.contains (8 * g + k) ∧
      ((s.groupWord cl g).extractLsb' (24 + 2 * k) 2).toNat = (s.cluster cl).bankCode (8 * g + k) := by
  have hf : ∀ k, ((s.cluster cl).failed.contains (8 * g + k)).toNat < 2 := fun k => Bool.toNat_lt _
  have hb : ∀ k, (s.cluster cl).bankCode (8 * g + k) < 4 := fun k => Cluster.bankCode_lt ..
  have hfs := digitSum_lt (n := 8) fun k _ => hf k
  have hbs := digitSum_lt (n := 8) fun k _ => hb k
  obtain ⟨a, b, ha, hb8, hregion, hfields⟩ := regionBits_eq ((s.cluster cl).groups.find g)
  have hh := Bool.toNat_lt (s.groupHeld cl g)
  have hi := Bool.toNat_lt ((s.cluster cl).groups.find g).isSome
  have df := fun k hk => digitSum_digit (n := 8) (j := k) (fun k _ => hf k) hk
  have db := fun k hk => digitSum_digit (n := 8) (j := k) (fun k _ => hb k) hk
  have hone : ∀ (b : Bool), decide (b.toNat = 1) = b := fun b => by cases b <;> rfl
  rw [s.groupWord_eq, hregion]
  generalize digitSum 2 (fun k => ((s.cluster cl).failed.contains (8 * g + k)).toNat) 8 = F at *
  generalize digitSum 4 (fun k => (s.cluster cl).bankCode (8 * g + k)) 8 = B at *
  generalize hheld : (s.groupHeld cl g).toNat = held at *
  generalize hsome : ((s.cluster cl).groups.find g).isSome.toNat = some at *
  have htop : F * 2 ^ 40 + B * 2 ^ 24 + (a * 2 ^ 16 + b * 2 ^ 9 + some * 2 ^ 8) + held < 2 ^ 64 := by omega
  refine ⟨?_, ?_, fun r hg => ?_, fun k hk => ⟨?_, ?_⟩⟩
  · rw [bit_word htop, ← hone (s.groupHeld cl g), hheld]
    exact decide_eq_decide.mpr (by omega)
  · rw [bit_word htop, ← hone ((s.cluster cl).groups.find g).isSome, hsome]
    exact decide_eq_decide.mpr (by omega)
  · obtain ⟨hfirst, hstripe⟩ := hfields r hg
    rw [extract_word htop, extract_word htop, ← hfirst, ← hstripe]
    constructor <;> omega
  · rw [bit_word htop, ← hone ((s.cluster cl).failed.contains (8 * g + k)), ← df k hk]
    exact decide_eq_decide.mpr (by interval_cases k <;> omega)
  · rw [extract_word htop, ← db k hk]
    interval_cases k <;> omega


/-! ### A read in a mode that may see the register -/

/-- No unit that a core may lack is behind the register, and reading it has no effect (R149). -/
abbrev plainReg (n : Nat) : Prop := n ≠ 0x098 ∧ n ≠ 0x00B ∧ (n < 0x0B0 ∨ 0x0B9 < n) ∧ n ≠ 0x044
theorem sysAbsent_plain {n : Nat} (h : plainReg n) (core : Nat) : sysAbsent core n = false := by
  obtain ⟨h98, hB, hmap, -⟩ := h
  have hmap : (decide (0x0B0 ≤ n) && decide (n ≤ 0x0B9)) = false := by
    rw [Bool.and_eq_false_iff, decide_eq_false_iff_not, decide_eq_false_iff_not]
    omega
  simp [sysAbsent, beq_eq_false_iff_ne.mpr h98, beq_eq_false_iff_ne.mpr hB, hmap]

section
variable {s : State}

theorem readSys_slot {n : Nat} {v : Word} (habs : sysAbsent (coreOf s.cur) n = false) (h44 : n ≠ 0x044)
    (h : s.me.readReg n s.clock.time = some v) : readSys n s = .ok (v, s) := by
  unfold readSys
  rw [M.bind_ok (M.get_run s)]
  simp only [habs, Bool.false_eq_true, if_false, h44, h]
  rfl
theorem readSys_shared {n : Nat} (habs : sysAbsent (coreOf s.cur) n = false) (h44 : n ≠ 0x044)
    (h : s.me.readReg n s.clock.time = none) : readSys n s = s.readShared n s := by
  unfold readSys
  rw [M.bind_ok (M.get_run s)]
  simp only [habs, Bool.false_eq_true, if_false, h44, h]
theorem readSys_absent {n : Nat} (h : sysAbsent (coreOf s.cur) n = true) : readSys n s = .ok (0, s) := by
  unfold readSys
  rw [M.bind_ok (M.get_run s)]
  simp only [h, if_true]
  rfl

theorem needView_run {n : Nat} {view : Mode} (h : s.me.mode.covers view = true) : needView n view s = .ok ((), s) := by
  unfold needView
  rw [M.bind_ok (getMe_run s)]
  simp only [h, if_true]
  rfl
theorem needView_refused {n : Nat} {view : Mode} (h : s.me.mode.covers view = false) :
    needView n view s = .error (.trap { cause := 0x06, tval := BitVec.ofNat 64 n }) := by
  unfold needView
  rw [M.bind_ok (getMe_run s)]
  simp only [h, Bool.false_eq_true, if_false]
  rfl
theorem Mode.covers_u (mode : Mode) : mode.covers .u = true := decide_eq_true (Nat.zero_le _)
theorem Mode.covers_s {mode : Mode} (h : mode ≠ .u) : mode.covers .s = true := by
  cases mode with
  | u => exact absurd rfl h
  | s | m => rfl

variable {f : SysRead} (hr : s.ready ⟨f.h, [], some (.g, f.rd)⟩ = true)
include hr

theorem mfs_refused (h : s.me.mode.covers (sysReadView f.sr.toNat) = false) :
    exec (.mfs f) s = .next (takeTrap { cause := 0x06, tval := BitVec.ofNat 64 f.sr.toNat } s) := by
  obtain ⟨hs, hg, -, -⟩ := State.ready_parts hr
  exact privInstr_refused (Slot.steady_windows hs) hg (needView_refused h)

/-- The value read goes to RD; `t` and `y` are what reading has made of the state and of the slot. -/
theorem mfs_run {t t' : State} {y : Slot} {v : Word} (hv : s.me.mode.covers (sysReadView f.sr.toNat) = true)
    (hread : readSys f.sr.toNat s = .ok (v, t')) (ht : t'.IsAt t y) (hy : y.steady = true) (hpc : y.pc = s.me.pc) (hline : t.line = s.line)
    (hd : t'.writable .g f.rd = true) :
    exec (.mfs f) s = .next (t.setMe ((y.withG f.rd v).pass ⟨f.h, [], some (.g, f.rd)⟩ (Shape.prior ⟨f.h, [], some (.g, f.rd)⟩ s.me)
      (nextOf s.line s.me.pc))) := by
  obtain ⟨hs, hg, hsrc, -⟩ := State.ready_parts hr
  obtain ⟨u, hu, hat⟩ := writeG_run (s := t') (by rw [ht.me]; exact Slot.steady_windows hy) f.rd v hd
  have hbody : (do
      writeG f.rd (← readSys f.sr.toNat)
      return none : M (Option Word)) s = .ok (none, u) := by
    rw [M.bind_ok hread, M.bind_ok hu]
    rfl
  rw [ht.me] at hat
  have := privInstr_run (y := y.withG f.rd v) (allowed := needView f.sr.toNat (sysReadView f.sr.toNat)) hs hg hsrc (needView_run hv) hbody (hat.trans ht) hy
  rw [Slot.withG_pc, hpc, hline] at this
  exact this
theorem mfs_gives {v : Word} (hv : s.me.mode.covers (sysReadView f.sr.toNat) = true) (hread : readSys f.sr.toNat s = .ok (v, s)) :
    exec (.mfs f) s = .next (s.retires ⟨f.h, [], some (.g, f.rd)⟩ (s.me.withG f.rd v)) := by
  obtain ⟨hs, -, -, hd⟩ := State.ready_parts hr
  exact mfs_run hr hv hread (.refl s) hs rfl rfl hd

end

/-! ### What the registers of the slot read as -/

section
variable (x : Slot) (now : Nat)

theorem Slot.readReg_mbox (k : Fin 8) : x.readReg (0x010 + k.val) now = some x.ctl.mbox[k] := by
  fin_cases k <;> rfl
theorem Slot.readReg_start (k : Fin 4) : x.readReg (0x019 + k.val) now = some x.loops.start[k] := by
  fin_cases k <;> rfl
theorem Slot.readReg_fin (k : Fin 4) : x.readReg (0x01D + k.val) now = some x.loops.fin[k] := by
  fin_cases k <;> rfl
theorem Slot.readReg_count (k : Fin 4) : x.readReg (0x021 + k.val) now = some x.loops.count[k] := by
  fin_cases k <;> rfl
theorem Slot.readReg_stream (k : Fin 4) :
    x.readReg (0x030 + 4 * k.val) now = some x.streams[k].ctl ∧ x.readReg (0x031 + 4 * k.val) now = some x.streams[k].base ∧
    x.readReg (0x032 + 4 * k.val) now = some x.streams[k].pos ∧ x.readReg (0x033 + 4 * k.val) now = some x.streams[k].sfault := by
  fin_cases k <;> exact ⟨rfl, rfl, rfl, rfl⟩
end

/-! ### Views by number -/

theorem sysReadView_any {n : Nat} (h : (n < 0x040 ∧ ¬(2 ≤ n ∧ n ≤ 7)) ∨ n = 0x047) : sysReadView n = .u := by
  rw [sysReadView, if_neg (by omega), if_pos h]
theorem sysReadView_s {n : Nat} (h : ¬((n < 0x040 ∧ ¬(2 ≤ n ∧ n ≤ 7)) ∨ n = 0x047)) (h' : n < 0x102) : sysReadView n = .s := by
  rw [sysReadView, if_neg (by omega), if_neg h]
theorem sysReadView_m {n : Nat} (h : 0x102 ≤ n) : sysReadView n = .m := by
  rw [sysReadView, if_pos h]

theorem covers_sysReadView {mode : Mode} {n : Nat} (hu : mode ≠ .u) (h : n < 0x102) : mode.covers (sysReadView n) = true := by
  by_cases hany : (n < 0x040 ∧ ¬(2 ≤ n ∧ n ≤ 7)) ∨ n = 0x047
  · rw [sysReadView_any hany]
    exact mode.covers_u
  · rw [sysReadView_s hany h]
    exact Mode.covers_s hu

/-- A read in S of the field of P3BUDGET that only M reads: a free value. -/
theorem readSys_budget_s {s : State} (hm : s.me.mode = .s) : readSys 0x061 s =
    .ok (word ((Config.freeWord s.tick).toNat % 2 ^ 16 * 2 ^ 16 + s.myCore.issue.used % 2 ^ 16), { s with tick := s.tick + 1 }) := by
  rw [readSys_shared (sysAbsent_plain (by decide) _) (by decide) rfl]
  have hfree : modeField s.myCore.issue.limit s = .ok ((Config.freeWord s.tick).toNat, { s with tick := s.tick + 1 }) := by
    unfold modeField
    rw [M.bind_ok (getMe_run s)]
    simp only [hm, reduceCtorEq, if_false]
    rfl
  exact M.bind_ok hfree
/-- A read in M shows the field. -/
theorem modeField_m {s : State} (hm : s.me.mode = .m) (v : Nat) : modeField v s = .ok (v, s) := by
  unfold modeField
  rw [M.bind_ok (getMe_run s)]
  simp only [hm, if_true]
  rfl

/-- A read of MSGIN pops (R160). -/
theorem readSys_msgin (s : State) : readSys 0x044 s = popMsg s := by
  unfold readSys
  rw [M.bind_ok (M.get_run s)]
  simp [sysAbsent]
theorem popMsg_nil {s : State} (h : s.me.msgs = []) : popMsg s = .ok (0, s) := by
  unfold popMsg
  rw [M.bind_ok (getMe_run s), h]
  rfl
theorem popMsg_cons {s : State} {m : Msg} {rest : List Msg} (h : s.me.msgs = m :: rest) :
    popMsg s = .ok (m.payload, s.setMe { s.me with msgs := rest }) := by
  unfold popMsg
  rw [M.bind_ok (getMe_run s), h]
  rfl

/-- The low bits of a word, replaced. -/
theorem field_setField_low {n : Nat} (x : Word) (v : Nat) (hn : n ≤ 64) : ((setField x 0 n v).extractLsb' 0 n).toNat = v % 2 ^ n := by
  have hf : (setField x 0 n v).extractLsb' 0 n = BitVec.ofNat n v := by
    refine BitVec.eq_of_getLsbD_eq fun i hi => ?_
    rw [BitVec.getLsbD_extractLsb', getLsbD_setField _ _ _ _ (by omega), if_pos (by omega), BitVec.getLsbD_ofNat]
    simp
  rw [hf, BitVec.toNat_ofNat]

/-- A read that has no effect: of the slot's registers, or of one behind the slot. -/
def State.readsAs (s : State) (n : Nat) (v : Word) : Prop :=
  s.me.readReg n s.clock.time = some v ∨ (s.me.readReg n s.clock.time = none ∧ s.readShared n s = .ok (v, s))
theorem readSys_plain {s : State} {n : Nat} {v : Word} (hp : plainReg n) (h : s.readsAs n v) : readSys n s = .ok (v, s) := by
  have habs := sysAbsent_plain hp (coreOf s.cur)
  rcases h with h | ⟨h, hs⟩
  · exact readSys_slot habs hp.2.2.2 h
  · exact (readSys_shared habs hp.2.2.2 h).trans hs

/-- Settles O8: each register in a mode that sees it, by the register's own read; PRIVILEGE else. -/
theorem systemRegisterReads : Obligations.SystemRegisterReads := by
  unfold Obligations.SystemRegisterReads
  intro s f hr x n after gives refused
  have reads : ∀ {k : Nat} {v : Word}, n = k → s.me.mode.covers (sysReadView k) = true → readSys k s = .ok (v, s) → gives v := by
    intro k v hn hview hok
    subst hn
    exact mfs_gives hr hview hok
  have any : ∀ {k : Nat} {v : Word}, n = k → plainReg k → (k < 0x040 ∧ ¬(2 ≤ k ∧ k ≤ 7)) ∨ k = 0x047 → s.readsAs k v → gives v :=
    fun hn hplain hview hread => reads hn (by rw [sysReadView_any hview]; exact Mode.covers_u _) (readSys_plain hplain hread)
  have sm : ∀ {k : Nat} {v : Word}, x.mode ≠ .u → n = k → plainReg k → k < 0x102 → s.readsAs k v → gives v :=
    fun hu hn hplain hlt hread => reads hn (covers_sysReadView hu hlt) (readSys_plain hplain hread)
  refine ⟨fun h => any h (by decide) (by decide) (.inl rfl), fun h => any h (by decide) (by decide) (.inl rfl),
    fun h => any h (by decide) (by decide) (.inl rfl), fun h => any h (by decide) (by decide) (.inl rfl),
    fun h => any h (by decide) (by decide) (.inl rfl), fun h => any h (by decide) (by decide) (.inr ⟨rfl, rfl⟩),
    fun h => any h (by decide) (by decide) (.inr ⟨rfl, rfl⟩), fun h => any h (by decide) (by decide) (.inl rfl),
    fun h => any h (by decide) (by decide) (.inr ⟨rfl, rfl⟩), fun k h => any h (by omega) (by omega) (.inl (Slot.readReg_mbox _ _ k)),
    fun h => any h (by decide) (by decide) (.inl rfl), fun k h => any h (by omega) (by omega) (.inl (Slot.readReg_start _ _ k)),
    fun k h => any h (by omega) (by omega) (.inl (Slot.readReg_fin _ _ k)), fun k h => any h (by omega) (by omega) (.inl (Slot.readReg_count _ _ k)),
    fun h => any h (by decide) (by decide) (.inl rfl), fun h hmgmt => ?_, fun k => ?_, fun h => any h (by decide) (by decide) (.inr ⟨rfl, rfl⟩),
    fun hu => ?_, fun hm => ?_, fun hu _ hn => mfs_refused hr ?_, fun hm h1 h2 => mfs_refused hr ?_⟩
  · exact reads h (by rw [sysReadView_any (by decide)]; exact Mode.covers_u _)
      (readSys_slot (by simp [sysAbsent, hmgmt]) (by decide) rfl)
  · obtain ⟨h0, h1, h2, h3⟩ := Slot.readReg_stream s.me s.clock.time k
    exact ⟨fun h => any h (by omega) (by omega) (.inl h0), fun h => any h (by omega) (by omega) (.inl h1),
      fun h => any h (by omega) (by omega) (.inl h2), fun h => any h (by omega) (by omega) (.inl h3)⟩
  · intro core c die cl
    have slot : ∀ {k : Nat} {v : Word}, n = k → plainReg k → k < 0x102 → s.me.readReg k s.clock.time = some v → gives v :=
      fun hn hplain hlt h => sm hu hn hplain hlt (.inl h)
    have shared : ∀ {k : Nat} {v : Word}, n = k → plainReg k → k < 0x102 → s.me.readReg k s.clock.time = none →
        s.readShared k s = .ok (v, s) → gives v := fun hn hplain hlt h hs => sm hu hn hplain hlt (.inr ⟨h, hs⟩)
    refine ⟨fun h => ⟨_, slot h (by decide) (by decide) rfl, ?_, fun k hk h1 => ?_, fun k hk => ?_⟩, fun h => ?_,
      fun h => slot h (by decide) (by decide) rfl, fun h => ⟨_, shared h (by decide) (by decide) rfl rfl, fun k hk => s.slotState_fields hk, s.slotState_top⟩,
      fun h hm => shared h (by decide) (by decide) rfl (M.bind_ok (modeField_m hm _)), fun h hm => ?_,
      fun h => shared h (by decide) (by decide) rfl rfl, fun k hk h => ?_, fun h => ⟨_, shared h (by decide) (by decide) rfl rfl, ?_, fun k hk => ?_⟩,
      fun h => shared h (by decide) (by decide) rfl rfl, fun hl h => ?_, fun e he => ⟨fun h => ?_, fun h => ?_⟩,
      fun h => slot h (by decide) (by decide) rfl, fun h => slot h (by decide) (by decide) rfl, fun h => slot h (by decide) (by decide) rfl,
      fun h => ?_, fun h hm => shared h (by decide) (by decide) rfl (M.bind_ok (modeField_m hm _)),
      fun h => shared h (by decide) (by decide) rfl rfl, fun h hm => ?_, fun hl h => ?_, fun e rest he => ⟨fun h => ?_, fun h => ?_⟩,
      fun h => shared h (by decide) (by decide) rfl rfl, fun hmgmt h => ?_, fun hmgmt => ?_,
      fun h => slot h (by decide) (by decide) rfl, fun h => slot h (by decide) (by decide) rfl, fun h => slot h (by decide) (by decide) rfl,
      fun h => slot h (by decide) (by decide) rfl, fun h => slot h (by decide) (by decide) rfl, fun h => slot h (by decide) (by decide) rfl,
      fun h => slot h (by decide) (by decide) rfl, fun h => slot h (by decide) (by decide) rfl, fun h => slot h (by decide) (by decide) rfl,
      fun h => slot h (by decide) (by decide) rfl, fun h => slot h (by decide) (by decide) rfl, fun h => slot h (by decide) (by decide) rfl,
      fun h => slot h (by decide) (by decide) rfl, fun h => slot h (by decide) (by decide) rfl, fun h => slot h (by decide) (by decide) rfl,
      fun h => slot h (by decide) (by decide) rfl, fun h => slot h (by decide) (by decide) rfl, fun h => ?_⟩
    · rw [Slot.ipend_bit]
      rfl
    · rw [Slot.ipend_bit, decide_eq_true hk, Bool.true_and, Slot.pending, if_neg h1]
      rfl
    · rw [Slot.ipend_bit, decide_eq_false (Nat.not_lt.mpr hk), Bool.false_and]
    · have hmsg := slot h (by decide) (by decide) rfl
      split
      · rename_i hm
        rwa [show s.me.msgs = [] from hm] at hmsg
      · rename_i q l hm
        rw [show s.me.msgs = q :: l from hm] at hmsg
        rw [hm]
        exact hmsg
    · obtain ⟨hs, -, -, hd⟩ := State.ready_parts hr
      have hlim := Nat.mod_lt (Config.freeWord s.tick).toNat (show 0 < 2 ^ 16 by decide)
      have hused := Nat.mod_lt s.myCore.issue.used (show 0 < 2 ^ 16 by decide)
      refine ⟨_, BitVec.eq_of_toNat_eq ?_, BitVec.eq_of_toNat_eq ?_,
        mfs_run hr ?_ ((congrArg (fun k => readSys k s) h).trans (readSys_budget_s hm)) (.refl _) hs rfl rfl hd⟩
      · rw [extract_word (by omega), BitVec.toNat_ofNat]
        have hmod : ∀ a b : Nat, (a * 2 ^ 16 + b % 2 ^ 16) / 2 ^ 0 % 2 ^ 16 = b % 2 ^ 16 := fun a b => by omega
        exact hmod _ _
      · rw [extract_word (by omega), Nat.div_eq_of_lt (by omega)]
        rfl
      · rw [show f.sr.toNat = 0x061 from h]
        exact covers_sysReadView hu (by decide)
    · interval_cases k <;> exact shared h (by decide) (by decide) rfl rfl
    · exact field_setField_low _ _ (by decide)
    · by_cases h64 : k < 64
      · exact (getLsbD_setField _ _ _ _ h64).trans (if_neg (by omega))
      · rw [BitVec.getLsbD_of_ge _ _ (by omega), BitVec.getLsbD_of_ge _ _ (by omega)]
    · have hhdr : s.readShared 0x08A s = .ok ((match c.log.find c.logsel.toNat with
        | some x => x.header
        | none => 0), s) := rfl
      have haddr : s.readShared 0x08B s = .ok ((match c.log.find c.logsel.toNat with
        | some x => word x.entry.addr
        | none => 0), s) := rfl
      rw [hl] at hhdr haddr
      exact h.elim (fun h => shared h (by decide) (by decide) rfl hhdr) fun h => shared h (by decide) (by decide) rfl haddr
    · have hhdr : s.readShared 0x08A s = .ok ((match c.log.find c.logsel.toNat with
        | some x => x.header
        | none => 0), s) := rfl
      rw [he] at hhdr
      exact shared h (by decide) (by decide) rfl hhdr
    · have haddr : s.readShared 0x08B s = .ok ((match c.log.find c.logsel.toNat with
        | some x => word x.entry.addr
        | none => 0), s) := rfl
      rw [he] at haddr
      exact shared h (by decide) (by decide) rfl haddr
    · split
      · rename_i hcomp
        exact reads h (covers_sysReadView hu (by decide))
          (readSys_shared (by simp [sysAbsent, show isCompute (coreOf s.cur) = true from hcomp]) (by decide) rfl)
      · rename_i hcomp
        exact reads h (covers_sysReadView hu (by decide))
          (readSys_absent (by simp [sysAbsent, show isCompute (coreOf s.cur) = false from Bool.not_eq_true _ ▸ hcomp]))
    · have hval : die.power.thot % 256 * 256 + die.power.hyst % 256 < 2 ^ 16 := by
        have := Nat.mod_lt die.power.thot (show 0 < 256 by decide)
        have := Nat.mod_lt die.power.hyst (show 0 < 256 by decide)
        omega
      have hread : s.readShared 0x0A2 s = .ok (word ((die.power.thot % 256 * 256 + die.power.hyst % 256) % 2 ^ 16), s) :=
        M.bind_ok (modeField_m hm _)
      rw [Nat.mod_eq_of_lt hval] at hread
      exact shared h (by decide) (by decide) rfl hread
    · have hhead : s.readShared 0x0A8 s = .ok ((match die.errs with
        | r :: _ => r.word0
        | [] => 0), s) := rfl
      have haddr : s.readShared 0x0A9 s = .ok ((match die.errs with
        | r :: _ => r.addr
        | [] => 0), s) := rfl
      rw [hl] at hhead haddr
      exact h.elim (fun h => shared h (by decide) (by decide) rfl hhead) fun h => shared h (by decide) (by decide) rfl haddr
    · have haddr : s.readShared 0x0A9 s = .ok ((match die.errs with
        | r :: _ => r.addr
        | [] => 0), s) := rfl
      rw [he] at haddr
      exact shared h (by decide) (by decide) rfl haddr
    · have hhead : s.readShared 0x0A8 s = .ok ((match die.errs with
        | r :: _ => r.word0
        | [] => 0), s) := rfl
      rw [he] at hhead
      refine ⟨_, shared h (by decide) (by decide) rfl hhead, ?_, fun k hk => ?_⟩
      · simp [ErrRec.word0, bitOn]
      · exact getLsbD_bitOn_ne _ (by omega)
    · refine reads rfl (covers_sysReadView hu (by omega)) (readSys_absent ?_)
      have hm : isManagement (coreOf s.cur) = true := hmgmt
      simp only [sysAbsent, hm, Bool.true_and, Bool.or_eq_true, Bool.and_eq_true, decide_eq_true_eq, beq_iff_eq]
      omega
    · have onCluster : ∀ {k : Nat} {v : Word}, n = k → 0x0B0 ≤ k → k ≤ 0x0B9 → s.me.readReg k s.clock.time = none →
          s.readShared k s = .ok (v, s) → gives v := fun {k v} hn hlo hhi h hs =>
        have hm : isManagement (coreOf s.cur) = false := hmgmt
        have h98 : (k == 0x098) = false := beq_eq_false_iff_ne.mpr (by omega)
        reads hn (covers_sysReadView hu (by omega)) ((readSys_shared (by simp [sysAbsent, hm, h98]) (by omega) h).trans hs)
      refine ⟨fun h => onCluster h (by decide) (by decide) rfl rfl, fun k h => ?_, fun h => onCluster h (by decide) (by decide) rfl rfl, fun h => ?_⟩
      · fin_cases k <;> exact onCluster h (by decide) (by decide) rfl rfl
      · have hread : s.readShared 0x0B9 s = .ok (s.groupWord (clusterOf s.cur) (natField cl.bmsel 0 8), s) := rfl
        rw [natField_eq] at hread
        obtain ⟨hheld, hsome, hregion, hbanks⟩ := s.groupWord_fields (clusterOf s.cur) (field cl.bmsel 0 8).toNat
        exact ⟨_, onCluster h (by decide) (by decide) rfl hread, hheld, hsome, hregion, hbanks⟩
    · split
      · rename_i hm
        exact reads h (covers_sysReadView hu (by decide)) ((readSys_msgin s).trans (popMsg_nil hm))
      · rename_i q l hm
        intro hown
        obtain ⟨hs, -, -, hd⟩ := State.ready_parts hr
        have hat := s.isAt_setMe { s.me with msgs := l }
        refine mfs_run hr ?_ ((congrArg (fun k => readSys k s) h).trans ((readSys_msgin s).trans (popMsg_cons hm))) hat hs rfl rfl
          (hat.writable_own hd hown rfl rfl)
        rw [show f.sr.toNat = 0x044 from h]
        exact covers_sysReadView hu (by decide)
  · refine ⟨fun h => ?_, fun h => ?_, fun h => ?_, fun h => ?_, fun h => ?_, fun h => ?_⟩ <;>
      exact reads h (by rw [show s.me.mode = .m from hm, sysReadView_m (by decide)]; rfl)
        (readSys_plain (by decide) (.inl rfl))
  · rw [show s.me.mode = .u from hu]
    by_cases hlt : f.sr.toNat < 0x102
    · rw [sysReadView_s (by omega) hlt]
      rfl
    · rw [sysReadView_m (by omega)]
      rfl
  · rw [sysReadView_m h1]
    cases hmode : s.me.mode with
    | u | s => rfl
    | m => exact absurd hmode hm

end Sys2Proof.Machine

/-! ## A write of LOOPSTATE at the END of the level that it opens (R145, R147) -/

namespace Sys2Proof.Machine

/-- A strand at 0x1000 with no loop active, with END 0x1000 at every level and g1 = 1. -/
def outsideLoop : State := Tests.looping 0 (Vector.replicate 4 0x1000) (Vector.replicate 4 0) [(1, 1)]
/-- `mts LOOPSTATE, g1`. -/
def openLoop : SysWrite := ⟨⟨0, 0⟩, 0x018, ⟨1, false⟩⟩

/-- LOOPSTATE of the strand after an instruction. -/
def loopStateAfter (o : Out) : Option Word :=
  match o with
  | .next t => some t.me.loops.state
  | _ => none

set_option maxRecDepth 100000 in
theorem outsideLoop_ready : outsideLoop.ready ⟨openLoop.h, [(1, .g, openLoop.a)], none⟩ = true := by decide

set_option maxRecDepth 100000 in
/-- The level that the write opens ends at once, since its count is that of g0. -/
theorem openLoop_ends : loopStateAfter (exec (.mts openLoop) outsideLoop) = some 0 := by decide

theorem loopStateAfter_retires (s : State) (sh : Shape) (y : Slot) :
    loopStateAfter (.next (s.retires sh y)) = some y.loops.state := by
  obtain ⟨regs, ws, hrel⟩ := y.releaseMarks_frame sh
  obtain ⟨ws', hopen⟩ := ((y.releaseMarks sh).goOn (nextOf s.line s.me.pc)).openWindow_windows sh (sh.prior s.me)
  rw [loopStateAfter, State.retires, State.me_setMe, Slot.pass, hopen, hrel]
  rfl

/-- Refutes O9: a write of LOOPSTATE that opens a level whose END is the instruction itself retires at that END, and ends a pass. -/
theorem not_systemRegisterWrites : ¬ Obligations.SystemRegisterWrites := by
  unfold Obligations.SystemRegisterWrites
  intro h
  obtain ⟨-, -, -, -, -, hloop, -⟩ := h outsideLoop openLoop outsideLoop_ready
  have hstored := congrArg loopStateAfter (hloop rfl)
  rw [openLoop_ends, loopStateAfter_retires] at hstored
  exact absurd hstored (by decide)

end Sys2Proof.Machine

/-! ## Trap entry, service calls and the return (R150, R153, R156, R157) -/

namespace Sys2Proof.Machine

/-! ### Fields of a word after a field has been replaced -/

/-- The field itself. -/
theorem extract_setField_same (x : Word) (lo n v : Nat) (h : lo + n ≤ 64) : (setField x lo n v).extractLsb' lo n = BitVec.ofNat n v := by
  refine BitVec.eq_of_getLsbD_eq fun i hi => ?_
  rw [BitVec.getLsbD_extractLsb', getLsbD_setField _ _ _ _ (by omega), if_pos (by omega), BitVec.getLsbD_ofNat, Nat.add_sub_cancel_left]
/-- Any bits outside it. -/
theorem getLsbD_setField_out (x : Word) {lo n k : Nat} (v : Nat) (h : k < lo ∨ lo + n ≤ k) : (setField x lo n v).getLsbD k = x.getLsbD k := by
  by_cases h64 : k < 64
  · rw [getLsbD_setField _ _ _ _ h64, if_neg (by omega)]
  · rw [BitVec.getLsbD_of_ge _ _ (by omega), BitVec.getLsbD_of_ge _ _ (by omega)]
theorem extract_setField_out (x : Word) {lo n a m : Nat} (v : Nat) (h : a + m ≤ lo ∨ lo + n ≤ a) :
    (setField x lo n v).extractLsb' a m = x.extractLsb' a m := by
  refine BitVec.eq_of_getLsbD_eq fun i hi => ?_
  rw [BitVec.getLsbD_extractLsb', BitVec.getLsbD_extractLsb', getLsbD_setField_out _ _ (by omega)]

/-! ### Trap entry (R153) -/

theorem enterStatus_bits (status : Word) (tm : Mode) :
    (enterStatus status tm).extractLsb' 0 2 = BitVec.ofNat 2 tm.code ∧ (enterStatus status tm).getLsbD 3 = false ∧
    ∀ k, k ≠ 0 → k ≠ 1 → k ≠ 3 → (enterStatus status tm).getLsbD k = status.getLsbD k := by
  refine ⟨?_, ?_, fun k h0 h1 h3 => ?_⟩
  · rw [enterStatus, extract_setField_out _ _ (by decide), extract_setField_same _ _ _ _ (by decide)]
  · rw [enterStatus, getLsbD_setField _ _ _ _ (by decide), if_pos (by decide)]
    rfl
  · rw [enterStatus, getLsbD_setField_out _ _ (by omega), getLsbD_setField_out _ _ (by omega)]

/-- The streams of a strand that enters a trap: only SFAULT of the faulting one may differ. -/
theorem Slot.enter_streams (x : Slot) (t : Trap) (k : Fin 4) :
    ({ (x.enter t).streams[k] with sfault := 0 } : Stream) = { x.streams[k] with sfault := 0 } := by
  have hcase : (x.enter t).streams = x.streams ∨ ∃ j q, (x.enter t).streams = x.withStream j { x.stream j with sfault := q } := by
    simp only [Slot.enter]
    split
    · exact .inr ⟨_, _, rfl⟩
    · exact .inl rfl
  rcases hcase with h | ⟨j, q, h⟩
  · rw [h]
  · rw [h, Slot.withStream, Fin.getElem_fin, Vector.getElem_set]
    split
    · rename_i hj
      simp [Slot.stream, hj]
    · rfl
theorem Slot.enter_streams_none (x : Slot) {t : Trap} (h : t.stream = Option.none) : (x.enter t).streams = x.streams := by
  simp only [Slot.enter, h]

/-- The bank that a trap of the strand is taken in is that of M. -/
theorem trapMode_m {cause : Nat} {cur : Mode} (h : cur = .m ∨ cause = 0x7F ∨ (cause = 0x70 ∧ cur = .s)) : trapMode cause cur = .m := if_pos h
theorem trapMode_s {cause : Nat} {cur : Mode} (h : ¬(cur = .m ∨ cause = 0x7F ∨ (cause = 0x70 ∧ cur = .s))) : trapMode cause cur = .s := if_neg h

/-- The two ways a trap can go: to the bank of M, or to that of S. -/
theorem Slot.enter_toM {x : Slot} {t : Trap} (h : trapMode t.cause x.mode = .m) : (x.enter t).pc = x.mTrap.tvec ∧ (x.enter t).sTrap = x.sTrap ∧
    (x.enter t).mTrap = ⟨t.epc.getD x.pc, causeWord t, t.tval, x.mTrap.tvec, x.ctl.status, x.mTrap.scratch⟩ ∧
    (x.enter t).ctl.status = enterStatus x.ctl.status .m := by
  simp only [Slot.enter, h, if_true, TrapBank.enter, and_self]
theorem Slot.enter_toS {x : Slot} {t : Trap} (h : trapMode t.cause x.mode = .s) : (x.enter t).pc = x.sTrap.tvec ∧ (x.enter t).mTrap = x.mTrap ∧
    (x.enter t).sTrap = ⟨t.epc.getD x.pc, causeWord t, t.tval, x.sTrap.tvec, x.ctl.status, x.sTrap.scratch⟩ ∧
    (x.enter t).ctl.status = enterStatus x.ctl.status .s := by
  simp only [Slot.enter, h, reduceCtorEq, if_false, TrapBank.enter, and_self]

theorem causeWord_eq (t : Trap) : causeWord t = match t.stream with
    | none => BitVec.ofNat 64 (t.cause % 256)
    | some k => BitVec.ofNat 64 (t.cause % 256 + 256 * (k % 4) + 2048) := by
  unfold causeWord
  cases t.stream <;> rfl

/-- Settles O11: the entry, field by field. -/
theorem trapEntrySavesAndRedirects : Obligations.TrapEntrySavesAndRedirects := by
  unfold Obligations.TrapEntrySavesAndRedirects
  intro s t x y toM code
  have hy : y = s.me.enter t := takeTrap_me t s
  have hcode : causeWord t = code := causeWord_eq t
  obtain ⟨hpriv, hie, hrest⟩ := enterStatus_bits s.me.ctl.status (trapMode t.cause s.me.mode)
  clear_value y
  subst hy
  refine ⟨takeTrap_eq t s, fun h => ?_, fun h => ?_, hie, hrest, rfl, rfl, rfl, rfl, s.me.enter_streams t, s.me.enter_streams_none,
    rfl, rfl, rfl, rfl, rfl, rfl, rfl⟩
  · obtain ⟨hpc, hs, hm, hst⟩ := Slot.enter_toM (trapMode_m h)
    exact ⟨hpc, hs, hst ▸ (enterStatus_bits ..).1, hcode ▸ hm⟩
  · obtain ⟨hpc, hm, hs, hst⟩ := Slot.enter_toS (trapMode_s h)
    exact ⟨hpc, hm, hst ▸ (enterStatus_bits ..).1, hcode ▸ hs⟩

/-! ### STATUS restored (R26, R156) -/

/-- The bits of fields of a STATUS word. -/
theorem statusMask_bit (w : Word) {k : Nat} (h : k < 64) :
    (w &&& 0x73B).getLsbD k = (w.getLsbD k && decide (k = 0 ∨ k = 1 ∨ k = 3 ∨ k = 4 ∨ k = 5 ∨ k = 8 ∨ k = 9 ∨ k = 10)) := by
  have hmask : ∀ i : Fin 64, (0x73B : Word).getLsbD i.val =
      decide (i.val = 0 ∨ i.val = 1 ∨ i.val = 3 ∨ i.val = 4 ∨ i.val = 5 ∨ i.val = 8 ∨ i.val = 9 ∨ i.val = 10) := by decide
  rw [BitVec.getLsbD_and, hmask ⟨k, h⟩]
theorem natField_eq_iff (x : Word) (lo n : Nat) {v : Nat} (h : v < 2 ^ n) : natField x lo n = v ↔ x.extractLsb' lo n = BitVec.ofNat n v := by
  rw [natField_eq, ← BitVec.toNat_inj, BitVec.toNat_ofNat, Nat.mod_eq_of_lt h]
  rfl

/-- PRIV 2 becomes 0. -/
def fixPriv (w : Word) : Word := if natField w 0 2 = 2 then setField w 0 2 0 else w
/-- PRIO 3 in U becomes 2. -/
def fixPrio (w : Word) : Word := if natField w 0 2 = 0 ∧ natField w 8 2 = 3 then setField w 8 2 2 else w
theorem fixStatus_eq (w : Word) : fixStatus w = fixPrio (fixPriv (w &&& 0x73B)) := rfl

theorem fixPriv_priv (w : Word) : (fixPriv w).extractLsb' 0 2 = if w.extractLsb' 0 2 = 2 then 0 else w.extractLsb' 0 2 := by
  have hiff : natField w 0 2 = 2 ↔ w.extractLsb' 0 2 = 2 := natField_eq_iff w 0 2 (by decide)
  unfold fixPriv
  by_cases h : natField w 0 2 = 2
  · rw [if_pos h, if_pos (hiff.mp h), extract_setField_same _ _ _ _ (by decide)]
    rfl
  · rw [if_neg h, if_neg fun he => h (hiff.mpr he)]
theorem fixPriv_out (w : Word) {k : Nat} (h : 2 ≤ k) : (fixPriv w).getLsbD k = w.getLsbD k := by
  unfold fixPriv
  split
  · exact getLsbD_setField_out _ _ (by omega)
  · rfl
theorem fixPrio_prio (w : Word) :
    (fixPrio w).extractLsb' 8 2 = if w.extractLsb' 8 2 = 3 ∧ w.extractLsb' 0 2 = 0 then 2 else w.extractLsb' 8 2 := by
  have hiff : (natField w 0 2 = 0 ∧ natField w 8 2 = 3) ↔ (w.extractLsb' 0 2 = 0 ∧ w.extractLsb' 8 2 = 3) :=
    and_congr (natField_eq_iff w 0 2 (by decide)) (natField_eq_iff w 8 2 (by decide))
  unfold fixPrio
  by_cases h : natField w 0 2 = 0 ∧ natField w 8 2 = 3
  · rw [if_pos h, if_pos (hiff.mp h).symm, extract_setField_same _ _ _ _ (by decide)]
    rfl
  · rw [if_neg h, if_neg fun he => h (hiff.mpr he.symm)]
theorem fixPrio_out (w : Word) {k : Nat} (h : k < 8 ∨ 10 ≤ k) : (fixPrio w).getLsbD k = w.getLsbD k := by
  unfold fixPrio
  split
  · exact getLsbD_setField_out _ _ (by omega)
  · rfl
/-- Equal bits make equal fields. -/
theorem extract_congr {x y : Word} {lo n : Nat} (h : ∀ k, lo ≤ k → k < lo + n → x.getLsbD k = y.getLsbD k) : x.extractLsb' lo n = y.extractLsb' lo n := by
  refine BitVec.eq_of_getLsbD_eq fun i hi => ?_
  rw [BitVec.getLsbD_extractLsb', BitVec.getLsbD_extractLsb', h _ (by omega) (by omega)]

/-- A STATUS word as it is stored. -/
theorem fixStatus_fields (w : Word) :
    (fixStatus w).extractLsb' 0 2 = (if w.extractLsb' 0 2 = 2 then 0 else w.extractLsb' 0 2) ∧
    (fixStatus w).extractLsb' 8 2 = (if w.extractLsb' 8 2 = 3 ∧ (fixStatus w).extractLsb' 0 2 = 0 then 2 else w.extractLsb' 8 2) ∧
    (∀ k, k = 3 ∨ k = 4 ∨ k = 5 ∨ k = 10 → (fixStatus w).getLsbD k = w.getLsbD k) ∧
    ∀ k, k = 2 ∨ k = 6 ∨ k = 7 ∨ 11 ≤ k → (fixStatus w).getLsbD k = false := by
  have hout : ∀ k, 2 ≤ k → k < 8 ∨ 10 ≤ k → k < 64 → (fixStatus w).getLsbD k =
      (w.getLsbD k && decide (k = 0 ∨ k = 1 ∨ k = 3 ∨ k = 4 ∨ k = 5 ∨ k = 8 ∨ k = 9 ∨ k = 10)) := by
    intro k h2 h8 h64
    rw [fixStatus_eq, fixPrio_out _ h8, fixPriv_out _ h2, statusMask_bit w h64]
  have hlow : (w &&& 0x73B).extractLsb' 0 2 = w.extractLsb' 0 2 := extract_congr fun k _ hk => by
    rw [statusMask_bit w (by omega), decide_eq_true (by omega), Bool.and_true]
  have hmid : (fixPriv (w &&& 0x73B)).extractLsb' 8 2 = w.extractLsb' 8 2 := extract_congr fun k hk hk' => by
    rw [fixPriv_out _ (by omega), statusMask_bit w (by omega), decide_eq_true (by omega), Bool.and_true]
  have hpriv : (fixStatus w).extractLsb' 0 2 = (fixPriv (w &&& 0x73B)).extractLsb' 0 2 := extract_congr fun k _ hk => by
    rw [fixStatus_eq, fixPrio_out _ (by omega)]
  refine ⟨?_, ?_, fun k hk => ?_, fun k hk => ?_⟩
  · rw [hpriv, fixPriv_priv, hlow]
  · rw [hpriv, fixStatus_eq, fixPrio_prio, hmid]
  · rw [hout k (by omega) (by omega) (by omega), decide_eq_true (by omega), Bool.and_true]
  · by_cases h64 : k < 64
    · rw [hout k (by omega) (by omega) h64, decide_eq_false (by omega), Bool.and_false]
    · exact BitVec.getLsbD_of_ge _ _ (by omega)

/-! ### ecall, ebreak and eret -/

/-- An instruction without operands that is there to trap. -/
theorem service_run {s : State} {f : Service} (cause : Nat) (hw : s.me.windows = []) (hg : s.me.executes f.h = true) :
    service cause f s = .next (takeTrap { cause := cause, tval := f.imm.setWidth 64 } s) :=
  privInstr_trap (sh := ⟨f.h, [], none⟩) hw hg rfl rfl rfl

theorem needSM_run {s : State} (h : s.me.mode ≠ .u) (tval : Word) : needSM tval s = .ok ((), s) := by
  unfold needSM
  rw [M.bind_ok (getMe_run s), if_neg h]
  rfl

theorem eret_run {s : State} {f : Plain} (hw : s.me.windows = []) (hm : s.me.mode ≠ .u) (hg : s.me.executes f.h = true) :
    exec (.eret f) s = .next (s.setMe s.me.leave) := by
  have hbody : (do
      modMe Slot.leave
      return some (← getMe).pc : M (Option Word)) s = .ok (some s.me.leave.pc, s.setMe s.me.leave) := by
    rw [M.bind_ok (modMe_run _ s), M.bind_ok (getMe_run _), State.me_setMe]
    rfl
  refine outcome_ok ?_
  simp only [Slot.executes, Bool.and_eq_true] at hg
  rw [M.bind_ok (guardOn_run hw f.h hg.1)]
  simp only [hg.2, if_true]
  rw [M.bind_ok (needSM_run hm 0), M.bind_ok (checkSources_run hw [] rfl), M.bind_ok (priorOf_run _ s), M.bind_ok hbody,
    retireAt_jump (s.isAt_setMe s.me.leave) hw]
  rfl

/-- Settles O12: the two service traps, the return from the bank of the mode, and the three with their guards off. -/
theorem serviceCallsAndReturn : Obligations.ServiceCallsAndReturn := by
  unfold Obligations.ServiceCallsAndReturn
  intro s hw hrep
  refine ⟨fun f hg => ⟨service_run _ hw hg, service_run _ hw hg⟩, fun f hg => ⟨fun hu => ?_, fun hm => ?_⟩, fun hs f p hf hp => ?_⟩
  · exact privInstr_needSM_u hu hw ⟨f.h, [], none⟩ _ hg
  · obtain ⟨hpriv, hprio, hsame, hzero⟩ := fixStatus_fields (if s.me.mode = .m then s.me.mTrap else s.me.sTrap).status
    exact ⟨s.me.leave, eret_run hw hm hg, rfl, hpriv, hprio, hsame, hzero, rfl⟩
  · exact ⟨privInstr_off (sh := ⟨f.h, [], none⟩) hs hf, privInstr_off (sh := ⟨f.h, [], none⟩) hs hf,
      privInstr_off (sh := ⟨p.h, [], none⟩) hs hp⟩

end Sys2Proof.Machine

/-! ## Interrupts and their waits (R159, R162) -/

namespace Sys2Proof.Machine

/-! ### INTERRUPT_ENTRY -/

/-- The lowest set bit of a word. -/
theorem lowestSet_eq {x : Word} {k : Nat} (h : x.getLsbD k = true) (hlow : ∀ j, j < k → x.getLsbD j = false) : lowestSet 0 x = some k := by
  have hne : x ≠ 0 := by
    rintro rfl
    simp at h
  have hk : k < 64 := BitVec.lt_of_getLsbD h
  have hfind : (List.range 64).find? x.getLsbD = some k :=
    List.find?_range_eq_some.mpr ⟨h, List.mem_range.mpr hk, fun j hj => by simp [hlow j hj]⟩
  rw [lowestSet, if_neg hne, hfind]
  simp

/-- A strand that is neither FREE nor SUSPENDED and holds no answer to complete with stands at a boundary (log 80). -/
theorem Slot.atBoundary_iff (x : Slot) :
    x.atBoundary = true ↔ x.phase ≠ .free ∧ (¬∃ d, x.phase = .suspended d) ∧ (x.phase = .ready → x.sched.reply = Option.none) := by
  unfold Slot.atBoundary
  cases h : x.phase <;> simp
theorem Slot.interrupt_some {x : Slot} {now k : Nat} (hb : x.atBoundary = true) (hie : x.ctl.status.getLsbD 3 = true) (hm : x.mode ≠ .m)
    (hk : (x.raised now).getLsbD k = true) (hlow : ∀ j, j < k → (x.raised now).getLsbD j = false) : x.interrupt now = some k := by
  have hie : x.ie = true := hie
  simp [Slot.interrupt, hb, hie, hm, lowestSet_eq hk hlow]
theorem Slot.interrupt_none {x : Slot} {now : Nat} (h : ¬(x.atBoundary = true) ∨ x.ctl.status.getLsbD 3 = false ∨ x.mode = .m ∨ x.raised now = 0) :
    x.interrupt now = Option.none := by
  unfold Slot.interrupt
  dsimp only
  split
  · rename_i hall
    simp only [Bool.and_eq_true, bne_iff_ne] at hall
    obtain ⟨⟨hb, hie⟩, hm⟩ := hall
    rcases h with h | h | h | h
    · exact absurd hb h
    · exact absurd (hie.symm.trans h) (by decide)
    · exact absurd h hm
    · rw [lowestSet, if_pos h]
  · rfl

/-- To abandon a wait touches the dispenser and the mesh. -/
theorem State.leaveWork_frame (s : State) (sid : Nat) :
    s.leaveWork sid = { s with mesh := (s.leaveWork sid).mesh, dispensers := (s.leaveWork sid).dispensers } := by
  unfold State.leaveWork
  dsimp only
  split <;> rfl
theorem State.abandon_frame (s : State) (sid : Nat) :
    s.abandon sid = { s with mesh := (s.abandon sid).mesh, dispensers := (s.abandon sid).dispensers } := by
  unfold State.abandon
  split
  · exact s.leaveWork_frame sid
  · rfl

theorem State.unpause_frame (s : State) (core : Nat) : s.unpause core = { s with cores := (s.unpause core).cores } := by
  unfold State.unpause
  split <;> rfl
theorem State.unpause_runs (s : State) (core : Nat) : ((s.unpause core).core core).issue.paused = false := by
  unfold State.unpause
  split
  · simp
  · rename_i h
    exact Bool.not_eq_true _ ▸ h

/-- A trap taken at a slot that is not SUSPENDED makes it READY, and its core runs. -/
theorem State.trapAt_eq {s : State} {sid : Nat} (t : Trap) (h : ¬∃ d, (s.slot sid).phase = .suspended d) :
    s.trapAt sid t = (s.setSlot sid { (s.slot sid).enter t with phase := .ready }).unpause (coreOf sid) := by
  unfold State.trapAt
  split
  · rename_i d hd
    exact absurd ⟨d, hd⟩ h
  · rfl

theorem State.takeInterrupt_some {s : State} {sid k : Nat} (hi : (s.slot sid).interrupt s.clock.time = some k)
    (hsusp : ¬∃ d, (s.slot sid).phase = .suspended d) :
    let t := s.takeInterrupt sid
    t.slot sid = { (s.slot sid).enter { cause := 0x80 + k, tval := 0 } with phase := .ready } ∧ (t.core (coreOf sid)).issue.paused = false ∧
      t.mem = s.mem ∧ t.clusters = s.clusters ∧ ∀ j, j ≠ sid → t.slot j = s.slot j := by
  have hslot : ∀ j, (s.abandon sid).slot j = s.slot j := fun j => by rw [s.abandon_frame]; rfl
  have ht : s.takeInterrupt sid = (s.abandon sid).trapAt sid { cause := 0x80 + k, tval := 0 } := by
    unfold State.takeInterrupt
    rw [hi]
  have hframe : (s.abandon sid).mem = s.mem ∧ (s.abandon sid).clusters = s.clusters := by
    rw [s.abandon_frame]
    exact ⟨rfl, rfl⟩
  dsimp only
  rw [ht, State.trapAt_eq _ (by rwa [hslot]), hslot]
  refine ⟨?_, State.unpause_runs .., ?_, ?_, fun j hj => ?_⟩
  · rw [State.slot_unpause, State.slot_setSlot_self]
  · rw [State.unpause_frame]
    exact hframe.1
  · rw [State.unpause_frame]
    exact hframe.2
  · rw [State.slot_unpause, State.slot_setSlot_ne _ _ hj, hslot]

/-! ### wfi -/

section
variable {s : State} {f : Plain} (hs : s.me.steady = true) (hg : s.me.executes f.h = true)
include hs hg

theorem wfi_waited (h : s.me.sched.waited = true) :
    exec (.wfi f) s = .next (s.retires ⟨f.h, [], none⟩ { s.me with sched := { s.me.sched with waited := false } }) := by
  refine plainInstr_run (sh := ⟨f.h, [], none⟩) hs hg rfl ?_ (s.isAt_setMe { s.me with sched := { s.me.sched with waited := false } }) hs rfl
  rw [M.bind_ok (getMe_run s), M.bind_ok (M.get_run s)]
  simp only [h, if_true]
  rfl
theorem wfi_raised (h : s.me.sched.waited = false) (hr : s.me.raised s.clock.time ≠ 0) :
    exec (.wfi f) s = .next (s.retires ⟨f.h, [], none⟩ s.me) := by
  refine plainInstr_run (sh := ⟨f.h, [], none⟩) hs hg rfl ?_ (.refl s) hs rfl
  rw [M.bind_ok (getMe_run s), M.bind_ok (M.get_run s)]
  simp only [h, Bool.false_eq_true, if_false, hr]
  rfl
theorem wfi_waits (h : s.me.sched.waited = false) (hr : s.me.raised s.clock.time = 0) :
    exec (.wfi f) s = .next (s.setMe { s.me with phase := .blocked (.wfi (s.clock.time + 1821)) }) := by
  refine privInstr_error (sh := ⟨f.h, [], none⟩) (allowed := pure ()) (e := .wait (.wfi (s.clock.time + 1821)) false) (Slot.steady_windows hs) hg rfl rfl
    (M.bind_error ?_)
  rw [M.bind_ok (getMe_run s), M.bind_ok (M.get_run s)]
  simp only [h, Bool.false_eq_true, if_false, hr, if_true]
  rfl
end

theorem wfiTimeout_due {s : State} {sid deadline : Nat} (h : (s.slot sid).phase = .blocked (.wfi deadline)) (hd : deadline ≤ s.clock.time) :
    s.wfiTimeout sid = (s.setSlot sid (s.slot sid).resumeWaited).unpause (coreOf sid) := by
  unfold State.wfiTimeout
  rw [h]
  exact if_pos hd
theorem wfiTimeout_early {s : State} {sid deadline : Nat} (h : (s.slot sid).phase = .blocked (.wfi deadline)) (hd : s.clock.time < deadline) :
    s.wfiTimeout sid = s := by
  unfold State.wfiTimeout
  rw [h]
  exact if_neg (Nat.not_le.mpr hd)

/-- Settles O13: the entry takes the lowest raised source at a boundary, `wfi` completes or waits, and its time limit ends the wait. -/
theorem interruptsAndWaits : Obligations.InterruptsAndWaits := by
  unfold Obligations.InterruptsAndWaits
  refine ⟨fun s sid => ?_, fun s f hs hg => ⟨wfi_waited hs hg, wfi_raised hs hg, wfi_waits hs hg⟩, fun s sid deadline h => ⟨fun hd => ?_, fun hd => ?_⟩⟩
  · intro x pending live
    refine ⟨fun hlive hie hm k _ hk hlow => ?_, fun h => ?_⟩
    · obtain ⟨hslot, hrun, hmem, hcl, hrest⟩ := State.takeInterrupt_some
        (Slot.interrupt_some ((Slot.atBoundary_iff x).mpr hlive) hie hm hk hlow) hlive.2.1
      exact ⟨_, rfl, hslot, hrun, hmem, hcl, hrest⟩
    · have hnone : x.interrupt s.clock.time = none := Slot.interrupt_none (h.imp_left fun hl hb => hl ((Slot.atBoundary_iff x).mp hb))
      show Host.Outcome.next (s.takeInterrupt sid) = _
      unfold State.takeInterrupt
      rw [show (s.slot sid).interrupt s.clock.time = none from hnone]
  · exact congrArg Host.Outcome.next (wfiTimeout_early h hd)
  · refine ⟨_, congrArg Host.Outcome.next (wfiTimeout_due h hd), ?_, State.unpause_runs ..⟩
    rw [State.slot_unpause, State.slot_setSlot_self]
    rfl

end Sys2Proof.Machine

/-! ## Writes of system registers that act (R149, R160, R168) -/

namespace Sys2Proof.Machine

/-! ### mtsb and mtsc -/

theorem writeSys_slot {s : State} {n : Nat} {v : Word} {y : Slot} (hp : plainReg n) (hstr : ¬(0x030 ≤ n ∧ n ≤ 0x03F)) (h70 : n ≠ 0x070)
    (h : s.me.writeReg n v = some y) : writeSys n v s = .ok ((), s.setMe y) := by
  unfold writeSys
  rw [M.bind_ok (M.get_run s)]
  simp only [sysAbsent_plain hp, Bool.false_eq_true, if_false, hstr, h70, h]
  rfl

/-- A read and a write in one: what is read goes to RD, and the write leaves the slot as `y`. -/
theorem sysModify_run {s : State} {fn : Word → Word → Word} {f : SysMod} {s1 s2 : State} {y : Slot} {old : Word}
    (hr : s.ready ⟨f.h, [(1, .g, f.a)], some (.g, f.rd)⟩ = true) (hown : f.rd = 0 ∨ s.me.regs.own .g f.rd = true)
    (hrv : s.me.mode.covers (sysReadView f.sr.toNat) = true) (hwv : s.me.mode.covers (sysWriteView f.sr.toNat) = true)
    (hread : readSys f.sr.toNat s = .ok (old, s1))
    (hwrite : writeSys f.sr.toNat (fn old (s.me.regs.getG f.a.n)) s1 = .ok ((), s2)) (h2 : s2.IsAt s y) (hy : y.steady = true)
    (hregs : y.regs = s.me.regs) (hstr : y.streams = s.me.streams) (hpc : y.pc = s.me.pc) :
    sysModify fn f s = .next (s.retires ⟨f.h, [(1, .g, f.a)], some (.g, f.rd)⟩ (y.withG f.rd old)) := by
  obtain ⟨hs, hg, hsrc, hd⟩ := State.ready_parts hr
  obtain ⟨t, ht, hat⟩ := writeG_run (s := s2) (by rw [h2.me]; exact Slot.steady_windows hy) f.rd old (h2.writable_own hd hown hregs hstr)
  rw [h2.me] at hat
  have hallow : (do needView f.sr.toNat (sysReadView f.sr.toNat); needView f.sr.toNat (sysWriteView f.sr.toNat) : M Unit) s = .ok ((), s) := by
    rw [M.bind_ok (needView_run hrv), needView_run hwv]
  have hbody : (do
      let a ← readG 1 f.a
      let old ← readSys f.sr.toNat
      writeSys f.sr.toNat (fn old a)
      writeG f.rd old
      return none : M (Option Word)) s = .ok (none, t) := by
    rw [M.bind_ok (readG_run (Slot.steady_windows hs) 1 f.a (State.ready_source hr (m := (1, .g, f.a)) (by simp))), M.bind_ok hread,
      M.bind_ok hwrite, M.bind_ok ht]
    rfl
  have hrun := privInstr_run (y := y.withG f.rd old) hs hg hsrc hallow hbody (hat.trans h2) hy
  rw [Slot.withG_pc, hpc] at hrun
  exact hrun

theorem sysWriteView_eq {n : Nat} (h : n ≠ 0x00A) (h' : n ≠ 0x061) : sysWriteView n = sysReadView n := by
  rw [sysWriteView, if_neg h, if_neg h']

/-- A register of the slot that is read and stored in one. -/
theorem sysModify_slot {s : State} {fn : Word → Word → Word} {f : SysMod} {n : Nat} {y : Slot} {old : Word}
    (hr : s.ready ⟨f.h, [(1, .g, f.a)], some (.g, f.rd)⟩ = true) (hown : f.rd = 0 ∨ s.me.regs.own .g f.rd = true)
    (hn : f.sr.toNat = n) (hp : plainReg n) (hstr : ¬(0x030 ≤ n ∧ n ≤ 0x03F)) (h70 : n ≠ 0x070) (hA : n ≠ 0x00A ∧ n ≠ 0x061)
    (hview : s.me.mode.covers (sysReadView n) = true) (hread : s.me.readReg n s.clock.time = some old)
    (hwrite : s.me.writeReg n (fn old (s.me.regs.getG f.a.n)) = some y) (hy : y.steady = true) (hregs : y.regs = s.me.regs)
    (hstreams : y.streams = s.me.streams) (hpc : y.pc = s.me.pc) :
    sysModify fn f s = .next (s.retires ⟨f.h, [(1, .g, f.a)], some (.g, f.rd)⟩ (y.withG f.rd old)) := by
  subst hn
  exact sysModify_run hr hown hview (by rw [sysWriteView_eq hA.1 hA.2]; exact hview)
    (readSys_slot (sysAbsent_plain hp _) hp.2.2.2 hread) (writeSys_slot hp hstr h70 hwrite) (s.isAt_setMe y) hy hregs hstreams hpc

theorem Slot.writeReg_mbox (x : Slot) (k : Fin 8) (v : Word) :
    x.writeReg (0x010 + k.val) v = some { x with ctl := { x.ctl with mbox := x.ctl.mbox.set k v } } := by
  fin_cases k <;> rfl
/-- MSGIN has no field to write. -/
theorem writeSys_msgin (s : State) (v : Word) : writeSys 0x044 v s = .ok ((), s) := by
  unfold writeSys
  rw [M.bind_ok (M.get_run s)]
  simp only [sysAbsent, Nat.reduceBEq, Bool.and_false, Nat.reduceLeDiff, decide_false, decide_true, Bool.and_true, Bool.or_false, Bool.false_eq_true,
    if_false, Nat.reduceEqDiff, and_false]
  rfl

section
variable {s : State} {f : SysMod} (hr : s.ready ⟨f.h, [(1, .g, f.a)], some (.g, f.rd)⟩ = true) (hown : f.rd = 0 ∨ s.me.regs.own .g f.rd = true)
include hr hown

theorem sysModify_mbox (fn : Word → Word → Word) (k : Fin 8) (hn : f.sr.toNat = 0x010 + k.val) :
    sysModify fn f s = .next (s.retires ⟨f.h, [(1, .g, f.a)], some (.g, f.rd)⟩ (Slot.withG { s.me with
      ctl := { s.me.ctl with mbox := s.me.ctl.mbox.set k (fn s.me.ctl.mbox[k] (s.me.regs.getG f.a.n)) } } f.rd s.me.ctl.mbox[k])) := by
  have hs := (State.ready_parts hr).1
  exact sysModify_slot hr hown hn (by omega) (by omega) (by omega) (by omega) (by rw [sysReadView_any (by omega)]; exact Mode.covers_u _)
    (Slot.readReg_mbox ..) (Slot.writeReg_mbox ..) hs rfl rfl rfl
theorem sysModify_ienable (fn : Word → Word → Word) (hu : s.me.mode ≠ .u) (hn : f.sr.toNat = 0x041) :
    sysModify fn f s = .next (s.retires ⟨f.h, [(1, .g, f.a)], some (.g, f.rd)⟩ (Slot.withG { s.me with
      ctl := { s.me.ctl with ienable := fn s.me.ctl.ienable (s.me.regs.getG f.a.n) &&& 0x3F } } f.rd s.me.ctl.ienable)) := by
  have hs := (State.ready_parts hr).1
  exact sysModify_slot hr hown hn (by decide) (by decide) (by decide) (by decide) (covers_sysReadView hu (by decide)) rfl rfl hs rfl rfl rfl
theorem sysModify_timecmp (fn : Word → Word → Word) (hu : s.me.mode ≠ .u) (hn : f.sr.toNat = 0x046) :
    sysModify fn f s = .next (s.retires ⟨f.h, [(1, .g, f.a)], some (.g, f.rd)⟩ (Slot.withG { s.me with
      ctl := { s.me.ctl with timecmp := fn s.me.ctl.timecmp (s.me.regs.getG f.a.n) } } f.rd s.me.ctl.timecmp)) := by
  have hs := (State.ready_parts hr).1
  exact sysModify_slot hr hown hn (by decide) (by decide) (by decide) (by decide) (covers_sysReadView hu (by decide)) rfl rfl hs rfl rfl rfl
theorem sysModify_msgin (fn : Word → Word → Word) (hu : s.me.mode ≠ .u) (hn : f.sr.toNat = 0x044) {m : Msg} {rest : List Msg}
    (hm : s.me.msgs = m :: rest) :
    sysModify fn f s = .next (s.retires ⟨f.h, [(1, .g, f.a)], some (.g, f.rd)⟩ (Slot.withG { s.me with msgs := rest } f.rd m.payload)) := by
  have hs := (State.ready_parts hr).1
  have hat := s.isAt_setMe { s.me with msgs := rest }
  have hview : s.me.mode.covers (sysReadView f.sr.toNat) = true := by rw [hn]; exact covers_sysReadView hu (by decide)
  exact sysModify_run hr hown hview (by rw [hn, sysWriteView_eq (by decide) (by decide), ← hn]; exact hview)
    ((congrArg (fun k => readSys k s) hn).trans ((readSys_msgin s).trans (popMsg_cons hm)))
    ((congrArg (fun k => writeSys k _ _) hn).trans (writeSys_msgin ..)) hat hs rfl rfl rfl

end

/-! ### The rows of one register -/

/-- A field that a mask leaves. -/
theorem natField_and (x m : Word) (lo n : Nat) (h : m.extractLsb' lo n = BitVec.allOnes n) : natField (x &&& m) lo n = x.toNat / 2 ^ lo % 2 ^ n := by
  have hf : (x &&& m).extractLsb' lo n = x.extractLsb' lo n := by rw [BitVec.extractLsb'_and, h, BitVec.and_allOnes]
  rw [natField_eq, field, hf]
  exact (natField_eq x lo n).symm

/-- BWPHASE stores its fields, and the groups of its hint are allocated ones. -/
theorem writeBwphase_eq (s : State) (v : Word) :
    s.writeBwphase v = (s.setCluster (clusterOf s.cur) (s.myCluster.wake s.clock.time (0x2000 * (v.toNat / 2 ^ 32 % 256))
      (0x2000 * (v.toNat / 2 ^ 40 % 256)))).setMe { s.me with
        ctl := { s.me.ctl with bwphase := v &&& 0x0000FFFF00000107 }
        sched := { s.me.sched with
          phase := []
          hint := ((List.range (v.toNat / 2 ^ 40 % 256)).map (v.toNat / 2 ^ 32 % 256 + ·)).filter fun g =>
            decide (g < 256) && ((s.myCluster.groups.find g).isSome) } } := by
  have hlo : natField (v &&& 0x0000FFFF00000107) 32 8 = v.toNat / 2 ^ 32 % 256 := natField_and _ _ _ _ (by decide)
  have hn : natField (v &&& 0x0000FFFF00000107) 40 8 = v.toNat / 2 ^ 40 % 256 := natField_and _ _ _ _ (by decide)
  have hcomm : ∀ (p : Nat → Bool) (l : List Nat), (l.filter (fun g => decide (g < 256))).filter p = l.filter fun g => decide (g < 256) && p g := by
    intro p l
    rw [List.filter_filter]
    exact List.filter_congr fun x _ => Bool.and_comm ..
  unfold State.writeBwphase hintGroups
  simp only [hlo, hn, hcomm]
  rfl

theorem seekStream_none {s : State} {k : Nat} (h : (s.me.stream k).kind = 0) (v : Word) : seekStream k v s =
    .error (.trap { cause := 0x18, tval := 1, stream := some k, sfault := some (BitVec.allOnes 64) }) := by
  unfold seekStream
  rw [M.bind_ok (getMe_run s)]
  simp only [h, if_true]
  rfl
theorem seekStream_run {s : State} {k : Nat} (h : (s.me.stream k).kind ≠ 0) (v : Word) : seekStream k v s =
    .ok ((), s.setMe (s.me.setStream k { s.me.stream k with pos := v, ahead := [] })) := by
  unfold seekStream
  rw [M.bind_ok (getMe_run s)]
  simp only [h, if_false]
  rfl

/-! ### MTCMD written (R168) -/

theorem mtStored_eq (v : Word) (err : Bool) : mtStored v err = v &&& 0xFFFF000F00000003 ||| (if err then 4 else 0) := by
  cases err with
  | true => rfl
  | false => exact (BitVec.or_zero).symm

/-- The slot once a write to MTCMD has completed. -/
def Slot.mtDone (x : Slot) (v : Word) (err : Bool) : Slot :=
  { x with
    ports := { x.ports with mtcmd := v &&& 0xFFFF000F00000003 ||| (if err then 4 else 0) }
    sched := { x.sched with reply := .none } }

section
variable {s : State} {v : Word}

theorem mtCommand_stores (h : natField v 0 2 = 0) : mtCommand v s = .ok ((), s.setMe (s.me.mtDone v (s.me.ports.mtcmd.getLsbD 2))) := by
  unfold mtCommand
  rw [M.bind_ok (M.get_run s)]
  simp only [h, if_true, mtStored_eq]
  rfl
theorem mtCommand_nowhere (h : natField v 0 2 ≠ 0) (h48 : 48 ≤ natField v 48 6) : mtCommand v s = .ok ((), s.setMe (s.me.mtDone v true)) := by
  unfold mtCommand
  rw [M.bind_ok (M.get_run s)]
  simp only [h, if_false, h48, if_true, mtStored_eq]
  rfl
theorem mtCommand_answered (h : natField v 0 2 ≠ 0) (h48 : ¬48 ≤ natField v 48 6) {w : Word} (hr : s.me.sched.reply = some w) :
    mtCommand v s = .ok ((), s.setMe (s.me.mtDone v false)) := by
  unfold mtCommand
  rw [M.bind_ok (M.get_run s)]
  simp only [h, if_false, h48, hr, Option.isSome_some, if_true, mtStored_eq]
  rfl
theorem mtCommand_goes (h : natField v 0 2 ≠ 0) (h48 : ¬48 ≤ natField v 48 6) (hr : s.me.sched.reply = none) :
    mtCommand v s = .error (.done (s.startOp v)) := by
  unfold mtCommand
  rw [M.bind_ok (M.get_run s)]
  simp only [h, if_false, h48, hr, Option.isSome_none, Bool.false_eq_true]
  rfl
theorem writeSys_mtcmd : writeSys 0x070 v s = mtCommand v s := by
  unfold writeSys
  rw [M.bind_ok (M.get_run s)]
  simp [sysAbsent]

end

/-- What mts may do, and its body, for MTCMD. -/
theorem needView_mtcmd {s : State} (hu : s.me.mode ≠ .u) : needView 0x070 (sysWriteView 0x070) s = .ok ((), s) :=
  needView_run (by rw [sysWriteView_eq (by decide) (by decide)]; exact covers_sysReadView hu (by decide))

section
variable {s : State} {f : SysWrite} (hr : s.ready ⟨f.h, [(1, .g, f.a)], none⟩ = true) (hu : s.me.mode ≠ .u) (hn : f.sr = 0x070)
include hr hu hn

/-- A write to MTCMD that completes. -/
theorem mts_mtcmd {err : Bool} (h : mtCommand (s.me.regs.getG f.a.n) s = .ok ((), s.setMe (s.me.mtDone (s.me.regs.getG f.a.n) err))) :
    exec (.mts f) s = .next (s.retires ⟨f.h, [(1, .g, f.a)], none⟩ (s.me.mtDone (s.me.regs.getG f.a.n) err)) := by
  obtain ⟨h0, sr, a⟩ := f
  subst hn
  obtain ⟨hs, hg, hsrc, -⟩ := State.ready_parts hr
  have hbody : (do
      let a ← readG 1 a
      writeSys 0x070 a
      return none : M (Option Word)) s = .ok (none, s.setMe (s.me.mtDone (s.me.regs.getG a.n) err)) := by
    rw [M.bind_ok (readG_run (Slot.steady_windows hs) 1 a (State.ready_source hr (m := (1, .g, a)) (by simp))), M.bind_ok (writeSys_mtcmd.trans h)]
    rfl
  exact privInstr_run hs hg hsrc (needView_mtcmd hu) hbody (s.isAt_setMe _) hs
theorem mts_mtcmd_stops {e : Stop} (h : mtCommand (s.me.regs.getG f.a.n) s = .error e) : exec (.mts f) s = .next (e.after s) := by
  obtain ⟨h0, sr, a⟩ := f
  subst hn
  obtain ⟨hs, hg, hsrc, -⟩ := State.ready_parts hr
  have hbody : (do
      let a ← readG 1 a
      writeSys 0x070 a
      return none : M (Option Word)) s = .error e := by
    rw [M.bind_ok (readG_run (Slot.steady_windows hs) 1 a (State.ready_source hr (m := (1, .g, a)) (by simp))),
      M.bind_error (writeSys_mtcmd.trans h)]
  exact privInstr_error (Slot.steady_windows hs) hg hsrc (needView_mtcmd hu) hbody
end

/-- A slot whose streams stand where they stood has nothing to put back. -/
theorem Slot.unpopped_of_streams {x y : Slot} (h : x.streams = y.streams) : x.unpopped y = x := by
  have hzip : y.streams.zipWith (fun t o => { t with pos := o.pos, ahead := o.ahead }) y.streams = y.streams := by
    ext1
    simp
  unfold Slot.unpopped
  rw [h, hzip, ← h]
theorem unretired_setMe {s t : State} {y : Slot} (hp : y.phase ≠ .free) (h : y.streams = s.me.streams) :
    unretired s (t.setMe y) = t.setMe y := by
  rw [unretired, State.me_setMe, if_neg hp, Slot.unpopped_of_streams h, State.setMe_setMe]

/-- The operation of MTCMD for a router of this package enters the mesh, and the strand waits for its answer (R168). -/
theorem startOp_local (s : State) {v : Word} (h48 : (v.extractLsb' 48 6).toNat < 48)
    (hp : (v.extractLsb' 56 8).toNat = Config.package % 256) :
    s.startOp v = State.setMe { s with
      nextOp := s.nextOp + 1
      mesh := s.mesh ++ [⟨coreOf s.cur, dieOf s.cur, routerOf s.cur, (v.extractLsb' 54 2).toNat, (v.extractLsb' 48 6).toNat,
        .mtOp (v.extractLsb' 0 2).toNat (v.extractLsb' 32 4).toNat s.cur s.nextOp ⟨s.me.ports.mtd0, s.me.ports.mtd1, s.me.ports.mtd2⟩⟩] } { s.me with phase := .blocked (.reply s.nextOp) } := by
  have hrouter : natField v 48 16 % 64 = (v.extractLsb' 48 6).toNat := by
    simp only [natField_eq, field, BitVec.extractLsb'_toNat, Nat.shiftRight_eq_div_pow]; omega
  have hdie : natField v 48 16 / 64 % 4 = (v.extractLsb' 54 2).toNat := by
    simp only [natField_eq, field, BitVec.extractLsb'_toNat, Nat.shiftRight_eq_div_pow]; omega
  have hpack : natField v 48 16 / 256 % 256 = (v.extractLsb' 56 8).toNat := by
    simp only [natField_eq, field, BitVec.extractLsb'_toNat, Nat.shiftRight_eq_div_pow]; omega
  have hhere : isForeign (natField v 48 16) = false := by
    rw [isForeign, hpack, hp, bne_self_eq_false]
  unfold State.startOp
  simp only [hhere, Bool.false_eq_true, if_false, State.sendPlace, hrouter, hdie, Nat.not_le.mpr h48]
  rw [natField_eq v 0 2, natField_eq v 32 4]
  rfl

/-! ### The rows complete -/

theorem sysregWrite_mbox (s : State) (v : Word) (k : Fin 8) : exec (.sysregWrite (BitVec.ofNat 12 (0x010 + k.val)) v) s =
    .next (s.setMe { s.me with ctl := { s.me.ctl with mbox := s.me.ctl.mbox.set k v } }) := by
  have hn : (BitVec.ofNat 12 (0x010 + k.val)).toNat = 0x010 + k.val := by
    rw [BitVec.toNat_ofNat, Nat.mod_eq_of_lt (by omega)]
  refine outcome_ok ?_
  rw [hn]
  have hplain : plainReg (0x010 + k.val) := by unfold plainReg; omega
  exact writeSys_slot hplain (by omega) (by omega) (Slot.writeReg_mbox ..)
theorem msginRead_pops (s : State) : exec .msginRead s = .next (if s.me.msgs = [] then s else s.setMe { s.me with msgs := s.me.msgs.tail }) := by
  refine outcome_ok ?_
  cases hm : s.me.msgs with
  | nil => rw [M.bind_ok (popMsg_nil hm)]; rfl
  | cons m rest => rw [M.bind_ok (popMsg_cons hm)]; rfl
theorem sposWrite_seeks (s : State) (k : BitVec 2) (v : Word) :
    if 0 = (s.me.stream k.toNat).kind then exec (.sposWrite k v) s = .next (takeTrap
        { cause := 0x18, tval := 1, stream := some k.toNat, sfault := some (BitVec.allOnes 64) } s)
      else ∃ y, exec (.sposWrite k v) s = .next (s.setMe y) ∧
        y = s.me.setStream k.toNat { s.me.stream k.toNat with pos := v, ahead := [] } := by
  split
  · next h => exact outcome_error (seekStream_none h.symm v)
  · next h => exact ⟨_, outcome_ok (seekStream_run (Ne.symm h) v), rfl⟩

/-! ### An operation of MTCMD at its router, and its answer (R168) -/

section
variable {s s1 : State} {i : Nat} {m : MeshMsg} (ht : s.meshTake i = some (m, s1))
include ht

theorem mtMove_op {opc idx sid n : Nat} {d : TreeData} (hb : m.body = .mtOp opc idx sid n d) :
    s.mtMove i opc = s1.treeOp m.die m.router opc idx sid n d := by
  simp only [State.mtMove, ht, hb, if_true]
theorem mtMove_other {opc idx sid n k : Nat} {d : TreeData} (hb : m.body = .mtOp opc idx sid n d) (hk : opc ≠ k) : s.mtMove i k = s := by
  simp only [State.mtMove, ht, hb, if_neg hk]
theorem mtMove_reply {sid n k : Nat} {d : Option TreeData} (hb : m.body = .mtReply sid n d) (hd : d.isSome = decide (k = 1)) :
    s.mtMove i k = s1.modSlot sid fun x => x.answered n 0 d := by
  simp only [State.mtMove, ht, hb, if_pos hd]

end

section
variable {s : State} {die router idx sid n : Nat} {d : TreeData} (hsid : sid < 65536)
include hsid

theorem treeOp_read : s.treeOp die router 1 idx sid n d = { s with mesh := s.mesh ++ [⟨routerUnit die router, die, router, dieOf sid, routerOf sid,
    .mtReply sid n (some (match (s.die die).tree.find (16 * router + idx % 16) with
      | some e => e.data
      | none => ⟨0, 0, 0⟩))⟩] } :=
  answerOp_local hsid ..
theorem applyWrites_one {key : Nat} (hk : key / 16 = router) : s.applyWrites die key [(sid, n, d)] = { s.setEntry die key d.entry with
    mesh := s.mesh ++ [⟨routerUnit die router, die, router, dieOf sid, routerOf sid, .mtReply sid n none⟩] } := by
  subst hk
  exact answerOp_local hsid ..
theorem treeOp_write (h : ∀ e, (s.die die).tree.find (16 * router + idx % 16) = some e → e.got = []) :
    s.treeOp die router 2 idx sid n d = { s.setEntry die (16 * router + idx % 16) d.entry with
      mesh := s.mesh ++ [⟨routerUnit die router, die, router, dieOf sid, routerOf sid, .mtReply sid n none⟩] } := by
  have hk : (16 * router + idx % 16) / 16 = router := by omega
  cases he : (s.die die).tree.find (16 * router + idx % 16) with
  | none => simp only [State.treeOp, he, applyWrites_one hsid hk]
  | some e => simp only [State.treeOp, he, h e he, List.isEmpty_nil, if_true, applyWrites_one hsid hk]
omit hsid in
theorem treeOp_write_waits {e : TreeEntry} (he : (s.die die).tree.find (16 * router + idx % 16) = some e) (hg : e.got ≠ []) :
    s.treeOp die router 2 idx sid n d = s.setEntry die (16 * router + idx % 16) { e with writes := e.writes ++ [(sid, n, d)] } := by
  have hgot : e.got.isEmpty = false := by simpa using hg
  simp only [State.treeOp, he, hgot, Bool.false_eq_true, if_false]
theorem treeOp_clear (h : ∀ e, (s.die die).tree.find (16 * router + idx % 16) = some e → e.writes = []) :
    s.treeOp die router 3 idx sid n d = { s.setDie die { s.die die with tree := (s.die die).tree.erase (16 * router + idx % 16) } with
      mesh := s.mesh ++ [⟨routerUnit die router, die, router, dieOf sid, routerOf sid, .mtReply sid n none⟩] } := by
  have hclear : s.treeOp die router 3 idx sid n d = List.foldl (fun t w => t.answerOp die router w.1 w.2.1 none)
      ((s.setDie die { s.die die with tree := (s.die die).tree.erase (16 * router + idx % 16) }).answerOp die router sid n none)
      (match (s.die die).tree.find (16 * router + idx % 16) with
        | some e => e.writes
        | none => []) := rfl
  rw [hclear]
  cases he : (s.die die).tree.find (16 * router + idx % 16) with
  | none => exact answerOp_local hsid ..
  | some e =>
    dsimp only
    rw [h e he]
    exact answerOp_local hsid ..

end

/-- The entry that a write of MTCMD leaves. -/
theorem TreeData.entry_eq (d : TreeData) : d.entry = {
    domid := (d.d0.extractLsb' 48 16).toNat, epoch := (d.d0.extractLsb' 32 16).toNat, parent := (d.d0.extractLsb' 16 16).toNat
    owner := (d.d0.extractLsb' 0 16).toNat, loc := Nat.min 72 (d.d1.extractLsb' 16 7).toNat, child := Nat.min 8 (d.d1.extractLsb' 8 4).toNat
    retired := (d.d1.extractLsb' 0 7).toNat, last := d.d2, doneChildren := 0, got := [], foreign := [], writes := [] } := by
  simp only [TreeData.entry, natField_eq]
  rfl

/-- A strand that waits for the numbered answer holds it. -/
theorem Slot.answered_awaits {x : Slot} {n : Nat} (h : x.phase = .blocked (.reply n)) (v : Word) (d : Option TreeData) :
    x.answered n v d = { x with
      ports := match d with
        | .some e => { x.ports with mtd0 := e.d0, mtd1 := e.d1, mtd2 := e.d2 }
        | .none => x.ports
      sched := { x.sched with reply := some v } } := by
  cases d <;> simp [Slot.answered, Slot.awaits, h]

/-- The write that waited with an entry stands in it once the entry has combined, and its answer is the last message of the mesh. -/
theorem tryCombine_writes {s : State} {die key : Nat} {e : TreeEntry} {c : Contrib} (he : (s.die die).tree.find key = some e)
    (hc : e.complete = true) (hm : Contrib.mergeAll e.now = some c) {sid n : Nat} {d : TreeData} (hw : e.writes = [(sid, n, d)])
    (hsid : sid < 65536) : ((s.tryCombine die key).die die).tree.find key = some d.entry ∧ (s.tryCombine die key).mesh.getLast? =
      some ⟨routerUnit die (key / 16), die, key / 16, dieOf sid, routerOf sid, .mtReply sid n none⟩ := by
  have happly : ∃ t : State, s.tryCombine die key = t.applyWrites die key [(sid, n, d)] := by
    simp only [State.tryCombine, he, hc, if_true, hm, hw]
    exact ⟨_, rfl⟩
  obtain ⟨t, ht⟩ := happly
  rw [ht]
  exact ⟨find_applyWrites_concat t die key [] (sid, n, d), by simp [applyWrites_one hsid (rfl : key / 16 = key / 16)]⟩

/-- Settles O10: the forms that read and write in one, the rows of one register, and MTCMD from the strand to the entry and back. -/
theorem systemWritesThatAct : Obligations.SystemWritesThatAct := by
  unfold Obligations.SystemWritesThatAct
  refine ⟨⟨fun s f hr hown => ⟨fun k hn => ⟨sysModify_mbox hr hown _ k hn, sysModify_mbox hr hown _ k hn⟩, fun hu => ⟨fun hn => ?_, fun hn => ?_,
    fun m rest hn hm => ?_⟩⟩, fun s v => ⟨sysregWrite_mbox s v, msginRead_pops s, ?_, ?_, fun k => sposWrite_seeks s k v, ?_, ?_⟩⟩,
    fun s f hr hu hn => ⟨fun h0 => ?_, fun h0 h48 => ?_, fun h0 h48 => ⟨fun w hw => ?_, fun hw hp => ?_⟩⟩,
    fun s s1 i m ht => ⟨fun opc idx sid n d hb hsid => ⟨?_, ?_, ?_, fun h => ?_, fun h => ?_, fun h => ?_⟩, fun sid n d hb hx => ⟨?_, ?_⟩⟩,
    fun s die key e c he hc hm sid n d hw hsid => tryCombine_writes he hc hm hw hsid⟩
  · exact ⟨sysModify_ienable hr hown _ hu hn, sysModify_ienable hr hown _ hu hn⟩
  · exact ⟨sysModify_timecmp hr hown _ hu hn, sysModify_timecmp hr hown _ hu hn⟩
  · exact ⟨sysModify_msgin hr hown _ hu hn hm, sysModify_msgin hr hown _ hu hn hm⟩
  · exact ⟨s.me.writeDmem v, rfl, rfl, rfl, rfl, rfl, rfl⟩
  · exact congrArg Host.Outcome.next (writeBwphase_eq s v)
  · simp only [exec, execPwrcapWrite, State.writePwrcap, natField, Nat.pow_zero, Nat.div_one]
  · simp only [exec, execErrorRecordRemove, List.drop_one]
  · exact mts_mtcmd hr hu hn (mtCommand_stores ((natField_eq ..).trans h0))
  · exact mts_mtcmd hr hu hn (mtCommand_nowhere (by rw [natField_eq]; exact h0) (by rw [natField_eq]; exact h48))
  · exact mts_mtcmd hr hu hn (mtCommand_answered (by rw [natField_eq]; exact h0) (by rw [natField_eq]; exact Nat.not_le.mpr h48) hw)
  · refine ⟨_, mts_mtcmd_stops hr hu hn (mtCommand_goes (by rw [natField_eq]; exact h0) (by rw [natField_eq]; exact Nat.not_le.mpr h48) hw), ?_⟩
    have hrun := startOp_local s h48 hp
    have hme : (s.startOp (s.me.regs.getG f.a.n)).me = { s.me with phase := .blocked (.reply s.nextOp) } := by
      rw [hrun, State.me_setMe]
    have hstay : unretired s (s.startOp (s.me.regs.getG f.a.n)) = s.startOp (s.me.regs.getG f.a.n) := by
      rw [hrun]
      exact unretired_setMe (by simp) rfl
    rw [Stop.after, hstay]
    exact ⟨hme, by rw [hrun]; rfl, by rw [hrun]; rfl, by rw [hrun]; rfl⟩
  · rintro rfl
    refine ⟨fun he => ?_, fun e he => ?_⟩ <;> rw [exec, execMtcmdRead, mtMove_op ht hb, treeOp_read hsid, he] <;> rfl
  · rintro rfl
    refine ⟨fun e he hg => ?_, fun hg => ?_⟩
    · rw [exec, execMtcmdWrite, mtMove_op ht hb, treeOp_write_waits he hg]
      rfl
    · rw [exec, execMtcmdWrite, mtMove_op ht hb, treeOp_write hsid hg, TreeData.entry_eq]
      rfl
  · rintro rfl hw
    rw [exec, execMtcmdClear, mtMove_op ht hb, treeOp_clear hsid hw]
    rfl
  · exact congrArg Host.Outcome.next (mtMove_other ht hb h)
  · exact congrArg Host.Outcome.next (mtMove_other ht hb h)
  · exact congrArg Host.Outcome.next (mtMove_other ht hb h)
  · rintro e rfl
    rw [exec, execMtcmdRead, mtMove_reply ht hb rfl, State.modSlot, Slot.answered_awaits hx]
  · rintro rfl
    have hwrite : ∀ k, k ≠ 1 → s.mtMove i k = s1.setSlot sid { s1.slot sid with sched := { (s1.slot sid).sched with reply := some 0 } } := by
      intro k hk
      rw [mtMove_reply ht hb (by simpa using hk), State.modSlot, Slot.answered_awaits hx]
    exact ⟨congrArg Host.Outcome.next (hwrite 2 (by decide)), congrArg Host.Outcome.next ((hwrite 3 (by decide)).trans (hwrite 2 (by decide)).symm)⟩

end Sys2Proof.Machine

/-! ## The timer, messages and their answers, and the wait for a register (R24, R158, R160, R161) -/

namespace Sys2Proof.Machine

/-! ### The first message that may be taken -/

theorem meshFind_eq {s : State} {p : MeshMsg → Bool} {i : Nat} {m : MeshMsg} (hm : s.mesh[i]? = some m) (hp : p m = true)
    (ha : m.arrived = true) (hv : s.mayMove i m = true)
    (hfirst : ∀ j m', j < i → s.mesh[j]? = some m' → m'.arrived = true → s.mayMove j m' = true → p m' = false) :
    s.meshFind p = some i := by
  have hlt : i < s.mesh.length := (List.getElem?_eq_some_iff.mp hm).1
  rw [State.meshFind, List.find?_range_eq_some]
  refine ⟨by simp [hm, hp, ha, hv], List.mem_range.mpr hlt, fun j hj => ?_⟩
  cases hj' : s.mesh[j]? with
  | none => rfl
  | some m' =>
    have hno := hfirst j m' hj hj'
    cases ha' : m'.arrived <;> cases hv' : s.mayMove j m' <;> simp [ha', hv'] at hno ⊢
    exact hno
theorem meshFind_none {s : State} {p : MeshMsg → Bool}
    (h : ∀ j m', j < s.mesh.length → s.mesh[j]? = some m' → m'.arrived = true → s.mayMove j m' = true → p m' = false) :
    s.meshFind p = none := by
  rw [State.meshFind, List.find?_range_eq_none]
  intro j hj
  cases hj' : s.mesh[j]? with
  | none => rfl
  | some m' =>
    have hno := h j m' hj hj'
    cases ha' : m'.arrived <;> cases hv' : s.mayMove j m' <;> simp [ha', hv'] at hno ⊢
    exact hno

/-- What a message that cannot reach the strand is: a unit's message at a full queue. -/
theorem canArrive_held {s : State} {sid : Nat} {b : MeshBody}
    (h : (∃ k, b = .msg sid k) ∧ (s.slot sid).phase ≠ .free ∧ 8 ≤ (s.slot sid).msgs.length) : s.canArrive sid b = false := by
  obtain ⟨⟨k, rfl⟩, hfree, hfull⟩ := h
  have hlt : ¬(s.slot sid).msgs.length < Config.messageQueue := Nat.not_lt.mpr hfull
  simp [State.canArrive, hfree, hlt]
theorem canArrive_msg {s : State} {sid : Nat} {k : Msg} (h : (s.slot sid).phase = .free ∨ (s.slot sid).msgs.length < 8) :
    s.canArrive sid (.msg sid k) = true := by
  have hqueue : (s.slot sid).phase = .free ∨ (s.slot sid).msgs.length < Config.messageQueue := h
  simpa [State.canArrive, MeshBody.forStrand] using hqueue

/-! ### MESSAGE_ARRIVAL (R160, R161) -/

/-- What a message does to the strand that it has come for, once it is off the mesh. -/
def State.takesMessage (s : State) (sid : Nat) (b : MeshBody) : State :=
  match b with
  | .msg _ x => if (s.slot sid).phase = .free then s else s.queueMsg sid x
  | .ipi _ src n payload =>
    let r := s.ipiArrives sid src payload
    r.2.sendFrom sid (dieOf src) (routerOf src) (.ipiReply src n r.1)
  | .ipiReply _ n code => s.modSlot sid fun x => x.answered n (word code) none
  | _ => s

theorem takesMessage_ipi {s t : State} {sid src n k code : Nat} {payload : Word} (h : s.ipiArrives sid src payload = (code, t)) :
    s.takesMessage sid (.ipi k src n payload) = { t with mesh := t.mesh ++
      [⟨coreOf sid, dieOf sid, routerOf sid, dieOf src, routerOf src, .ipiReply src n code⟩] } := by
  simp only [State.takesMessage, h]
  rfl
theorem ipiArrives_free {s : State} {sid : Nat} (src : Nat) (payload : Word) (h : (s.slot sid).phase = .free) :
    s.ipiArrives sid src payload = (2, s) := if_pos h
theorem ipiArrives_full {s : State} {sid : Nat} (src : Nat) (payload : Word) (h : (s.slot sid).phase ≠ .free)
    (hq : 8 ≤ (s.slot sid).msgs.length) : s.ipiArrives sid src payload = (1, s) := (if_neg h).trans (if_pos hq)
theorem ipiArrives_queued {s : State} {sid : Nat} (src : Nat) (payload : Word) (h : (s.slot sid).phase ≠ .free)
    (hq : ¬8 ≤ (s.slot sid).msgs.length) : s.ipiArrives sid src payload = (0, s.queueMsg sid ⟨0, src, payload⟩) :=
  (if_neg h).trans (if_neg hq)

section
variable {s : State} {sid i : Nat} {m : MeshMsg} (hm : s.mesh[i]? = some m) (hfor : m.body.forStrand sid = true) (ha : m.arrived = true)
  (hv : s.mayMove i m = true)
  (hfirst : ∀ j m', j < i → s.mesh[j]? = some m' → m'.body.forStrand sid = true → m'.arrived = true → s.mayMove j m' = true →
    (∃ k, m'.body = .msg sid k) ∧ (s.slot sid).phase ≠ .free ∧ 8 ≤ (s.slot sid).msgs.length)
include hm hfor ha hv hfirst

theorem messageArrival_takes (hc : s.canArrive sid m.body = true) :
    exec (.messageArrival sid) s = .next (State.takesMessage { s with mesh := s.mesh.eraseIdx i } sid m.body) := by
  have hfind : s.meshFind (fun m => s.canArrive sid m.body) = some i := by
    refine meshFind_eq hm hc ha hv fun j m' hj hj' ha' hv' => ?_
    cases hf : m'.body.forStrand sid with
    | false => simp [State.canArrive, hf]
    | true => exact canArrive_held (hfirst j m' hj hj' hf ha' hv')
  simp only [exec, execMessageArrival, State.messageArrive, hfind, Option.bind_some, meshTake_some hm ha hv]
  cases hb : m.body with
  | msg => rfl
  | ipi => rfl
  | ipiReply => rfl
  | _ => simp [hb, MeshBody.forStrand] at hfor

end

/-- Where no message for the strand may be taken, nothing arrives. -/
theorem messageArrival_held {s : State} {sid : Nat} (h : ∀ j m', j < s.mesh.length → s.mesh[j]? = some m' → m'.body.forStrand sid = true →
    m'.arrived = true → s.mayMove j m' = true →
    (∃ k, m'.body = .msg sid k) ∧ (s.slot sid).phase ≠ .free ∧ 8 ≤ (s.slot sid).msgs.length) : exec (.messageArrival sid) s = .next s := by
  have hfind : s.meshFind (fun m => s.canArrive sid m.body) = none := by
    refine meshFind_none fun j m' hj hj' ha' hv' => ?_
    cases hf : m'.body.forStrand sid with
    | false => simp [State.canArrive, hf]
    | true => exact canArrive_held (h j m' hj hj' hf ha' hv')
  simp only [exec, execMessageArrival, State.messageArrive, hfind, Option.bind_none]

theorem Slot.answered_finishing {x : Slot} {n : Nat} (h : x.phase = .blocked (.finishing (.reply n))) (v : Word) :
    x.answered n v .none = { x with sched := { x.sched with reply := some v } } := by
  simp [Slot.answered, Slot.awaits, h]

/-! ### TIMER_EXPIRY and REG_COPY_EXHAUSTED (R24, R158) -/

theorem timerExpiry_wakes {s : State} {sid : Nat} (h : (s.slot sid).ctl.timecmp.toNat ≤ s.clock.time) :
    exec (.timerExpiry sid) s = .next (s.unpause (coreOf sid)) := by
  rw [exec, execTimerExpiry, if_pos h]
theorem timerExpiry_early {s : State} {sid : Nat} (h : s.clock.time < (s.slot sid).ctl.timecmp.toNat) :
    exec (.timerExpiry sid) s = .next s := by
  rw [exec, execTimerExpiry, if_neg (Nat.not_le.mpr h)]

section
variable {s : State} {sid spec pos since : Nat} {c : Cls} (hp : (s.slot sid).phase = .blocked (.pool c spec pos since))
include hp

theorem regCopyExhausted_early (h : (s.core (coreOf sid)).issue.cycle < since + 65536) : exec (.regCopyExhausted sid) s = .next s := by
  have hlt : ¬since + Config.poolPatience ≤ (s.core (coreOf sid)).issue.cycle := Nat.not_le.mpr h
  simp only [exec, execRegCopyExhausted, State.poolTimeout, hp, if_neg hlt]
theorem regCopyExhausted_due (h : since + 65536 ≤ (s.core (coreOf sid)).issue.cycle) : exec (.regCopyExhausted sid) s = .next ((s.setSlot sid
    { (s.slot sid).enter { cause := 0x20, tval := BitVec.ofNat 64 (spec + 256 * pos) } with phase := .ready }).unpause (coreOf sid)) := by
  have hle : since + Config.poolPatience ≤ (s.core (coreOf sid)).issue.cycle := h
  simp only [exec, execRegCopyExhausted, State.poolTimeout, hp, if_pos hle]
  exact congrArg Host.Outcome.next (State.trapAt_eq _ (by simp [hp]))

end

/-! ### ipi (R161) -/

theorem namedSlot_some {a : Word} (h : a.toNat < 65536) (he : sidExists (a.toNat % 65536) = true) : namedSlot a = some (a.toNat % 65536) := by
  have hhigh : natField a 16 48 = 0 := by unfold natField; omega
  have hlow : natField a 0 16 = a.toNat % 65536 := by unfold natField; omega
  simp only [namedSlot, hhigh, hlow, he, and_self, if_true]
theorem namedSlot_none {a : Word} (h : 65536 ≤ a.toNat ∨ sidExists (a.toNat % 65536) = false) : namedSlot a = none := by
  have hlow : natField a 0 16 = a.toNat % 65536 := by unfold natField; omega
  unfold namedSlot
  rw [hlow, if_neg]
  rintro ⟨hhigh, he⟩
  rcases h with h | h
  · have hlt := a.isLt
    unfold natField at hhigh
    omega
  · rw [h] at he
    exact Bool.false_ne_true he

section
variable {s : State} {f : Bin} (hr : s.ready (binShape f) = true)
include hr

/-- Both sources read. -/
theorem binShape_sources {α : Type} (k : Word → Word → M α) :
    (do k (← readG 1 f.a) (← readG 2 f.b) : M α) s = k (s.me.regs.getG f.a.n) (s.me.regs.getG f.b.n) s := by
  obtain ⟨hs, -, hsrc, -⟩ := State.ready_parts hr
  simp only [binShape, Slot.readableAll, List.all_cons, List.all_nil, Bool.and_true, Bool.and_eq_true] at hsrc
  exact readG_two (Slot.steady_windows hs) hsrc.1 hsrc.2 k

variable (hm : s.me.mode ≠ .u)
include hm

/-- ipi completes with the answer that it holds, and with 3 where no slot is named. -/
theorem ipi_gives (hown : f.rd = 0 ∨ s.me.regs.own .g f.rd = true) {code : Word}
    (h : s.me.sched.reply = some code ∨ s.me.sched.reply = none ∧ namedSlot (s.me.regs.getG f.a.n) = none ∧ code = 3) :
    exec (.ipi f) s = .next (s.retires (binShape f)
      (Slot.withG { s.me with sched := { s.me.sched with reply := none } } f.rd code)) := by
  obtain ⟨hs, hg, hsrc, hd⟩ := State.ready_parts hr
  obtain ⟨s', hat, hbody⟩ : ∃ s' : State, s'.IsAt s { s.me with sched := { s.me.sched with reply := none } } ∧ (do
      let a ← readG 1 f.a
      let b ← readG 2 f.b
      let s ← get
      match s.me.sched.reply with
      | some code =>
        modMe fun x => { x with sched := { x.sched with reply := .none } }
        writeG f.rd code
      | none => match namedSlot a with
        | none => writeG f.rd 3
        | some sid => throw (.done (s.sendIpi sid b))
      return none : M (Option Word)) s = (do writeG f.rd code; return none : M (Option Word)) s' := by
    rcases h with h | ⟨h, hname, rfl⟩
    · refine ⟨_, s.isAt_setMe _, ?_⟩
      rw [binShape_sources hr, M.bind_ok (M.get_run s)]
      simp only [h]
      rfl
    · refine ⟨s, ⟨by rw [← h], fun _ => rfl⟩, ?_⟩
      rw [binShape_sources hr, M.bind_ok (M.get_run s)]
      simp only [h, hname]
  obtain ⟨t, ht, htat⟩ := writeG_run (s := s') (by rw [hat.me]; exact Slot.steady_windows hs) f.rd code (hat.writable_own hd hown rfl rfl)
  rw [hat.me] at htat
  have hrun := privInstr_run (sh := binShape f) hs hg hsrc (needSM_run hm 0) (hbody.trans (M.bind_ok ht)) (htat.trans hat) hs
  rw [Slot.withG_pc] at hrun
  exact hrun

/-- ipi with no answer yet sends its message, and waits. -/
theorem ipi_sends {sid : Nat} (h : s.me.sched.reply = none) (hname : namedSlot (s.me.regs.getG f.a.n) = some sid) :
    exec (.ipi f) s = .next (State.setMe { s with
      nextOp := s.nextOp + 1
      mesh := s.mesh ++ [⟨coreOf s.cur, dieOf s.cur, routerOf s.cur, dieOf sid, routerOf sid, .ipi sid s.cur s.nextOp (s.me.regs.getG f.b.n)⟩] }
      { s.me with phase := .blocked (.finishing (.reply s.nextOp)) }) := by
  obtain ⟨hs, hg, hsrc, hd⟩ := State.ready_parts hr
  have hbody : (do
      let a ← readG 1 f.a
      let b ← readG 2 f.b
      let s ← get
      match s.me.sched.reply with
      | some code =>
        modMe fun x => { x with sched := { x.sched with reply := .none } }
        writeG f.rd code
      | none => match namedSlot a with
        | none => writeG f.rd 3
        | some sid => throw (.done (s.sendIpi sid b))
      return none : M (Option Word)) s = .error (.done (s.sendIpi sid (s.me.regs.getG f.b.n))) := by
    rw [binShape_sources hr, M.bind_ok (M.get_run s)]
    simp only [h, hname]
    rfl
  refine (privInstr_error (sh := binShape f) (Slot.steady_windows hs) hg hsrc (needSM_run hm 0) hbody).trans ?_
  exact congrArg Host.Outcome.next (unretired_setMe (by simp) rfl)

end

/-- Settles O14: the timer, the messages, the register wait, and ipi. -/
theorem timerMessageAndPoolEvents : Obligations.TimerMessageAndPoolEvents := by
  unfold Obligations.TimerMessageAndPoolEvents
  refine ⟨fun s sid => ⟨timerExpiry_early, fun h => ?_⟩, fun s sid i m hm hfor ha hv hfirst => ⟨fun k hk => ?_, fun src n payload hk => ?_,
    fun n code hk hx => ?_⟩, fun s sid spec pos since c hp => ⟨regCopyExhausted_early hp, regCopyExhausted_due hp⟩,
    fun s f hr hu hown => ⟨fun code h => ipi_gives hr hu hown (.inl h), fun h hno => ?_, fun h hlt he => ?_⟩⟩
  · refine ⟨_, timerExpiry_wakes h, State.unpause_runs .., by rw [State.unpause_frame], ?_⟩
    rw [Slot.ipend_bit, State.unpause_frame]
    exact decide_eq_true h
  · dsimp only
    split
    · next hfree =>
      rw [messageArrival_takes hm hfor ha hv hfirst (by rw [hk]; exact canArrive_msg (.inl hfree)), hk, State.takesMessage]
      exact congrArg Host.Outcome.next (if_pos hfree)
    · next hfree =>
      split
      · next hroom =>
        rw [messageArrival_takes hm hfor ha hv hfirst (by rw [hk]; exact canArrive_msg (.inr hroom)), hk, State.takesMessage]
        exact congrArg Host.Outcome.next (if_neg hfree)
      · exact messageArrival_held
  · have hrun := messageArrival_takes hm hfor ha hv hfirst (by rw [hk]; simpa [State.canArrive, hk] using hfor)
    rw [hk] at hrun
    dsimp only
    split
    · next hfree => exact hrun.trans (congrArg Host.Outcome.next (takesMessage_ipi (s := { s with mesh := s.mesh.eraseIdx i }) (ipiArrives_free src payload hfree)))
    · next hfree =>
      split
      · next hfull => exact hrun.trans (congrArg Host.Outcome.next (takesMessage_ipi (s := { s with mesh := s.mesh.eraseIdx i }) (ipiArrives_full src payload hfree hfull)))
      · next hroom => exact hrun.trans (congrArg Host.Outcome.next (takesMessage_ipi (s := { s with mesh := s.mesh.eraseIdx i }) (ipiArrives_queued src payload hfree hroom)))
  · have hc : s.canArrive sid m.body = true := by rw [hk] at hfor ⊢; simpa [State.canArrive] using hfor
    rw [messageArrival_takes hm hfor ha hv hfirst hc, hk, State.takesMessage]
    refine congrArg Host.Outcome.next ?_
    exact congrArg (State.setSlot _ sid) (Slot.answered_finishing hx _)
  · exact ipi_gives hr hu hown (.inr ⟨h, namedSlot_none hno, rfl⟩)
  · refine ⟨_, ipi_sends hr hu h (namedSlot_some hlt he), State.me_setMe .., rfl, rfl, fun k hk => ?_, rfl, rfl⟩
    exact State.slot_setMe_ne _ _ hk

end Sys2Proof.Machine

/-! ## Maintenance: what the statement asks of a slot map that lists a strand out of order (R163, R360) -/

namespace Sys2Proof.Machine

/-- The state `crowded` with its strand in M: four physical g registers are left, and a write of the strand's slot lists it a second time. -/
def crowdedM : State :=
  { crowded with slots := [(65, Tests.slot 0 [] 0), (66, Tests.slot 0 [] 0),
    (64, { crowdedSlot with ctl := { crowdedSlot.ctl with status := 3 } })] }
/-- `logreplay g31, g1`. -/
def crowdedReplay : Un := ⟨⟨0, 0⟩, 31, ⟨1, false⟩⟩

set_option maxRecDepth 100000 in
theorem crowdedM_ready : crowdedM.ready (unShape crowdedReplay) = true := by decide

set_option maxRecDepth 100000 in
theorem crowdedM_blocks : Slot.blockedAfter (exec (.logreplay crowdedReplay) crowdedM) = true := by decide

/-- A strand that has gone on waits for nothing. -/
theorem blockedAfter_retires {s : State} {y : Slot} (h : y.phase = .ready) (sh : Shape) :
    Slot.blockedAfter (.next (s.retires sh y)) = false := by
  obtain ⟨regs, ws, hrel⟩ := y.releaseMarks_frame sh
  obtain ⟨ws', hopen⟩ := ((y.releaseMarks sh).goOn (nextOf s.line s.me.pc)).openWindow_windows sh (sh.prior s.me)
  rw [Slot.blockedAfter, State.retires, State.me_setMe, Slot.pass, hopen, hrel]
  simp [Slot.goOn, h]

/-- Refutes O15: where the slot map lists the strand after a higher number, logreplay with an empty log forgets its answer, which lists the
strand a second time with the registers it owns, so that no physical register is left for RD, and it waits. -/
theorem not_maintenanceForms : ¬ Obligations.MaintenanceForms := by
  unfold Obligations.MaintenanceForms
  intro h
  obtain ⟨-, -, -, hreplay⟩ := h crowdedM
  obtain ⟨-, hempty, -⟩ := hreplay (by decide) rfl crowdedReplay crowdedM_ready
  have hgoes := hempty rfl
  exact absurd (hgoes ▸ crowdedM_blocks) (by rw [blockedAfter_retires (by decide)]; decide)

end Sys2Proof.Machine

/-! ## What work outside a strand leaves of the strands

Much of the model (memory, caches, translations, engines, task units, the mesh) works on behalf of strands and touches of a slot only what it
waits for or holds outside: its handles, its record, its item, and the groups of its bandwidth phase. -/

namespace Sys2Proof.Machine

/-- A slot without what others change of it. -/
def Slot.bare (x : Slot) : Slot :=
  { x with
    handles := Vector.replicate 8 .empty, record := .none, item := .none
    sched := { x.sched with phase := [] } }

/-- The strand that issues, its line, what is the strands' own, and what is kept of saved contexts. -/
structure Frame where
  cur : Nat
  line : BitVec 512
  strands : Nat → Slot
  saved : NMap Saved

def State.frame (s : State) : Frame := ⟨s.cur, s.line, fun k => (s.slot k).bare, s.saved⟩

theorem State.cur_of_frame {s t : State} (h : t.frame = s.frame) : t.cur = s.cur := congrArg Frame.cur h
theorem State.line_of_frame {s t : State} (h : t.frame = s.frame) : t.line = s.line := congrArg Frame.line h
theorem State.saved_of_frame {s t : State} (h : t.frame = s.frame) : t.saved = s.saved := congrArg Frame.saved h
theorem State.bare_of_frame {s t : State} (h : t.frame = s.frame) (k : Nat) : (t.slot k).bare = (s.slot k).bare :=
  congrFun (congrArg Frame.strands h) k
theorem State.me_of_frame {s t : State} (h : t.frame = s.frame) : t.me.bare = s.me.bare := by
  rw [State.me, State.cur_of_frame h]
  exact State.bare_of_frame h s.cur

/-! ### Parts of the state -/

theorem frame_setCore (s : State) (c : Nat) (x : Core) : (s.setCore c x).frame = s.frame := rfl
theorem frame_setCluster (s : State) (c : Nat) (x : Cluster) : (s.setCluster c x).frame = s.frame := rfl
theorem frame_setDie (s : State) (d : Nat) (x : Die) : (s.setDie d x).frame = s.frame := rfl
theorem frame_setUnit (s : State) (u : Nat) (x : TaskUnit) : (s.setUnit u x).frame = s.frame := rfl
theorem frame_setDisp (s : State) (d : Nat) (x : Dispenser) : (s.setDisp d x).frame = s.frame := rfl
theorem frame_setSlot {s : State} {sid : Nat} {x : Slot} (h : x.bare = (s.slot sid).bare) : (s.setSlot sid x).frame = s.frame := by
  have hstrands : (fun k => ((s.setSlot sid x).slot k).bare) = fun k => (s.slot k).bare := by
    funext k
    by_cases hk : k = sid
    · rw [hk, State.slot_setSlot_self, h]
    · rw [State.slot_setSlot_ne _ _ hk]
  unfold State.frame
  rw [hstrands]
  rfl
theorem frame_mapSlots {s : State} {f : Nat × Slot → Nat × Slot} (hf : ∀ x, (f x).1 = x.1 ∧ (f x).2.bare = x.2.bare) :
    State.frame { s with slots := s.slots.map f } = s.frame := by
  have hfind : ∀ (m : NMap Slot) (k : Nat), ((NMap.find (m.map f) k).getD Slot.none).bare = ((NMap.find m k).getD Slot.none).bare := by
    intro m k
    induction m with
    | nil => rfl
    | cons x m ih =>
      obtain ⟨hk, hx⟩ := hf x
      obtain ⟨j, w⟩ := x
      simp only [List.map_cons, NMap.find, hk]
      split
      · exact hx
      · exact ih
  unfold State.frame
  simp only [State.slot, hfind]
theorem frame_foldl {α : Type} {f : State → α → State} (h : ∀ s x, (f s x).frame = s.frame) (xs : List α) (s : State) :
    (xs.foldl f s).frame = s.frame := by
  induction xs generalizing s with
  | nil => rfl
  | cons x xs ih => exact (ih (f s x)).trans (h s x)
/-- What an answer with a state leaves, where each of its cases does. -/
theorem frame_snd {α : Type} {r : α × State} {a : α} {s t : State} (h : r = (a, t)) (hr : r.2.frame = s.frame) : t.frame = s.frame := by
  rw [h] at hr
  exact hr

@[simp] theorem frame_unpause (s : State) (core : Nat) : (s.unpause core).frame = s.frame := by
  rw [s.unpause_frame]
  rfl

/-! ### Messages and error records -/

theorem frame_sendMsg (s : State) (die router sid kind : Nat) (payload : Word) : (s.sendMsg die router sid kind payload).frame = s.frame := by
  unfold State.sendMsg
  split <;> rfl
theorem frame_sendPlace (s : State) (src die router place : Nat) (b : MeshBody) : (s.sendPlace src die router place b).frame = s.frame := by
  unfold State.sendPlace
  split
  · rfl
  · split <;> rfl
theorem frame_khtSend (s : State) (session ty status : Nat) (payload : List Byte) : (s.khtSend session ty status payload).frame = s.frame := by
  unfold State.khtSend
  split
  · rfl
  · dsimp only
    split <;> rfl
theorem frame_logError (s : State) (die kind nerr unit : Nat) (addr : Word) : (s.logError die kind nerr unit addr).frame = s.frame := by
  unfold State.logError
  refine (frame_foldl (fun t x => ?_) _ _).trans ((frame_sendMsg ..).trans ?_)
  · split
    · rfl
    · exact frame_khtSend ..
  · split <;> rfl

/-! ### Banks -/

theorem frame_scrub (s : State) (cl w : Nat) : (s.scrub cl w).frame = s.frame := (frame_logError ..).trans (frame_setCluster ..)
theorem frame_scrubAll (cl a n k : Nat) (s : State) : (s.scrubAll cl a n k).frame = s.frame := by
  induction k generalizing s with
  | zero => rfl
  | succ k ih =>
    unfold State.scrubAll
    split
    · rfl
    · exact (ih _).trans (frame_scrub ..)
theorem bare_notePhase (x : Slot) (a n : Nat) : (x.notePhase a n).bare = x.bare := by
  unfold Slot.notePhase
  split
  · rfl
  · split <;> rfl
theorem frame_noteTouch (s : State) (sid a n : Nat) : (s.noteTouch sid a n).frame = s.frame := by
  unfold State.noteTouch
  dsimp only
  split
  · exact frame_setSlot (bare_notePhase ..)
  · exact (frame_setCluster ..).trans (frame_setSlot (bare_notePhase ..))

/-! ### Translation -/

theorem frame_translate {s t : State} {asid ea : Nat} {acc : Access} {mode : Mode} {useTlb : Bool} {x : Xlat}
    (h : s.translate asid ea acc mode useTlb = (x, t)) : t.frame = s.frame := by
  unfold State.translate at h
  dsimp only at h
  split at h
  · split at h <;> (cases h; rfl)
  · split at h
    · cases h
      rfl
    · cases h
      rfl
    · cases h
      refine (frame_setDie ..).trans ?_
      split <;> rfl
theorem frame_xlatBytes {s t : State} {asid ea n : Nat} {acc : Access} {mode : Mode} {useTlb : Bool} {x : Except (Xlat × Nat) (List Nat)}
    (h : s.xlatBytes asid ea n acc mode useTlb = (x, t)) : t.frame = s.frame := by
  unfold State.xlatBytes at h
  split at h
  · next h1 =>
    dsimp only at h
    split at h
    · cases h
      exact frame_translate h1
    · split at h
      · next h2 =>
        cases h
        exact (frame_translate h2).trans (frame_translate h1)
      · next h2 =>
        cases h
        exact (frame_translate h2).trans (frame_translate h1)
  · next h1 =>
    cases h
    exact frame_translate h1
theorem frame_storePhys (s : State) (pas : List Nat) (bs : List (Option Byte)) : (s.storePhys pas bs).frame = s.frame := rfl
theorem frame_areaAddr {s t : State} {area : Nat} {acc : Access} {x : Xlat} (h : s.areaAddr area acc = (x, t)) : t.frame = s.frame := by
  unfold State.areaAddr at h
  split at h
  · cases h
    rfl
  · exact frame_translate h
theorem frame_areaWrite (s : State) (pa off : Nat) (bs : List Byte) : (s.areaWrite pa off bs).frame = s.frame := rfl

/-! ### The data cache -/

theorem frame_sendLog (s : State) (core sid idx cause reason : Nat) : (s.sendLog core sid idx cause reason).frame = s.frame := frame_sendMsg ..
theorem frame_logMerged (core : Nat) (x : DcLine) (s : State) (w : Nat × Nat × Nat × Mode) : (State.logMerged core x s w).frame = s.frame := by
  unfold State.logMerged
  split
  · exact (frame_sendLog ..).trans (frame_setCore ..)
  · rfl
theorem frame_flushLine (core : Nat) (s : State) (x : DcLine) : (State.flushLine core s x).frame = s.frame := by
  unfold State.flushLine
  split
  · rfl
  · split
    · rfl
    · exact frame_foldl (frame_logMerged core x) _ _
theorem frame_evictLines (s : State) (core : Nat) (p : DcLine → Bool) : (s.evictLines core p).frame = s.frame :=
  frame_foldl (frame_flushLine core) _ s
theorem frame_dropLineOf (s : State) (core asid ea : Nat) : (s.dropLineOf core asid ea).frame = s.frame := by
  unfold State.dropLineOf
  split
  · rfl
  · exact frame_evictLines ..
theorem frame_dcRoom (s : State) (core : Nat) : (s.dcRoom core).frame = s.frame := by
  unfold State.dcRoom
  dsimp only
  split
  · rfl
  · split
    · exact frame_evictLines { s with tick := s.tick + 1 } ..
    · rfl
theorem frame_acquire (s : State) (core : Nat) : (s.acquire core).frame = s.frame := frame_evictLines ..
theorem frame_writeThrough (s : State) (core : Nat) : (s.writeThrough core).frame = s.frame := frame_foldl (frame_flushLine core) _ s
theorem frame_sendHome (ctxs : List Nat) (s : State) (core : Nat) : (State.sendHome ctxs s core).frame = s.frame :=
  frame_foldl (frame_flushLine core) _ s
theorem frame_sendOwn (s : State) (sid : Nat) : (s.sendOwn sid).frame = s.frame :=
  (frame_foldl (frame_sendHome _) _ _).trans (frame_writeThrough ..)
theorem frame_performHome (s : State) (core : Nat) (e : SbEntry) (pas : List Nat) : (s.performHome core e pas).frame = s.frame := by
  have hdrop : ∀ (t : State) (c : Nat),
      State.frame ((t.dropLineOf c e.asid e.addr).dropLineOf c e.asid (e.addr + pas.length - 1)) = t.frame :=
    fun t c => (frame_dropLineOf ..).trans (frame_dropLineOf ..)
  unfold State.performHome
  dsimp only
  split <;> exact frame_foldl hdrop _ s

end Sys2Proof.Machine

/-! ## What the engines and the task units leave of the strands (R242 to R249, R307 to R323, R328 to R337) -/

namespace Sys2Proof.Machine

/-- The state that an access of an engine leaves. -/
def EngRes.state {α : Type} : EngRes α → State
  | .ok _ s => s
  | .wait s => s
  | .fail _ _ s => s

section
variable {α : Type} {r : EngRes α} {s t : State} (hr : r.state.frame = s.frame)
include hr
theorem frame_ok {v : α} (h : r = .ok v t) : t.frame = s.frame := by rw [h] at hr; exact hr
theorem frame_wait (h : r = .wait t) : t.frame = s.frame := by rw [h] at hr; exact hr
theorem frame_fail {code off : Nat} (h : r = .fail code off t) : t.frame = s.frame := by rw [h] at hr; exact hr
end

/-! ### Accesses -/

theorem frame_engTouch (s : State) (by_ : Option Nat) (cl a n : Nat) : (s.engTouch by_ cl a n).frame = s.frame := by
  unfold State.engTouch
  split
  · split
    · exact frame_noteTouch ..
    · rfl
  · rfl
theorem frame_engBank (s : State) (by_ : Option Nat) (cl a n : Nat) : (s.engBank by_ cl a n).state.frame = s.frame := by
  unfold State.engBank
  split
  · rfl
  · rfl
  · exact (frame_engTouch ..).trans (frame_setCluster ..)
theorem frame_engReadL (s : State) (by_ : Option Nat) (cl a n : Nat) : (s.engReadL by_ cl a n).state.frame = s.frame := by
  have hbank := frame_engBank s by_ cl a n
  unfold State.engReadL
  split
  · next h => exact frame_fail hbank h
  · next h => exact frame_wait hbank h
  · next h =>
    dsimp only
    split <;> exact (frame_scrubAll ..).trans (frame_ok hbank h)
theorem frame_engReadG (s : State) (asid : Nat) (mode : Mode) (a n : Nat) : (s.engReadG asid mode a n).state.frame = s.frame := by
  unfold State.engReadG
  split
  · rfl
  · split
    · next h => split <;> exact frame_xlatBytes h
    · next h => exact frame_xlatBytes h
    · next h => exact frame_xlatBytes h
theorem frame_engRead (s : State) (by_ : Option Nat) (asid : Nat) (mode : Mode) (sp : Space) (cl a n : Nat) :
    (s.engRead by_ asid mode sp cl a n).state.frame = s.frame := by
  unfold State.engRead
  split
  · exact frame_engReadG ..
  · exact frame_engReadL ..
theorem frame_engWriteL (s : State) (by_ : Option Nat) (w : EngWrite) : (s.engWriteL by_ w).state.frame = s.frame := by
  have hbank := frame_engBank s by_ w.cl w.addr w.bytes.length
  unfold State.engWriteL
  dsimp only
  split
  · rfl
  · split
    · rfl
    · split
      · next h =>
        have hok := frame_ok hbank h
        split <;> exact hok
      · next h => exact frame_fail hbank h
      · next h => exact frame_wait hbank h
theorem frame_engWrite (s : State) (by_ : Option Nat) (asid : Nat) (mode : Mode) (w : EngWrite) :
    (s.engWrite by_ asid mode w).state.frame = s.frame := by
  unfold State.engWrite
  split
  · split
    · rfl
    · split
      · next h => exact (frame_storePhys ..).trans (frame_xlatBytes h)
      · next h => exact frame_xlatBytes h
      · next h => exact frame_xlatBytes h
  · exact frame_engWriteL ..
theorem frame_engReads (by_ : Option Nat) (asid : Nat) (mode : Mode) (sp : Space) (cl : Nat) (rs : List (Nat × Nat)) (s : State) :
    (s.engReads by_ asid mode sp cl rs).state.frame = s.frame := by
  induction rs generalizing s with
  | nil => rfl
  | cons r rs ih =>
    have hread := frame_engRead s by_ asid mode sp cl r.1 r.2
    unfold State.engReads
    split
    · next h => exact frame_fail hread h
    · next h => exact frame_wait hread h
    · next h =>
      split
      · next h2 => exact (frame_ok (ih _) h2).trans (frame_ok hread h)
      · exact (ih _).trans (frame_ok hread h)

/-! ### Operations -/

theorem bare_setHandle (x : Slot) (h : Nat) (v : Handle) : (x.setHandle h v).bare = x.bare := rfl
theorem frame_finishOp (s : State) (op : Nat) (w : Word) : (s.finishOp op w).frame = s.frame := by
  unfold State.finishOp
  split
  · rfl
  · split
    · dsimp only
      split
      · exact frame_setSlot (s := { s with ops := s.ops.erase op }) (bare_setHandle ..)
      · rfl
    · dsimp only
      split
      · split <;> rfl
      · rfl
    · rfl
    · rfl

/-! ### Copies -/

theorem frame_copyRead (s : State) (c : CopyCmd) : (s.copyRead c).2.frame = s.frame := by
  unfold State.copyRead
  split
  · rfl
  · next p _ =>
    split
    · split <;> rfl
    · have hread := frame_engRead s (some c.sid) c.asid c.mode p.sp p.cl p.addr p.n
      split
      · next h => exact frame_wait hread h
      · next h => exact frame_ok hread h
      · next h =>
        have hfail := frame_fail hread h
        exact hfail
theorem frame_copyWrite (s : State) (c : CopyCmd) (k : Nat) : (s.copyWrite c k).2.frame = s.frame := by
  unfold State.copyWrite
  dsimp only
  split
  · rfl
  · next w _ =>
    split
    · rfl
    · have hwrite := frame_engWrite s (some c.sid) c.asid c.mode w
      split
      · next h => exact frame_wait hwrite h
      · next h => exact frame_ok hwrite h
      · next h => exact frame_fail hwrite h
theorem frame_copyStep (s : State) (core k : Nat) : (s.copyStep core k).frame = s.frame := by
  unfold State.copyStep
  split
  · rfl
  · dsimp only
    split
    · exact (frame_setCore ..).trans (frame_copyWrite ..)
    · exact (frame_setCore ..).trans (frame_copyRead ..)
theorem frame_copyRun (core n : Nat) (s : State) : (State.copyRun core n s).frame = s.frame := by
  induction n generalizing s with
  | zero => rfl
  | succ n ih => exact (ih _).trans (frame_copyStep ..)
theorem frame_copyCancel (s : State) (core op : Nat) : (s.copyCancel core op).frame = s.frame := by
  unfold State.copyCancel
  split
  · rfl
  · next c rest _ =>
    split
    · dsimp only
      have hrun : State.frame (if c.begun then State.copyRun core (s.freeNat.1 % (c.boundary + 1)) s.freeNat.2 else s.freeNat.2) = s.frame := by
        split
        · exact frame_copyRun ..
        · rfl
      split
      · exact hrun
      · exact (frame_finishOp ..).trans ((frame_setCore ..).trans hrun)
    · split
      · exact (frame_finishOp ..).trans (frame_setCore ..)
      · rfl

/-! ### Tile commands -/

theorem frame_tileReads (s : State) (cl : Nat) (rs : List TileRead) : (s.tileReads cl rs).state.frame = s.frame := by
  unfold State.tileReads
  split
  · rfl
  · exact (frame_setCluster ..).trans (frame_foldl (fun t r => frame_scrubAll ..) rs s)
theorem frame_oneOf (s : State) (ws : List Word) : (s.oneOf ws).2.frame = s.frame := by
  unfold State.oneOf
  split <;> rfl
theorem frame_tileChunk (s : State) (core : Nat) (c : TileCmd) : (s.tileChunk core c).frame = s.frame := by
  unfold State.tileChunk
  dsimp only
  have hread := frame_tileReads s (core / 16) (c.chunkReads (c.chunkNo c.done) (c.liveRows (s.cluster (core / 16)).mem (c.chunkNo c.done)))
  split
  · next h => exact frame_wait hread h
  · next h => exact frame_fail hread h
  · next h =>
    split
    · next h2 => exact (frame_setCore ..).trans ((frame_snd h2 (frame_oneOf ..)).trans (frame_ok hread h))
    · next h2 => exact (frame_snd h2 (frame_oneOf ..)).trans (frame_ok hread h)
theorem frame_tileComplete (s : State) (core : Nat) : (s.tileComplete core).frame = s.frame := by
  unfold State.tileComplete
  split
  · rfl
  · split
    · refine (frame_finishOp ..).trans ((frame_setCore ..).trans ?_)
      split <;> rfl
    · rfl
theorem frame_tileStop (s : State) (core : Nat) (c : TileCmd) : (s.tileStop core c).frame = s.frame := by
  unfold State.tileStop
  split
  · exact (frame_finishOp ..).trans (frame_setCore ..)
  · split
    · exact frame_tileComplete ..
    · split
      · rfl
      · dsimp only
        have hchunk : State.frame (if s.freeBit.1 then s.freeBit.2.tileChunk core c else s.freeBit.2) = s.frame := by
          split
          · exact frame_tileChunk ..
          · rfl
        split
        · exact hchunk
        · split
          · exact (frame_tileComplete ..).trans hchunk
          · exact (frame_finishOp ..).trans ((frame_setCore ..).trans hchunk)
theorem frame_tileCancel (s : State) (core op : Nat) : (s.tileCancel core op).frame = s.frame := by
  unfold State.tileCancel
  split
  · rfl
  · split
    · exact frame_tileStop ..
    · split
      · exact (frame_finishOp ..).trans (frame_setCore ..)
      · rfl

/-! ### Cancellation -/

theorem frame_dgeCancel (s : State) (core op : Nat) : (s.dgeCancel core op).frame = s.frame := by
  unfold State.dgeCancel
  split
  · rfl
  · exact (frame_finishOp ..).trans (frame_setCore ..)
theorem frame_ckptCancel (s : State) (op : Nat) : (s.ckptCancel op).frame = s.frame := by
  unfold State.ckptCancel
  dsimp only
  split
  · exact frame_finishOp ..
  · rfl
theorem frame_unitCancel (s : State) (op : Nat) : (s.unitCancel op).frame = s.frame := by
  unfold State.unitCancel
  split
  · exact frame_finishOp ..
  · rfl
theorem frame_cancelOp (s : State) (op : Nat) : (s.cancelOp op).frame = s.frame := by
  unfold State.cancelOp
  split
  · exact (frame_dgeCancel ..).trans ((frame_tileCancel ..).trans (frame_copyCancel ..))
  · exact (frame_unitCancel ..).trans (frame_ckptCancel ..)
theorem frame_dropOps (s : State) (own : Holder → Bool) : (s.dropOps own).frame = s.frame := frame_foldl frame_cancelOp ..

/-! ### Task units -/

theorem frame_slotPut (s : State) (q n : Nat) (slots : List QSlot) (r : RecInfo) : (s.slotPut q n slots r).state.frame = s.frame := by
  have hwrite : State.frame (EngRes.state (s.ringWrite ((s.queue q).slotAt n) r.bytes)) = s.frame := frame_engWrite ..
  unfold State.slotPut
  dsimp only
  split
  · next h => exact (frame_setUnit ..).trans (frame_ok hwrite h)
  · exact hwrite
theorem frame_tailPut (s : State) (q : Nat) (r : RecInfo) : (s.tailPut q r).state.frame = s.frame := frame_slotPut ..
theorem frame_publishNow (s : State) (q : Nat) (r : RecInfo) : (s.publishNow q r).state.frame = s.frame := by
  unfold State.publishNow
  split
  · split
    · next h => exact (frame_setUnit ..).trans (frame_wait (frame_tailPut ..) h)
    · exact frame_tailPut ..
  · rfl
theorem frame_publish (s : State) (q : Nat) (r : RecInfo) : (s.publish q r).frame = s.frame := by
  have hnow := frame_publishNow s q r
  unfold State.publish
  split
  · next h => exact frame_ok hnow h
  · next h => exact frame_wait hnow h
  · next h => exact (frame_setUnit ..).trans (frame_fail hnow h)
theorem frame_publishReady (u n : Nat) (s : State) : (State.publishReady u n s).frame = s.frame := by
  induction n generalizing s with
  | zero => rfl
  | succ n ih =>
    unfold State.publishReady
    split
    · rfl
    · refine (ih _).trans ?_
      split
      · exact frame_publish ..
      · rfl
theorem frame_dropDep (s : State) (q : Nat) (dep : Option Nat) : (s.dropDep q dep).frame = s.frame := by
  unfold State.dropDep
  split
  · exact (frame_publishReady ..).trans (frame_setUnit ..)
  · rfl

/-! ### The end of a context (R167, R338, R370) -/

theorem bare_dropRecord (x : Slot) (id : Nat) : (x.dropRecord id).bare = x.bare := by
  unfold Slot.dropRecord
  split <;> rfl
theorem frame_clearRecord (s : State) (id : Nat) : (s.clearRecord id).frame = s.frame :=
  frame_mapSlots (s := { s with cores := (s.clearRecord id).cores }) fun _ => ⟨rfl, bare_dropRecord ..⟩
theorem frame_endRecord (s : State) (sid ctx : Nat) (mode : Mode) (rcd : Option Record) : (s.endRecord sid ctx mode rcd).frame = s.frame := by
  unfold State.endRecord
  split
  · rfl
  · next r =>
    dsimp only
    have hcmd : State.frame (if r.dcdone = 0 ∨ 2 ^ 18 ≤ r.dcdone - 1 then s else
        s.setUnit ((r.dcdone - 1) / 2 ^ 15) { s.unit ((r.dcdone - 1) / 2 ^ 15) with
          cmds := (s.unit ((r.dcdone - 1) / 2 ^ 15)).cmds ++ [⟨sid, ctx, mode, .dcadd (r.dcdone - 1) (-1), .nobody, false⟩] }) = s.frame := by
      split <;> rfl
    exact (frame_clearRecord ..).trans ((frame_dropDep ..).trans hcmd)
theorem frame_dropCkpt (s : State) (a : Option Nat) : (s.dropCkpt a).frame = s.frame := by
  unfold State.dropCkpt
  split
  · rfl
  · split
    · rfl
    · split
      · rfl
      · dsimp only
        split
        · next h => exact (frame_areaWrite ..).trans ((frame_areaAddr h).trans rfl)
        · rfl
theorem frame_leaveWork (s : State) (sid : Nat) : (s.leaveWork sid).frame = s.frame := by rw [s.leaveWork_frame]; rfl
theorem frame_endItem (s : State) (sid : Nat) (it : Option Item) (killed : Bool) : (s.endItem sid it killed).frame = s.frame := by
  unfold State.endItem
  split
  · rfl
  · dsimp only
    split
    · split <;> rfl
    · rfl

/-- A strand killed: the other strands keep what is theirs, and the slot is freed. -/
theorem killSlot_eq (s : State) (sid : Nat) : ∃ t : State, t.frame = s.frame ∧ s.killSlot sid = t.freeSlot sid := by
  refine ⟨_, ?_, rfl⟩
  exact (frame_endItem ..).trans ((frame_leaveWork ..).trans ((frame_endRecord ..).trans
    ((frame_dropOps ..).trans (frame_dropCkpt ..))))

end Sys2Proof.Machine

/-! ## What an action keeps -/

namespace Sys2Proof.Machine

/-- Run in this state, the action goes on in a state with `P`, or ends its instruction in one with `E`; a trap or a wait undoes it. -/
def M.KeepsAt {α : Type} (P E : State → Prop) (act : M α) (s : State) : Prop :=
  (∀ a t, act s = .ok (a, t) → P t) ∧ ∀ t, act s = .error (.done t) → E t
/-- The same in every state with `P`. -/
structure M.Keeps {α : Type} (P E : State → Prop) (act : M α) : Prop where
  here : ∀ s, P s → act.KeepsAt P E s

section
variable {α β : Type} {P E : State → Prop}

theorem keepsAt_ok {x : M α} {s t : State} {a : α} (h : x s = .ok (a, t)) (ht : P t) : x.KeepsAt P E s := by
  refine ⟨fun b u hu => ?_, fun u hu => ?_⟩
  · rw [h] at hu
    cases hu
    exact ht
  · rw [h] at hu
    cases hu
theorem keepsAt_error {x : M α} {s : State} {e : Stop} (h : x s = .error e) (he : ∀ t, e = .done t → E t) : x.KeepsAt P E s := by
  refine ⟨fun b u hu => ?_, fun u hu => ?_⟩
  · rw [h] at hu
    cases hu
  · rw [h] at hu
    cases hu
    exact he u rfl
theorem keepsAt_bind {x : M α} {f : α → M β} {s : State} (hx : x.KeepsAt P E s) (hf : ∀ a, (f a).Keeps P E) : (x >>= f).KeepsAt P E s := by
  obtain ⟨hok, hdone⟩ := hx
  cases h : x s with
  | error e => exact keepsAt_error (M.bind_error h) fun t ht => hdone t (ht ▸ h)
  | ok r =>
    obtain ⟨a, t⟩ := r
    have hrest := (hf a).here t (hok a t h)
    unfold M.KeepsAt at hrest ⊢
    rw [M.bind_ok h]
    exact hrest

theorem keeps_bind {x : M α} {f : α → M β} (hx : x.Keeps P E) (hf : ∀ a, (f a).Keeps P E) : (x >>= f).Keeps P E :=
  ⟨fun s hs => keepsAt_bind (hx.here s hs) hf⟩
theorem keeps_pure (a : α) : (pure a : M α).Keeps P E := ⟨fun s hs => keepsAt_ok (M.pure_run a s) hs⟩
theorem keeps_trapWith (t : Trap) : (trapWith t : M α).Keeps P E :=
  ⟨fun s _ => keepsAt_error (s := s) (e := .trap t) rfl fun _ h => by cases h⟩
theorem keeps_trap (cause : Nat) (tval : Word) : (trap cause tval : M α).Keeps P E := keeps_trapWith _
theorem keeps_block (w : Wait) : (block w : M α).Keeps P E :=
  ⟨fun s _ => keepsAt_error (s := s) (e := .wait w false) rfl fun _ h => by cases h⟩
/-- What comes after a trap or a wait is not reached. -/
theorem keeps_trap_bind (cause : Nat) (tval : Word) (f : α → M β) : (trap cause tval >>= f).Keeps P E :=
  ⟨fun s _ => keepsAt_error (s := s) (e := .trap { cause := cause, tval := tval }) rfl fun _ h => by cases h⟩
theorem keeps_block_bind (w : Wait) (f : α → M β) : (block w >>= f).Keeps P E :=
  ⟨fun s _ => keepsAt_error (s := s) (e := .wait w false) rfl fun _ h => by cases h⟩
theorem keeps_get : (get : M State).Keeps P E := ⟨fun s hs => keepsAt_ok (M.get_run s) hs⟩
theorem keeps_getMe : getMe.Keeps P E := ⟨fun s hs => keepsAt_ok (getMe_run s) hs⟩
theorem keeps_modify {f : State → State} (h : ∀ s, P s → P (f s)) : (modify f : M Unit).Keeps P E :=
  ⟨fun s hs => keepsAt_ok (M.modify_run f s) (h s hs)⟩
/-- The state at hand is known to the rest. -/
theorem keeps_get_bind {f : State → M β} (h : ∀ s, P s → (f s).KeepsAt P E s) : (get >>= f : M β).Keeps P E := by
  refine ⟨fun s hs => ?_⟩
  have hrest := h s hs
  unfold M.KeepsAt at hrest ⊢
  rw [M.bind_ok (M.get_run s)]
  exact hrest
theorem keepsAt_set {s t : State} (h : P t) : (set t : M Unit).KeepsAt P E s := keepsAt_ok (a := ()) rfl h

end

/-! ### Reads of memory by the strand that issues -/

/-- What holds of a state holds of one with the same strands. -/
def Framing (P : State → Prop) : Prop := ∀ s t : State, t.frame = s.frame → P s → P t

section
variable {P E : State → Prop} (hP : Framing P)
include hP

theorem keeps_modCore (f : Core → Core) : (modCore f).Keeps P E := keeps_modify fun s hs => hP s _ (frame_setCore ..) hs
theorem keeps_xlatOne (acc : Access) (ea : Nat) : (xlatOne acc ea).Keeps P E := by
  unfold xlatOne
  refine keeps_get_bind fun s hs => ?_
  dsimp only
  split
  · next h => exact keepsAt_bind (keepsAt_set (hP _ _ (frame_translate h) hs)) fun _ => keeps_pure _
  · exact (keeps_trapWith _).here s hs
  · exact (keeps_block _).here s hs
theorem keeps_xlatRange (acc : Access) (ea n : Nat) : (xlatRange acc ea n).Keeps P E := by
  unfold xlatRange
  refine keeps_bind (keeps_xlatOne hP ..) fun pa => ?_
  dsimp only
  split
  · exact keeps_pure _
  · exact keeps_bind (keeps_xlatOne hP ..) fun _ => keeps_pure _
omit hP in
theorem keeps_gCheck (ea : Int) (n al : Nat) : (gCheck ea n al).Keeps P E := by
  unfold gCheck
  refine keeps_bind keeps_getMe fun x => ?_
  split
  · exact keeps_trap ..
  · exact keeps_pure _
omit hP in
theorem keeps_needReplayed (asid : Nat) (ps : List (Nat × Nat)) : (needReplayed asid ps).Keeps P E := by
  unfold needReplayed
  refine keeps_bind keeps_get fun s => ?_
  dsimp only
  split
  · exact keeps_block_bind ..
  · split
    · exact keeps_block _
    · exact keeps_pure _
omit hP in
theorem keeps_forwarded (sp : Space) (cl asid : Nat) (ps : List (Nat × Nat)) : (forwarded sp cl asid ps).Keeps P E := by
  unfold forwarded
  refine keeps_bind keeps_get fun s => ?_
  dsimp only
  split
  · exact keeps_block_bind ..
  · split
    · exact keeps_pure _
    · split
      · exact keeps_pure _
      · exact keeps_block _
omit hP in
theorem keeps_readHome (ea : Nat) (pas : List Nat) : (readHome ea pas).Keeps P E := by
  unfold readHome
  refine keeps_bind keeps_get fun s => ?_
  split
  · exact keeps_trap ..
  · exact keeps_pure _
theorem keeps_dcByte (asid ea pa : Nat) : (dcByte asid ea pa).Keeps P E := by
  unfold dcByte
  refine keeps_bind keeps_get fun s => ?_
  dsimp only
  split
  · exact keeps_pure _
  · refine keeps_bind (keeps_readHome ..) fun data => keeps_bind (keeps_modify fun s hs => hP _ _ (frame_dcRoom ..) hs) fun _ =>
      keeps_bind (keeps_modCore hP _) fun _ => keeps_pure _
theorem keeps_dcBytes (asid : Nat) (ea : Nat) (pas : List Nat) : (dcBytes asid ea pas).Keeps P E := by
  induction pas generalizing ea with
  | nil => exact keeps_pure _
  | cons pa pas ih => exact keeps_bind (keeps_dcByte hP ..) fun _ => keeps_bind (ih _) fun _ => keeps_pure _
theorem keeps_loadGlobalAt (ea n : Nat) (home : Bool) : (loadGlobalAt ea n home).Keeps P E := by
  unfold loadGlobalAt
  refine keeps_bind (keeps_xlatRange hP ..) fun pas => keeps_bind keeps_get fun s => keeps_bind (keeps_needReplayed ..) fun _ =>
    keeps_bind (keeps_forwarded ..) fun o => ?_
  split
  · exact keeps_pure _
  · have hread : (if home || ownerDie ea = dieOf s.cur then readHome ea pas else dcBytes (effAsid s.me.ctl.asid.toNat ea) ea pas).Keeps P E := by
      split
      · exact keeps_readHome ..
      · exact keeps_dcBytes hP ..
    exact keeps_bind hread fun _ => keeps_pure _
theorem keeps_loadGlobal (ea : Int) (n al : Nat) : (loadGlobal ea n al).Keeps P E :=
  keeps_bind (keeps_gCheck ..) fun _ => keeps_loadGlobalAt hP ..
end

end Sys2Proof.Machine

/-! ## Strand management (R164 to R167) -/

namespace Sys2Proof.Machine

/-! ### A form of S and M that ends by writing g[RD] -/

theorem Slot.bare_steady {x y : Slot} (h : x.bare = y.bare) : x.steady = y.steady :=
  (congrArg Slot.steady h : x.bare.steady = y.bare.steady)
theorem Slot.bare_pc {x y : Slot} (h : x.bare = y.bare) : x.pc = y.pc :=
  (congrArg Slot.pc h : x.bare.pc = y.bare.pc)
theorem Slot.bare_regs {x y : Slot} (h : x.bare = y.bare) : x.regs = y.regs :=
  (congrArg Slot.regs h : x.bare.regs = y.bare.regs)
theorem Slot.bare_streams {x y : Slot} (h : x.bare = y.bare) : x.streams = y.streams :=
  (congrArg Slot.streams h : x.bare.streams = y.bare.streams)
theorem Shape.bare_prior {x y : Slot} (h : x.bare = y.bare) (sh : Shape) : sh.prior x = sh.prior y :=
  (congrArg sh.prior h : sh.prior x.bare = sh.prior y.bare)

theorem writable_of_me_own {s t : State} {n : BitVec 5} (hregs : t.me.regs = s.me.regs) (hstr : t.me.streams = s.me.streams)
    (hd : s.writable .g n = true) (hown : n = 0 ∨ s.me.regs.own .g n = true) : t.writable .g n = true := by
  refine State.writable_of_own (fun h0 => ?_) (hown.imp (fun hz => by simp [hz]) fun ho => by rw [hregs]; exact ho)
  simp only [State.writable, h0, Bool.false_or, Bool.and_eq_true, Option.isNone_iff_eq_none] at hd
  have hbound : t.me.boundTo .g n = s.me.boundTo .g n := by
    simp only [Slot.boundTo, Slot.stream, hstr]
    rfl
  exact hbound.trans hd.1

/-- The body comes to a write of g[RD] in a state whose strand stands where it stood. -/
theorem privInstr_writeG {s t s' : State} {y : Slot} {sh : Shape} {allowed : M Unit} {body : M (Option Word)} {rd : BitVec 5} {v : Word}
    (hs : s.me.steady = true) (hg : s.me.executes sh.h = true) (hr : s.me.readableAll sh = true) (ha : allowed s = .ok ((), s))
    (hbody : body s = (do writeG rd v; return none : M (Option Word)) s') (hat : s'.IsAt t y) (hl : t.line = s.line)
    (hme : t.me.bare = s.me.bare) (hy : y.steady = true) (hpc : y.pc = s.me.pc) (hw : s'.writable .g rd = true) :
    privInstr sh allowed body s = .next (t.retires sh (y.withG rd v)) := by
  obtain ⟨u, hu, huat⟩ := writeG_run (s := s') (by rw [hat.me]; exact Slot.steady_windows hy) rd v hw
  rw [hat.me] at huat
  rw [privInstr_run hs hg hr ha (hbody.trans (M.bind_ok hu)) (huat.trans hat) hy, Slot.withG_pc, hpc, State.retires,
    Shape.bare_prior hme, Slot.bare_pc hme, hl]

/-- Marks leave the values of the g registers. -/
theorem getG_releaseMarks (x : Slot) (sh : Shape) (n : BitVec 5) : (x.releaseMarks sh).regs.getG n = x.regs.getG n := by
  unfold Slot.releaseMarks
  generalize sh.srcs = l
  induction l generalizing x with
  | nil => rfl
  | cons a l ih =>
    have hstep : (release1 sh.dst x a.2.1 a.2.2).regs.getG n = x.regs.getG n := by
      unfold release1
      split
      · cases a.2.1 <;> rfl
      · rfl
    exact (ih _).trans hstep
theorem getG_pass (y : Slot) (sh : Shape) (prior : Nat × Bool) (next : Word) (n : BitVec 5) :
    (y.pass sh prior next).regs.getG n = y.regs.getG n := by
  obtain ⟨ws, h⟩ := ((y.releaseMarks sh).goOn next).openWindow_windows sh prior
  rw [Slot.pass, h]
  exact getG_releaseMarks ..
theorem pc_pass (y : Slot) (sh : Shape) (prior : Nat × Bool) (next : Word) : (y.pass sh prior next).pc = next := by
  obtain ⟨ws, h⟩ := ((y.releaseMarks sh).goOn next).openWindow_windows sh prior
  rw [Slot.pass, h]
  rfl
theorem getG_withG (y : Slot) {n : BitVec 5} (h : n ≠ 0) (v : Word) : (y.withG n v).regs.getG n = v := by
  have hn : ¬n = 0#5 := h
  simp [Slot.withG, Regs.putG, Regs.getG, hn]

/-! ### The slot that a form names (R164) -/

section
variable {s : State} {a : Word}

theorem slotNamed_some (h : a.toNat < 2 ^ 16 ∧ sidExists (a.toNat % 2 ^ 16) = true ∧ (s.die (dieOf (a.toNat % 2 ^ 16))).absent = false) :
    s.slotNamed a = some (a.toNat % 2 ^ 16) := by
  obtain ⟨hlt, he, hthere⟩ := h
  have hname : namedSlot a = some (a.toNat % 2 ^ 16) := namedSlot_some hlt he
  rw [State.slotNamed, hname, Option.filter_some, hthere]
  rfl
theorem slotNamed_none (h : ¬(a.toNat < 2 ^ 16 ∧ sidExists (a.toNat % 2 ^ 16) = true ∧ (s.die (dieOf (a.toNat % 2 ^ 16))).absent = false)) :
    s.slotNamed a = none := by
  by_cases hname : a.toNat < 2 ^ 16 ∧ sidExists (a.toNat % 2 ^ 16) = true
  · obtain ⟨hlt, he⟩ := hname
    have habsent : (s.die (dieOf (a.toNat % 2 ^ 16))).absent = true := by
      simpa using fun hthere => h ⟨hlt, he, hthere⟩
    have hname : namedSlot a = some (a.toNat % 2 ^ 16) := namedSlot_some hlt he
    rw [State.slotNamed, hname, Option.filter_some, habsent]
    rfl
  · have hname : namedSlot a = none := namedSlot_none (by
      rw [not_and_or, Nat.not_lt, Bool.not_eq_true] at hname
      exact hname)
    rw [State.slotNamed, hname]
    rfl

theorem unnamed_iff : (2 ^ 16 ≤ a.toNat ∨ sidExists (a.toNat % 2 ^ 16) = false ∨ (s.die (dieOf (a.toNat % 2 ^ 16))).absent = true) ↔
    ¬(a.toNat < 2 ^ 16 ∧ sidExists (a.toNat % 2 ^ 16) = true ∧ (s.die (dieOf (a.toNat % 2 ^ 16))).absent = false) := by
  rw [not_and_or, not_and_or, Nat.not_lt, Bool.not_eq_true, Bool.not_eq_false]

theorem target_none (h : s.slotNamed a = none) : s.target a = .error 3 := by simp only [State.target, h]
theorem target_self (h : s.slotNamed a = some s.cur) : s.target a = .error 5 := by simp only [State.target, h, if_true]
theorem target_free {sid : Nat} (h : s.slotNamed a = some sid) (hne : sid ≠ s.cur) (hf : (s.slot sid).phase = .free) : s.target a = .error 2 := by
  simp only [State.target, h, hne, if_false, hf, if_true]
theorem target_ok {sid : Nat} (h : s.slotNamed a = some sid) (hne : sid ≠ s.cur) (hf : (s.slot sid).phase ≠ .free) : s.target a = .ok sid := by
  simp only [State.target, h, hne, if_false, hf]
end

/-! ### preempt (R165) -/

/-- A halt asked of a strand that is not SUSPENDED. -/
theorem askHalt_frame (s : State) {sid : Nat} (h : (s.slot sid).phase.isSuspended = false) :
    (s.askHalt sid).slot sid = { s.slot sid with sched := { (s.slot sid).sched with halt := true } } ∧
    (∀ k, k ≠ sid → (s.askHalt sid).slot k = s.slot k) ∧ (s.askHalt sid).cur = s.cur := by
  have hask : s.askHalt sid = (s.modSlot sid fun x => { x with sched := { x.sched with halt := true } }).unpause (coreOf sid) := by
    unfold State.askHalt
    split
    · next d hd =>
      rw [hd] at h
      cases h
    · rfl
  rw [hask]
  refine ⟨?_, fun k hk => ?_, ?_⟩
  · rw [State.slot_unpause, State.modSlot, State.slot_setSlot_self]
  · rw [State.slot_unpause, State.modSlot, State.slot_setSlot_ne _ _ hk]
  · rw [State.unpause_frame]
    rfl

/-- The slot that goes on, and what stays, when a SUSPENDED strand is resumed. -/
theorem resumeSlot_frame (s : State) {sid : Nat} (h : (s.slot sid).phase.isSuspended = true) :
    (s.resumeSlot sid).slot sid = { s.slot sid with
      phase := resumedPhase (s.slot sid).sched.was
      rep := { (s.slot sid).rep with mode := if (s.slot sid).rep.active then .reload else .off }
      sched := { (s.slot sid).sched with ckptDue := false, ckptAt := s.ckptKept sid, was := none } } ∧
    (∀ k, k ≠ sid → (s.resumeSlot sid).slot k = s.slot k) ∧ (s.resumeSlot sid).cur = s.cur ∧ (s.resumeSlot sid).line = s.line ∧
    (s.resumeSlot sid).mem = s.mem ∧ (s.resumeSlot sid).clusters = s.clusters := by
  unfold State.resumeSlot
  rw [if_pos h]
  refine ⟨?_, fun k hk => ?_, ?_, ?_, ?_, ?_⟩
  · rw [State.slot_unpause, State.modSlot, State.slot_setSlot_self]
    rfl
  · rw [State.slot_unpause, State.modSlot, State.slot_setSlot_ne _ _ hk]
    rfl
  all_goals rw [State.unpause_frame]; rfl

section
variable {s : State} {f : Bin} (hr : s.ready (binShape f) = true) (hm : s.me.mode ≠ .u)
include hr hm

theorem preempt_answered {code : Word} (h : s.me.sched.reply = some code) (hown : f.rd = 0 ∨ s.me.regs.own .g f.rd = true) :
    exec (.preemptHalt f) s = .next (s.retires (binShape f) (Slot.withG { s.me with sched := { s.me.sched with reply := none } } f.rd code)) := by
  obtain ⟨hs, hg, hsrc, hd⟩ := State.ready_parts hr
  have hat := s.isAt_setMe { s.me with sched := { s.me.sched with reply := none } }
  refine privInstr_writeG (sh := binShape f) hs hg hsrc (needSM_run hm 0) ?_ hat rfl rfl hs rfl (hat.writable_own hd hown rfl rfl)
  rw [binShape_sources hr, M.bind_ok (M.get_run s)]
  simp only [h]
  rfl
theorem preempt_status {code : Nat} (hreply : s.me.sched.reply = none) (h : s.target (s.me.regs.getG f.a.n) = .error code) :
    exec (.preemptHalt f) s = .next (s.retires (binShape f) (s.me.withG f.rd (word code))) := by
  obtain ⟨hs, hg, hsrc, hd⟩ := State.ready_parts hr
  refine privInstr_writeG (sh := binShape f) hs hg hsrc (needSM_run hm 0) ?_ (.refl s) rfl rfl hs rfl hd
  rw [binShape_sources hr, M.bind_ok (M.get_run s)]
  simp only [hreply, h]

section
variable (hreply : s.me.sched.reply = none) {sid : Nat} (h : s.target (s.me.regs.getG f.a.n) = .ok sid)
include hreply h

/-- A halt of a SUSPENDED strand, and a resumption of another. -/
theorem preempt_unneeded (hb : (s.slot sid).phase.isSuspended = !(s.me.regs.getG f.b.n).getLsbD 0) :
    exec (.preemptHalt f) s = .next (s.retires (binShape f) (s.me.withG f.rd 1)) := by
  obtain ⟨hs, hg, hsrc, hd⟩ := State.ready_parts hr
  refine privInstr_writeG (sh := binShape f) hs hg hsrc (needSM_run hm 0) ?_ (.refl s) rfl rfl hs rfl hd
  rw [binShape_sources hr, M.bind_ok (M.get_run s)]
  cases hres : (s.me.regs.getG f.b.n).getLsbD 0 <;> rw [hres] at hb <;> simp only [hreply, h, hb] <;> simp
theorem preempt_halts (hb : (s.me.regs.getG f.b.n).getLsbD 0 = false) (hsusp : (s.slot sid).phase.isSuspended = false) (hne : sid ≠ s.cur) :
    exec (.preemptHalt f) s = .next ((s.askHalt sid).setMe { s.me with phase := .blocked (.target sid (s.slot sid).ctx) }) := by
  obtain ⟨hs, hg, hsrc, hd⟩ := State.ready_parts hr
  obtain ⟨-, hother, hc⟩ := askHalt_frame s hsusp
  have hme : (s.askHalt sid).me = s.me := by
    rw [State.me, hc]
    exact hother _ (Ne.symm hne)
  refine (privInstr_error (sh := binShape f) (e := .done (waitState (.target sid (s.slot sid).ctx) false (s.askHalt sid)))
    (Slot.steady_windows hs) hg hsrc (needSM_run hm 0) ?_).trans ?_
  · rw [binShape_sources hr, M.bind_ok (M.get_run s)]
    simp only [hreply, h, hb, hsusp, Bool.false_eq_true, if_false]
    rfl
  · have hwait : waitState (.target sid (s.slot sid).ctx) false (s.askHalt sid) =
        (s.askHalt sid).setMe { s.me with phase := .blocked (.target sid (s.slot sid).ctx) } := by
      rw [← hme]
      rfl
    rw [hwait]
    exact congrArg Host.Outcome.next (unretired_setMe (by simp) rfl)
theorem preempt_resumes (hb : (s.me.regs.getG f.b.n).getLsbD 0 = true) (hsusp : (s.slot sid).phase.isSuspended = true) (hne : sid ≠ s.cur)
    (hown : f.rd = 0 ∨ s.me.regs.own .g f.rd = true) :
    exec (.preemptHalt f) s = .next ((s.resumeSlot sid).retires (binShape f) (s.me.withG f.rd 0)) := by
  obtain ⟨hs, hg, hsrc, hd⟩ := State.ready_parts hr
  obtain ⟨-, hother, hcur, hline, -, -⟩ := resumeSlot_frame s hsusp
  have hme : (s.resumeSlot sid).me = s.me := by
    rw [State.me, hcur]
    exact hother _ (Ne.symm hne)
  have hat : (s.resumeSlot sid).IsAt (s.resumeSlot sid) s.me := ⟨hme, fun _ => rfl⟩
  refine privInstr_writeG (sh := binShape f) hs hg hsrc (needSM_run hm 0) ?_ hat hline (by rw [hme]) hs rfl ?_
  · rw [binShape_sources hr, M.bind_ok (M.get_run s)]
    simp only [hreply, h, hb, hsusp, if_true]
    rfl
  · exact writable_of_me_own (by rw [hme]) (by rw [hme]) hd hown
end
end

/-! ### The end of the wait for a halt (log 59) -/

section
variable {s : State} {sid t ctx : Nat} (h : (s.slot sid).phase = .blocked (.target t ctx))
include h

theorem wake_target_over (ho : s.waitOver sid (.target t ctx) = true) : (s.wake sid).slot sid = { s.slot sid with
    phase := .ready
    sched := { (s.slot sid).sched with waited := true, reply := s.answerOf sid (.target t ctx) } } := by
  simp only [State.wake, h, ho, if_true]
  rw [State.slot_unpause, State.modSlot, State.slot_setSlot_self]
  rfl
theorem wake_target_not (ho : s.waitOver sid (.target t ctx) = false) : s.wake sid = s := by
  simp only [State.wake, h, ho, Bool.false_eq_true, if_false]
end

theorem waitOver_target (s : State) (sid t ctx : Nat) : s.waitOver sid (.target t ctx) = true ↔
    (s.slot t).phase.isSuspended = true ∨ (s.slot t).phase = .free ∨ (s.slot t).ctx ≠ ctx := by
  simp [State.waitOver, or_assoc]

/-! ### strandnew (R166) -/

section
variable {s s1 : State} {f : Tri} {bs : List Byte} (hr : s.ready (triShape f) = true) (hm : s.me.mode ≠ .u)
  (hload : loadGlobal (s.me.regs.getG f.c.n).toNat 128 64 s = .ok (bs, s1))
include hload
/-- A load leaves the strands be. -/
theorem loadGlobal_frame : s1.frame = s.frame := by
  have hkeeps := keeps_loadGlobal (P := fun t => t.frame = s.frame) (E := fun _ => False) (fun _ _ ht hs => ht.trans hs)
    (s.me.regs.getG f.c.n).toNat 128 64
  exact (hkeeps.here s rfl).1 bs s1 hload

include hr
/-- The sources of `strandnew`, and its block, read. -/
theorem strandnew_sources {α : Type} (k : Word → Word → List Byte → M α) :
    (do
      let a ← readG 1 f.a
      let e ← readG 2 f.b
      let b ← readG 3 f.c
      let bs ← loadGlobal b.toNat 128 64
      k a e bs : M α) s = k (s.me.regs.getG f.a.n) (s.me.regs.getG f.b.n) bs s1 := by
  obtain ⟨hs, -, hsrc, -⟩ := State.ready_parts hr
  simp only [triShape, Slot.readableAll, List.all_cons, List.all_nil, Bool.and_true, Bool.and_eq_true] at hsrc
  have hw := Slot.steady_windows hs
  rw [M.bind_ok (readG_run hw 1 f.a hsrc.1), M.bind_ok (readG_run hw 2 f.b hsrc.2.1), M.bind_ok (readG_run hw 3 f.c hsrc.2.2), M.bind_ok hload]

include hm
theorem strandnew_refused (h : s1.me.mode.code < natField (dwordAt bs 1) 0 2) :
    exec (.strandnew f) s = .next (takeTrap { cause := 0x06, tval := 0 } s) := by
  obtain ⟨hs, hg, hsrc, hd⟩ := State.ready_parts hr
  refine privInstr_error (sh := triShape f) (e := .trap _) (Slot.steady_windows hs) hg hsrc (needSM_run hm 0) ?_
  rw [strandnew_sources hr hload, M.bind_ok (getMe_run s1)]
  simp only [h, if_true]
  rfl
theorem strandnew_status (h : ¬s1.me.mode.code < natField (dwordAt bs 1) 0 2) {code : Nat}
    (hst : s1.startStatus (s.me.regs.getG f.a.n) (s.me.regs.getG f.b.n) bs = some code) (hw : s1.writable .g f.rd = true) :
    exec (.strandnew f) s = .next (s1.retires (triShape f) (s1.me.withG f.rd (word code))) := by
  obtain ⟨hs, hg, hsrc, hd⟩ := State.ready_parts hr
  have hf := loadGlobal_frame hload
  have hme := State.me_of_frame hf
  refine privInstr_writeG (sh := triShape f) hs hg hsrc (needSM_run hm 0) ?_ (.refl s1) (State.line_of_frame hf) hme
    ((Slot.bare_steady hme).trans hs) (Slot.bare_pc hme) hw
  rw [strandnew_sources hr hload, M.bind_ok (getMe_run s1)]
  simp only [h, if_false]
  rw [M.bind_ok (M.get_run s1)]
  simp only [hst]
theorem strandnew_starts (h : ¬s1.me.mode.code < natField (dwordAt bs 1) 0 2)
    (hst : s1.startStatus (s.me.regs.getG f.a.n) (s.me.regs.getG f.b.n) bs = none) {t : State}
    (ht : t = s1.startStrand (natField (s.me.regs.getG f.a.n) 0 16) (s.me.regs.getG f.b.n) bs s1.me.ctl.asid) (htme : t.me = s1.me)
    (hline : t.line = s1.line) (hw : t.writable .g f.rd = true) :
    exec (.strandnew f) s = .next (t.retires (triShape f) (t.me.withG f.rd 0)) := by
  obtain ⟨hs, hg, hsrc, hd⟩ := State.ready_parts hr
  have hf := loadGlobal_frame hload
  have hme : t.me.bare = s.me.bare := by rw [htme]; exact State.me_of_frame hf
  refine privInstr_writeG (sh := triShape f) (s' := t) hs hg hsrc (needSM_run hm 0) ?_ (.refl t) (hline.trans (State.line_of_frame hf)) hme
    ((Slot.bare_steady hme).trans hs) (Slot.bare_pc hme) hw
  rw [strandnew_sources hr hload, M.bind_ok (getMe_run s1)]
  simp only [h, if_false]
  rw [M.bind_ok (M.get_run s1)]
  simp only [hst, ht]
  rfl
end

theorem startBlockBad_iff (bs : List Byte) : startBlockBad bs = true ↔
    dwordAt bs 1 &&& 0x7FFFFFFFFFFFF8C4 ≠ 0 ∨ natField (dwordAt bs 1) 0 2 = 2 ∨ ∃ b ∈ bs.drop 88, b ≠ 0 := by
  have hmask : ~~~(0x800000000000073B : Word) = 0x7FFFFFFFFFFFF8C4 := by decide
  simp only [startBlockBad, hmask, Bool.or_eq_true, bne_iff_ne, beq_iff_eq, List.any_eq_true, or_assoc]

section
variable {s : State} {a e : Word} {bs : List Byte}

theorem startStatus_unnamed (h : s.slotNamed a = none) : s.startStatus a e bs = some 3 := by simp only [State.startStatus, h]

variable {sid : Nat} (h : s.slotNamed a = some sid)
include h
theorem startStatus_bad (hb : startBlockBad bs = true) : s.startStatus a e bs = some 4 := by simp only [State.startStatus, h, hb, if_true]

variable (hb : startBlockBad bs = false)
include hb
/-- The role image covers the entry. -/
theorem startStatus_uncovered (hc : isCompute (coreOf sid) = false ∧
    ((s.core (coreOf sid)).image.map fun r => decide (r.1 ≤ e.toNat) && decide (e.toNat < r.2)) ≠ some true) : s.startStatus a e bs = some 6 := by
  obtain ⟨hc, hcov⟩ := hc
  cases hi : (s.core (coreOf sid)).image with
  | none => simp [State.startStatus, h, hb, hc, hi]
  | some r =>
    rw [hi] at hcov
    have hcov : (decide (r.1 ≤ e.toNat) && decide (e.toNat < r.2)) = false := by simpa using hcov
    simp [State.startStatus, h, hb, hc, hi, hcov]
variable (hc : ¬(isCompute (coreOf sid) = false ∧
  ((s.core (coreOf sid)).image.map fun r => decide (r.1 ≤ e.toNat) && decide (e.toNat < r.2)) ≠ some true))
include hc
theorem startStatus_covered : s.startStatus a e bs = if (s.slot sid).phase ≠ .free then some 1 else none := by
  cases hcomp : isCompute (coreOf sid) with
  | true => simp [State.startStatus, h, hb, hcomp]
  | false =>
    cases hi : (s.core (coreOf sid)).image with
    | none => exact absurd ⟨hcomp, by simp [hi]⟩ hc
    | some r =>
      have hcov : (decide (r.1 ≤ e.toNat) && decide (e.toNat < r.2)) = true := by
        by_contra hno
        exact hc ⟨hcomp, by simpa [hi] using hno⟩
      simp only [State.startStatus, h, hb, hcomp, hi, hcov]
      simp
end

/-! ### strandkill (R165, R167) -/

section
variable {s : State} {f : Un} (hr : s.ready (unShape f) = true) (hm : s.me.mode ≠ .u)
include hr

theorem unShape_source {α : Type} (k : Word → M α) : (do k (← readG 1 f.a) : M α) s = k (s.me.regs.getG f.a.n) s := by
  obtain ⟨hs, -, hsrc, -⟩ := State.ready_parts hr
  simp only [unShape, Slot.readableAll, List.all_cons, List.all_nil, Bool.and_true] at hsrc
  rw [M.bind_ok (readG_run (Slot.steady_windows hs) 1 f.a hsrc)]

include hm
theorem strandkill_unnamed (h : s.slotNamed (s.me.regs.getG f.a.n) = none) :
    exec (.strandkill f) s = .next (s.retires (unShape f) (s.me.withG f.rd 3)) := by
  obtain ⟨hs, hg, hsrc, hd⟩ := State.ready_parts hr
  refine privInstr_writeG (sh := unShape f) hs hg hsrc (needSM_run hm 0) ?_ (.refl s) rfl rfl hs rfl hd
  rw [unShape_source hr, M.bind_ok (M.get_run s)]
  simp only [h]
theorem strandkill_self (h : s.slotNamed (s.me.regs.getG f.a.n) = some s.cur) :
    exec (.strandkill f) s = .next (unretired s (s.killSlot s.cur)) := by
  obtain ⟨hs, hg, hsrc, hd⟩ := State.ready_parts hr
  refine privInstr_error (sh := unShape f) (e := .done _) (Slot.steady_windows hs) hg hsrc (needSM_run hm 0) ?_
  rw [unShape_source hr, M.bind_ok (M.get_run s)]
  simp only [h, if_true]
  rfl
variable {sid : Nat} (h : s.slotNamed (s.me.regs.getG f.a.n) = some sid) (hne : sid ≠ s.cur)
include h hne
theorem strandkill_free (hf : (s.slot sid).phase = .free) : exec (.strandkill f) s = .next (s.retires (unShape f) (s.me.withG f.rd 2)) := by
  obtain ⟨hs, hg, hsrc, hd⟩ := State.ready_parts hr
  refine privInstr_writeG (sh := unShape f) hs hg hsrc (needSM_run hm 0) ?_ (.refl s) rfl rfl hs rfl hd
  rw [unShape_source hr, M.bind_ok (M.get_run s)]
  simp only [h, hne, hf, if_false, if_true]
theorem strandkill_other (hf : (s.slot sid).phase ≠ .free) (hown : f.rd = 0 ∨ (s.killSlot sid).me.regs.own .g f.rd = true) :
    exec (.strandkill f) s = .next ((s.killSlot sid).retires (unShape f) ((s.killSlot sid).me.withG f.rd 0)) := by
  obtain ⟨hs, hg, hsrc, hd⟩ := State.ready_parts hr
  obtain ⟨t, ht, hkill⟩ := killSlot_eq s sid
  have hme : (s.killSlot sid).me.bare = s.me.bare := by
    have hcur : (t.freeSlot sid).cur = s.cur := (State.cur_of_frame ht : t.cur = s.cur)
    rw [hkill, State.me, hcur, State.freeSlot, State.slot_setSlot_ne _ _ (Ne.symm hne)]
    exact State.bare_of_frame ht s.cur
  refine privInstr_writeG (sh := unShape f) (s' := s.killSlot sid) hs hg hsrc (needSM_run hm 0) ?_ (.refl _) ?_ hme
    ((Slot.bare_steady hme).trans hs) (Slot.bare_pc hme) ?_
  · rw [unShape_source hr, M.bind_ok (M.get_run s)]
    simp only [h, hne, hf, if_false]
    rfl
  · rw [hkill]
    exact (State.line_of_frame ht : t.line = s.line)
  · exact writable_of_me_own (Slot.bare_regs hme) (Slot.bare_streams hme) hd (hown.imp id fun ho => by rwa [← Slot.bare_regs hme])
end

/-- A strand that starts: its slot, and what stays of the others. -/
theorem startStrand_frame (s : State) (sid : Nat) (e : Word) (bs : List Byte) (asid : Word) :
    (s.startStrand sid e bs asid).slot sid = { (s.slot sid).freed with
      phase := .ready
      pc := e
      ctl := { Ctl.none with
        status := fixStatus (dwordAt bs 1)
        dmem := dmemStored (dwordAt bs 0)
        asid := asid
        mbox := Vector.ofFn fun k => dwordAt bs (3 + k.val) }
      sTrap := { (default : TrapBank) with tvec := dwordAt bs 2 &&& ~~~63 }
      sched := { Slot.none.sched with checked := true, halt := (dwordAt bs 1).getLsbD 63 }
      ctx := s.nextCtx } ∧
    (∀ k, k ≠ sid → (s.startStrand sid e bs asid).slot k = s.slot k) ∧ (s.startStrand sid e bs asid).cur = s.cur ∧
    (s.startStrand sid e bs asid).line = s.line := by
  unfold State.startStrand
  refine ⟨?_, fun k hk => ?_, ?_, ?_⟩
  · rw [State.slot_unpause, State.slot_setSlot_self]
  · rw [State.slot_unpause, State.slot_setSlot_ne _ _ hk]
    rfl
  all_goals rw [State.unpause_frame]; rfl

theorem slot_retires_ne (s : State) (sh : Shape) (y : Slot) {sid : Nat} (h : sid ≠ s.cur) : (s.retires sh y).slot sid = s.slot sid :=
  State.slot_setMe_ne _ _ h
theorem getG_retires (s : State) (sh : Shape) (y : Slot) {n : BitVec 5} (h : n ≠ 0) (v : Word) :
    (s.retires sh (y.withG n v)).me.regs.getG n = v := by
  rw [State.retires, State.me_setMe, getG_pass, getG_withG _ h]
theorem pc_retires (s : State) (sh : Shape) (y : Slot) : (s.retires sh y).me.pc = nextOf s.line s.me.pc := by
  rw [State.retires, State.me_setMe, pc_pass]

theorem unbound_none (k : Fin 4) : Slot.none.streams[k].bound = false := by fin_cases k <;> rfl

/-- A strand that `strandnew` starts, and the strand that issues goes on with status 0. -/
theorem strandnew_started {s s1 : State} {f : Tri} {bs : List Byte} (hr : s.ready (triShape f) = true) (hm : s.me.mode ≠ .u)
    (hload : loadGlobal (s.me.regs.getG f.c.n).toNat 128 64 s = .ok (bs, s1)) (hpriv : ¬s1.me.mode.code < natField (dwordAt bs 1) 0 2)
    (hst : s1.startStatus (s.me.regs.getG f.a.n) (s.me.regs.getG f.b.n) bs = none) (hw : s1.writable .g f.rd = true)
    (hcur : (s.me.regs.getG f.a.n).toNat % 2 ^ 16 ≠ s.cur) (hown : f.rd = 0 ∨ s1.me.regs.own .g f.rd = true) :
    ∃ t, exec (.strandnew f) s = .next t ∧
      (let y := t.slot ((s.me.regs.getG f.a.n).toNat % 2 ^ 16)
       y.phase = .ready ∧ y.pc = s.me.regs.getG f.b.n ∧ y.ctl.status = fixStatus (dwordAt bs 1) ∧ y.ctl.dmem = dmemStored (dwordAt bs 0) ∧
        y.sTrap.tvec = dwordAt bs 2 &&& ~~~63 ∧ (∀ k : Fin 8, y.ctl.mbox[k] = dwordAt bs (3 + k)) ∧ y.ctl.asid = s1.me.ctl.asid ∧
        y.regs = Regs.none ∧ y.ctl.fflags = 0 ∧ y.ctl.ix = 0 ∧ y.ctl.nx = 0 ∧ y.loops.depth = 0 ∧
        (∀ k : Fin 4, y.streams[k].bound = false) ∧ y.sched.halt = (dwordAt bs 1).getLsbD 63 ∧ y.sched.checked = true) ∧
      (f.rd ≠ 0 → t.me.regs.getG f.rd = 0) ∧ t.me.pc = nextOf s.line s.me.pc := by
  have hf := loadGlobal_frame hload
  have hsid : natField (s.me.regs.getG f.a.n) 0 16 = (s.me.regs.getG f.a.n).toNat % 2 ^ 16 := by simp only [natField, Nat.pow_zero, Nat.div_one]
  obtain ⟨hslot, hother, hc, hline⟩ := startStrand_frame s1 ((s.me.regs.getG f.a.n).toNat % 2 ^ 16) (s.me.regs.getG f.b.n) bs s1.me.ctl.asid
  have hc1 : s1.cur = s.cur := State.cur_of_frame hf
  generalize ht : s1.startStrand ((s.me.regs.getG f.a.n).toNat % 2 ^ 16) (s.me.regs.getG f.b.n) bs s1.me.ctl.asid = t at hslot hother hc hline
  have hme : t.me = s1.me := by
    rw [State.me, hc]
    exact hother _ (by rw [hc1]; exact Ne.symm hcur)
  have hrun := strandnew_starts hr hm hload hpriv hst (t := t) (by rw [hsid, ht]) hme hline
    (writable_of_me_own (by rw [hme]) (by rw [hme]) hw hown)
  refine ⟨_, hrun, ?_, fun h0 => getG_retires _ _ _ h0 _, ?_⟩
  · rw [slot_retires_ne _ _ _ (by rw [hc, hc1]; exact hcur), hslot]
    have hdepth : Slot.none.loops.depth = 0 := by decide
    exact ⟨rfl, rfl, rfl, rfl, rfl, fun k => by simp, rfl, rfl, rfl, rfl, rfl, hdepth, unbound_none, rfl, rfl⟩
  · rw [pc_retires, hline, hme, State.line_of_frame hf, Slot.bare_pc (State.me_of_frame hf)]

/-- Settles O16: halts and resumptions, strands that start, and kills, with their status codes. -/
theorem strandManagementForms : Obligations.StrandManagementForms := by
  unfold Obligations.StrandManagementForms
  refine ⟨fun s f hm hr hreply hown => ?_, fun s f code hm hr hreply hown => preempt_answered hr hm hreply hown,
    fun s sid t ctx h => ?_, fun s s1 f bs hm hr hload hw => ?_, fun s f hm hr => ?_⟩
  · refine ⟨fun hno => ?_, fun hn hcur => ?_, fun hn hcur hf => ?_, fun hn hcur hf => ⟨fun hsusp hb => ?_, fun hsusp hb => ?_, fun hsusp hb => ?_,
      fun hsusp hb => ?_⟩⟩
    · exact preempt_status hr hm hreply (target_none (slotNamed_none hno))
    · exact preempt_status hr hm hreply (target_self (hcur ▸ slotNamed_some hn))
    · exact preempt_status hr hm hreply (target_free (slotNamed_some hn) hcur hf)
    · exact preempt_unneeded hr hm hreply (target_ok (slotNamed_some hn) hcur hf) (by rw [hsusp, hb]; rfl)
    · exact preempt_unneeded hr hm hreply (target_ok (slotNamed_some hn) hcur hf) (by rw [hsusp, hb]; rfl)
    · obtain ⟨hslot, -, hc⟩ := askHalt_frame s hsusp
      exact ⟨_, preempt_halts hr hm hreply (target_ok (slotNamed_some hn) hcur hf) hb hsusp hcur, State.me_setMe ..,
        by rw [State.slot_setMe_ne _ _ (by rw [hc]; exact hcur), hslot]⟩
    · have hrun := preempt_resumes hr hm hreply (target_ok (slotNamed_some hn) hcur hf) hb hsusp hcur hown
      obtain ⟨hslot, hother, hc, hline, -, -⟩ := resumeSlot_frame s hsusp
      have hme : (s.resumeSlot ((s.me.regs.getG f.a.n).toNat % 2 ^ 16)).me = s.me := by
        rw [State.me, hc]
        exact hother _ (Ne.symm hcur)
      refine ⟨_, _, hrun, rfl, ?_, fun h0 => getG_retires _ _ _ h0 _, by rw [pc_retires, hline, hme]⟩
      rw [slot_retires_ne _ _ _ (by rw [hc]; exact hcur), hslot]
  · have hover := waitOver_target s sid t ctx
    refine ⟨fun hhalt => ?_, fun hgone => ?_, fun hf hsusp hctx => wake_target_not h ?_⟩
    · rw [wake_target_over h (hover.mpr (.inl hhalt.1)), State.answerOf]
      simp [hhalt.1, hhalt.2]
    · rw [wake_target_over h (hover.mpr (.inr hgone)), State.answerOf]
      rcases hgone with hf | hctx
      · simp [hf, Phase.isSuspended]
      · simp [hctx]
    · rw [← Bool.not_eq_true, hover]
      simp [hf, hsusp, hctx]
  · dsimp only
    rw [show ((dwordAt bs 1).extractLsb' 0 2).toNat = natField (dwordAt bs 1) 0 2 from (natField_eq ..).symm]
    split
    · next hpriv => exact strandnew_refused hr hm hload hpriv
    · next hpriv =>
      split
      · next hno => exact strandnew_status hr hm hload hpriv (startStatus_unnamed (slotNamed_none (unnamed_iff.mp hno))) hw
      · next hn =>
        have hname := slotNamed_some (not_not.mp (mt unnamed_iff.mpr hn))
        split
        · next hbad => exact strandnew_status hr hm hload hpriv (startStatus_bad hname ((startBlockBad_iff bs).mpr hbad)) hw
        · next hgood =>
          have hb : startBlockBad bs = false := Bool.not_eq_true _ ▸ mt (startBlockBad_iff bs).mp hgood
          split
          · next hunc => exact strandnew_status hr hm hload hpriv (startStatus_uncovered hname hb (by simpa using hunc)) hw
          · next hcov =>
            have hst := startStatus_covered hname hb (e := s.me.regs.getG f.b.n) (by simpa using hcov)
            split
            · next hf => exact strandnew_status hr hm hload hpriv (by rw [hst, if_pos hf]) hw
            · next hf => exact fun hcur hown => strandnew_started hr hm hload hpriv (by rw [hst, if_neg hf]) hw hcur hown
  · refine ⟨fun hno => strandkill_unnamed hr hm (slotNamed_none hno), fun hn hcur hf => strandkill_free hr hm (slotNamed_some hn) hcur hf,
      fun hn hcur => ?_, fun hn hcur hf hown => ?_⟩
    · refine ⟨_, strandkill_self hr hm (hcur ▸ slotNamed_some hn), ?_⟩
      obtain ⟨t, ht, hkill⟩ := killSlot_eq s s.cur
      have hfree : ((s.killSlot s.cur).slot s.cur).phase = .free := by
        rw [hkill, State.freeSlot, State.slot_setSlot_self]
        rfl
      have hc : (s.killSlot s.cur).cur = s.cur := by
        rw [hkill]
        exact (State.cur_of_frame ht : t.cur = s.cur)
      rw [unretired, if_pos (by rw [State.me, hc, hfree])]
      exact hfree
    · have hrun := strandkill_other hr hm (slotNamed_some hn) hcur hf hown
      obtain ⟨t, ht, hkill⟩ := killSlot_eq s ((s.me.regs.getG f.a.n).toNat % 2 ^ 16)
      have hc : (s.killSlot ((s.me.regs.getG f.a.n).toNat % 2 ^ 16)).cur = s.cur := by
        rw [hkill]
        exact (State.cur_of_frame ht : t.cur = s.cur)
      refine ⟨_, hrun, ?_, fun h0 => getG_retires _ _ _ h0 _⟩
      rw [slot_retires_ne _ _ _ (by rw [hc]; exact hcur), hkill, State.freeSlot, State.slot_setSlot_self]
      rfl

end Sys2Proof.Machine

/-! ## Halts and resumptions (R165, R365) -/

namespace Sys2Proof.Machine

theorem Phase.isSuspended_iff (p : Phase) : p.isSuspended = true ↔ ∃ d, p = .suspended d := by cases p <;> simp [Phase.isSuspended]
theorem Slot.completing_iff (x : Slot) : x.completing = true ↔ ∃ w, x.phase = .blocked (.finishing w) ∨ x.phase = .waiting (.finishing w) := by
  unfold Slot.completing
  split <;> simp_all
theorem Slot.mayHalt_iff (x : Slot) : x.mayHalt = true ↔ x.sched.halt = true ∧ x.phase ≠ .free ∧ x.phase.isSuspended = false ∧
    (x.phase = .ready → x.sched.reply = Option.none) ∧ ¬∃ w, x.phase = .blocked (.finishing w) ∨ x.phase = .waiting (.finishing w) := by
  rw [← x.completing_iff, ← Bool.not_eq_true x.phase.isSuspended, Phase.isSuspended_iff]
  simp only [Slot.mayHalt, Bool.and_eq_true, Slot.atBoundary_iff, Bool.not_eq_true', Bool.not_eq_true, and_assoc]

/-- What an interrupted region's commands leave of its strand. -/
theorem bare_cancelRegion (s : State) (sid : Nat) : ((s.cancelRegion sid).slot sid).bare = (s.slot sid).bare := by
  unfold State.cancelRegion
  dsimp only
  rw [State.modSlot, State.slot_setSlot_self]
  exact State.bare_of_frame (frame_foldl frame_cancelOp _ s) sid

/-- A slot taken back to the beginning of its idempotent region. -/
def Slot.rewound (x : Slot) : Slot := { x with
  pc := x.idem.pc
  loops := x.loops.withDepth x.idem.depth
  rep := ⟨0, .off, []⟩
  sched := { x.sched with checked := false, owed := .none, beyond := false } }
theorem bare_rewindRegion {s : State} {sid : Nat} (h : (s.slot sid).idem.active = true) :
    ((s.rewindRegion sid).slot sid).bare = (s.slot sid).rewound.bare := by
  rw [State.rewindRegion, if_pos h, State.modSlot, State.slot_setSlot_self]
  exact (congrArg Slot.rewound (bare_cancelRegion s sid) : ((s.cancelRegion sid).slot sid).bare.rewound = (s.slot sid).bare.rewound)

/-- The slot that a halt leaves, from the slot `y` that its abandoned wait and its region leave. -/
def Slot.halted (x y : Slot) (eck : Bool) : Slot := { y with
  phase := .suspended false
  windows := []
  rep := { y.rep with mode := .off, body := [] }
  sched := { y.sched with halt := false, waited := false, redo := false, yielded := .none, phase := [], hint := [], early := []
                          was := if x.idem.active then .none else x.waits
                          ckptDue := eck } }
theorem slot_haltSlot (s : State) (sid : Nat) : ∃ eck, (s.haltSlot sid false).slot sid =
    (s.slot sid).halted (((s.abandon sid).rewindRegion sid).slot sid) eck := by
  refine ⟨((((s.abandon sid).rewindRegion sid).core (coreOf sid)).eckbase.getLsbD 0), ?_⟩
  simp only [State.haltSlot, Bool.false_eq_true, if_false, Bool.not_false, Bool.and_true]
  rw [State.modSlot, State.slot_setSlot_self]
  rfl
theorem slot_abandon (s : State) (sid k : Nat) : (s.abandon sid).slot k = s.slot k := by
  rw [s.abandon_frame]
  rfl

theorem haltSlot_keeps {s : State} {sid : Nat} (h : (s.slot sid).idem.active = false) :
    ∃ eck, (s.haltSlot sid false).slot sid = (s.slot sid).halted (s.slot sid) eck := by
  obtain ⟨eck, hslot⟩ := slot_haltSlot s sid
  refine ⟨eck, ?_⟩
  have hregion : (s.abandon sid).rewindRegion sid = s.abandon sid := by
    rw [State.rewindRegion, slot_abandon, h]
    rfl
  rw [hslot, hregion, slot_abandon]
theorem haltSlot_rewinds {s : State} {sid : Nat} (h : (s.slot sid).idem.active = true) :
    ∃ eck, ((s.haltSlot sid false).slot sid).bare = ((s.slot sid).halted (s.slot sid).rewound eck).bare := by
  obtain ⟨eck, hslot⟩ := slot_haltSlot s sid
  refine ⟨eck, ?_⟩
  have hregion : (((s.abandon sid).rewindRegion sid).slot sid).bare = (s.slot sid).rewound.bare := by
    rw [← slot_abandon s sid sid]
    exact bare_rewindRegion (by rw [slot_abandon, h])
  rw [hslot]
  exact (congrArg (fun y => ((s.slot sid).halted y eck).bare) hregion :
    ((s.slot sid).halted (((s.abandon sid).rewindRegion sid).slot sid).bare eck).bare = ((s.slot sid).halted (s.slot sid).rewound.bare eck).bare)

theorem State.ckptKept_eq (s : State) (sid : Nat) : s.ckptKept sid =
    if (s.saved.find sid).any fun v => v.ctx == (s.slot sid).ctx && v.ckpt == (s.slot sid).sched.ckptAt then none
    else (s.slot sid).sched.ckptAt := by
  unfold State.ckptKept
  cases s.saved.find sid with
  | none => rfl
  | some v => simp only [Option.any_some, Bool.and_eq_true, beq_iff_eq]
theorem resumedPhase_eq (was : Option (Bool × Bool)) : resumedPhase was = match was with
    | none => .ready
    | some (false, i) => .blocked (.again i)
    | some (true, i) => .waiting (.again i) := by
  rcases was with _ | ⟨_ | _, i⟩ <;> rfl

end Sys2Proof.Machine

/-! ## Engine checkpoints and context images (R165, R322, R365 to R369) -/

namespace Sys2Proof.Machine

/-! ### Engine checkpoints (R322) -/

section
variable {s : State} {sid : Nat}

theorem checkpoint_none (h : ¬((s.slot sid).phase.isSuspended = true ∧ (s.slot sid).sched.ckptDue = true) ∨
    ∃ k ∈ (s.core (coreOf sid)).tileq.take 1, k.sid = sid ∧ k.removable = false) : s.checkpoint sid = s := by
  unfold State.checkpoint
  dsimp only
  split
  · rfl
  · next hdue =>
    have hbusy := h.resolve_left (by simpa using hdue)
    rw [if_pos (by simpa using hbusy)]

variable (hdue : (s.slot sid).phase.isSuspended = true ∧ (s.slot sid).sched.ckptDue = true)
  (hidle : ¬∃ k ∈ (s.core (coreOf sid)).tileq.take 1, k.sid = sid ∧ k.removable = false)
include hdue hidle

theorem checkpoint_empty (hcmds : ((s.core (coreOf sid)).tileq.filter fun k => k.sid == sid) = [])
    (haccs : ((s.core (coreOf sid)).accs.filter fun a => a.2.owner == some sid) = []) :
    s.checkpoint sid = s.setSlot sid { s.slot sid with sched := { (s.slot sid).sched with ckptDue := false } } := by
  unfold State.checkpoint
  dsimp only
  rw [if_neg (by simpa using hdue), if_neg (by simpa using hidle), hcmds, haccs]
  rfl

variable (hwork : ((s.core (coreOf sid)).tileq.filter fun k => k.sid == sid) ≠ [] ∨
  ((s.core (coreOf sid)).accs.filter fun a => a.2.owner == some sid) ≠ [])
include hwork

theorem checkpoint_busy {pa : Nat} {s1 : State} (h : s.areaAddr ((s.core (coreOf sid)).ckptArea (sid % 8)) .write = (.busy pa, s1)) :
    s.checkpoint sid = s1 := by
  unfold State.checkpoint
  dsimp only
  rw [if_neg (by simpa using hdue), if_neg (by simpa using hidle), if_neg (by simpa [or_iff_not_imp_left] using hwork), h]
theorem checkpoint_kept {pa : Nat} {s1 : State} (h : s.areaAddr ((s.core (coreOf sid)).ckptArea (sid % 8)) .write = (.ok pa, s1)) :
    let c := s.core (coreOf sid)
    let t := s.checkpoint sid
    t.ckpts.find (c.ckptArea (sid % 8)) =
      some ⟨sid, c.tileq.filter fun k => k.sid == sid, c.accs.filter fun a => a.2.owner == some sid⟩ ∧
    (t.slot sid).sched.ckptDue = false ∧ (t.slot sid).sched.ckptAt = some (c.ckptArea (sid % 8)) ∧
    ∀ k ∈ (t.core (coreOf sid)).tileq, k.sid ≠ sid := by
  unfold State.checkpoint
  dsimp only
  rw [if_neg (by simpa using hdue), if_neg (by simpa using hidle), if_neg (by simpa [or_iff_not_imp_left] using hwork), h]
  dsimp only
  refine ⟨NMap.find_insert_self .., ?_, ?_, fun k hk => ?_⟩
  · rw [State.modSlot, State.slot_setSlot_self]
  · rw [State.modSlot, State.slot_setSlot_self]
  · rw [State.modSlot, State.core_setSlot, State.core_setCore_self] at hk
    simpa using (List.mem_filter.mp hk).2
end

/-! ### A form that acts on a SUSPENDED slot (R165, R365) -/

/-- No answer is left over. -/
def Slot.unanswered (y : Slot) : Slot := { y with sched := { y.sched with reply := .none } }

/-- What `ctxsave` and `ctxload` share. -/
def contextForm (f : Bin) (act : Word → Nat → M Nat) : State → Out :=
  privInstr (binShape f) (needSM 0) (do
    let a ← readG 1 f.a
    let ea ← readG 2 f.b
    writeG f.rd (word (← finishing (onSuspended a (act ea))))
    return none)
def saveAct (ea : Word) (sid : Nat) : M Nat := do
  saveContext sid ea
  return 0
theorem exec_ctxsave (f : Bin) (s : State) : exec (.ctxsave f) s = contextForm f saveAct s := rfl
theorem exec_ctxload (f : Bin) (s : State) : exec (.ctxload f) s = contextForm f (fun ea sid => loadContext sid ea) s := rfl

section
variable {s : State} {a : Word} {act : Nat → M Nat}

theorem onSuspended_error {code : Nat} (h : s.target a = .error code) : onSuspended a act s = .ok (code, s) := by
  unfold onSuspended
  rw [M.bind_ok (M.get_run s)]
  simp only [h]
  rfl
theorem onSuspended_not {sid : Nat} (h : s.target a = .ok sid) (hsusp : (s.slot sid).phase.isSuspended = false) :
    onSuspended a act s = .ok (1, s) := by
  unfold onSuspended
  rw [M.bind_ok (M.get_run s)]
  simp only [h, hsusp]
  rfl
theorem onSuspended_ok {sid : Nat} (h : s.target a = .ok sid) (hsusp : (s.slot sid).phase.isSuspended = true) :
    onSuspended a act s = act sid s := by
  unfold onSuspended
  rw [M.bind_ok (M.get_run s)]
  simp only [h, hsusp, if_true]
end

section
variable {s : State} {f : Bin} {act : Word → Nat → M Nat} (hr : s.ready (binShape f) = true) (hm : s.me.mode ≠ .u)
include hr hm

/-- The form's body ends: RD gets its status. -/
theorem contextForm_gives (hown : f.rd = 0 ∨ s.me.regs.own .g f.rd = true) {code : Nat} {t : State}
    (h : onSuspended (s.me.regs.getG f.a.n) (act (s.me.regs.getG f.b.n)) s = .ok (code, t)) (hme : t.me.bare = s.me.bare)
    (hline : t.line = s.line) (hw : t.writable .g f.rd = true) :
    contextForm f act s = .next (t.retires (binShape f) (t.me.unanswered.withG f.rd (word code))) := by
  obtain ⟨hs, hg, hsrc, -⟩ := State.ready_parts hr
  have hat := t.isAt_setMe t.me.unanswered
  have hsteady : t.me.unanswered.steady = true := ((Slot.bare_steady hme).trans hs : t.me.steady = true)
  refine privInstr_writeG hs hg hsrc (needSM_run hm 0) ?_ hat hline hme hsteady (Slot.bare_pc hme : t.me.pc = s.me.pc)
    (hat.writable_own hw (by rwa [Slot.bare_regs hme]) rfl rfl)
  rw [binShape_sources hr]
  refine M.bind_ok (?_ : finishing _ s = .ok (code, _))
  simp only [finishing, h]
  rfl
/-- The form waits: a halt does not abandon it. -/
theorem contextForm_waits {w : Wait}
    (h : onSuspended (s.me.regs.getG f.a.n) (act (s.me.regs.getG f.b.n)) s = .error (.wait w false)) :
    contextForm f act s = .next (waitState (.finishing w) false s) := by
  obtain ⟨hs, hg, hsrc, -⟩ := State.ready_parts hr
  refine privInstr_error (sh := binShape f) (e := .wait (.finishing w) false) (Slot.steady_windows hs) hg hsrc (needSM_run hm 0) ?_
  rw [binShape_sources hr]
  refine M.bind_error (?_ : finishing _ s = .error _)
  simp only [finishing, h]
/-- The status that the target alone decides. -/
theorem contextForm_status (hown : f.rd = 0 ∨ s.me.regs.own .g f.rd = true) {code : Nat} (h : s.target (s.me.regs.getG f.a.n) = .error code) :
    contextForm f act s = .next (s.retires (binShape f) (s.me.unanswered.withG f.rd (word code))) := by
  obtain ⟨-, -, -, hd⟩ := State.ready_parts hr
  exact contextForm_gives hr hm hown (onSuspended_error h) rfl rfl hd
theorem contextForm_not (hown : f.rd = 0 ∨ s.me.regs.own .g f.rd = true) {sid : Nat} (h : s.target (s.me.regs.getG f.a.n) = .ok sid)
    (hsusp : (s.slot sid).phase.isSuspended = false) :
    contextForm f act s = .next (s.retires (binShape f) (s.me.unanswered.withG f.rd 1)) := by
  obtain ⟨-, -, -, hd⟩ := State.ready_parts hr
  exact contextForm_gives hr hm hown (onSuspended_not h hsusp) rfl rfl hd
end

/-! ### The starters of a core -/

/-- The starters of every core. -/
def State.starters (s : State) : Nat → NMap Starter := fun c => (s.core c).starters

theorem starters_setCore (s : State) {c : Nat} {x : Core} (h : x.starters = (s.core c).starters) : (s.setCore c x).starters = s.starters := by
  funext k
  by_cases hk : k = c
  · rw [State.starters, hk, State.core_setCore_self, h]
    rfl
  · rw [State.starters, State.core_setCore_ne _ _ hk]
    rfl
theorem starters_foldl {α : Type} {f : State → α → State} (h : ∀ s x, (f s x).starters = s.starters) (xs : List α) (s : State) :
    (xs.foldl f s).starters = s.starters := by
  induction xs generalizing s with
  | nil => rfl
  | cons x xs ih => exact (ih (f s x)).trans (h s x)
theorem itemBase_of_starters {s t : State} (h : t.starters = s.starters) (x : Slot) : t.itemBase x = s.itemBase x := by
  have hcore : ∀ c, (t.core c).starters = (s.core c).starters := congrFun h
  simp only [State.itemBase, State.starter, hcore]

theorem starters_translate {s t : State} {asid ea : Nat} {acc : Access} {mode : Mode} {useTlb : Bool} {x : Xlat}
    (h : s.translate asid ea acc mode useTlb = (x, t)) : t.starters = s.starters := by
  unfold State.translate at h
  dsimp only at h
  split at h
  · split at h <;> (cases h; rfl)
  · split at h
    · cases h
      rfl
    · cases h
      rfl
    · cases h
      split <;> rfl
theorem starters_sendMsg (s : State) (die router sid kind : Nat) (payload : Word) : (s.sendMsg die router sid kind payload).starters = s.starters := by
  unfold State.sendMsg
  split <;> rfl
theorem logPut_starters {c c' : Core} {e : SbEntry} {cause idx : Nat} (h : c.logPut e cause = some (c', idx)) : c'.starters = c.starters := by
  unfold Core.logPut at h
  dsimp only at h
  split at h
  · split at h <;> cases h
    rfl
  · split at h <;> cases h
    rfl
theorem starters_logMerged (core : Nat) (x : DcLine) (s : State) (w : Nat × Nat × Nat × Mode) : (State.logMerged core x s w).starters = s.starters := by
  unfold State.logMerged
  split
  · next h => exact (starters_sendMsg ..).trans (starters_setCore s (logPut_starters h :))
  · rfl
theorem starters_flushLine (core : Nat) (s : State) (x : DcLine) : (State.flushLine core s x).starters = s.starters := by
  unfold State.flushLine
  split
  · rfl
  · split
    · exact starters_setCore (s.storePhys ..) rfl
    · exact starters_foldl (starters_logMerged core x) _ _
theorem starters_dropLineOf (s : State) (core asid ea : Nat) : (s.dropLineOf core asid ea).starters = s.starters := by
  unfold State.dropLineOf
  split
  · rfl
  · unfold State.evictLines
    refine (starters_setCore _ ?_).trans (starters_foldl (starters_flushLine core) _ s)
    rfl

/-! ### `ctxsave` (R367) -/

theorem frame_exportOp (s : State) (sid h : Nat) : (s.exportOp sid h).2.frame = s.frame := by
  unfold State.exportOp
  split
  · rfl
  · exact frame_setSlot (bare_setHandle ..)
  · exact frame_setSlot (bare_setHandle ..)
theorem starters_exportOp (s : State) (sid h : Nat) : (s.exportOp sid h).2.starters = s.starters := by
  unfold State.exportOp
  split <;> rfl
/-- The export of one handle of `exportAll`: the tokens so far and the state. -/
def exportStep (sid : Nat) (r : List Word × State) (h : Nat) : List Word × State :=
  match (r.2.slot sid).handle h with
  | .pending _ =>
    let (t, s1) := r.2.exportOp sid h
    (r.1 ++ [t], s1)
  | _ => (r.1 ++ [0], r.2)
theorem exportAll_eq (s : State) (sid : Nat) : s.exportAll sid = (List.range 8).foldl (exportStep sid) ([], s) := rfl
/-- What every export keeps, the exports of all handles keep. -/
theorem exportAll_keeps {α : Type} {g : State → α} (hg : ∀ s sid h, g (State.exportOp s sid h).2 = g s) (s : State) (sid : Nat) :
    g (s.exportAll sid).2 = g s := by
  have hstep : ∀ r h, g (exportStep sid r h).2 = g r.2 := by
    intro r h
    unfold exportStep
    split
    · exact hg ..
    · rfl
  have hfold : ∀ (hs : List Nat) r, g (hs.foldl (exportStep sid) r).2 = g r.2 := by
    intro hs
    induction hs with
    | nil => exact fun _ => rfl
    | cons h hs ih => exact fun r => (ih _).trans (hstep r h)
  rw [exportAll_eq]
  exact hfold ..
theorem frame_exportAll (s : State) (sid : Nat) : (s.exportAll sid).2.frame = s.frame := exportAll_keeps frame_exportOp s sid
theorem starters_exportAll (s : State) (sid : Nat) : (s.exportAll sid).2.starters = s.starters := exportAll_keeps starters_exportOp s sid

end Sys2Proof.Machine

/-! ## `ctxsave` and `ctxload` (R165, R367 to R369) -/

namespace Sys2Proof.Machine

/-! ### `ctxsave` (R367) -/

theorem needDrained_run {s : State} (h : s.drained = true) : needDrained s = .ok ((), s) := by
  simp only [State.drained, Bool.and_eq_true] at h
  unfold needDrained
  rw [M.bind_ok (M.get_run s)]
  simp [h.1, h.2]
theorem gCheck_run {s : State} {ea : Int} {n al : Nat} (h : gFault s.me.mode ea n al = none) : gCheck ea n al s = .ok ((), s) := by
  unfold gCheck
  rw [M.bind_ok (getMe_run s)]
  simp [h]

section
variable {P E : State → Prop} (hP : Framing P)
include hP
theorem keeps_xlatLines (a n : Nat) : (xlatLines a n).Keeps P E := by
  induction n generalizing a with
  | zero => exact keeps_pure _
  | succ n ih => exact keeps_bind (keeps_xlatOne hP ..) fun _ => keeps_bind (ih _) fun _ => keeps_pure _
theorem keeps_loadLines (a n : Nat) : (loadLines a n).Keeps P E := by
  induction n generalizing a with
  | zero => exact keeps_pure _
  | succ n ih => exact keeps_bind (keeps_loadGlobal hP ..) fun _ => keeps_bind (ih _) fun _ => keeps_pure _
end

theorem framing_frame (s : State) : Framing fun t => t.frame = s.frame := fun _ _ ht hs => ht.trans hs
theorem xlatLines_frame {s t : State} {a n : Nat} {pas : List Nat} (h : xlatLines a n s = .ok (pas, t)) : t.frame = s.frame :=
  ((keeps_xlatLines (E := fun _ => False) (framing_frame s) a n).here s rfl).1 pas t h
theorem loadLines_frame {s t : State} {a n : Nat} {bs : List Byte} (h : loadLines a n s = .ok (bs, t)) : t.frame = s.frame :=
  ((keeps_loadLines (E := fun _ => False) (framing_frame s) a n).here s rfl).1 bs t h

theorem xlatOne_starters {s t : State} {acc : Access} {ea pa : Nat} (h : xlatOne acc ea s = .ok (pa, t)) : t.starters = s.starters := by
  unfold xlatOne at h
  rw [M.bind_ok (M.get_run s)] at h
  rcases hx : s.translate s.me.ctl.asid.toNat ea acc s.me.mode true with ⟨_ | _ | _, u⟩ <;> simp only [hx] at h <;> cases h
  exact starters_translate hx
theorem xlatLines_starters {s t : State} {a n : Nat} {pas : List Nat} (h : xlatLines a n s = .ok (pas, t)) : t.starters = s.starters := by
  induction n generalizing s a pas with
  | zero =>
    cases h
    rfl
  | succ n ih =>
    unfold xlatLines at h
    cases h1 : xlatOne .write a s with
    | error e =>
      rw [M.bind_error h1] at h
      cases h
    | ok r =>
      rw [M.bind_ok h1] at h
      cases h2 : xlatLines (a + 64) n r.2 with
      | error e =>
        rw [M.bind_error h2] at h
        cases h
      | ok q =>
        rw [M.bind_ok h2] at h
        cases h
        exact (ih h2).trans (xlatOne_starters h1)

/-- The image of `x` stored, and what it has no place for noted. -/
def State.imageStored (u : State) (sid : Nat) (x : Slot) (toks : List Word) (base : Nat) (pas : List Nat) : State :=
  { u.storePhys (pas.flatMap fun pa => (List.range 64).map (pa + ·)) ((x.image sid toks base).map some) with saved := u.saved.insert sid x.saved }
/-- The lines of the image leave the cache, and the handles are exported. -/
def State.imageExported (s1 : State) (core asid sid ea n : Nat) : List Word × State :=
  ((List.range n).foldl (fun t k => t.dropLineOf core asid (ea + 64 * k)) s1).exportAll sid

theorem frame_imageExported (s1 : State) (core asid sid ea n : Nat) : (s1.imageExported core asid sid ea n).2.frame = s1.frame :=
  (frame_exportAll ..).trans (frame_foldl (fun _ _ => frame_dropLineOf ..) _ _)
theorem starters_imageExported (s1 : State) (core asid sid ea n : Nat) : (s1.imageExported core asid sid ea n).2.starters = s1.starters :=
  (starters_exportAll ..).trans (starters_foldl (fun _ _ => starters_dropLineOf ..) _ _)
theorem imageStored_strands (u : State) (sid : Nat) (x : Slot) (toks : List Word) (base : Nat) (pas : List Nat) :
    let t := u.imageStored sid x toks base pas
    t.cur = u.cur ∧ t.line = u.line ∧ ∀ k, t.slot k = u.slot k := ⟨rfl, rfl, fun _ => rfl⟩

section
variable {s s1 : State} {sid : Nat} {ea : Word} {pas : List Nat}

theorem saveAct_due (h : (s.slot sid).sched.ckptDue = true) : saveAct ea sid s = .error (.wait (.checkpoint sid) false) := by
  unfold saveAct saveContext
  refine M.bind_error ?_
  rw [M.bind_ok (M.get_run s)]
  simp only [h, if_true]
  rfl
theorem saveAct_run (hdue : (s.slot sid).sched.ckptDue = false) (hdr : s.drained = true)
    (hg : gFault s.me.mode ea.toNat (imageSize (s.slot sid).item.isSome) 64 = none)
    (hx : xlatLines ea.toNat (imageSize (s.slot sid).item.isSome / 64) s = .ok (pas, s1)) :
    let r := s1.imageExported (coreOf s.cur) (effAsid s.me.ctl.asid.toNat ea.toNat) sid ea.toNat (imageSize (s.slot sid).item.isSome / 64)
    saveAct ea sid s = .ok (0, r.2.imageStored sid (s.slot sid) r.1 (r.2.itemBase (s.slot sid)) pas) := by
  dsimp only
  rw [itemBase_of_starters ((starters_imageExported ..).trans (xlatLines_starters hx))]
  rcases hr : s1.imageExported (coreOf s.cur) (effAsid s.me.ctl.asid.toNat ea.toNat) sid ea.toNat (imageSize (s.slot sid).item.isSome / 64)
    with ⟨toks, u⟩
  unfold State.imageExported at hr
  unfold saveAct saveContext
  refine M.bind_ok (a := ()) ?_
  rw [M.bind_ok (M.get_run s)]
  simp only [hdue, Bool.false_eq_true, if_false]
  rw [M.bind_ok (gCheck_run hg), M.bind_ok (needDrained_run hdr), M.bind_ok hx, M.bind_ok (M.modify_run _ _), M.bind_ok (M.get_run _), hr]
  rfl
end

/-! ### An image loaded (R369) -/

theorem frame_reviveItem (s : State) (it : Option Item) (ctx : Option Nat) : (s.reviveItem it ctx).frame = s.frame := by
  unfold State.reviveItem
  split
  · rfl
  · split
    · rfl
    · split
      · split <;> rfl
      · rfl
theorem frame_adopt (s : State) (old new : Nat) : (s.adopt old new).frame = s.frame := by
  refine frame_mapSlots (s := s) (f := fun x => if x.2.ctx = old then (x.1, { x.2 with record := .none, item := .none }) else x) fun x => ?_
  split <;> exact ⟨rfl, rfl⟩
theorem frame_importOp (s : State) (sid h n : Nat) (o : Op) : (s.importOp sid h n o).frame = s.frame := by
  unfold State.importOp
  split
  · exact (frame_setSlot (s := { s with ops := s.ops.erase n }) (bare_setHandle ..))
  · exact (frame_setSlot (s := { s with ops := s.ops.insert n { o with holder := .slot sid h, imported := true } }) (bare_setHandle ..))
theorem frame_bindHandles (s : State) (sid : Nat) (bs : List Byte) : (s.bindHandles sid bs).frame = s.frame := by
  refine frame_foldl (fun t h => ?_) _ s
  dsimp only
  split
  · split
    · exact frame_importOp ..
    · rfl
  · exact frame_setSlot (s := { t with nextOp := t.nextOp + 1 }) (bare_setHandle ..)
  · rfl

/-- The slot's context has ended; its messages stay. -/
def State.vacated (t : State) (sid : Nat) : State := (t.killSlot sid).modSlot sid fun x => { x with msgs := (t.slot sid).msgs }
/-- What is kept of a saved context is the loaded one's. -/
def State.adoptSaved (s : State) : Option Saved → State
  | some v => s.adopt v.ctx s.nextCtx
  | none => s
/-- The state in which the slot of an image is set. -/
def State.imageReady (t : State) (sid : Nat) (bs : List Byte) : State :=
  let s1 := t.vacated sid
  let v := s1.saved.find (numAt bs 8 2)
  let s3 := (s1.reviveItem (s1.imageItem sid bs) (v.map (·.ctx))).adoptSaved v
  ((s3.cores.map (·.1)).foldl (State.sendHome (s3.imageDebts (numAt bs 8 2) v)) s3).acquire (coreOf sid)

theorem loadImage_eq (t : State) (sid : Nat) (bs : List Byte) : ∃ debts rcd it,
    t.loadImage sid bs = ((({ t.imageReady sid bs with
      nextCtx := (t.imageReady sid bs).nextCtx + 1, tick := (t.imageReady sid bs).tick + 4 } : State).setSlot sid
        (loadedSlot ((t.imageReady sid bs).slot sid) bs ((t.imageReady sid bs).imageFile bs)
          (imageDomain bs ((t.vacated sid).saved.find (numAt bs 8 2))) (t.imageReady sid bs).nextCtx debts rcd it
          (((t.vacated sid).saved.find (numAt bs 8 2)).bind (·.was)) fun k => Config.freeWord ((t.imageReady sid bs).tick + k))).bindHandles sid bs).unpause
      (coreOf sid) := ⟨_, _, _, rfl⟩

theorem vacated_strands (t : State) (sid : Nat) :
    (t.vacated sid).cur = t.cur ∧ (t.vacated sid).line = t.line ∧ (t.vacated sid).saved = t.saved ∧
    ∀ k, k ≠ sid → ((t.vacated sid).slot k).bare = (t.slot k).bare := by
  obtain ⟨u, hu, hkill⟩ := killSlot_eq t sid
  unfold State.vacated
  rw [hkill]
  refine ⟨(State.cur_of_frame hu : u.cur = t.cur), (State.line_of_frame hu : u.line = t.line), (State.saved_of_frame hu : u.saved = t.saved),
    fun k hk => ?_⟩
  rw [State.modSlot, State.slot_setSlot_ne _ _ hk, State.freeSlot, State.slot_setSlot_ne _ _ hk]
  exact State.bare_of_frame hu k
theorem frame_adoptSaved (s : State) (v : Option Saved) : (s.adoptSaved v).frame = s.frame := by
  cases v with
  | none => rfl
  | some v => exact frame_adopt ..
theorem frame_imageReady (t : State) (sid : Nat) (bs : List Byte) : (t.imageReady sid bs).frame = (t.vacated sid).frame :=
  ((frame_acquire ..).trans (frame_foldl (frame_sendHome _) _ _)).trans ((frame_adoptSaved ..).trans (frame_reviveItem ..))

/-- The slot that an image is loaded into, and what stays of the others. -/
theorem loadImage_strands (t : State) (sid : Nat) (bs : List Byte) :
    (t.loadImage sid bs).cur = t.cur ∧ (t.loadImage sid bs).line = t.line ∧
    (∀ k, k ≠ sid → ((t.loadImage sid bs).slot k).bare = (t.slot k).bare) ∧
    ∃ s4 old debts rcd it, ((t.loadImage sid bs).slot sid).bare = (loadedSlot old bs (State.imageFile s4 bs)
      (imageDomain bs (t.saved.find (numAt bs 8 2))) s4.nextCtx debts rcd it
      ((t.saved.find (numAt bs 8 2)).bind (·.was)) fun k => Config.freeWord (s4.tick + k)).bare := by
  obtain ⟨debts, rcd, it, hload⟩ := loadImage_eq t sid bs
  obtain ⟨hcur, hline, hsaved, hslots⟩ := vacated_strands t sid
  have hframe := frame_imageReady t sid bs
  rw [hload, ← hsaved]
  generalize t.imageReady sid bs = s4 at hframe
  have hbind : ∀ u : State, (State.unpause (State.bindHandles u sid bs) (coreOf sid)).frame = u.frame :=
    fun u => (frame_unpause ..).trans (frame_bindHandles ..)
  refine ⟨?_, ?_, fun k hk => ?_, s4, s4.slot sid, debts, rcd, it, ?_⟩
  · exact (State.cur_of_frame (hbind _)).trans ((State.cur_of_frame hframe).trans hcur)
  · exact (State.line_of_frame (hbind _)).trans ((State.line_of_frame hframe).trans hline)
  · rw [State.bare_of_frame (hbind _), State.slot_setSlot_ne _ _ hk]
    exact (State.bare_of_frame hframe k).trans (hslots k hk)
  · rw [State.bare_of_frame (hbind _), State.slot_setSlot_self]

/-- What a loaded slot shows of its image. -/
theorem loadImage_slot (t : State) (sid : Nat) (bs : List Byte) :
    let y := (t.loadImage sid bs).slot sid
    y.phase = resumedPhase ((t.saved.find (numAt bs 8 2)).bind (·.was)) ∧ y.pc = dwordAt bs 2 ∧ y.ctl.status = fixStatus (dwordAt bs 3) ∧
      (imageFlag bs 0 = false → y.regs = imageRegs bs) := by
  obtain ⟨-, -, -, s4, old, debts, rcd, it, hslot⟩ := loadImage_strands t sid bs
  refine ⟨(congrArg Slot.phase hslot :), (congrArg Slot.pc hslot :), (congrArg (fun y => y.ctl.status) hslot :), fun hflag => ?_⟩
  have hfile : s4.imageFile bs = imageRegs bs := by
    unfold State.imageFile
    rw [hflag]
    rfl
  rw [← hfile]
  exact (congrArg Slot.regs hslot :)

/-- What `ctxload` makes of the bytes of an image. -/
def judgeImage (sid : Nat) (bs : List Byte) : M Nat := do
  let t ← get
  let r := t.imageFile bs
  if t.imageBad sid bs then return 4
  else if !isCompute (coreOf sid) && (r.vv != 0 || numAt bs 3000 8 != 0) then return 6
  else if t.imageRoom sid (r.owned .g) (r.owned .v) (r.owned .p) then
    set (t.loadImage sid bs)
    return 0
  else if t.supplyEnd ≤ t.myCore.issue.cycle then return 6
  else block (.supply t.supplyEnd sid (r.owned .g) (r.owned .v) (r.owned .p))

/-- An image read: its lines, and for an item two more. -/
theorem loadContext_read {s s1 t : State} {sid : Nat} {ea : Word} {head tail bs : List Byte} (hhead : loadLines ea.toNat 47 s = .ok (head, s1))
    (htail : if imageFlag head 0 then loadLines (ea.toNat + 3008) 2 s1 = .ok (tail, t) ∧ bs = head ++ tail else bs = head ∧ t = s1) :
    t.frame = s.frame ∧ loadContext sid ea s = judgeImage sid bs t := by
  have hread : t.frame = s.frame ∧
      (if imageFlag head 0 then do return head ++ (← loadLines (ea.toNat + 3008) 2) else return head : M (List Byte)) s1 = .ok (bs, t) := by
    split at htail
    · next hitem =>
      obtain ⟨hrun, hbs⟩ := htail
      rw [if_pos hitem, M.bind_ok hrun, hbs]
      exact ⟨(loadLines_frame hrun).trans (loadLines_frame hhead), rfl⟩
    · next hitem =>
      obtain ⟨hbs, ht⟩ := htail
      rw [if_neg hitem, hbs, ht]
      exact ⟨loadLines_frame hhead, rfl⟩
  refine ⟨hread.1, ?_⟩
  unfold loadContext
  rw [M.bind_ok hhead, M.bind_ok hread.2]
  rfl

/-- The core has what the image needs: v registers and engines (code 6 of R369). -/
def imageSuits (sid : Nat) (bs : List Byte) (r : Regs) : Prop := isCompute (coreOf sid) = true ∨ (r.vv = 0 ∧ numAt bs 3000 8 = 0)
theorem imageSuits_iff (sid : Nat) (bs : List Byte) (r : Regs) :
    imageSuits sid bs r ↔ ¬(!isCompute (coreOf sid) && (r.vv != 0 || numAt bs 3000 8 != 0)) = true := by
  simp [imageSuits, or_iff_not_imp_left]

section
variable {t : State} {sid : Nat} {bs : List Byte}

theorem judgeImage_bad (h : t.imageBad sid bs = true) : judgeImage sid bs t = .ok (4, t) := by
  unfold judgeImage
  rw [M.bind_ok (M.get_run t)]
  simp only [h, if_true]
  rfl
variable (hgood : t.imageBad sid bs = false)
include hgood
theorem judgeImage_unsuited (h : ¬imageSuits sid bs (t.imageFile bs)) : judgeImage sid bs t = .ok (6, t) := by
  rw [imageSuits_iff, not_not] at h
  unfold judgeImage
  rw [M.bind_ok (M.get_run t)]
  simp only [hgood, h, Bool.false_eq_true, if_false, if_true]
  rfl
variable (hsuits : imageSuits sid bs (t.imageFile bs))
include hsuits
theorem judgeImage_suited : judgeImage sid bs t =
    (if t.imageRoom sid ((t.imageFile bs).owned .g) ((t.imageFile bs).owned .v) ((t.imageFile bs).owned .p) then .ok (0, t.loadImage sid bs)
      else if t.supplyEnd ≤ t.myCore.issue.cycle then .ok (6, t)
      else .error (.wait (.supply t.supplyEnd sid ((t.imageFile bs).owned .g) ((t.imageFile bs).owned .v) ((t.imageFile bs).owned .p)) false)) := by
  rw [imageSuits_iff] at hsuits
  unfold judgeImage
  rw [M.bind_ok (M.get_run t)]
  simp only [hgood, hsuits, Bool.false_eq_true, if_false]
  split
  · rfl
  · split <;> rfl
end

/-! ### The forms -/

section
variable {s : State} {f : Bin} (hr : s.ready (binShape f) = true) (hm : s.me.mode ≠ .u) (hown : f.rd = 0 ∨ s.me.regs.own .g f.rd = true)
  {sid : Nat} (ht : s.target (s.me.regs.getG f.a.n) = .ok sid) (hsusp : (s.slot sid).phase.isSuspended = true) (hne : sid ≠ s.cur)
include hr hm ht hsusp

theorem ctxsave_waits (hdue : (s.slot sid).sched.ckptDue = true) :
    exec (.ctxsave f) s = .next (waitState (.finishing (.checkpoint sid)) false s) := by
  rw [exec_ctxsave]
  exact contextForm_waits hr hm ((onSuspended_ok ht hsusp).trans (saveAct_due hdue))
include hown
theorem ctxsave_saves {s1 t : State} {pas : List Nat} (hdue : (s.slot sid).sched.ckptDue = false) (hdr : s.drained = true)
    (hg : gFault s.me.mode (s.me.regs.getG f.b.n).toNat (imageSize (s.slot sid).item.isSome) 64 = none)
    (hx : xlatLines (s.me.regs.getG f.b.n).toNat (imageSize (s.slot sid).item.isSome / 64) s = .ok (pas, s1))
    {r : List Word × State} (hexp : r = ((List.range (imageSize (s.slot sid).item.isSome / 64)).foldl (fun t k => t.dropLineOf (coreOf s.cur)
      (effAsid s.me.ctl.asid.toNat (s.me.regs.getG f.b.n).toNat) ((s.me.regs.getG f.b.n).toNat + 64 * k)) s1).exportAll sid)
    (hsave : t = r.2.imageStored sid (s.slot sid) r.1 (r.2.itemBase (s.slot sid)) pas) (hw : t.writable .g f.rd = true) :
    exec (.ctxsave f) s = .next (t.retires (binShape f) (t.me.unanswered.withG f.rd 0)) ∧
    (t.slot sid).phase = (s.slot sid).phase ∧ (t.slot sid).regs = (s.slot sid).regs := by
  obtain ⟨hcur, hline, hslots⟩ := imageStored_strands r.2 sid (s.slot sid) r.1 (r.2.itemBase (s.slot sid)) pas
  rw [← hsave] at hcur hline hslots
  have hframe : r.2.frame = s.frame := by
    rw [hexp]
    exact (frame_imageExported ..).trans (xlatLines_frame hx)
  have hbare : ∀ k, (t.slot k).bare = (s.slot k).bare := fun k => by rw [hslots, State.bare_of_frame hframe]
  have hme : t.me.bare = s.me.bare := by
    rw [State.me, hcur, State.cur_of_frame hframe]
    exact hbare s.cur
  refine ⟨?_, (congrArg Slot.phase (hbare sid) :), Slot.bare_regs (hbare sid)⟩
  rw [exec_ctxsave]
  refine contextForm_gives hr hm hown ((onSuspended_ok ht hsusp).trans ?_) hme (hline.trans (State.line_of_frame hframe)) hw
  rw [hsave, hexp]
  exact saveAct_run hdue hdr hg hx

section
variable {s1 t : State} {head tail bs : List Byte} (hhead : loadLines (s.me.regs.getG f.b.n).toNat 47 s = .ok (head, s1))
  (htail : if imageFlag head 0 then loadLines ((s.me.regs.getG f.b.n).toNat + 3008) 2 s1 = .ok (tail, t) ∧ bs = head ++ tail else bs = head ∧ t = s1)
include hhead htail

/-- A status of the image without effect. -/
theorem ctxload_status {code : Nat} (h : judgeImage sid bs t = .ok (code, t)) (hw : t.writable .g f.rd = true) :
    exec (.ctxload f) s = .next (t.retires (binShape f) (t.me.unanswered.withG f.rd (word code))) := by
  obtain ⟨hframe, hrun⟩ := loadContext_read (sid := sid) hhead htail
  rw [exec_ctxload]
  exact contextForm_gives hr hm hown ((onSuspended_ok ht hsusp).trans (hrun.trans h)) (State.me_of_frame hframe) (State.line_of_frame hframe) hw
omit hown in
theorem ctxload_waits {w : Wait} (h : judgeImage sid bs t = .error (.wait w false)) :
    exec (.ctxload f) s = .next (waitState (.finishing w) false s) := by
  obtain ⟨hframe, hrun⟩ := loadContext_read (sid := sid) hhead htail
  rw [exec_ctxload]
  exact contextForm_waits hr hm ((onSuspended_ok ht hsusp).trans (hrun.trans h))
include hne in
theorem ctxload_loads (h : judgeImage sid bs t = .ok (0, t.loadImage sid bs)) (hw : (t.loadImage sid bs).writable .g f.rd = true) :
    exec (.ctxload f) s =
      .next ((t.loadImage sid bs).retires (binShape f) ((t.loadImage sid bs).me.unanswered.withG f.rd 0)) := by
  obtain ⟨hframe, hrun⟩ := loadContext_read (sid := sid) hhead htail
  obtain ⟨hcur, hline, hslots, -⟩ := loadImage_strands t sid bs
  have hme : (t.loadImage sid bs).me.bare = s.me.bare := by
    rw [State.me, hcur, State.cur_of_frame hframe, hslots _ (Ne.symm hne)]
    exact State.bare_of_frame hframe s.cur
  rw [exec_ctxload]
  exact contextForm_gives hr hm hown ((onSuspended_ok ht hsusp).trans (hrun.trans h)) hme (hline.trans (State.line_of_frame hframe)) hw
end
end

/-- Settles O17: halts and resumptions, the images of contexts, and engine checkpoints. -/
theorem haltsAndContextImages : Obligations.HaltsAndContextImages := by
  unfold Obligations.HaltsAndContextImages
  refine ⟨⟨fun s sid => ⟨fun hno => ?_, fun hmay => ?_⟩, fun s sid => ⟨_, rfl, ?_⟩⟩, fun s f hm hr hown => ?_, fun s sid =>
    ⟨fun h => ?_, fun hdue hidle hcmds haccs => ?_, fun pa s1 hdue hidle hwork h => ?_, fun pa s1 hdue hidle hwork h => ?_⟩⟩
  · exact congrArg Host.Outcome.next (if_neg (mt (Slot.mayHalt_iff _).mp hno))
  · refine ⟨_, congrArg Host.Outcome.next (if_pos ((Slot.mayHalt_iff _).mpr hmay)), ?_⟩
    cases hidem : (s.slot sid).idem.active with
    | false =>
      obtain ⟨eck, hslot⟩ := haltSlot_keeps hidem
      dsimp only
      rw [hslot]
      refine ⟨rfl, rfl, rfl, rfl, rfl, rfl, rfl, rfl, rfl, fun _ => ⟨?_, rfl, rfl, rfl, rfl⟩, fun h => absurd h Bool.false_ne_true⟩
      simp only [Slot.halted, hidem]
      rfl
    | true =>
      obtain ⟨eck, hslot⟩ := haltSlot_rewinds hidem
      dsimp only
      generalize ((s.haltSlot sid false).slot sid) = y at hslot ⊢
      refine ⟨(congrArg Slot.phase hslot :), (congrArg Slot.windows hslot :), (congrArg (fun z => z.sched.halt) hslot :),
        (congrArg Slot.regs hslot :), (congrArg Slot.ctl hslot :), (congrArg Slot.sTrap hslot :), (congrArg Slot.mTrap hslot :),
        (congrArg Slot.streams hslot :), (congrArg Slot.msgs hslot :), fun h => absurd h.symm Bool.false_ne_true, fun _ => ⟨?_,
        (congrArg Slot.pc hslot :), (congrArg Slot.loops hslot :), (congrArg (fun z => z.rep.state) hslot :)⟩⟩
      refine (congrArg (fun z => z.sched.was) hslot :).trans ?_
      simp only [Slot.bare, Slot.halted, hidem, if_true]
  · dsimp only
    split
    · next hsusp =>
      obtain ⟨hslot, hother, -, -, hmem, hclusters⟩ := resumeSlot_frame s hsusp
      rw [hslot, State.ckptKept_eq, resumedPhase_eq]
      exact ⟨rfl, hother, hmem, hclusters⟩
    · next hsusp =>
      rw [State.resumeSlot, if_neg hsusp]
      exact ⟨rfl, fun _ _ => rfl, rfl, rfl⟩
  · dsimp only
    refine ⟨fun hno => ?_, fun hn hcur => ?_, fun hn hcur hf => ?_, fun hn hcur hf hsusp => ?_, fun hn hcur hsusp => ?_⟩
    · have ht := target_none (slotNamed_none hno)
      exact ⟨contextForm_status hr hm hown ht, contextForm_status hr hm hown ht⟩
    · have ht := target_self (hcur ▸ slotNamed_some hn)
      exact ⟨contextForm_status hr hm hown ht, contextForm_status hr hm hown ht⟩
    · have ht := target_free (slotNamed_some hn) hcur hf
      exact ⟨contextForm_status hr hm hown ht, contextForm_status hr hm hown ht⟩
    · have ht := target_ok (slotNamed_some hn) hcur hf
      exact ⟨contextForm_not hr hm hown ht hsusp, contextForm_not hr hm hown ht hsusp⟩
    · have hf : (s.slot ((s.me.regs.getG f.a.n).toNat % 2 ^ 16)).phase ≠ .free := fun h => by
        rw [h] at hsusp
        cases hsusp
      have ht := target_ok (slotNamed_some hn) hcur hf
      refine ⟨fun pas s1 hdue hdr hg hx => ?_,
        fun hdue => ctxsave_waits hr hm ht hsusp hdue,
        fun head tail bs s1 t hhead htail hw => ⟨fun hbad => ?_, fun hgood hunsuited => ?_, fun hsuits hroom hwu => ?_, fun hsuits hroom hend => ?_,
          fun hsuits hroom hend => ?_⟩⟩
      · have hsaves := fun t hsave => ctxsave_saves (t := t) hr hm hown ht hsusp hdue hdr hg hx rfl hsave
        generalize State.exportAll _ _ = r at hsaves ⊢
        exact hsaves _ rfl
      · exact ctxload_status hr hm hown ht hsusp hhead htail (judgeImage_bad hbad) hw
      · exact ctxload_status hr hm hown ht hsusp hhead htail (judgeImage_unsuited hgood fun h => hunsuited ⟨hgood, h⟩) hw
      · refine ⟨ctxload_loads hr hm hown ht hsusp hcur hhead htail ?_ hwu, loadImage_slot ..⟩
        rw [judgeImage_suited hsuits.1 hsuits.2, if_pos hroom]
      · refine ctxload_status hr hm hown ht hsusp hhead htail ?_ hw
        rw [judgeImage_suited hsuits.1 hsuits.2, if_neg (Bool.not_eq_true _ ▸ hroom), if_pos hend]
      · refine ctxload_waits hr hm ht hsusp hhead htail ?_
        rw [judgeImage_suited hsuits.1 hsuits.2, if_neg (Bool.not_eq_true _ ▸ hroom), if_neg (Nat.not_le.mpr hend)]
  · exact congrArg Host.Outcome.next (checkpoint_none h)
  · exact congrArg Host.Outcome.next (checkpoint_empty hdue hidle hcmds haccs)
  · exact congrArg Host.Outcome.next (checkpoint_busy hdue hidle hwork h)
  · exact ⟨_, rfl, checkpoint_kept hdue hidle hwork h⟩

end Sys2Proof.Machine

/-! ## What the mode of the strand that issues depends on (R150)

An instruction is walked through in its own order: what it does for the strand leaves the mode, and what ends it early enters a trap, waits, or
ends the strand. -/

namespace Sys2Proof.Machine

/-- What is watched of the strand that issues: its mode alone, or all of STATUS, which a trap saves. -/
structure Watch where
  cur : Nat
  status : Word
  whole : Bool

/-- STATUS is as it was, as far as it is watched. -/
def Watch.sees (k : Watch) (w : Word) : Prop := privOf w = privOf k.status ∧ (k.whole = true → w = k.status)
/-- The strand issues, with its mode. -/
structure Watch.Runs (k : Watch) (t : State) : Prop where
  cur : t.cur = k.cur
  ready : t.me.phase = .ready
  sees : k.sees t.me.ctl.status
/-- A trap taken in S or M stands at its vector, and its bank holds STATUS (R153). -/
def Slot.TrappedFrom (y : Slot) (status : Word) : Prop :=
  y.sched.vecFetch = true ∧ (y.mode = .s ∧ y.pc = y.sTrap.tvec ∧ y.sTrap.status = status ∨
    y.mode = .m ∧ y.pc = y.mTrap.tvec ∧ y.mTrap.status = status)
/-- The strand is gone, or has its mode, or has entered a trap. -/
structure Watch.Ended (k : Watch) (t : State) : Prop where
  cur : t.cur = k.cur
  mode : t.me.phase = .free ∨ t.me.mode = privOf k.status ∨ k.whole = true ∧ t.me.TrappedFrom k.status

/-! ### What the watch looks at -/

/-- The strand that issues, its phase and its STATUS. -/
def State.stance (s : State) : Nat × Phase × Word := (s.cur, s.me.phase, s.me.ctl.status)

theorem stance_of_slot {s t : State} (hc : t.cur = s.cur) (h : (t.slot s.cur).bare = (s.slot s.cur).bare) : t.stance = s.stance := by
  have hphase : (t.slot s.cur).phase = s.me.phase := (congrArg Slot.phase h :)
  have hstatus : (t.slot s.cur).ctl.status = s.me.ctl.status := (congrArg (fun y => y.ctl.status) h :)
  rw [State.stance, State.me, hc, hphase, hstatus, State.stance]
theorem stance_of_frame {s t : State} (h : t.frame = s.frame) : t.stance = s.stance :=
  stance_of_slot (State.cur_of_frame h) (State.bare_of_frame h _)
theorem stance_setMe {s : State} {y : Slot} (hp : y.phase = s.me.phase) (hw : y.ctl.status = s.me.ctl.status) : (s.setMe y).stance = s.stance := by
  rw [State.stance, State.me_setMe, hp, hw]
  rfl
theorem stance_setSlot_ne {s : State} {sid : Nat} {y : Slot} (h : sid ≠ s.cur) : (s.setSlot sid y).stance = s.stance :=
  stance_of_slot rfl (congrArg Slot.bare (State.slot_setSlot_ne s y (Ne.symm h)))

section
variable {k : Watch} {s t : State}

theorem Watch.Runs.of_stance (hs : k.Runs s) (h : t.stance = s.stance) : k.Runs t := by
  simp only [State.stance, Prod.mk.injEq] at h
  obtain ⟨hcur, hphase, hstatus⟩ := h
  exact ⟨hcur.trans hs.cur, hphase.trans hs.ready, hstatus ▸ hs.sees⟩
theorem Watch.Runs.setMe {y : Slot} (hs : k.Runs s) (h : y.phase = s.me.phase ∧ y.ctl.status = s.me.ctl.status) : k.Runs (s.setMe y) :=
  hs.of_stance (stance_setMe h.1 h.2)
theorem Watch.framing (k : Watch) : Framing k.Runs := fun _ _ h hs => hs.of_stance (stance_of_frame h)
theorem Watch.Runs.ended (hs : k.Runs s) : k.Ended s := ⟨hs.cur, .inr (.inl hs.sees.1)⟩

/-! ### How an instruction ends -/

theorem privOf_enterStatus (status : Word) {tm : Mode} (h : tm ≠ .u) : privOf (enterStatus status tm) = tm := by
  have hcode := (enterStatus_bits status tm).1
  have hfield : field (enterStatus status tm) 0 2 = BitVec.ofNat 2 tm.code := hcode
  rw [privOf, hfield]
  cases tm with
  | u => exact absurd rfl h
  | s => rfl
  | m => rfl
/-- A trap is taken in M or in S (R153). -/
theorem Slot.trappedFrom_enter (x : Slot) (t : Trap) : (x.enter t).TrappedFrom x.ctl.status := by
  have htarget : trapMode t.cause x.mode = .m ∨ trapMode t.cause x.mode = .s := by
    unfold trapMode
    split
    · exact .inl rfl
    · exact .inr rfl
  refine ⟨rfl, ?_⟩
  rcases htarget with h | h
  · obtain ⟨hpc, -, hbank, hstatus⟩ := Slot.enter_toM h
    refine .inr ⟨?_, ?_, ?_⟩
    · rw [Slot.mode, hstatus, privOf_enterStatus _ (by decide)]
    · rw [hpc, hbank]
    · rw [hbank]
  · obtain ⟨hpc, -, hbank, hstatus⟩ := Slot.enter_toS h
    refine .inl ⟨?_, ?_, ?_⟩
    · rw [Slot.mode, hstatus, privOf_enterStatus _ (by decide)]
    · rw [hpc, hbank]
    · rw [hbank]
theorem Watch.Runs.ended_trap (hs : k.Runs s) (hk : k.whole = true) (t : Trap) : k.Ended (takeTrap t s) := by
  refine ⟨hs.cur, .inr (.inr ⟨hk, ?_⟩)⟩
  rw [takeTrap, State.me_setMe, ← hs.sees.2 hk]
  exact s.me.trappedFrom_enter t
theorem waitState_strand (w : Wait) (waiting : Bool) (s : State) :
    (waitState w waiting s).cur = s.cur ∧ (waitState w waiting s).me.ctl.status = s.me.ctl.status := by
  have hwait : ∃ u : State, u.frame = s.frame ∧ waitState w waiting s = u.setMe { u.me with phase := if waiting then .waiting w else .blocked w } := by
    refine ⟨_, ?_, rfl⟩
    split
    · rfl
    · rfl
    · exact frame_scrubAll ..
    · exact frame_scrubAll ..
    · exact frame_sendOwn ..
    · exact frame_sendOwn ..
    · rfl
  obtain ⟨u, hu, hwait⟩ := hwait
  rw [hwait, State.me_setMe]
  exact ⟨(State.cur_of_frame hu : u.cur = s.cur), (congrArg (fun y => y.ctl.status) (State.me_of_frame hu) :)⟩
theorem Watch.Runs.ended_wait (hs : k.Runs s) (w : Wait) (waiting : Bool) : k.Ended (waitState w waiting s) := by
  obtain ⟨hcur, hstatus⟩ := waitState_strand w waiting s
  refine ⟨hcur.trans hs.cur, .inr (.inl ?_)⟩
  rw [Slot.mode, hstatus, hs.sees.1]
theorem Watch.Runs.ended_free (hs : k.Runs s) (hc : t.cur = s.cur) (hf : (t.slot s.cur).phase = .free) : k.Ended t := by
  refine ⟨hc.trans hs.cur, .inl ?_⟩
  rw [State.me, hc, hf]
theorem Watch.Ended.unretired (h : k.Ended t) (s : State) : k.Ended (unretired s t) := by
  unfold Sys2Proof.Machine.unretired
  split
  · exact h
  · refine ⟨h.cur, ?_⟩
    rw [State.me_setMe]
    exact h.mode
end

/-! ### Safe actions -/

/-- The action leaves what is watched, or ends the instruction. -/
structure M.Safe {α : Type} (k : Watch) (act : M α) : Prop where
  keeps : act.Keeps k.Runs k.Ended

section
variable {α β : Type} {k : Watch}

theorem M.Safe.bind {x : M α} {f : α → M β} (hx : x.Safe k) (hf : ∀ a, (f a).Safe k) : (x >>= f).Safe k :=
  ⟨keeps_bind hx.keeps fun a => (hf a).keeps⟩
theorem safe_pure (a : α) : (pure a : M α).Safe k := ⟨keeps_pure a⟩
theorem safe_get : (get : M State).Safe k := ⟨keeps_get⟩
theorem safe_getMe : getMe.Safe k := ⟨keeps_getMe⟩
theorem safe_trapWith (t : Trap) : (trapWith t : M α).Safe k := ⟨keeps_trapWith t⟩
theorem safe_trap (cause : Nat) (tval : Word) : (trap cause tval : M α).Safe k := ⟨keeps_trap ..⟩
theorem safe_invalidReg (spec pos : Nat) : (invalidReg spec pos : M α).Safe k := ⟨keeps_trap ..⟩
theorem safe_block (w : Wait) : (block w : M α).Safe k := ⟨keeps_block w⟩
theorem safe_pause (w : Wait) : (pause w : M α).Safe k := ⟨⟨fun s _ => keepsAt_error (s := s) (e := .wait w true) rfl fun _ h => by cases h⟩⟩
theorem safe_ite {c : Prop} [Decidable c] {x y : M α} (hx : x.Safe k) (hy : y.Safe k) : (if c then x else y).Safe k := by
  split
  · exact hx
  · exact hy
/-- An action under a condition, with what follows it either way. -/
theorem safe_when {c : Prop} [Decidable c] {x : M PUnit} {rest : PUnit → M β} (hx : x.Safe k) (hrest : ∀ r, (rest r).Safe k) :
    (if c then x >>= rest else rest ⟨⟩).Safe k := safe_ite (hx.bind hrest) (hrest _)
theorem safe_modify {f : State → State} (h : ∀ s, (f s).stance = s.stance) : (modify f : M PUnit).Safe k :=
  ⟨keeps_modify fun s hs => hs.of_stance (h s)⟩
theorem safe_modify_frame {f : State → State} (h : ∀ s, (f s).frame = s.frame) : (modify f : M PUnit).Safe k :=
  safe_modify fun s => stance_of_frame (h s)
/-- The state at hand is known to what follows. -/
theorem safe_get_bind {f : State → M β} (h : ∀ s, k.Runs s → (f s).KeepsAt k.Runs k.Ended s) : (get >>= f : M β).Safe k := ⟨keeps_get_bind h⟩
theorem M.Safe.at {x : M α} (h : x.Safe k) {s : State} (hs : k.Runs s) : x.KeepsAt k.Runs k.Ended s := h.keeps.here s hs
theorem keepsAt_set_bind {s t : State} {f : PUnit → M β} (ht : k.Runs t) (hf : ∀ r, (f r).Safe k) :
    (set t >>= f : M β).KeepsAt k.Runs k.Ended s := keepsAt_bind (keepsAt_set ht) fun r => (hf r).keeps
theorem keepsAt_done {s t : State} (h : k.Ended t) : (throw (.done t) : M α).KeepsAt k.Runs k.Ended s :=
  keepsAt_error (s := s) (e := .done t) rfl fun _ ht => by
    cases ht
    exact h
theorem safe_modMe {f : Slot → Slot} (h : ∀ x, (f x).phase = x.phase ∧ (f x).ctl.status = x.ctl.status) : (modMe f).Safe k :=
  safe_modify fun _ => stance_setMe (h _).1 (h _).2
theorem safe_modMe_bind {f : Slot → Slot} {rest : Unit → M β} (h : ∀ x, (f x).phase = x.phase ∧ (f x).ctl.status = x.ctl.status)
    (hrest : ∀ r, (rest r).Safe k) : (modMe f >>= rest).Safe k := (safe_modMe h).bind hrest
theorem safe_modCore (f : Core → Core) : (modCore f).Safe k := ⟨keeps_modCore k.framing f⟩
theorem safe_modCluster (f : Cluster → Cluster) : (modCluster f).Safe k := safe_modify_frame fun _ => frame_setCluster ..

/-- What only looks at how an action ends, and leaves its state, is safe with it. -/
theorem safe_of_results {x y : M α} (hx : x.Safe k) (h : ∀ s, (∀ a t, y s = .ok (a, t) → x s = .ok (a, t)) ∧ ∀ t, y s = .error (.done t) → x s = .error (.done t)) :
    y.Safe k := by
  refine ⟨⟨fun s hs => ?_⟩⟩
  obtain ⟨hok, hdone⟩ := hx.at hs
  exact ⟨fun a t ht => hok a t ((h s).1 a t ht), fun t ht => hdone t ((h s).2 t ht)⟩
theorem safe_onStream {x : M α} (n q : Nat) (hx : x.Safe k) : (onStream n q x).Safe k := by
  refine safe_of_results hx fun s => ?_
  unfold onStream
  split
  · split <;> exact ⟨fun _ _ h => (by cases h), fun _ h => (by cases h)⟩
  · exact ⟨fun _ _ h => h, fun _ h => h⟩
theorem safe_onDescriptor {x : M α} (n : Nat) (a : Word) (hx : x.Safe k) : (onDescriptor n a x).Safe k := by
  refine safe_of_results hx fun s => ?_
  unfold onDescriptor
  split
  · split <;> exact ⟨fun _ _ h => (by cases h), fun _ h => (by cases h)⟩
  · exact ⟨fun _ _ h => h, fun _ h => h⟩
theorem safe_quiet {x : M Unit} (hx : x.Safe k) : (quiet x).Safe k := by
  refine ⟨⟨fun s hs => ?_⟩⟩
  cases h : x s with
  | ok r => exact keepsAt_ok (a := r.1) (t := r.2) (by simp only [quiet, h]) ((hx.at hs).1 r.1 r.2 h)
  | error e => exact keepsAt_ok (a := ()) (t := s) (by simp only [quiet, h]) hs
theorem safe_finishing {x : M α} (hx : x.Safe k) : (finishing x).Safe k := by
  refine ⟨⟨fun s hs => ?_⟩⟩
  obtain ⟨hok, hdone⟩ := hx.at hs
  cases h : x s with
  | ok r => exact keepsAt_ok (a := r.1) (t := r.2.setMe r.2.me.unanswered) (by simp only [finishing, h, Slot.unanswered]) ((hok r.1 r.2 h).of_stance (stance_setMe rfl rfl))
  | error e =>
    cases e with
    | done t => exact keepsAt_error (e := .done t) (by simp only [finishing, h]) fun u hu => hdone u (hu ▸ h)
    | trap t => exact keepsAt_error (e := .trap t) (by simp only [finishing, h]) fun u hu => by cases hu
    | wait w b => exact keepsAt_error (e := .wait (.finishing w) b) (by simp only [finishing, h]) fun u hu => by cases hu
end

/-- A safe instruction: its strand is gone, has its mode, or has entered a trap. -/
theorem outcome_ended {cur : Nat} {status : Word} {whole : Bool} {act : M Unit} {s t : State} (hs : (Watch.mk cur status true).Runs s)
    (hact : act.KeepsAt (Watch.mk cur status whole).Runs (Watch.mk cur status whole).Ended s) (h : outcome act s = .next t) :
    (Watch.mk cur status true).Ended t := by
  have hwhole : ∀ {u}, (Watch.mk cur status whole).Ended u → (Watch.mk cur status true).Ended u := fun hu =>
    ⟨hu.cur, hu.mode.imp id (Or.imp id fun ht => ⟨rfl, ht.2⟩)⟩
  obtain ⟨hok, hdone⟩ := hact
  unfold outcome at h
  split at h
  · next hrun =>
    cases h
    exact hwhole (hok _ _ hrun).ended
  · cases h
    exact hs.ended_trap rfl _
  · cases h
    exact hs.ended_wait ..
  · next hrun =>
    cases h
    exact (hwhole (hdone _ hrun)).unretired s

end Sys2Proof.Machine

/-! ### Memory, streams and registers for the strand that issues -/

namespace Sys2Proof.Machine

section
variable {k : Watch}

theorem Watch.Runs.of_frame {s t : State} (hs : k.Runs s) (h : t.frame = s.frame) : k.Runs t := hs.of_stance (stance_of_frame h)

theorem safe_freshBit : freshBit.Safe k := safe_get_bind fun _ hs => keepsAt_set_bind (hs.of_frame rfl) fun _ => safe_pure _
theorem safe_freshWord : freshWord.Safe k := safe_get_bind fun _ hs => keepsAt_set_bind (hs.of_frame rfl) fun _ => safe_pure _
theorem safe_needSM (tval : Word) : (needSM tval).Safe k := safe_getMe.bind fun _ => safe_ite (safe_trap ..) (safe_pure _)
theorem safe_gCheck (ea : Int) (n al : Nat) : (gCheck ea n al).Safe k := ⟨keeps_gCheck ..⟩
theorem safe_xlatOne (acc : Access) (ea : Nat) : (xlatOne acc ea).Safe k := ⟨keeps_xlatOne k.framing ..⟩
theorem safe_xlatRange (acc : Access) (ea n : Nat) : (xlatRange acc ea n).Safe k := ⟨keeps_xlatRange k.framing ..⟩
theorem safe_needReplayed (asid : Nat) (ps : List (Nat × Nat)) : (needReplayed asid ps).Safe k := ⟨keeps_needReplayed ..⟩
theorem safe_forwarded (sp : Space) (cl asid : Nat) (ps : List (Nat × Nat)) : (forwarded sp cl asid ps).Safe k := ⟨keeps_forwarded ..⟩
theorem safe_readHome (ea : Nat) (pas : List Nat) : (readHome ea pas).Safe k := ⟨keeps_readHome ..⟩
theorem safe_dcByte (asid ea pa : Nat) : (dcByte asid ea pa).Safe k := ⟨keeps_dcByte k.framing ..⟩
theorem safe_dcBytes (asid ea : Nat) (pas : List Nat) : (dcBytes asid ea pas).Safe k := ⟨keeps_dcBytes k.framing ..⟩
theorem safe_loadGlobalAt (ea n : Nat) (home : Bool) : (loadGlobalAt ea n home).Safe k := ⟨keeps_loadGlobalAt k.framing ..⟩
theorem safe_loadGlobal (ea : Int) (n al : Nat) : (loadGlobal ea n al).Safe k := ⟨keeps_loadGlobal k.framing ..⟩

/-! ### Local memory -/

theorem safe_bankAccess (cl a n : Nat) (ea : Option Word) : (bankAccess cl a n ea).Safe k := by
  refine safe_get_bind fun s hs => ?_
  split
  · exact (safe_trap ..).at hs
  · exact (safe_block _).at hs
  · exact keepsAt_set_bind (hs.of_frame (frame_setCluster ..)) fun _ => safe_ite (safe_modify_frame fun _ => frame_noteTouch ..) (safe_pure _)
theorem safe_localAddr (sp : Space) (ea : Int) (n al : Nat) : (localAddr sp ea n al).Safe k := by
  refine safe_get.bind fun s => ?_
  split
  · exact safe_trap ..
  · exact safe_pure _
theorem safe_readLocal (sp : Space) (cl a n : Nat) : (readLocal sp cl a n).Safe k := by
  refine safe_get.bind fun s => ?_
  dsimp only
  split
  · exact safe_block _
  · split
    · exact safe_trap ..
    · exact safe_pure _
theorem safe_copyCrumb (cl src dst : Nat) : (copyCrumb cl src dst).Safe k :=
  (safe_readLocal ..).bind fun _ => safe_get_bind fun _ hs => keepsAt_set (hs.of_frame (frame_setCluster ..))
theorem safe_crumbWrite (a : Nat) : (crumbWrite a).Safe k := by
  refine safe_get.bind fun s => ?_
  dsimp only
  split
  · refine safe_ite ?_ (safe_pure _)
    split
    · exact safe_pure _
    · exact safe_when (safe_trap ..) fun _ => (safe_bankAccess ..).bind fun _ => (safe_bankAccess ..).bind fun _ =>
        safe_when (safe_block _) fun _ => (safe_copyCrumb ..).bind fun _ => safe_modMe_bind (fun _ => ⟨rfl, rfl⟩) fun _ => safe_pure _
  · exact safe_pure _
theorem safe_localPlace (sp : Space) (ea : Int) (n al : Nat) (write : Bool) : (localPlace sp ea n al write).Safe k :=
  (safe_localAddr ..).bind fun _ => safe_get.bind fun _ => safe_when (safe_trap ..) fun _ =>
    (safe_ite (safe_ite (safe_crumbWrite _) (safe_pure _)) (safe_pure _)).bind fun _ => (safe_bankAccess ..).bind fun _ => safe_pure _
theorem safe_loadLocal (sp : Space) (ea : Int) (n al : Nat) : (loadLocal sp ea n al).Safe k := by
  refine (safe_localPlace ..).bind fun p => (safe_forwarded ..).bind fun o => ?_
  split
  · exact safe_pure _
  · exact safe_readLocal ..

/-! ### Stores -/

theorem safe_pushEntry (e : SbEntry) : (pushEntry e).Safe k :=
  safe_get.bind fun _ => safe_when (safe_block _) fun _ => safe_when (safe_block _) fun _ => safe_modCore _
theorem safe_logged : logged.Safe k := safe_get.bind fun _ => safe_pure _
theorem safe_narrowPoison (sp : Space) (cl a : Nat) (bs : List (Option Byte)) : (narrowPoison sp cl a bs).Safe k := by
  refine safe_get.bind fun s => ?_
  split
  · exact safe_trap ..
  · exact safe_pure _
theorem safe_storeAt (kind : SbKind) (sp : Space) (cl a : Nat) (bs : List (Option Byte)) : (storeAt kind sp cl a bs).Safe k :=
  safe_logged.bind fun _ => safe_when (safe_block _) fun _ => safe_get.bind fun _ => (safe_narrowPoison ..).bind fun _ => safe_pushEntry _
theorem safe_storeLocal (kind : SbKind) (sp : Space) (ea : Int) (al : Nat) (bs : List Byte) : (storeLocal kind sp ea al bs).Safe k :=
  (safe_localPlace ..).bind fun _ => safe_storeAt ..
theorem safe_needHome (kind : SbKind) (ea : Nat) (bs : List (Option Byte)) : (needHome kind ea bs).Safe k := by
  refine safe_get.bind fun s => ?_
  split
  · exact safe_trap ..
  · exact safe_pure _
theorem safe_storeGlobalAt (kind : SbKind) (ea : Nat) (bs : List (Option Byte)) : (storeGlobalAt kind ea bs).Safe k := by
  refine (safe_needHome ..).bind fun _ => safe_get.bind fun s => safe_logged.bind fun _ => safe_ite (safe_when (safe_block _) fun _ => ?_)
    (safe_pushEntry _)
  split
  · exact safe_modify_frame fun _ => frame_setCore ..
  · exact safe_block _
theorem safe_storeGlobal (kind : SbKind) (ea : Int) (al : Nat) (bs : List Byte) : (storeGlobal kind ea al bs).Safe k :=
  (safe_gCheck ..).bind fun _ => safe_storeGlobalAt ..
theorem safe_loadSpace (sp : Space) (ea : Int) (n al : Nat) : (loadSpace sp ea n al).Safe k := by
  cases sp with
  | g => exact safe_loadGlobal ..
  | l => exact safe_loadLocal ..
  | c => exact safe_loadLocal ..
theorem safe_storeSpace (kind : SbKind) (sp : Space) (ea : Int) (al : Nat) (bs : List Byte) : (storeSpace kind sp ea al bs).Safe k := by
  cases sp with
  | g => exact safe_storeGlobal ..
  | l => exact safe_storeLocal ..
  | c => exact safe_storeLocal ..
theorem safe_needStores : needStores.Safe k := safe_get.bind fun _ => safe_ite (safe_block _) (safe_pure _)
theorem safe_needDrained : needDrained.Safe k := safe_get.bind fun _ => safe_ite (safe_block _) (safe_pure _)
theorem safe_acquire : acquire.Safe k := safe_modify_frame fun _ => frame_acquire ..
theorem safe_sendMerged : sendMerged.Safe k :=
  safe_get.bind fun _ => safe_when (safe_block _) fun _ => safe_modify_frame fun _ => frame_writeThrough ..
theorem safe_release : release.Safe k := safe_needDrained.bind fun _ => safe_sendMerged
theorem safe_discardAhead : discardAhead.Safe k := safe_modMe fun _ => ⟨rfl, rfl⟩

/-! ### Streams -/

theorem safe_advance (n : Nat) : (advance n).Safe k := safe_modMe fun _ => ⟨rfl, rfl⟩
theorem safe_elemAddr (t : Stream) (q : Nat) : (elemAddr t q).Safe k := by
  unfold elemAddr
  refine safe_when (safe_trap ..) fun _ => safe_ite (safe_pure _) ?_
  refine (safe_localPlace ..).bind fun p => (safe_readLocal ..).bind fun bs => ?_
  refine safe_ite (safe_pure _) ?_
  exact safe_when (safe_trap ..) fun _ => safe_pure _
theorem safe_elemBytes (t : Stream) (ea : Int) : (elemBytes t ea).Safe k :=
  safe_ite ((safe_gCheck ..).bind fun _ => (safe_xlatRange ..).bind fun _ => safe_get.bind fun _ => safe_ite (safe_readHome ..) (safe_dcBytes ..))
    ((safe_localPlace ..).bind fun _ => safe_readLocal ..)
theorem safe_popElem (n : Nat) : (popElem n).Safe k := by
  refine safe_getMe.bind fun x => safe_onStream _ _ <| (safe_elemAddr ..).bind fun o => ?_
  split
  · exact (safe_advance n).bind fun _ => safe_pure _
  · exact (safe_elemBytes ..).bind fun _ => (safe_advance n).bind fun _ => safe_pure _
theorem safe_pushElem (n : Nat) (bs : List (Option Byte)) : (pushElem n bs).Safe k := by
  refine safe_getMe.bind fun x => safe_onStream _ _ <| (safe_elemAddr ..).bind fun o => ?_
  split
  · exact safe_advance n
  · exact safe_ite ((safe_gCheck ..).bind fun _ => (safe_storeGlobalAt ..).bind fun _ => safe_advance n)
      ((safe_localPlace ..).bind fun _ => (safe_storeAt ..).bind fun _ => safe_advance n)

/-! ### Registers -/

theorem safe_peekReg (c : Cls) (n : BitVec 5) : (peekReg c n).Safe k := by
  refine safe_getMe.bind fun x => ?_
  dsimp only
  split
  · exact safe_pure _
  · exact safe_ite (safe_pure _) <| safe_freshBit.bind fun _ =>
      safe_ite (safe_modMe_bind (fun _ => ⟨rfl, rfl⟩) fun _ => safe_pure _) (safe_pure _)
theorem safe_readG (pos : Nat) (r : Reg) : (readG pos r).Safe k := by
  refine safe_getMe.bind fun x => safe_ite (safe_pure _) ?_
  split
  · exact safe_ite (safe_invalidReg ..) <| (safe_popElem _).bind fun _ => safe_pure _
  · exact (safe_peekReg ..).bind fun _ => safe_ite (safe_pure _) (safe_invalidReg ..)
theorem safe_readV (pos : Nat) (r : Reg) : (readV pos r).Safe k := by
  refine safe_getMe.bind fun x => ?_
  split
  · exact safe_ite (safe_invalidReg ..) <| (safe_popElem _).bind fun _ => safe_pure _
  · exact (safe_peekReg ..).bind fun _ => safe_ite (safe_pure _) (safe_invalidReg ..)
theorem safe_readP (pos : Nat) (r : Reg) : (readP pos r).Safe k :=
  safe_ite (safe_pure _) <| (safe_peekReg ..).bind fun _ => safe_ite (safe_pure _) (safe_invalidReg ..)
theorem safe_needPhysical (c : Cls) (n : BitVec 5) (held : Bool) : (needPhysical c n held).Safe k :=
  safe_ite (safe_pure _) <| safe_get.bind fun _ => safe_ite (safe_pure _) (safe_block _)
theorem safe_breach (c : Cls) (n : BitVec 5) : (breach c n).Safe k :=
  safe_getMe.bind fun _ => safe_ite (safe_pure _) <| safe_modMe_bind (fun _ => ⟨rfl, rfl⟩) fun _ => safe_ite safe_freshBit (safe_pure _)
theorem safe_writeG (n : BitVec 5) (v : Word) : (writeG n v).Safe k := by
  refine safe_ite (safe_pure _) <| safe_getMe.bind fun x => ?_
  split
  · exact safe_ite (safe_pushElem ..) (safe_pure _)
  · exact (safe_needPhysical ..).bind fun _ => (safe_breach ..).bind fun _ => safe_ite (safe_modMe fun _ => ⟨rfl, rfl⟩) (safe_pure _)
theorem safe_writeV (mask : Word) (n : BitVec 5) (v : Vec) : (writeV mask n v).Safe k := by
  refine safe_getMe.bind fun x => ?_
  split
  · exact safe_ite (safe_pushElem ..) (safe_pure _)
  · exact (safe_needPhysical ..).bind fun _ => (safe_breach ..).bind fun _ => safe_ite (safe_modMe fun _ => ⟨rfl, rfl⟩) (safe_pure _)
theorem safe_writeP (n : BitVec 5) (v : Word) : (writeP n v).Safe k :=
  safe_ite (safe_pure _) <| safe_getMe.bind fun _ => (safe_needPhysical ..).bind fun _ => (safe_breach ..).bind fun _ =>
    safe_ite (safe_modMe fun _ => ⟨rfl, rfl⟩) (safe_pure _)
theorem safe_readAddr (ad : Addr) : (readAddr ad).Safe k := (safe_readG ..).bind fun _ => (safe_readG ..).bind fun _ => safe_pure _
theorem safe_readOpnd (pos : Nat) (o : Opnd) : (readOpnd pos o).Safe k := by
  cases o with
  | reg r => exact safe_readG ..
  | imm v => exact safe_pure _
  | lit v => exact safe_pure _
theorem safe_readVOpndG (pos : Nat) (o : VOpnd) : (readVOpndG pos o).Safe k := by
  cases o with
  | reg r => exact safe_readG ..
  | imm v => exact safe_pure _
theorem safe_readIndex (pos : Nat) (o : VOpnd) : (readIndex pos o).Safe k := by
  cases o with
  | reg r => exact (safe_readG ..).bind fun _ => safe_pure _
  | imm v => exact safe_pure _
theorem safe_readVB (pos w : Nat) (o : VOpnd) : (readVB pos w o).Safe k := by
  cases o with
  | reg r => exact (safe_readV ..).bind fun _ => safe_pure _
  | imm v => exact safe_pure _
theorem safe_readShift (pos w : Nat) (o : VOpnd) : (readShift pos w o).Safe k := by
  cases o with
  | reg r => exact (safe_readV ..).bind fun _ => safe_pure _
  | imm v => exact safe_pure _

/-! ### The issue and the retirement of an instruction -/

theorem safe_nextPc : nextPc.Safe k := by
  refine safe_get.bind fun s => ?_
  dsimp only
  split
  · split
    · exact safe_pure _
    · exact safe_pure _
  · exact safe_pure _
theorem safe_readCount (n : BitVec 5) : (readCount n).Safe k := safe_getMe.bind fun _ => safe_ite (safe_pure _) (safe_invalidReg ..)
theorem safe_writeCount (n : BitVec 5) (v : Word) : (writeCount n v).Safe k := safe_modMe_bind (fun _ => ⟨rfl, rfl⟩) fun _ => safe_writeG ..
theorem safe_endOfPass (d : Nat) : (endOfPass d).Safe k := by
  induction d with
  | zero => exact safe_pure _
  | succ d ih =>
    have hput : ∀ (l : Loops) (n : BitVec 5) (v : Word), (if l.immForm d then
        modMe fun x => { x with loops := { x.loops with count := x.loops.count.set (d % 4) v (Nat.mod_lt _ (by decide)) } }
        else writeCount n v : M Unit).Safe k := fun l n v => safe_ite (safe_modMe fun _ => ⟨rfl, rfl⟩) (safe_writeCount ..)
    exact safe_getMe.bind fun _ => (safe_ite (safe_pure _) (safe_readCount _)).bind fun _ =>
      safe_ite ((hput ..).bind fun _ => safe_modMe_bind (fun _ => ⟨rfl, rfl⟩) fun _ => safe_ite ih (safe_pure _))
        ((hput ..).bind fun _ => safe_pure _)
theorem safe_backEdge (pc : Word) : (backEdge pc).Safe k :=
  safe_getMe.bind fun _ => safe_ite (safe_pure _) <| safe_ite (safe_endOfPass _) (safe_pure _)
theorem safe_repStep : repStep.Safe k :=
  safe_getMe.bind fun _ => safe_ite (safe_modMe fun _ => ⟨rfl, rfl⟩) <| (safe_readCount _).bind fun _ =>
    safe_ite ((safe_writeCount ..).bind fun _ => safe_modMe fun _ => ⟨rfl, rfl⟩)
      ((safe_writeCount ..).bind fun _ => safe_modMe fun _ => ⟨rfl, rfl⟩)

theorem releaseMarks_keeps (x : Slot) (sh : Shape) :
    (x.releaseMarks sh).phase = x.phase ∧ (x.releaseMarks sh).ctl.status = x.ctl.status := by
  unfold Slot.releaseMarks
  generalize sh.srcs = l
  induction l generalizing x with
  | nil => exact ⟨rfl, rfl⟩
  | cons m l ih =>
    have hstep : (release1 sh.dst x m.2.1 m.2.2).phase = x.phase ∧ (release1 sh.dst x m.2.1 m.2.2).ctl.status = x.ctl.status := by
      unfold release1
      split <;> exact ⟨rfl, rfl⟩
    exact ⟨(ih _).1.trans hstep.1, (ih _).2.trans hstep.2⟩
theorem safe_retireAt (sh : Shape) (prior : Nat × Bool) (jump : Option Word) : (retireAt sh prior jump).Safe k := by
  have hopen : (modMe fun y => (y.tickWindows).openWindow sh prior).Safe k := safe_modMe fun y => by
    obtain ⟨ws, h⟩ := y.tickWindows.openWindow_windows sh prior
    rw [h]
    exact ⟨rfl, rfl⟩
  refine (safe_modMe fun x => releaseMarks_keeps x sh).bind fun _ => safe_getMe.bind fun x => ?_
  split
  · exact safe_modMe_bind (fun _ => ⟨rfl, rfl⟩) fun _ => hopen
  · split
    · exact safe_repStep.bind fun _ => hopen
    · refine safe_nextPc.bind fun next => (safe_backEdge _).bind fun o => ?_
      split
      · exact safe_modMe_bind (fun _ => ⟨rfl, rfl⟩) fun _ => hopen
      · exact safe_modMe_bind (fun _ => ⟨rfl, rfl⟩) fun _ => hopen
theorem safe_retireOff (sh : Shape) : (retireOff sh).Safe k := safe_retireAt ..
theorem safe_guardPred (h : Hdr) : (guardPred h).Safe k :=
  safe_ite (safe_pure _) <| (safe_peekReg ..).bind fun _ => safe_ite (safe_pure _) (safe_invalidReg ..)
theorem safe_guardOn (h : Hdr) : (guardOn h).Safe k := (safe_guardPred h).bind fun _ => safe_pure _
theorem safe_laneMask (h : Hdr) : (laneMask h).Safe k := (safe_guardPred h).bind fun _ => safe_pure _
theorem safe_checkSource (src : Src) : (checkSource src).Safe k := by
  refine safe_getMe.bind fun x => safe_ite (safe_pure _) ?_
  split
  · exact safe_ite (safe_invalidReg ..) (safe_pure _)
  · exact safe_ite (safe_pure _) <| (safe_peekReg ..).bind fun _ => safe_ite (safe_invalidReg ..) (safe_pure _)
theorem safe_checkSources (srcs : List Src) : (checkSources srcs).Safe k := by
  induction srcs with
  | nil => exact safe_pure _
  | cons src srcs ih => exact (safe_checkSource src).bind fun _ => ih
theorem safe_priorOf (sh : Shape) : (priorOf sh).Safe k := by
  unfold priorOf
  split
  · exact safe_getMe.bind fun _ => safe_pure _
  · exact safe_pure _
end

end Sys2Proof.Machine

/-! ### Transfers, loops and repetitions -/

namespace Sys2Proof.Machine

theorem frame_fill (s : State) (sid asid va pl : Nat) (user : Bool) (ea : Word) : (s.fill sid asid va pl user ea).2.frame = s.frame := by
  unfold State.fill
  dsimp only
  split
  · rfl
  · split
    · split
      · exact (frame_setCore ..).trans ((frame_logError ..).trans (frame_setCore ..))
      · exact frame_setCore ..
    · exact frame_logError ..
theorem frame_fetch (s : State) (sid : Nat) (ea : Word) : (s.fetch sid ea).2.frame = s.frame := by
  unfold State.fetch
  dsimp only
  split
  · rfl
  · split
    · rfl
    · split
      · next h => exact (frame_fill ..).trans (frame_translate h)
      · next h => exact frame_translate h
      · next h => exact frame_translate h

section
variable {k : Watch}

theorem safe_onward (a : Word) : (onward a).Safe k := safe_ite (safe_trap ..) (safe_pure _)
theorem safe_targetOf (t : Target) : (targetOf t).Safe k := safe_getMe.bind fun _ => safe_ite (safe_pure _) (safe_trap ..)
theorem safe_checkTarget (t : Word) : (checkTarget t).Safe k := by
  unfold checkTarget
  refine safe_when (safe_trap ..) fun _ => safe_when (safe_trap ..) fun _ => safe_get_bind fun s hs => ?_
  have hf := frame_fetch s s.cur t
  split
  · next h =>
    rw [h] at hf
    split
    · exact keepsAt_set (hs.of_frame hf)
    · exact (safe_trap ..).at hs
  · exact (safe_block _).at hs
  · refine M.Safe.at (safe_modMe ?_) hs
    exact fun _ => ⟨rfl, rfl⟩
theorem safe_goTo (t : Word) : (goTo t).Safe k := (safe_checkTarget t).bind fun _ => safe_pure _
theorem safe_branchIf (taken : Bool) (off : Target) : (branchIf taken off).Safe k :=
  safe_ite ((safe_targetOf off).bind fun _ => safe_goTo _) (safe_pure _)
theorem safe_loopEnd (off : Target) : (loopEnd off).Safe k :=
  safe_getMe.bind fun _ => safe_when (safe_trap ..) fun _ => (safe_targetOf off).bind fun _ => safe_when (safe_trap ..) fun _ => safe_pure _

variable (hk : k.whole = true)
include hk

/-- A line that cannot be fetched takes its trap at once (R154). -/
theorem safe_fetchLine (ea : Word) : (fetchLine ea).Safe k := by
  refine safe_get_bind fun s hs => ?_
  have hf := frame_fetch s s.cur ea
  split
  · next h =>
    rw [h] at hf
    exact keepsAt_set_bind (hs.of_frame hf) fun _ => safe_pure _
  · next h =>
    rw [h] at hf
    exact keepsAt_done ((hs.of_frame hf).ended_trap hk _)
  · exact (safe_block _).at hs
theorem safe_addressAfter (a : Word) : (addressAfter a).Safe k :=
  safe_get.bind fun _ => safe_ite (safe_onward _) <| safe_ite (safe_onward _) <| (safe_fetchLine hk a).bind fun _ => safe_onward _
theorem safe_loopEnter (fin count entry : Word) (imm : Bool) : (loopEnter fin count entry imm).Safe k :=
  safe_ite ((safe_addressAfter hk fin).bind fun _ => safe_pure _) <| safe_nextPc.bind fun _ =>
    safe_modMe_bind (fun _ => ⟨rfl, rfl⟩) fun _ => safe_pure _

/-! ### `rep` (R204 to R206) -/

theorem safe_collectBody (fuel n : Nat) (a : Word) : (collectBody fuel n a).Safe k := by
  induction fuel generalizing n a with
  | zero => exact safe_pure _
  | succ fuel ih =>
    cases n with
    | zero => exact safe_pure _
    | succ n =>
      unfold collectBody
      refine (safe_fetchLine hk a).bind fun line => ?_
      split
      · exact safe_trap ..
      · split
        · exact (safe_onward _).bind fun _ => ih ..
        · refine safe_get.bind fun s => ?_
          split
          · exact safe_trapWith _
          · exact safe_ite (safe_pure _) <| (safe_onward _).bind fun _ => (ih ..).bind fun _ => safe_pure _
/-- A body that cannot be fetched is kept for the guard: what it ends in is safe, and nothing else has changed (R206). -/
theorem fetchBody_keeps {n : Nat} {s t : State} {r : Except Stop (List BodySlot)} (hs : k.Runs s) (h : fetchBody n s = .ok (r, t)) :
    k.Runs t ∧ ∀ u, r = .error (.done u) → k.Ended u := by
  have hbody : (do collectBody 40 n (← onward (← nextPc)) : M (List BodySlot)).Safe k :=
    safe_nextPc.bind fun _ => (safe_onward _).bind fun _ => safe_collectBody hk ..
  obtain ⟨hok, hdone⟩ := hbody.at hs
  unfold fetchBody at h
  split at h
  · next hrun =>
    cases h
    exact ⟨hok _ _ hrun, fun u hu => by cases hu⟩
  · split at h
    · cases h
      exact ⟨hs, fun u hu => by cases hu⟩
    · cases h
  · next hrun =>
    cases h
    refine ⟨hs, fun u hu => ?_⟩
    cases hu
    exact hdone u hrun
omit hk in
theorem fetchBody_not_done {n : Nat} {s t : State} : fetchBody n s ≠ .error (.done t) := by
  unfold fetchBody
  split
  · exact fun h => by cases h
  · split
    · exact fun h => by cases h
    · exact fun h => by cases h
  · exact fun h => by cases h
omit hk in
theorem safe_repBody (f : RepOp) (body : List BodySlot) : (repBody f body).Safe k := by
  unfold repBody
  refine safe_getMe.bind fun x => safe_when (safe_trap ..) fun _ => safe_when (safe_trap ..) fun _ => ?_
  split
  · exact safe_trap ..
  · exact (safe_readG ..).bind fun _ => safe_ite ((safe_onward _).bind fun _ => safe_pure _) <|
      safe_modMe_bind (fun _ => ⟨rfl, rfl⟩) fun _ => safe_pure _
omit hk in
/-- What a body that could not be fetched ends in, once the guard is on. -/
theorem safe_throw {α : Type} {e : Stop} (he : ∀ u, e = .done u → k.Ended u) : (throw e : M α).Safe k :=
  ⟨⟨fun _ _ => keepsAt_error rfl he⟩⟩
theorem rep_keepsAt (f : RepOp) {s : State} (hs : k.Runs s) : M.KeepsAt k.Runs k.Ended (do
    let body ← fetchBody f.len.toNat
    if ← guardOn f.h then
      checkSources [(1, .g, ⟨f.gn, false⟩)]
      match body with
      | .error e => throw e
      | .ok b =>
        let jump ← repBody f b
        retireAt ⟨f.h, [(1, .g, ⟨f.gn, false⟩)], none⟩ (0, false) jump
    else retireOff ⟨f.h, [(1, .g, ⟨f.gn, false⟩)], none⟩ : M Unit) s := by
  cases h : fetchBody f.len.toNat s with
  | error e => exact keepsAt_error (M.bind_error h) fun u hu => absurd (hu ▸ h) fetchBody_not_done
  | ok r =>
    obtain ⟨r, t⟩ := r
    obtain ⟨ht, hdone⟩ := fetchBody_keeps hk hs h
    unfold M.KeepsAt
    rw [M.bind_ok h]
    refine M.Safe.at ((safe_guardOn _).bind fun on => safe_ite ((safe_checkSources _).bind fun _ => ?_) (safe_retireOff _)) ht
    split
    · next e => exact safe_throw fun u hu => hdone u (hu ▸ rfl)
    · exact (safe_repBody ..).bind fun _ => safe_retireAt ..
end

end Sys2Proof.Machine

/-! ### The instructions of one strand: integers, floats, predicates, transfers, streams and vectors -/

namespace Sys2Proof.Machine

/-- The instruction leaves the mode of its strand, or enters a trap, or ends the strand. -/
def Modal (i : Instr) : Prop :=
  ∀ s t, s.me.phase = .ready → exec i s = .next t → (Watch.mk s.cur s.me.ctl.status true).Ended t

theorem runs_self {s : State} (h : s.me.phase = .ready) (whole : Bool) : (Watch.mk s.cur s.me.ctl.status whole).Runs s := ⟨rfl, h, rfl, fun _ => rfl⟩
theorem safe_privInstr {k : Watch} {sh : Shape} {allowed : M Unit} {body : M (Option Word)} (ha : allowed.Safe k) (hb : body.Safe k) : M.Safe k (do
    if ← guardOn sh.h then
      allowed
      checkSources sh.srcs
      let prior ← priorOf sh
      let jump ← body
      retireAt sh prior jump
    else retireOff sh) :=
  (safe_guardOn _).bind fun _ => safe_ite (ha.bind fun _ => (safe_checkSources _).bind fun _ => (safe_priorOf _).bind fun _ => hb.bind fun _ =>
    safe_retireAt ..) (safe_retireOff _)

section
variable {i : Instr} {sh : Shape}

/-- A form that leaves what is watched: the mode, or all of STATUS. -/
theorem modal_watched (whole : Bool) {allowed : M Unit} {body : M (Option Word)} (he : exec i = privInstr sh allowed body)
    (ha : ∀ k : Watch, k.whole = whole → allowed.Safe k) (hb : ∀ k : Watch, k.whole = whole → body.Safe k) : Modal i := by
  intro s t hready h
  rw [he] at h
  exact outcome_ended (runs_self hready true) ((safe_privInstr (ha _ rfl) (hb _ rfl)).at (runs_self hready whole)) h
theorem modal_priv {allowed : M Unit} {body : M (Option Word)} (he : exec i = privInstr sh allowed body)
    (ha : ∀ k : Watch, k.whole = true → allowed.Safe k) (hb : ∀ k : Watch, k.whole = true → body.Safe k) : Modal i := modal_watched true he ha hb
theorem modal_instr {body : M (Option Word)} (he : exec i = instr sh body) (hb : ∀ k : Watch, k.whole = true → body.Safe k) : Modal i :=
  modal_priv he (fun _ _ => safe_pure _) hb
theorem modal_plain {body : M Unit} (he : exec i = plainInstr sh body) (hb : ∀ k : Watch, k.whole = true → body.Safe k) : Modal i :=
  modal_instr he fun k hk => (hb k hk).bind fun _ => safe_pure _
theorem modal_vec {active : Word → Bool} {body : Word → M Unit} (he : exec i = vecInstr sh active body)
    (hb : ∀ (k : Watch) (mask : Word), k.whole = true → (body mask).Safe k) : Modal i := by
  intro s t hready h
  rw [he] at h
  refine outcome_ended (runs_self hready true) (M.Safe.at ?_ (runs_self hready true)) h
  exact (safe_laneMask _).bind fun mask => safe_ite ((safe_checkSources _).bind fun _ => (safe_priorOf _).bind fun _ => (hb _ mask rfl).bind fun _ =>
    safe_retireAt ..) (safe_retireOff _)
end

/-! ### Values -/

section
variable {k : Watch}
theorem safe_orFlags (f : BitVec 5) : (orFlags f).Safe k := safe_modMe fun _ => ⟨rfl, rfl⟩
theorem safe_statusMode : statusMode.Safe k := safe_getMe.bind fun _ => safe_pure _
theorem safe_putFp (rd : BitVec 5) (r : Nat × Fl) : (putFp rd r).Safe k := (safe_writeG ..).bind fun _ => safe_orFlags _
theorem safe_setSeed (x : BitVec 32) : (setSeed x).Safe k := safe_modMe fun _ => ⟨rfl, rfl⟩
theorem safe_conversionMode (rnd : BitVec 3) (draws : Bool) : (conversionMode rnd draws).Safe k :=
  safe_ite safe_statusMode <| safe_ite (safe_ite (safe_getMe.bind fun _ => (safe_setSeed _).bind fun _ => safe_pure _) (safe_pure _)) <|
    safe_getMe.bind fun _ => safe_pure _
theorem safe_putV (bytes : Word) (rd : BitVec 5) (r : Vec × Fl) : (putV bytes rd r).Safe k := (safe_writeV ..).bind fun _ => safe_orFlags _
end

section
variable {i : Instr}

theorem modal_intBinary {fn : Word → Word → Word} {f : IntBin} (he : exec i = intBinary fn f) : Modal i :=
  modal_plain he fun _ _ => (safe_readG ..).bind fun _ => (safe_readOpnd ..).bind fun _ => safe_writeG ..
theorem modal_intTernary {fn : Word → Word → Word → Word} {f : IntTri} (he : exec i = intTernary fn f) : Modal i :=
  modal_plain he fun _ _ => (safe_readG ..).bind fun _ => (safe_readOpnd ..).bind fun _ => (safe_readG ..).bind fun _ => safe_writeG ..
theorem modal_intUnary {fn : Word → Word} {f : Un} (he : exec i = intUnary fn f) : Modal i :=
  modal_plain he fun _ _ => (safe_readG ..).bind fun _ => safe_writeG ..
theorem modal_li (f : LoadImm) : Modal (.li f) := modal_plain (i := .li f) rfl fun _ _ => safe_writeG ..
theorem modal_lea (f : LeaOp) : Modal (.lea f) := modal_plain (i := .lea f) rfl fun _ _ => (safe_readAddr _).bind fun _ => safe_writeG ..
theorem modal_fpBinary {op : Rnd → FVal → FVal → Nat × Fl} {f : Bin} (he : exec i = fpBinary op f) : Modal i :=
  modal_plain he fun _ _ => (safe_readG ..).bind fun _ => (safe_readG ..).bind fun _ => safe_statusMode.bind fun _ => safe_putFp ..
theorem modal_fpUnary {op : Rnd → FVal → Nat × Fl} {f : Un} (he : exec i = fpUnary op f) : Modal i :=
  modal_plain he fun _ _ => (safe_readG ..).bind fun _ => safe_statusMode.bind fun _ => safe_putFp ..
theorem modal_ffma (f : Tri) : Modal (.ffma f) :=
  modal_plain (i := .ffma f) rfl fun _ _ => (safe_readG ..).bind fun _ => (safe_readG ..).bind fun _ => (safe_readG ..).bind fun _ =>
    safe_statusMode.bind fun _ => safe_putFp ..
theorem modal_fpMinMax {larger : Bool} {f : Bin} (he : exec i = fpMinMax larger f) : Modal i :=
  modal_plain he fun _ _ => (safe_readG ..).bind fun _ => (safe_readG ..).bind fun _ => safe_putFp ..
theorem modal_fcmp (f : CmpF) : Modal (.fcmp f) :=
  modal_plain (i := .fcmp f) rfl fun _ _ => (safe_readG ..).bind fun _ => (safe_readG ..).bind fun _ => (safe_writeG ..).bind fun _ => safe_orFlags _
theorem modal_fcvt (f : CvtF) : Modal (.fcvt f) :=
  modal_plain (i := .fcvt f) rfl fun _ _ => (safe_readG ..).bind fun _ => (safe_conversionMode ..).bind fun _ => safe_getMe.bind fun _ =>
    (safe_writeG ..).bind fun _ => safe_orFlags _
theorem modal_fpSign {clear : Bool} {f : Un} (he : exec i = fpSign clear f) : Modal i :=
  modal_plain he fun _ _ => (safe_readG ..).bind fun _ => safe_putFp ..
theorem modal_pcmp (f : CmpI) : Modal (.pcmp f) :=
  modal_plain (i := .pcmp f) rfl fun _ _ => (safe_readG ..).bind fun _ => (safe_readVOpndG ..).bind fun _ => safe_writeP ..
theorem modal_predBinary {fn : Word → Word → Word} {f : Bin} (he : exec i = predBinary fn f) : Modal i :=
  modal_plain he fun _ _ => (safe_readP ..).bind fun _ => (safe_readP ..).bind fun _ => safe_writeP ..
theorem modal_pnot (f : Un) : Modal (.pnot f) := modal_plain (i := .pnot f) rfl fun _ _ => (safe_readP ..).bind fun _ => safe_writeP ..
theorem modal_pset (f : Un) : Modal (.pset f) := modal_plain (i := .pset f) rfl fun _ _ => (safe_readG ..).bind fun _ => safe_writeP ..
theorem modal_pget (f : Un) : Modal (.pget f) := modal_plain (i := .pget f) rfl fun _ _ => (safe_readP ..).bind fun _ => safe_writeG ..

/-! ### Transfers, loops and `rep` -/

theorem modal_branchOn {cond : Word → Word → Bool} {f : Branch2} (he : exec i = branchOn cond f) : Modal i :=
  modal_instr he fun _ _ => (safe_readG ..).bind fun _ => (safe_readG ..).bind fun _ => safe_branchIf ..
theorem modal_call (f : Jump) : Modal (.call f) :=
  modal_instr (i := .call f) rfl fun _ _ => (safe_targetOf _).bind fun _ => (safe_checkTarget _).bind fun _ => safe_nextPc.bind fun _ =>
    (safe_writeG ..).bind fun _ => safe_pure _
theorem modal_callr (f : Un) : Modal (.callr f) :=
  modal_instr (i := .callr f) rfl fun _ _ => (safe_readG ..).bind fun _ => (safe_checkTarget _).bind fun _ => safe_nextPc.bind fun _ =>
    (safe_writeG ..).bind fun _ => safe_pure _
theorem modal_loop (f : Branch1) : Modal (.loop f) :=
  modal_instr (i := .loop f) rfl fun _ hk => (safe_loopEnd _).bind fun _ => (safe_readG ..).bind fun _ => safe_loopEnter hk ..
theorem modal_loopi (f : LoopImm) : Modal (.loopi f) :=
  modal_instr (i := .loopi f) rfl fun _ hk => (safe_loopEnd _).bind fun _ => safe_loopEnter hk ..
theorem modal_rep (f : RepOp) : Modal (.rep f) := fun _ _ hready h => outcome_ended (runs_self hready true) (rep_keepsAt rfl f (runs_self hready true)) h

/-! ### Streams -/

theorem safe_readImage {k : Watch} (n : Nat) (a : Word) : (readImage n a).Safe k := safe_onDescriptor _ _ (safe_loadLocal ..)
theorem safe_configFault {α : Type} {k : Watch} (n sub : Nat) : (configFault n sub : M α).Safe k := safe_trapWith _
theorem safe_seekStream {k : Watch} (n : Nat) (pos : Word) : (seekStream n pos).Safe k :=
  safe_getMe.bind fun _ => safe_when (safe_configFault ..) fun _ => safe_modMe fun _ => ⟨rfl, rfl⟩
theorem modal_configure {kind : Nat} {f : StreamReg} (he : exec i = configure kind f) : Modal i := by
  refine modal_plain he fun k hk => (safe_readG ..).bind fun a => (safe_readImage ..).bind fun bs => safe_getMe.bind fun x => ?_
  split
  · exact safe_configFault ..
  · exact safe_modMe fun _ => ⟨rfl, rfl⟩
theorem modal_sbind (f : StreamBind) : Modal (.sbind f) :=
  modal_plain (i := .sbind f) rfl fun _ _ => safe_getMe.bind fun _ => safe_when (safe_configFault ..) fun _ => safe_when (safe_configFault ..) fun _ =>
    safe_ite (safe_pure _) (safe_modMe fun _ => ⟨rfl, rfl⟩)
theorem modal_sunbind (f : StreamOnly) : Modal (.sunbind f) := modal_plain (i := .sunbind f) rfl fun _ _ => safe_modMe fun _ => ⟨rfl, rfl⟩
theorem modal_ssave (f : StreamReg) : Modal (.ssave f) :=
  modal_plain (i := .ssave f) rfl fun _ _ => (safe_readG ..).bind fun _ => safe_getMe.bind fun _ =>
    (safe_onDescriptor _ _ (safe_storeLocal ..)).bind fun _ => safe_modMe fun _ => ⟨rfl, rfl⟩
theorem modal_srest (f : StreamReg) : Modal (.srest f) := by
  refine modal_plain (i := .srest f) rfl fun k hk => (safe_readG ..).bind fun a => (safe_readImage ..).bind fun bs => safe_getMe.bind fun x => ?_
  split
  · exact safe_configFault ..
  · next t _ =>
    refine safe_get.bind fun s => safe_when (safe_configFault ..) fun _ => safe_modMe fun x => ?_
    split <;> exact ⟨rfl, rfl⟩
theorem modal_sseek (f : StreamReg) : Modal (.sseek f) := modal_plain (i := .sseek f) rfl fun _ _ => (safe_readG ..).bind fun _ => safe_seekStream ..
theorem modal_sstat (f : StreamStat) : Modal (.sstat f) := modal_plain (i := .sstat f) rfl fun _ _ => safe_getMe.bind fun _ => safe_writeG ..

/-! ### Vectors -/

theorem modal_vecBinary {op : BitVec 4 → Rnd → Nat → Nat → Nat × Fl} {f : VBin} (he : exec i = vecBinary op f) : Modal i :=
  modal_vec he fun _ _ _ => (safe_readV ..).bind fun _ => (safe_readVB ..).bind fun _ => safe_statusMode.bind fun _ => safe_putV ..
theorem modal_vecFused {minus : Bool} {f : VTri} (he : exec i = vecFused minus f) : Modal i :=
  modal_vec he fun _ _ _ => (safe_readV ..).bind fun _ => (safe_readVB ..).bind fun _ => (safe_readV ..).bind fun _ => safe_statusMode.bind fun _ =>
    safe_putV ..
theorem modal_vecUnary {op : BitVec 4 → Nat → Nat × Fl} {f : VUn} (he : exec i = vecUnary op f) : Modal i :=
  modal_vec he fun _ _ _ => (safe_readV ..).bind fun _ => safe_putV ..
theorem modal_vecShift {op : BitVec 4 → Nat → Nat → Nat} {f : VBin} (he : exec i = vecShift op f) : Modal i :=
  modal_vec he fun _ _ _ => (safe_readV ..).bind fun _ => (safe_readShift ..).bind fun _ => safe_putV ..
theorem modal_vdot4 (f : V3) : Modal (.vdot4 f) :=
  modal_vec (i := .vdot4 f) rfl fun _ _ _ => (safe_readV ..).bind fun _ => (safe_readV ..).bind fun _ => (safe_readV ..).bind fun _ => safe_putV ..
theorem modal_vcmp (f : VCmp) : Modal (.vcmp f) :=
  modal_vec (i := .vcmp f) rfl fun _ _ _ => (safe_readV ..).bind fun _ => (safe_readV ..).bind fun _ => (safe_writeP ..).bind fun _ => safe_orFlags _
theorem modal_vsel (f : VSel) : Modal (.vsel f) :=
  modal_vec (i := .vsel f) rfl fun _ _ _ => (safe_readV ..).bind fun _ => (safe_readV ..).bind fun _ => (safe_readP ..).bind fun _ => safe_putV ..
theorem modal_vcvt (f : VCvt) : Modal (.vcvt f) :=
  modal_vec (i := .vcvt f) rfl fun _ _ _ => (safe_readV ..).bind fun _ => safe_getMe.bind fun _ =>
    (safe_ite (safe_pure _) ((safe_conversionMode ..).bind fun _ => safe_pure _)).bind fun _ => safe_when (safe_setSeed _) fun _ => safe_putV ..
theorem modal_vbcast (f : VBcast) : Modal (.vbcast f) := by
  refine modal_vec (i := .vbcast f) rfl fun k mask hk => M.Safe.bind ?_ fun _ => safe_putV ..
  split
  · exact safe_readG ..
  · exact safe_pure _
theorem modal_vext (f : VExt) : Modal (.vext f) :=
  modal_vec (i := .vext f) rfl fun _ _ _ => (safe_readV ..).bind fun _ => (safe_readIndex ..).bind fun _ => safe_writeG ..
theorem modal_vins (f : VIns) : Modal (.vins f) :=
  modal_vec (i := .vins f) rfl fun _ _ _ => (safe_readV ..).bind fun _ => (safe_readG ..).bind fun _ => (safe_readIndex ..).bind fun _ => safe_putV ..
theorem modal_vperm (f : V2) : Modal (.vperm f) :=
  modal_vec (i := .vperm f) rfl fun _ _ _ => (safe_readV ..).bind fun _ => (safe_readV ..).bind fun _ => safe_putV ..
theorem modal_vshuf (f : V3) : Modal (.vshuf f) :=
  modal_vec (i := .vshuf f) rfl fun _ _ _ => (safe_readV ..).bind fun _ => (safe_readV ..).bind fun _ => (safe_readV ..).bind fun _ => safe_putV ..
theorem modal_vcompress (f : VUn) : Modal (.vcompress f) :=
  modal_vec (i := .vcompress f) rfl fun _ _ _ => (safe_readV ..).bind fun _ => safe_putV ..
theorem modal_vexpand (f : VUn) : Modal (.vexpand f) :=
  modal_vec (i := .vexpand f) rfl fun _ _ _ => (safe_readV ..).bind fun _ => safe_putV ..
theorem modal_viota (f : VNull) : Modal (.viota f) := modal_vec (i := .viota f) rfl fun _ _ _ => safe_putV ..
theorem modal_vpopc (f : VNull) : Modal (.vpopc f) := modal_vec (i := .vpopc f) rfl fun _ _ _ => safe_writeG ..
theorem modal_reduce {result : BitVec 4 → Rnd → List (Option Nat) → Word × Fl} {f : VRed} (he : exec i = reduce result f) : Modal i := by
  refine modal_vec he fun k mask hk => (safe_readV ..).bind fun a => M.Safe.bind ?_ fun _ => safe_statusMode.bind fun _ =>
    (safe_writeG ..).bind fun _ => safe_orFlags _
  split
  · exact safe_readP ..
  · exact safe_pure _

/-! ### Function tables (R185) -/

theorem safe_glimpse {k : Watch} (a : Nat) : (glimpse a).Safe k := by
  refine ⟨⟨fun s hs => ?_⟩⟩
  cases h : loadLocal .l (a + 5) 1 1 s with
  | ok r => exact keepsAt_ok (a := some (ofBytes r.1 + 1)) (by simp only [glimpse, h]) hs
  | error e => exact keepsAt_ok (a := none) (by simp only [glimpse, h]) hs
theorem safe_loadPieces {k : Watch} (a fuel n : Nat) : (loadPieces a fuel n).Safe k := by
  induction fuel generalizing a n with
  | zero => exact safe_pure _
  | succ fuel ih =>
    cases n with
    | zero => exact safe_pure _
    | succ n => exact (safe_loadLocal ..).bind fun _ => (ih ..).bind fun _ => safe_pure _
theorem modal_vtload (f : VTLoad) : Modal (.vtload f) :=
  modal_vec (i := .vtload f) rfl fun _ _ _ => (safe_readG ..).bind fun _ => (safe_glimpse _).bind fun _ => (safe_localAddr ..).bind fun _ =>
    (safe_loadLocal ..).bind fun _ => (safe_localAddr ..).bind fun _ => (safe_loadPieces ..).bind fun _ => safe_modCore _
theorem modal_vti (f : VTable) : Modal (.vti f) :=
  modal_vec (i := .vti f) rfl fun _ _ _ => (safe_readV ..).bind fun _ => safe_get.bind fun _ => safe_putV ..
end

end Sys2Proof.Machine

/-! ### The instructions of memory (R211 to R275) -/

namespace Sys2Proof.Machine

section
variable {k : Watch}

theorem safe_rangeCheck (a b : Word) (al : Nat) : (rangeCheck a b al).Safe k :=
  safe_when (safe_trap ..) fun _ => safe_when (safe_trap ..) fun _ => safe_ite (safe_trap ..) (safe_pure _)
theorem safe_needScratch (a : Word) : (needScratch a).Safe k := safe_get.bind fun _ => safe_ite (safe_trap ..) (safe_pure _)
theorem safe_itemRanges (rs : List (Nat × Nat)) : (itemRanges rs).Safe k := by
  induction rs with
  | nil => exact safe_pure _
  | cons r rs ih => exact (safe_localPlace ..).bind fun _ => ih.bind fun _ => safe_pure _
theorem safe_loadFull (take : Bool) (ea : Int) (n : Nat) : (loadFull take ea n).Safe k := by
  unfold loadFull
  refine safe_get.bind fun _ => (safe_localPlace ..).bind fun p => safe_get.bind fun s => safe_when (safe_block _) fun _ =>
    safe_when (safe_block _) fun _ => M.Safe.bind ?_ fun _ => safe_when (safe_modify_frame fun _ => frame_setCluster ..) fun _ => safe_pure _
  refine (safe_forwarded ..).bind fun o => ?_
  split
  · exact safe_pure _
  · exact safe_readLocal ..
theorem safe_elemRange (sp : Space) (whole : Option Int) (w : Nat) (a : Int) : (elemRange sp whole w a).Safe k := by
  unfold elemRange
  split
  · exact (safe_localAddr ..).bind fun _ => safe_ite (safe_trap ..) (safe_pure _)
  · exact (safe_localAddr ..).bind fun _ => safe_pure _
theorem safe_placeElems (whole : Option Int) (w : Nat) (write : Bool) (es : List (Nat × Int)) : (placeElems whole w write es).Safe k := by
  induction es with
  | nil => exact safe_pure _
  | cons e es ih => exact (safe_elemRange ..).bind fun _ => (safe_localPlace ..).bind fun _ => ih.bind fun _ => safe_pure _
theorem safe_copyCrumbs (as : List Nat) : (copyCrumbs as).Safe k := by
  induction as with
  | nil => exact safe_pure _
  | cons a as ih => exact (safe_crumbWrite a).bind fun _ => ih
theorem safe_set_bind {α : Type} {s : State} {rest : PUnit → M α} (hs : k.Runs s) (hrest : ∀ r, (rest r).Safe k) : (set s >>= rest : M α).Safe k :=
  ⟨⟨fun _ _ => keepsAt_set_bind hs hrest⟩⟩
theorem safe_localElems (whole : Option Int) (w : Nat) (write : Bool) (es : List (Nat × Int)) : (localElems whole w write es).Safe k := by
  unfold localElems
  refine safe_getMe.bind fun _ => safe_ite ?_ (safe_placeElems ..)
  exact safe_get_bind fun s hs => M.Safe.at ((safe_placeElems ..).bind fun _ => safe_set_bind hs fun _ => (safe_copyCrumbs _).bind fun _ =>
    safe_placeElems ..) hs
theorem safe_readElems {get : Nat → M (List Byte)} (hget : ∀ a, (get a).Safe k) (es : List (Nat × Nat)) : (readElems get es).Safe k := by
  induction es with
  | nil => exact safe_pure _
  | cons e es ih => exact (hget _).bind fun _ => ih.bind fun _ => safe_pure _
theorem safe_loadElems (sp : Space) (cl asid w : Nat) {get : Nat → M (List Byte)} (hget : ∀ a, (get a).Safe k) (es : List (Nat × Nat)) :
    (loadElems sp cl asid w get es).Safe k := by
  refine (safe_forwarded ..).bind fun o => ?_
  split
  · exact safe_pure _
  · exact safe_readElems hget _
theorem safe_loadElemsL (cl w : Nat) (es : List (Nat × Nat)) : (loadElemsL cl w es).Safe k :=
  safe_getMe.bind fun _ => safe_loadElems _ _ _ _ (fun _ => (safe_readLocal ..).bind fun _ => safe_pure _) _
theorem safe_loadElemsG (w : Nat) (es : List (Nat × Int)) : (loadElemsG w es).Safe k :=
  safe_getMe.bind fun _ => (safe_needReplayed ..).bind fun _ => safe_loadElems _ _ _ _ (fun _ => safe_loadGlobalAt ..) _
theorem safe_checkElemsG (acc : Option Access) (ea : Int) (w : Nat) (es : List (Nat × Int)) : (checkElemsG acc ea w es).Safe k := by
  induction es with
  | nil => exact safe_pure _
  | cons e es ih =>
    unfold checkElemsG
    refine safe_when (safe_trap ..) fun _ => (safe_gCheck ..).bind fun _ => ?_
    split
    · exact (safe_xlatRange ..).bind fun _ => ih
    · exact ih
theorem safe_vecAddr (gather : Bool) (w : Nat) (ad : Addr) : (vecAddr gather w ad).Safe k :=
  safe_ite ((safe_readG ..).bind fun _ => (safe_readV ..).bind fun _ => safe_pure _) <| (safe_readAddr _).bind fun _ => safe_pure _
theorem safe_dropLine (asid ea : Nat) : (dropLine asid ea).Safe k := safe_modify_frame fun _ => frame_dropLineOf ..
theorem safe_needUnclaimed (cl a n : Nat) : (needUnclaimed cl a n).Safe k := safe_get.bind fun _ => safe_ite (safe_block _) (safe_pure _)
theorem safe_amoOperands (f : Amo) : (amoOperands f).Safe k :=
  (safe_ite (safe_readG ..) (safe_pure _)).bind fun _ => (safe_readG ..).bind fun _ => (safe_readG ..).bind fun _ => safe_pure _
theorem safe_fenceBody (level : Nat) : (fenceBody level).Safe k :=
  safe_needDrained.bind fun _ => safe_when safe_sendMerged fun _ => safe_when safe_acquire fun _ => safe_discardAhead
end

/-! ### A bank region freed (R224) -/

theorem dropHeld_slot (s : State) (cl : Nat) (gs : List Nat) (sid : Nat) :
    ((s.dropHeld cl gs).slot sid).phase = (s.slot sid).phase ∧ ((s.dropHeld cl gs).slot sid).ctl = (s.slot sid).ctl := by
  have hfind : ∀ m : NMap Slot, ∀ f : Nat × Slot → Nat × Slot, (∀ x, (f x).1 = x.1 ∧ (f x).2.phase = x.2.phase ∧ (f x).2.ctl = x.2.ctl) →
      ((NMap.find (m.map f) sid).getD Slot.none).phase = ((NMap.find m sid).getD Slot.none).phase ∧
      ((NMap.find (m.map f) sid).getD Slot.none).ctl = ((NMap.find m sid).getD Slot.none).ctl := by
    intro m f hf
    induction m with
    | nil => exact ⟨rfl, rfl⟩
    | cons x m ih =>
      obtain ⟨hk, hx⟩ := hf x
      obtain ⟨j, w⟩ := x
      simp only [List.map_cons, NMap.find, hk]
      split
      · exact hx
      · exact ih
  refine hfind s.slots _ fun x => ?_
  split <;> exact ⟨rfl, rfl, rfl⟩
theorem stance_trapAt_ne {s : State} {sid : Nat} (t : Trap) (h : sid ≠ s.cur) : (s.trapAt sid t).stance = s.stance := by
  unfold State.trapAt
  split
  · exact stance_setSlot_ne h
  · exact (stance_of_frame (frame_unpause ..)).trans (stance_setSlot_ne h)
/-- A strand that waits for a word of a freed group takes BANK_OFF. -/
def State.failWait (cl : Nat) (gs : List Nat) (s : State) (sid : Nat) : State :=
  match (s.slot sid).phase with
  | .blocked (.full w ea) => if clusterOf sid = cl ∧ gs.contains (8 * w / 0x2000) then s.trapAt sid { cause := cBankOff, tval := ea } else s
  | _ => s
theorem failWaits_eq (s : State) (cl : Nat) (gs : List Nat) : s.failWaits cl gs = (s.slots.map (·.1)).foldl (State.failWait cl gs) s := rfl
theorem stance_failWait {s : State} (cl : Nat) (gs : List Nat) (sid : Nat) (h : s.me.phase = .ready) : (s.failWait cl gs sid).stance = s.stance := by
  unfold State.failWait
  split
  · next hwait =>
    split
    · refine stance_trapAt_ne _ fun hself => ?_
      rw [hself] at hwait
      rw [State.me, hwait] at h
      cases h
    · rfl
  · rfl
/-- The strand that issues waits for no word of a freed group. -/
theorem stance_failWaits {s : State} (cl : Nat) (gs : List Nat) (h : s.me.phase = .ready) : (s.failWaits cl gs).stance = s.stance := by
  rw [failWaits_eq]
  generalize s.slots.map (·.1) = sids
  induction sids generalizing s with
  | nil => rfl
  | cons sid sids ih =>
    have hstep := stance_failWait cl gs sid h
    have hready : (s.failWait cl gs sid).me.phase = .ready := (congrArg (·.2.1) hstep : _ = s.me.phase).trans h
    exact (ih hready).trans hstep

section
variable {i : Instr}

theorem modal_scalarLoad {get : Int → Nat → M (List Byte)} {f : Load} (he : exec i = scalarLoad get f)
    (hget : ∀ (k : Watch) ea n, (get ea n).Safe k) : Modal i :=
  modal_plain he fun _ _ => (safe_readAddr _).bind fun _ => (hget ..).bind fun _ => safe_writeG ..
theorem modal_scalarStore {put : Int → List Byte → M Unit} {f : Store} (he : exec i = scalarStore put f)
    (hput : ∀ (k : Watch) ea bs, (put ea bs).Safe k) : Modal i :=
  modal_plain he fun _ _ => (safe_readAddr _).bind fun _ => (safe_readG ..).bind fun _ => hput ..
/-- The store of `strl`. -/
def storeRelease (ea : Int) (bs : List Byte) : M Unit := do
  gCheck ea bs.length bs.length
  let pas ← xlatRange .write ea.toNat bs.length
  needHome .strl ea.toNat (bs.map some)
  if ← logged then block .sideLog
  let s ← get
  pushEntry (s.entry .strl .g 0 ea.toNat (bs.map some) (effAsid s.me.ctl.asid.toNat ea.toNat) (some pas))
/-- The load of `ldaq`. -/
def loadAcquire (ea : Int) (n : Nat) : M (List Byte) := do
  gCheck ea n n
  dropLine (effAsid (← getMe).ctl.asid.toNat ea.toNat) ea.toNat
  let bs ← loadGlobalAt ea.toNat n true
  acquire
  discardAhead
  return bs
theorem modal_strl (f : Store) : Modal (.strl f) :=
  modal_scalarStore (i := .strl f) (put := storeRelease) rfl fun _ _ _ => (safe_gCheck ..).bind fun _ => (safe_xlatRange ..).bind fun _ =>
    (safe_needHome ..).bind fun _ => safe_logged.bind fun _ => safe_when (safe_block _) fun _ => safe_get.bind fun _ => safe_pushEntry _
theorem modal_ldaq (f : Load) : Modal (.ldaq f) :=
  modal_scalarLoad (i := .ldaq f) (get := loadAcquire) rfl fun _ _ _ => (safe_gCheck ..).bind fun _ => safe_getMe.bind fun _ =>
    (safe_dropLine ..).bind fun _ => (safe_loadGlobalAt ..).bind fun _ => safe_acquire.bind fun _ => safe_discardAhead.bind fun _ => safe_pure _
theorem modal_empty (f : Src2) : Modal (.empty f) :=
  modal_plain (i := .empty f) rfl fun _ _ => (safe_readG ..).bind fun _ => (safe_readG ..).bind fun _ => (safe_rangeCheck ..).bind fun _ =>
    safe_ite (safe_pure _) <| (safe_needScratch _).bind fun _ => safe_get.bind fun _ =>
      (safe_ite (safe_itemRanges _) ((safe_bankAccess ..).bind fun _ => safe_pure _)).bind fun _ => safe_logged.bind fun _ =>
      safe_when (safe_block _) fun _ => safe_get.bind fun _ => safe_pushEntry _
theorem modal_balloc (f : Balloc) : Modal (.balloc f) :=
  modal_plain (i := .balloc f) rfl fun _ _ => (safe_readG ..).bind fun _ => (safe_readG ..).bind fun _ => (safe_rangeCheck ..).bind fun _ =>
    safe_ite (safe_writeG ..) <| (safe_needScratch _).bind fun _ => safe_get.bind fun _ => safe_when (safe_modCluster _) fun _ => safe_writeG ..
theorem modal_bfree (f : Bin) : Modal (.bfree f) := by
  refine modal_plain (i := .bfree f) rfl fun k _ => (safe_readG ..).bind fun a => (safe_readG ..).bind fun b => (safe_rangeCheck ..).bind fun _ =>
    safe_ite (safe_writeG ..) <| (safe_needScratch _).bind fun _ => safe_get_bind fun s hs => M.Safe.at (safe_ite ?_ (safe_writeG ..)) hs
  refine safe_when (safe_block _) fun _ => safe_when (safe_block _) fun _ => safe_set_bind ?_ fun _ => safe_writeG ..
  have hheld : ∀ (u : State) (cl : Nat) (gs : List Nat), u.frame = s.frame → k.Runs (u.dropHeld cl gs) := by
    intro u cl gs hu
    refine (hs.of_frame hu).of_stance ?_
    obtain ⟨hp, hc⟩ := dropHeld_slot u cl gs u.cur
    exact congrArg (Prod.mk u.cur) (Prod.ext hp (congrArg Ctl.status hc))
  have hrun := hheld (s.setCluster (clusterOf s.cur) (((groupsOf a.toNat b.toNat).filter fun g => (s.myCluster.groups.find g).isSome).foldl
    Cluster.freeGroup s.myCluster)) (clusterOf s.cur) ((groupsOf a.toNat b.toNat).filter fun g => (s.myCluster.groups.find g).isSome) rfl
  exact hrun.of_stance (stance_failWaits _ _ hrun.ready)
theorem modal_bwake (f : Src2) : Modal (.bwake f) :=
  modal_plain (i := .bwake f) rfl fun _ _ => (safe_readG ..).bind fun _ => (safe_readG ..).bind fun _ => safe_modify_frame fun _ => frame_setCluster ..
theorem modal_vecLoadL {gather : Bool} {f : VMem} (he : exec i = vecLoadL gather f) : Modal i :=
  modal_vec he fun _ _ _ => (safe_vecAddr ..).bind fun _ => (safe_localElems ..).bind fun _ => safe_get.bind fun _ => (safe_loadElemsL ..).bind fun _ =>
    safe_writeV ..
theorem modal_vecStoreL {scatter : Bool} {f : VMem} (he : exec i = vecStoreL scatter f) : Modal i :=
  modal_vec he fun _ _ _ => (safe_vecAddr ..).bind fun _ => (safe_readV ..).bind fun _ => (safe_localElems ..).bind fun _ => safe_get.bind fun _ =>
    safe_storeAt ..
theorem modal_vldg (f : VMem) : Modal (.vldg f) :=
  modal_vec (i := .vldg f) rfl fun _ _ _ => (safe_readAddr _).bind fun _ => (safe_checkElemsG ..).bind fun _ => (safe_loadElemsG ..).bind fun _ =>
    safe_writeV ..
theorem modal_vstg (f : VMem) : Modal (.vstg f) :=
  modal_vec (i := .vstg f) rfl fun _ _ _ => (safe_readAddr _).bind fun _ => (safe_readV ..).bind fun _ => (safe_checkElemsG ..).bind fun _ =>
    safe_storeGlobalAt ..
theorem modal_prefg (f : Pref) : Modal (.prefg f) := by
  intro s t hready h
  refine outcome_ended (runs_self hready true) (M.Safe.at ?_ (runs_self hready true)) h
  refine (safe_guardOn _).bind fun _ => safe_ite ((safe_quiet ?_).bind fun _ => safe_retireAt ..) (safe_retireOff _)
  refine (safe_readAddr _).bind fun _ => safe_freshBit.bind fun _ => safe_ite (safe_quiet ?_) (safe_pure _)
  exact (safe_gCheck ..).bind fun _ => (safe_xlatOne ..).bind fun _ => safe_get.bind fun _ => safe_ite (safe_pure _) <|
    (safe_dcByte ..).bind fun _ => safe_pure _
theorem modal_amol (f : Amo) : Modal (.amol f) :=
  modal_plain (i := .amol f) rfl fun _ _ => (safe_amoOperands f).bind fun _ => (safe_localPlace ..).bind fun _ => safe_needDrained.bind fun _ =>
    (safe_needUnclaimed ..).bind fun _ => (safe_readLocal ..).bind fun _ => (safe_modify_frame fun _ => frame_setCluster ..).bind fun _ => safe_writeG ..
theorem modal_amog (f : Amo) : Modal (.amog f) :=
  modal_plain (i := .amog f) rfl fun _ _ => (safe_amoOperands f).bind fun _ => (safe_gCheck ..).bind fun _ =>
    safe_ite (safe_needStores.bind fun _ => safe_storeGlobalAt ..) <| safe_needDrained.bind fun _ => (safe_xlatRange ..).bind fun _ =>
      safe_getMe.bind fun _ => (safe_dropLine ..).bind fun _ => (safe_readHome ..).bind fun _ =>
      (safe_modify_frame fun _ => frame_storePhys ..).bind fun _ => safe_writeG ..
theorem modal_faddx (f : CellAdd) : Modal (.faddx f) :=
  modal_plain (i := .faddx f) rfl fun _ _ => (safe_readAddr _).bind fun _ => (safe_readG ..).bind fun _ =>
    safe_ite ((safe_gCheck ..).bind fun _ => safe_storeGlobalAt ..)
      ((safe_localPlace ..).bind fun _ => (safe_readLocal ..).bind fun _ => safe_storeAt ..)
theorem modal_rdx (f : CellRead) : Modal (.rdx f) :=
  modal_plain (i := .rdx f) rfl fun _ _ => (safe_readAddr _).bind fun _ => (safe_ite
      ((safe_gCheck ..).bind fun _ => safe_needDrained.bind fun _ => (safe_xlatRange ..).bind fun _ => safe_getMe.bind fun _ =>
        (safe_dropLine ..).bind fun _ => safe_readHome ..)
      ((safe_localPlace ..).bind fun _ => safe_needDrained.bind fun _ => safe_readLocal ..)).bind fun _ => safe_statusMode.bind fun _ =>
    (safe_writeG ..).bind fun _ => safe_orFlags _
theorem modal_clrx (f : CellClear) : Modal (.clrx f) :=
  modal_plain (i := .clrx f) rfl fun _ _ => (safe_readAddr _).bind fun _ => safe_ite
    ((safe_gCheck ..).bind fun _ => safe_needDrained.bind fun _ => (safe_xlatRange ..).bind fun _ => safe_getMe.bind fun _ =>
      (safe_dropLine ..).bind fun _ => safe_modify_frame fun _ => frame_storePhys ..)
    ((safe_localPlace ..).bind fun _ => safe_needDrained.bind fun _ => (safe_needUnclaimed ..).bind fun _ =>
      safe_modify_frame fun _ => frame_setCluster ..)
theorem modal_fenceForm {level : Nat} {f : Plain} (he : exec i = fenceForm level f) : Modal i := modal_plain he fun _ _ => safe_fenceBody level
theorem modal_fenceW (f : Plain) : Modal (.fenceW f) := by
  refine modal_plain (i := .fenceW f) rfl fun k _ => safe_get.bind fun s => safe_ite (safe_fenceBody 1) <| safe_logged.bind fun _ =>
    safe_when (safe_block _) fun _ => ?_
  split
  · exact safe_block _
  · exact safe_sendMerged.bind fun _ => safe_discardAhead
end

end Sys2Proof.Machine

/-! ### The instructions of engines, handles, task units and items (R242 to R349) -/

namespace Sys2Proof.Machine

theorem frame_emptyDest (s : State) (sid cl : Nat) (rs : List (Nat × Nat)) : (s.emptyDest sid cl rs).frame = s.frame :=
  (frame_foldl (fun _ _ => frame_engTouch ..) _ _).trans (frame_setCluster ..)
theorem frame_takeHead (s : State) (q : Nat) (r : RecInfo) : (s.takeHead q r).state.frame = s.frame := by
  have hread : (s.ringRead ((s.queue q).slotAt (s.queue q).head) 64).state.frame = s.frame := frame_engReads ..
  unfold State.takeHead
  dsimp only
  split
  · next h => exact frame_wait hread h
  · next h => exact frame_fail hread h
  · next h =>
    have hframe := frame_ok hread h
    exact (frame_setUnit ..).trans hframe

section
variable {k : Watch}

/-- A state made from the one at hand, which what follows does not name. -/
theorem safe_update {α : Type} {f : State → State} {rest : State → PUnit → M α} (hf : ∀ s, (f s).frame = s.frame)
    (hrest : ∀ s r, (rest s r).Safe k) : (do let s ← get; set (f s) >>= rest s : M α).Safe k :=
  safe_get_bind fun s hs => keepsAt_set_bind (hs.of_frame (hf s)) (hrest s)
theorem safe_needHandle (hd : BitVec 3) : (needHandle hd).Safe k := safe_getMe.bind fun _ => safe_ite (safe_block _) (safe_pure _)
theorem safe_newOp (hd : BitVec 3) : (newOp hd).Safe k :=
  safe_update (f := fun s => { s with nextOp := s.nextOp + 1, ops := s.ops.insert s.nextOp ⟨.slot s.cur hd.toNat, none, false, false, none⟩ })
    (fun _ => rfl) fun _ _ => safe_modMe_bind (fun _ => ⟨rfl, rfl⟩) fun _ => safe_pure _
theorem safe_doneOp (hd : BitVec 3) (w : Word) : (doneOp hd w).Safe k :=
  safe_update (f := fun s => { s with nextOp := s.nextOp + 1 }) (fun _ => rfl) fun _ _ => safe_modMe fun _ => ⟨rfl, rfl⟩
theorem safe_rangeG (a n : Nat) : (rangeG a n).Safe k := by
  refine safe_getMe.bind fun x => ?_
  dsimp only
  split
  · exact safe_trap ..
  · exact safe_trap ..
  · exact safe_ite (safe_trap ..) (safe_pure _)
theorem safe_rangeL (sp : Space) (a n : Nat) (dest : Bool) : (rangeL sp a n dest).Safe k := by
  refine safe_get.bind fun s => ?_
  split
  · exact safe_trap ..
  · exact safe_ite (safe_when (safe_trap ..) fun _ => safe_when (safe_trap ..) fun _ => safe_pure _) (safe_pure _)
theorem safe_needNoTemplate (rs : List (Nat × Nat)) : (needNoTemplate rs).Safe k := by
  refine safe_get.bind fun s => ?_
  split
  · exact safe_trap ..
  · exact safe_pure _
theorem safe_emptyDest (cl : Nat) (rs : List (Nat × Nat)) : (emptyDest cl rs).Safe k := safe_modify_frame fun _ => frame_emptyDest ..
theorem safe_needCopy (hd : BitVec 3) : (needCopy hd).Safe k :=
  (safe_needHandle hd).bind fun _ => safe_get.bind fun _ => safe_when (safe_block _) fun _ => safe_needDrained
theorem safe_enqueueCopy (hd : BitVec 3) (kind : CopyKind) : (enqueueCopy hd kind).Safe k :=
  (safe_newOp hd).bind fun _ => safe_getMe.bind fun _ => safe_get.bind fun _ => safe_modCore _
theorem safe_checkRange (code : BitVec 2) (a : Word) (n : Nat) (dest : Bool) : (checkRange code a n dest).Safe k := by
  refine safe_ite (safe_pure _) ?_
  split
  · exact (safe_rangeL ..).bind fun _ => safe_pure _
  · exact (safe_rangeL ..).bind fun _ => safe_pure _
  · exact safe_rangeG ..
  · exact safe_pure _
theorem safe_checkLength (n : Word) : (checkLength n).Safe k := safe_ite (safe_trap ..) (safe_pure _)
theorem safe_emptyRangeOf (code : BitVec 2) (a n : Nat) : (emptyRangeOf code a n).Safe k :=
  safe_get.bind fun _ => safe_ite (safe_emptyDest ..) (safe_pure _)
theorem safe_readTslot (n : BitVec 6) : (readTslot n).Safe k := by
  refine safe_get.bind fun s => ?_
  split
  · exact safe_pure _
  · exact safe_trap ..
theorem safe_namedSlots (ns : List (BitVec 6)) : (namedSlots ns).Safe k := by
  induction ns with
  | nil => exact safe_pure _
  | cons n ns ih => exact (safe_readTslot n).bind fun _ => ih.bind fun _ => safe_pure _
theorem safe_checkVersions (vw : Word) (n : Nat) (rs : List (BitVec 6 × BitVec 512)) : (checkVersions vw n rs).Safe k := by
  induction rs generalizing n with
  | nil => exact safe_pure _
  | cons r rs ih => exact safe_when (safe_trap ..) fun _ => ih _
theorem safe_needAcc (n : Nat) (init : Bool) : (needAcc n init).Safe k := by
  refine safe_get.bind fun s => ?_
  split
  · exact safe_ite (safe_trap ..) (safe_pure _)
  · exact safe_ite (safe_trap ..) (safe_pure _)
theorem safe_needTile (hd : BitVec 3) : (needTile hd).Safe k :=
  (safe_needHandle hd).bind fun _ => safe_get.bind fun _ => safe_when (safe_block _) fun _ => safe_needDrained
theorem safe_enqueueTile (hd : BitVec 3) (mk : Nat → Nat → Bool → TileCmd) : (enqueueTile hd mk).Safe k :=
  (safe_newOp hd).bind fun _ => safe_getMe.bind fun _ => safe_get.bind fun _ => safe_modCore _
theorem safe_takeAcc (n : Nat) : (takeAcc n).Safe k := safe_modify_frame fun _ => frame_setCore ..
theorem safe_opCheck (a : Word) (n al : Nat) : (opCheck a n al).Safe k :=
  (safe_localAddr ..).bind fun _ => safe_get.bind fun _ => safe_ite (safe_trap ..) (safe_pure _)
theorem safe_opRead (a : Word) (n side : Nat) : (opRead a n side).Safe k := by
  refine safe_get.bind fun s => (safe_bankAccess ..).bind fun _ => safe_get.bind fun t => ?_
  dsimp only
  split
  · exact safe_block _
  · split
    · exact safe_pure _
    · exact safe_pure _
theorem safe_needTask (hd : BitVec 3) : (needTask hd).Safe k := (safe_needHandle hd).bind fun _ => safe_needDrained
theorem safe_enqueueDge (hd : BitVec 3) (scatter : Bool) (desc : List Byte) (idx : List Nat) (src : List Byte) (laddr : Nat) :
    (enqueueDge hd scatter desc idx src laddr).Safe k :=
  (safe_newOp hd).bind fun _ => safe_getMe.bind fun _ => safe_get.bind fun _ => safe_modCore _
theorem safe_landBytes (a : Word) (bs : List Byte) : (landBytes a bs).Safe k :=
  safe_get.bind fun _ => safe_ite (safe_pure _) <| safe_when (safe_block _) fun _ => (safe_bankAccess ..).bind fun _ => (safe_narrowPoison ..).bind fun _ =>
    safe_modify_frame fun _ => frame_setCluster ..
theorem safe_needNarrow (narrow nspec : Bool) : (needNarrow narrow nspec).Safe k := safe_getMe.bind fun _ => safe_ite (safe_trap ..) (safe_pure _)
theorem safe_sendUnit (hd : BitVec 3) (u : Nat) (what : UnitOp) : (sendUnit hd u what).Safe k :=
  (safe_newOp hd).bind fun _ => safe_getMe.bind fun _ => safe_modify_frame fun _ => frame_setUnit ..
theorem safe_withRecord (hd : BitVec 3) (a : Word) {go : List Byte → M Unit} (hgo : ∀ bs, (go bs).Safe k) : (withRecord hd a go).Safe k := by
  refine (safe_opRead ..).bind fun r => ?_
  split
  · exact safe_doneOp ..
  · exact hgo _
theorem safe_needUsed (h : Nat) : (needUsed h).Safe k := by
  refine safe_getMe.bind fun x => ?_
  split
  · exact safe_trap ..
  · exact safe_pure _
end

/-! ### The copy engine and the exchange -/

theorem modal_cpy (f : CopyOp) : Modal (.cpy f) :=
  modal_plain (i := .cpy f) rfl fun _ _ => (safe_readG ..).bind fun _ => (safe_readG ..).bind fun _ => (safe_readG ..).bind fun _ =>
    (safe_readG ..).bind fun _ => (safe_checkLength _).bind fun _ => (safe_checkRange ..).bind fun _ => (safe_checkRange ..).bind fun _ =>
    safe_when (safe_needNoTemplate _) fun _ => safe_ite ((safe_needHandle _).bind fun _ => safe_doneOp ..) <| (safe_needCopy _).bind fun _ =>
      (safe_emptyRangeOf ..).bind fun _ => safe_enqueueCopy ..
theorem modal_cpym (f : CopyMulti) : Modal (.cpym f) :=
  modal_plain (i := .cpym f) rfl fun _ _ => (safe_readG ..).bind fun _ => (safe_readG ..).bind fun _ => (safe_readG ..).bind fun _ => by
    have hrest : ∀ (k : Watch) (src : Word) (n : Nat) (off : Word), M.Safe k (do
        checkRange f.ssp src n false
        let dests := ((List.range 8).filter fun j => f.cmask.getLsbD j).map fun j => (0x40000 * j + off.toNat, n)
        needNoTemplate dests
        if n = 0 then
          needHandle f.hd
          doneOp f.hd 0
        else
          needCopy f.hd
          emptyDest (clusterOf (← get).cur) dests
          enqueueCopy f.hd (.cpym off.toNat src.toNat n f.cmask f.ssp.toNat)) := fun _ _ _ _ =>
      (safe_checkRange ..).bind fun _ => (safe_needNoTemplate _).bind fun _ => safe_ite ((safe_needHandle _).bind fun _ => safe_doneOp ..) <|
        (safe_needCopy _).bind fun _ => safe_get.bind fun _ => (safe_emptyDest ..).bind fun _ => safe_enqueueCopy ..
    exact (safe_checkLength _).bind fun _ => safe_when (safe_trap ..) fun _ => safe_ite
      (safe_when (safe_trap ..) fun _ => safe_when (safe_trap ..) fun _ => hrest ..) (hrest ..)
theorem modal_cpyf (f : CopyFill) : Modal (.cpyf f) :=
  modal_plain (i := .cpyf f) rfl fun _ _ => (safe_readG ..).bind fun _ => (safe_readG ..).bind fun _ => (safe_readG ..).bind fun _ =>
    (safe_checkLength _).bind fun _ => (safe_checkRange ..).bind fun _ => safe_when (safe_trap ..) fun _ => safe_when (safe_needNoTemplate _) fun _ =>
    safe_ite ((safe_needHandle _).bind fun _ => safe_doneOp ..) <| (safe_needCopy _).bind fun _ => (safe_emptyRangeOf ..).bind fun _ =>
      safe_enqueueCopy ..
theorem modal_cpyc (f : CopyConv) : Modal (.cpyc f) :=
  modal_plain (i := .cpyc f) rfl fun _ _ => (safe_readG ..).bind fun _ => (safe_readG ..).bind fun _ => (safe_readG ..).bind fun _ =>
    (safe_readG ..).bind fun _ => (safe_readTslot _).bind fun _ => (safe_ite (safe_readTslot _) (safe_pure _)).bind fun _ =>
    safe_when (safe_trap ..) fun _ => safe_when (safe_trap ..) fun _ => safe_when (safe_checkRange ..) fun _ => (safe_needNoTemplate _).bind fun _ =>
    safe_ite ((safe_needHandle _).bind fun _ => safe_doneOp ..) <| (safe_needCopy _).bind fun _ => safe_getMe.bind fun _ =>
      safe_when (safe_setSeed _) fun _ => safe_get.bind fun _ => (safe_emptyDest ..).bind fun _ => safe_enqueueCopy ..
theorem modal_xinbox (f : Eng2) : Modal (.xinbox f) :=
  modal_plain (i := .xinbox f) rfl fun _ _ => (safe_readG ..).bind fun _ => (safe_readG ..).bind fun _ => (safe_localAddr ..).bind fun _ =>
    safe_when (safe_trap ..) fun _ => (safe_opCheck ..).bind fun _ => (safe_needTask _).bind fun _ => safe_get.bind fun _ =>
    safe_ite (safe_doneOp ..) <| (safe_modCluster _).bind fun _ => safe_doneOp ..
theorem modal_xsend (f : XsendOp) : Modal (.xsend f) := by
  refine modal_plain (i := .xsend f) rfl fun k _ => (safe_readG ..).bind fun _ => (safe_readG ..).bind fun _ => (safe_readG ..).bind fun _ =>
    safe_when (safe_trap ..) fun _ => (safe_opCheck ..).bind fun _ => (safe_needHandle _).bind fun _ => safe_getMe.bind fun _ =>
    safe_ite (safe_needDrained.bind fun _ => safe_doneOp ..) <| (safe_needCopy _).bind fun _ => safe_release.bind fun _ =>
      (safe_opRead ..).bind fun r => ?_
  split
  · exact safe_doneOp ..
  · exact safe_get.bind fun _ => safe_enqueueCopy ..
theorem modal_xrecv (f : XrecvOp) : Modal (.xrecv f) := by
  refine modal_plain (i := .xrecv f) rfl fun k _ => (safe_readG ..).bind fun dst => (safe_needTask _).bind fun _ => safe_get_bind fun s hs => M.Safe.at ?_ hs
  dsimp only
  split
  · exact safe_ite (safe_doneOp ..) (safe_pause _)
  · exact safe_ite (safe_doneOp ..) <| (safe_needNarrow ..).bind fun _ => (safe_opCheck ..).bind fun _ => (safe_needNoTemplate _).bind fun _ =>
      safe_set_bind (hs.of_frame rfl) fun _ => (safe_landBytes ..).bind fun _ => (safe_modCluster _).bind fun _ => safe_acquire.bind fun _ => safe_doneOp ..

/-! ### The tile engine -/

theorem modal_tslot (f : TslotOp) : Modal (.tslot f) := by
  refine modal_plain (i := .tslot f) rfl fun k _ => (safe_readG ..).bind fun _ => (safe_needHandle _).bind fun _ => (safe_loadLocal ..).bind fun bs =>
    safe_ite ?_ <| (safe_modCluster _).bind fun _ => safe_doneOp ..
  split
  · exact (safe_trap ..).bind fun _ => safe_doneOp ..
  · exact (safe_modCluster _).bind fun _ => safe_doneOp ..
theorem modal_tzero (f : AccOnly) : Modal (.tzero f) :=
  modal_plain (i := .tzero f) rfl fun _ _ => (safe_needAcc ..).bind fun _ => (safe_needTile _).bind fun _ => (safe_takeAcc _).bind fun _ => safe_enqueueTile ..
theorem modal_tldacc (f : AccLoad) : Modal (.tldacc f) :=
  modal_plain (i := .tldacc f) rfl fun _ _ => (safe_readG ..).bind fun _ => (safe_localAddr ..).bind fun _ => safe_get.bind fun _ =>
    safe_when (safe_trap ..) fun _ => (safe_needAcc ..).bind fun _ => (safe_needTile _).bind fun _ => (safe_takeAcc _).bind fun _ => safe_enqueueTile ..
theorem modal_tileMul {i : Instr} {code : Nat} {f : AccMul} (he : exec i = tileMul code f) : Modal i :=
  modal_plain he fun _ _ => (safe_readG ..).bind fun _ => (safe_readG ..).bind fun _ => (safe_readG ..).bind fun _ => (safe_namedSlots _).bind fun _ =>
    (safe_checkVersions ..).bind fun _ => safe_when (safe_trap ..) fun _ => safe_when (safe_trap ..) fun _ => safe_when (safe_trap ..) fun _ =>
    safe_when (safe_trap ..) fun _ => (safe_needAcc ..).bind fun _ => safe_ite ((safe_needHandle _).bind fun _ => safe_doneOp ..) <|
      (safe_needTile _).bind fun _ => safe_enqueueTile ..
theorem modal_tileDrain {i : Instr} {code : Nat} {names : List (BitVec 6)} {f : AccDrain} (he : exec i = tileDrain code names f) : Modal i :=
  modal_plain he fun _ _ => (safe_readG ..).bind fun _ => (safe_namedSlots _).bind fun _ => (safe_checkVersions ..).bind fun _ =>
    safe_when (safe_trap ..) fun _ => (safe_needAcc ..).bind fun _ => (safe_needNoTemplate _).bind fun _ => (safe_needTile _).bind fun _ =>
    safe_get.bind fun _ => (safe_emptyDest ..).bind fun _ => safe_enqueueTile ..
theorem modal_tqry (f : Query) : Modal (.tqry f) := modal_plain (i := .tqry f) rfl fun _ _ => safe_get.bind fun _ => safe_writeG ..

/-! ### Gather and scatter -/

theorem modal_dgeForm {i : Instr} {scatter : Bool} {f : Eng4} {accept : Word → List Byte → List Nat → M Unit} (he : exec i = dgeForm scatter f accept)
    (ha : ∀ (k : Watch) a desc idx, (accept a desc idx).Safe k) : Modal i := by
  refine modal_plain he fun k _ => (safe_readG ..).bind fun _ => (safe_readG ..).bind fun _ => (safe_readG ..).bind fun _ => (safe_readG ..).bind fun _ =>
    safe_getMe.bind fun _ => safe_when (safe_trap ..) fun _ => safe_when (safe_trap ..) fun _ => (safe_opCheck ..).bind fun _ =>
    (safe_opCheck ..).bind fun _ => (safe_needHandle _).bind fun _ => safe_get.bind fun _ => safe_when (safe_block _) fun _ =>
    safe_needDrained.bind fun _ => (safe_modify fun t => stance_setMe ?_ ?_).bind fun _ => (safe_opRead ..).bind fun x => (safe_opRead ..).bind fun y => ?_
  · unfold Slot.noteDge
    split <;> rfl
  · unfold Slot.noteDge
    split <;> rfl
  · split
    · exact safe_doneOp ..
    · exact safe_doneOp ..
    · exact safe_ite (safe_doneOp ..) (ha ..)
/-- A gather whose descriptor is well formed. -/
def acceptGather (f : Eng4) (dst : Word) (desc : List Byte) (idx : List Nat) : M Unit := do
  let n := idx.length * (GatherDesc.ofBytes desc).rowb
  opCheck dst n 8
  needNoTemplate [(dst.toNat, n)]
  emptyDest (clusterOf (← get).cur) [(dst.toNat, n)]
  enqueueDge f.hd false desc idx [] dst.toNat
/-- A scatter-add whose descriptor is well formed. -/
def acceptScatter (f : Eng4) (src : Word) (desc : List Byte) (idx : List Nat) : M Unit := do
  let n := idx.length * (GatherDesc.ofBytes desc).rowb
  opCheck src n 1
  match ← opRead src n 2 with
  | .error w => doneOp f.hd w
  | .ok bs => enqueueDge f.hd true desc idx bs src.toNat
theorem modal_gather (f : Eng4) : Modal (.gather f) :=
  modal_dgeForm (i := .gather f) (accept := acceptGather f) rfl fun _ _ _ _ => (safe_opCheck ..).bind fun _ => (safe_needNoTemplate _).bind fun _ =>
    safe_get.bind fun _ => (safe_emptyDest ..).bind fun _ => safe_enqueueDge ..
theorem modal_scatadd (f : Eng4) : Modal (.scatadd f) := by
  refine modal_dgeForm (i := .scatadd f) (accept := acceptScatter f) rfl fun k a desc idx => (safe_opCheck ..).bind fun _ => (safe_opRead ..).bind fun r => ?_
  split
  · exact safe_doneOp ..
  · exact safe_enqueueDge ..
theorem modal_idemb (f : Plain) : Modal (.idemb f) := modal_plain (i := .idemb f) rfl fun _ _ => safe_modify fun _ => stance_setMe rfl rfl
theorem modal_ideme (f : Plain) : Modal (.ideme f) := modal_plain (i := .ideme f) rfl fun _ _ => safe_modMe fun _ => ⟨rfl, rfl⟩

/-! ### The task units -/

theorem modal_enq (f : Eng2) : Modal (.enq f) :=
  modal_plain (i := .enq f) rfl fun _ _ => (safe_readG ..).bind fun _ => (safe_readG ..).bind fun _ => (safe_opCheck ..).bind fun _ =>
    (safe_needTask _).bind fun _ => safe_release.bind fun _ => safe_withRecord _ _ fun _ => safe_sendUnit ..
theorem modal_enqres (f : Eng1) : Modal (.enqres f) :=
  modal_plain (i := .enqres f) rfl fun _ _ => (safe_readG ..).bind fun _ => (safe_needTask _).bind fun _ => safe_sendUnit ..
theorem modal_enqpub (f : Eng3) : Modal (.enqpub f) :=
  modal_plain (i := .enqpub f) rfl fun _ _ => (safe_readG ..).bind fun _ => (safe_readG ..).bind fun _ => (safe_readG ..).bind fun _ =>
    (safe_opCheck ..).bind fun _ => (safe_needTask _).bind fun _ => safe_release.bind fun _ => safe_withRecord _ _ fun _ => safe_sendUnit ..
theorem modal_dcnew (f : Eng4) : Modal (.dcnew f) :=
  modal_plain (i := .dcnew f) rfl fun _ _ => (safe_readG ..).bind fun _ => (safe_readG ..).bind fun _ => (safe_readG ..).bind fun _ =>
    (safe_readG ..).bind fun _ => (safe_opCheck ..).bind fun _ => (safe_needTask _).bind fun _ => safe_release.bind fun _ =>
    safe_withRecord _ _ fun _ => safe_sendUnit ..
theorem modal_dcdec (f : Eng1) : Modal (.dcdec f) :=
  modal_plain (i := .dcdec f) rfl fun _ _ => (safe_readG ..).bind fun _ => (safe_needTask _).bind fun _ => safe_release.bind fun _ => safe_sendUnit ..
theorem modal_dcadd (f : Eng2) : Modal (.dcadd f) :=
  modal_plain (i := .dcadd f) rfl fun _ _ => (safe_readG ..).bind fun _ => (safe_readG ..).bind fun _ => (safe_needTask _).bind fun _ =>
    safe_release.bind fun _ => safe_sendUnit ..
theorem modal_taskdep (f : Eng3) : Modal (.taskdep f) :=
  modal_plain (i := .taskdep f) rfl fun _ _ => (safe_readG ..).bind fun _ => (safe_readG ..).bind fun _ => (safe_readG ..).bind fun _ =>
    (safe_opCheck ..).bind fun _ => (safe_opCheck ..).bind fun _ => (safe_needTask _).bind fun _ => safe_release.bind fun _ =>
    safe_withRecord _ _ fun _ => safe_withRecord _ _ fun _ => safe_sendUnit ..
theorem modal_taskdepReg (f : Eng1) : Modal (.taskdepReg f) :=
  modal_plain (i := .taskdepReg f) rfl fun _ _ => (safe_readG ..).bind fun _ => (safe_needTask _).bind fun _ => safe_release.bind fun _ =>
    safe_get.bind fun _ => safe_sendUnit ..
theorem modal_taskdepUnreg (f : Eng1) : Modal (.taskdepUnreg f) :=
  modal_plain (i := .taskdepUnreg f) rfl fun _ _ => (safe_readG ..).bind fun _ => (safe_needTask _).bind fun _ => safe_release.bind fun _ =>
    safe_get.bind fun _ => safe_sendUnit ..
theorem modal_deq (f : DeqOp) : Modal (.deq f) := by
  refine modal_plain (i := .deq f) rfl fun k _ => (safe_readG ..).bind fun q => (safe_readG ..).bind fun dst => (safe_opCheck ..).bind fun _ =>
    (safe_needNoTemplate _).bind fun _ => (safe_needTask _).bind fun _ => safe_get_bind fun s hs => M.Safe.at (safe_when (safe_block _) fun _ => ?_) hs
  split
  · exact safe_doneOp ..
  · split
    · exact safe_ite (safe_doneOp ..) (safe_pause _)
    · next r _ =>
      have htake := frame_takeHead s q.toNat r
      refine (safe_needNarrow ..).bind fun _ => ?_
      split
      · exact safe_block _
      · next h => exact safe_set_bind (hs.of_frame (frame_fail htake h)) fun _ => safe_doneOp ..
      · next h => exact safe_set_bind (hs.of_frame (frame_ok htake h)) fun _ => (safe_landBytes ..).bind fun _ =>
          (safe_modify_frame fun _ => frame_dropDep ..).bind fun _ => safe_acquire.bind fun _ => safe_doneOp ..

/-! ### Handles -/

theorem modal_fwait (f : HandleRead) : Modal (.fwait f) := by
  refine modal_plain (i := .fwait f) rfl fun k _ => (safe_needUsed _).bind fun h => ?_
  split
  · exact safe_acquire.bind fun _ => safe_writeG ..
  · exact safe_block _
theorem modal_ftest (f : HandleRead) : Modal (.ftest f) := by
  refine modal_plain (i := .ftest f) rfl fun k _ => (safe_needUsed _).bind fun h => ?_
  split
  · exact safe_acquire.bind fun _ => safe_writeP ..
  · exact safe_writeP ..
theorem modal_fcancel (f : HandleOnly) : Modal (.fcancel f) := by
  refine modal_plain (i := .fcancel f) rfl fun k _ => (safe_needUsed _).bind fun h => ?_
  split
  · next op =>
    refine safe_get_bind fun s hs => ?_
    have hrun : k.Runs (s.cancelOp op) := hs.of_frame (frame_cancelOp ..)
    exact M.Safe.at (safe_when ⟨⟨fun _ _ => keepsAt_done (hrun.ended_wait ..)⟩⟩ fun _ => ⟨⟨fun _ _ => keepsAt_set hrun⟩⟩) hs
  · exact safe_pure _
theorem modal_fexp (f : HandleRead) : Modal (.fexp f) :=
  modal_plain (i := .fexp f) rfl fun _ _ => (safe_needUsed _).bind fun _ => safe_get_bind fun _ hs =>
    keepsAt_set_bind (hs.of_frame (frame_exportOp ..)) fun _ => safe_writeG ..
theorem modal_fimp (f : HandleImport) : Modal (.fimp f) := by
  refine modal_plain (i := .fimp f) rfl fun k _ => (safe_readG ..).bind fun t => safe_get.bind fun s => ?_
  split
  · exact safe_trap ..
  · exact (safe_needHandle _).bind fun _ => safe_modify_frame fun _ => frame_importOp ..

end Sys2Proof.Machine

/-! ### The instructions of items, domains and strands (R153 to R169, R277 to R306, R335 to R351, R360 to R369) -/

namespace Sys2Proof.Machine

/-! ### Items and task records -/

theorem modal_freeze (f : FreezeOp) : Modal (.freeze f) := by
  refine modal_instr (i := .freeze f) rfl fun k _ => (safe_targetOf _).bind fun _ => (safe_checkTarget _).bind fun _ => (safe_readG ..).bind fun _ =>
    (safe_readG ..).bind fun _ => safe_ite (safe_pure _) <| safe_get.bind fun _ => M.Safe.bind ?_ fun _ => safe_needDrained.bind fun _ =>
    safe_nextPc.bind fun _ => safe_get_bind fun s hs => keepsAt_done (hs.ended_free rfl (congrArg Slot.phase (State.slot_setSlot_self ..)))
  unfold freezeCheck
  refine safe_get.bind fun s => safe_when (safe_trap ..) fun _ => ?_
  split
  · exact safe_trap ..
  · refine safe_ite ?_ (safe_pure _)
    refine safe_when (safe_trap ..) fun _ => safe_when (safe_trap ..) fun _ => ?_
    split
    · exact (safe_trap ..).bind fun _ => safe_pure _
    · exact safe_pure _
theorem frame_sendDone (s : State) (sid : Nat) : (s.sendDone sid).frame = s.frame := by
  unfold State.sendDone
  dsimp only
  split <;> rfl
theorem modal_retire (f : Plain) : Modal (.retire f) := by
  refine modal_plain (i := .retire f) rfl fun k _ => safe_getMe.bind fun _ => safe_when (safe_block _) fun _ => safe_release.bind fun _ =>
    safe_get_bind fun s hs => keepsAt_done (hs.ended_free ?_ (congrArg Slot.phase (State.slot_setSlot_self ..)))
  refine (State.cur_of_frame (?_ : State.frame (State.sendDone _ _) = s.frame) :)
  exact ((frame_sendDone ..).trans ((frame_endItem ..).trans ((frame_setCore ..).trans (frame_endRecord ..))))
theorem modal_yield (f : Plain) : Modal (.yield f) := modal_plain (i := .yield f) rfl fun _ _ => safe_modMe fun _ => ⟨rfl, rfl⟩
theorem modal_itemq (f : Query) : Modal (.itemq f) := modal_plain (i := .itemq f) rfl fun _ _ => safe_get.bind fun _ => safe_writeG ..
theorem safe_workBody {k : Watch} : workBody.Safe k := by
  refine safe_getMe.bind fun _ => safe_when (safe_block _) fun _ => safe_get_bind fun s hs => keepsAt_done ?_
  unfold State.joinWork
  exact (hs.of_frame (frame_setDisp ..)).ended_wait ..
theorem modal_work (f : Plain) : Modal (.work f) := modal_plain (i := .work f) rfl fun _ _ => safe_workBody
theorem modal_done (f : Plain) : Modal (.done f) :=
  modal_plain (i := .done f) rfl fun _ _ => safe_getMe.bind fun _ => safe_when (safe_block _) fun _ => safe_getMe.bind fun _ => safe_ite
    (safe_release.bind fun _ => (safe_modify_frame fun _ => frame_endRecord ..).bind fun _ => safe_workBody) safe_workBody

/-! ### Synchronisation -/

section
variable {k : Watch}

theorem safe_domainResult (hk : k.whole = true) (kind : TreeKind) (op : TreeOp) (w : Word) {before : M Unit} (hbefore : before.Safe k) :
    (domainResult kind op w before).Safe k := by
  refine safe_getMe.bind fun x => safe_ite (hbefore.bind fun _ => safe_pure _) <| safe_get.bind fun _ => safe_get.bind fun _ => ?_
  split
  · exact safe_modMe_bind (fun _ => ⟨rfl, rfl⟩) fun _ => safe_pure _
  · refine safe_get_bind fun s hs => keepsAt_done (Watch.Runs.ended_trap (hs.setMe ?_) hk _)
    exact ⟨rfl, rfl⟩
  · refine safe_when (safe_pause _) fun _ => hbefore.bind fun _ => safe_get_bind fun s hs => keepsAt_done ?_
    unfold State.contribute
    refine Watch.Runs.ended_wait (Watch.Runs.setMe (hs.of_frame ?_) ?_) ..
    · rfl
    · exact ⟨rfl, rfl⟩
theorem safe_beforeSync (x : Slot) (sync : Bool) : (beforeSync x sync).Safe k := by
  unfold beforeSync
  exact safe_get.bind fun _ => safe_when (safe_block _) fun _ => safe_fenceBody _
theorem safe_afterSync : afterSync.Safe k := safe_acquire.bind fun _ => safe_discardAhead
theorem safe_turnPhase : (modMe Slot.turnPhase).Safe k := safe_modMe fun _ => ⟨rfl, rfl⟩
end

theorem frame_expectMore (s : State) (cl n : Nat) : (s.expectMore cl n).frame = s.frame := by
  unfold State.expectMore
  split <;> rfl
theorem frame_missWords (s : State) (die : Nat) (vec : NMap Nat) (member : Nat → Bool) : (s.missWords die vec member).frame = s.frame :=
  frame_foldl (fun _ _ => frame_setCluster ..) _ _
theorem modal_sync (f : Plain) : Modal (.sync f) :=
  modal_plain (i := .sync f) rfl fun _ hk => safe_getMe.bind fun _ => (safe_domainResult hk _ _ _ (safe_beforeSync ..)).bind fun _ =>
    safe_afterSync.bind fun _ => safe_ite (safe_getMe.bind fun _ => safe_get.bind fun _ =>
      (safe_modify_frame fun _ => (frame_missWords ..).trans (frame_expectMore ..)).bind fun _ => safe_turnPhase) safe_turnPhase
theorem modal_syncX (f : Un) : Modal (.syncX f) :=
  modal_plain (i := .syncX f) rfl fun _ hk => (safe_readG ..).bind fun _ => safe_getMe.bind fun _ =>
    (safe_domainResult hk _ _ _ (safe_beforeSync ..)).bind fun _ => safe_afterSync.bind fun _ => (safe_writeG ..).bind fun _ =>
    safe_modMe fun _ => ⟨rfl, rfl⟩
theorem modal_voteForm {i : Instr} {op : TreeOp} {f : Un} (he : exec i = voteForm op f) : Modal i :=
  modal_plain he fun _ hk => (safe_readG ..).bind fun _ => (safe_domainResult hk _ _ _ (safe_pure _)).bind fun _ => (safe_writeG ..).bind fun _ =>
    safe_getMe.bind fun _ => safe_ite safe_turnPhase (safe_pure _)

/-! ### System registers (R149) -/

section
variable {k : Watch}

theorem safe_modeField (v : Nat) : (modeField v).Safe k :=
  safe_getMe.bind fun _ => safe_ite (safe_pure _) <| safe_freshWord.bind fun _ => safe_pure _
theorem safe_readShared (s : State) (n : Nat) : (s.readShared n).Safe k := by
  unfold State.readShared
  dsimp only
  split
  case h_6 | h_17 | h_19 => exact (safe_modeField _).bind fun _ => safe_pure _
  case h_26 => exact safe_ite (safe_pure _) (safe_pure _)
  all_goals exact safe_pure _
theorem safe_popMsg : popMsg.Safe k := by
  refine safe_getMe.bind fun x => ?_
  split
  · exact safe_pure _
  · exact safe_modMe_bind (fun _ => ⟨rfl, rfl⟩) fun _ => safe_pure _
theorem safe_readSys (n : Nat) : (readSys n).Safe k := by
  refine safe_get.bind fun s => safe_ite (safe_pure _) <| safe_ite safe_popMsg ?_
  split
  · exact safe_pure _
  · exact safe_readShared ..
theorem safe_needView (n : Nat) (view : Mode) : (needView n view).Safe k := safe_getMe.bind fun _ => safe_ite (safe_pure _) (safe_trap ..)
theorem safe_mtCommand (v : Word) : (mtCommand v).Safe k := by
  have hput : ∀ err : Bool, (modMe fun x => { x with
      ports := { x.ports with mtcmd := mtStored v err }, sched := { x.sched with reply := .none } }).Safe k :=
    fun _ => safe_modMe fun _ => ⟨rfl, rfl⟩
  refine safe_get_bind fun s hs => M.Safe.at (safe_ite (hput _) <| safe_ite (hput _) <| safe_ite (hput _) ?_) hs
  refine ⟨⟨fun _ _ => keepsAt_done ?_⟩⟩
  unfold State.startOp
  exact (hs.of_frame (frame_sendPlace { s with nextOp := s.nextOp + 1 } ..)).ended_wait ..
end

/-- A write of STATUS leaves PRIV (R150). -/
theorem privOf_writeStatus (x : Slot) (v : Word) : privOf (x.writeStatus v) = x.mode := by
  have hfield : ∀ m : Word, m.extractLsb' 0 2 = 0 → field (mergeBits m x.ctl.status v) 0 2 = field x.ctl.status 0 2 := by
    intro m hm
    have hbit : ∀ j, j < 2 → m.getLsbD j = false := fun j hj => by
      have := congrArg (·.getLsbD j) hm
      simpa [hj] using this
    refine BitVec.eq_of_getLsbD_eq fun j hj => ?_
    have hj' := hbit j hj
    rw [BitVec.getLsbD_eq_getElem (by omega)] at hj'
    simp [field, mergeBits, hj', hj, show j < 64 by omega]
  rw [Slot.writeStatus, privOf_fixStatus, Slot.mode, privOf, privOf, hfield]
  split <;> decide
theorem writeReg_mode {x y : Slot} {n : Nat} {v : Word} (h : x.writeReg n v = some y) : y.phase = x.phase ∧ privOf y.ctl.status = privOf x.ctl.status := by
  unfold Slot.writeReg at h
  dsimp only at h
  split at h
  case h_1 =>
    cases h
    exact ⟨rfl, privOf_writeStatus x v⟩
  case h_17 =>
    split at h
    · cases h
      exact ⟨rfl, rfl⟩
    · split at h
      · cases h
        exact ⟨rfl, rfl⟩
      · split at h
        · cases h
          exact ⟨rfl, rfl⟩
        · split at h
          · cases h
            exact ⟨rfl, rfl⟩
          · cases h
  all_goals
    cases h
    exact ⟨rfl, rfl⟩

theorem stance_modPorts (s : State) (f : SlotPorts → SlotPorts) : (s.modPorts f).stance = s.stance := stance_setMe rfl rfl
theorem stance_writeQsel (s : State) (v : Word) : (s.writeQsel v).stance = s.stance := by
  have hset : ∀ (q : Nat) (x : Queue) (f : SlotPorts → SlotPorts), ((s.setQueue q x).modPorts f).stance = s.stance :=
    fun q x f => (stance_modPorts ..).trans (stance_of_frame (frame_setUnit ..))
  unfold State.writeQsel
  dsimp only
  split
  · exact stance_modPorts ..
  · exact stance_modPorts ..
  · unfold State.queueWrite
    dsimp only
    split
    · exact stance_modPorts ..
    · exact hset ..
  · unfold State.coreReadmit
    dsimp only
    split
    · exact (stance_modPorts ..).trans (stance_of_frame (frame_setCore ..))
    · exact stance_modPorts ..
  · exact hset ..
  · exact stance_modPorts ..
theorem stance_swapGo (s : State) : s.swapGo.stance = s.stance := by
  unfold State.swapGo
  dsimp only
  split
  · rfl
  · exact (stance_of_frame (frame_setDie ..)).trans (stance_setMe rfl rfl)
theorem stance_writeShared (s : State) (n : Nat) (v : Word) : (s.writeShared n v).stance = s.stance := by
  unfold State.writeShared
  dsimp only
  split
  · unfold State.writeBwphase
    refine (stance_setMe ?_ ?_).trans (stance_of_frame (frame_setCluster ..))
    · rfl
    · rfl
  · rfl
  · exact stance_writeQsel ..
  · rfl
  · rfl
  · unfold State.writeLogctl
    dsimp only
    split <;> rfl
  · rfl
  · split
    · exact stance_swapGo s
    · rfl
  · rfl
  · split <;> rfl
  · split <;> rfl
  · rfl
  · rfl
  · rfl
  · split <;> rfl

section
variable {k : Watch}
/-- A write of a system register leaves the mode. -/
theorem safe_writeSys (hk : k.whole = false) (n : Nat) (v : Word) : (writeSys n v).Safe k := by
  refine safe_get_bind fun s hs => M.Safe.at (safe_ite (safe_pure _) <| safe_ite (safe_ite (safe_seekStream ..) (safe_pure _)) <|
    safe_ite (safe_mtCommand v) ?_) hs
  split
  · next x h =>
    obtain ⟨hphase, hmode⟩ := writeReg_mode h
    refine ⟨⟨fun _ _ => keepsAt_set ⟨hs.cur, ?_, ?_, fun hw => absurd (hk.symm.trans hw) Bool.false_ne_true⟩⟩⟩
    · rw [State.me_setMe, hphase]
      exact hs.ready
    · rw [State.me_setMe, hmode]
      exact hs.sees.1
  · exact ⟨⟨fun _ _ => keepsAt_set (hs.of_stance (stance_writeShared ..))⟩⟩
end

theorem modal_mfs (f : SysRead) : Modal (.mfs f) :=
  modal_priv (i := .mfs f) rfl (fun _ _ => safe_needView ..) fun _ _ => (safe_readSys _).bind fun _ => (safe_writeG ..).bind fun _ => safe_pure _
theorem modal_mts (f : SysWrite) : Modal (.mts f) :=
  modal_watched (i := .mts f) false rfl (fun _ _ => safe_needView ..) fun _ hk => (safe_readG ..).bind fun _ => (safe_writeSys hk ..).bind fun _ => safe_pure _
theorem modal_sysModify {i : Instr} {fn : Word → Word → Word} {f : SysMod} (he : exec i = sysModify fn f) : Modal i :=
  modal_watched false he (fun _ _ => (safe_needView ..).bind fun _ => safe_needView ..) fun _ hk => (safe_readG ..).bind fun _ =>
    (safe_readSys _).bind fun _ => (safe_writeSys hk ..).bind fun _ => (safe_writeG ..).bind fun _ => safe_pure _

/-! ### Calls, waits and maintenance -/

theorem modal_service {i : Instr} {cause : Nat} {f : Service} (he : exec i = service cause f) : Modal i := modal_plain he fun _ _ => safe_trap ..
theorem modal_wfi (f : Plain) : Modal (.wfi f) :=
  modal_plain (i := .wfi f) rfl fun _ _ => safe_getMe.bind fun _ => safe_get.bind fun _ => safe_ite (safe_modMe fun _ => ⟨rfl, rfl⟩) <|
    safe_ite (safe_block _) (safe_pure _)
theorem modal_fenceI (f : Plain) : Modal (.fenceI f) := modal_plain (i := .fenceI f) rfl fun _ _ => safe_release.bind fun _ => safe_modCore _
theorem frame_invalidate (s : State) (x : TlbScope) : (s.invalidate x).frame = s.frame := by
  have hlines : ((s.cores.map (·.1)).foldl (fun t c => t.evictLines c fun l => x.line l) s).frame = s.frame :=
    frame_foldl (fun t c => frame_evictLines t c fun l => x.line l) _ _
  exact hlines
theorem modal_tlbinv (f : Src2) : Modal (.tlbinv f) :=
  modal_priv (i := .tlbinv f) rfl (fun _ _ => safe_needSM _) fun _ _ => (safe_readG ..).bind fun _ => (safe_readG ..).bind fun _ =>
    (safe_finishing <| safe_get_bind fun _ hs => M.Safe.at (safe_when (safe_block _) fun _ =>
      ⟨⟨fun _ _ => keepsAt_set (hs.of_frame (frame_invalidate ..))⟩⟩) hs).bind fun _ => safe_pure _
theorem modal_ptsync (f : Un) : Modal (.ptsync f) :=
  modal_priv (i := .ptsync f) rfl (fun _ _ => safe_needSM _) fun _ _ => (safe_readG ..).bind fun _ => (safe_finishing safe_release).bind fun _ =>
    safe_get_bind fun _ hs => keepsAt_set_bind (hs.of_frame (frame_setDie ..)) fun _ => (safe_writeG ..).bind fun _ => safe_pure _
theorem modal_ipi (f : Bin) : Modal (.ipi f) := by
  refine modal_priv (i := .ipi f) rfl (fun _ _ => safe_needSM _) fun k _ => (safe_readG ..).bind fun _ => (safe_readG ..).bind fun b =>
    safe_get_bind fun s hs => M.Safe.at ?_ hs
  split
  · exact safe_modMe_bind (fun _ => ⟨rfl, rfl⟩) fun _ => (safe_writeG ..).bind fun _ => safe_pure _
  · split
    · exact (safe_writeG ..).bind fun _ => safe_pure _
    · refine M.Safe.bind ⟨⟨fun _ _ => keepsAt_done ?_⟩⟩ fun _ => safe_pure _
      unfold State.sendIpi
      refine Watch.Runs.ended_wait (hs.of_frame ?_) ..
      rfl

/-! ### The side log replayed (R360) -/

theorem frame_replayStrand (core ctx : Nat) (left : Word) (fuel : Nat) (s : State) : (State.replayStrand core ctx left fuel s).st.frame = s.frame := by
  induction fuel generalizing s with
  | zero => rfl
  | succ fuel ih =>
    unfold State.replayStrand
    split
    · rfl
    · split
      · rfl
      · split
        · rfl
        · dsimp only
          split
          · next h => exact (ih _).trans ((frame_performHome ..).trans ((frame_setCore ..).trans (frame_xlatBytes h)))
          · next h => exact frame_xlatBytes h
          · next h => exact frame_xlatBytes h
          · next h =>
            split
            · exact (frame_sendLog ..).trans ((frame_setCore ..).trans (frame_xlatBytes h))
            · exact (frame_setCore ..).trans (frame_xlatBytes h)
theorem frame_replayAll (core : Nat) (ctxs : List Nat) (left : Word) (s : State) : (State.replayAll core ctxs left s).st.frame = s.frame := by
  induction ctxs generalizing left s with
  | nil => rfl
  | cons ctx ctxs ih => exact (ih ..).trans (frame_replayStrand ..)
theorem modal_logreplay (f : Un) : Modal (.logreplay f) := by
  refine modal_priv (i := .logreplay f) rfl (fun _ _ => safe_needSM _) fun k _ => (safe_readG ..).bind fun gen => safe_get_bind fun s hs => M.Safe.at ?_ hs
  have hrun : k.Runs (State.replayAll (coreOf s.cur) (s.core (coreOf s.cur)).logCtxs (s.me.sched.reply.getD 0) s).st := hs.of_frame (frame_replayAll ..)
  refine safe_ite ((safe_writeG ..).bind fun _ => safe_pure _) ?_
  dsimp only
  split
  · refine M.Safe.bind ⟨⟨fun _ _ => keepsAt_done (Watch.Runs.ended_wait (hrun.setMe ?_) ..)⟩⟩ fun _ => safe_pure _
    exact ⟨rfl, rfl⟩
  · exact safe_set_bind hrun fun _ => safe_modMe_bind (fun _ => ⟨rfl, rfl⟩) fun _ => (safe_writeG ..).bind fun _ => safe_pure _

end Sys2Proof.Machine

/-! ### Strands halted, started, killed, saved and loaded (R165 to R167, R367 to R369), and O60 -/

namespace Sys2Proof.Machine

/-! ### What is done to another strand -/

section
variable {s : State} {sid : Nat} {a : Word}

theorem target_ne (h : s.target a = .ok sid) : sid ≠ s.cur := by
  unfold State.target at h
  split at h
  · cases h
  · split at h
    · cases h
    · split at h
      · cases h
      · cases h
        assumption
theorem slotNamed_low (h : s.slotNamed a = some sid) : sid = natField a 0 16 := by
  unfold State.slotNamed namedSlot at h
  dsimp only at h
  split at h
  · exact ((Option.filter_eq_some_iff.mp h).1 |> Option.some.inj).symm
  · cases h
/-- A strand starts on a FREE slot only (R166). -/
theorem startStatus_free {e : Word} {bs : List Byte} (h : s.startStatus a e bs = none) : (s.slot (natField a 0 16)).phase = .free := by
  cases hname : s.slotNamed a with
  | none =>
    rw [startStatus_unnamed hname] at h
    cases h
  | some sid =>
    have hbad : startBlockBad bs = false := by
      by_contra hbad
      rw [startStatus_bad hname (Bool.not_eq_false _ ▸ hbad)] at h
      cases h
    rw [startStatus_covered hname hbad fun hc => by
      rw [startStatus_uncovered hname hbad hc] at h
      cases h] at h
    rw [← slotNamed_low hname]
    by_contra hbusy
    rw [if_pos hbusy] at h
    cases h

theorem stance_askHalt (h : sid ≠ s.cur) (hsusp : (s.slot sid).phase.isSuspended = false) : (s.askHalt sid).stance = s.stance := by
  obtain ⟨-, hother, hcur⟩ := askHalt_frame s hsusp
  exact stance_of_slot hcur (congrArg Slot.bare (hother _ h.symm))
theorem stance_resumeSlot (h : sid ≠ s.cur) (hsusp : (s.slot sid).phase.isSuspended = true) : (s.resumeSlot sid).stance = s.stance := by
  obtain ⟨-, hother, hcur, -⟩ := resumeSlot_frame s hsusp
  exact stance_of_slot hcur (congrArg Slot.bare (hother _ h.symm))
theorem stance_startStrand (h : sid ≠ s.cur) (e : Word) (bs : List Byte) (asid : Word) : (s.startStrand sid e bs asid).stance = s.stance := by
  obtain ⟨-, hother, hcur, -⟩ := startStrand_frame s sid e bs asid
  exact stance_of_slot hcur (congrArg Slot.bare (hother _ h.symm))
theorem stance_killSlot (h : sid ≠ s.cur) : (s.killSlot sid).stance = s.stance := by
  obtain ⟨u, hu, hkill⟩ := killSlot_eq s sid
  have hne : sid ≠ u.cur := by rwa [State.cur_of_frame hu]
  rw [hkill]
  exact (stance_setSlot_ne hne).trans (stance_of_frame hu)
theorem stance_loadImage (h : sid ≠ s.cur) (bs : List Byte) : (s.loadImage sid bs).stance = s.stance := by
  obtain ⟨hcur, -, hother, -⟩ := loadImage_strands s sid bs
  exact stance_of_slot hcur (hother _ h.symm)
end

/-! ### The forms -/

theorem modal_preemptHalt (f : Bin) : Modal (.preemptHalt f) := by
  refine modal_priv (i := .preemptHalt f) rfl (fun _ _ => safe_needSM _) fun k _ => (safe_readG ..).bind fun a => (safe_readG ..).bind fun b =>
    safe_get_bind fun s hs => M.Safe.at ?_ hs
  split
  · exact safe_modMe_bind (fun _ => ⟨rfl, rfl⟩) fun _ => (safe_writeG ..).bind fun _ => safe_pure _
  · exact (safe_writeG ..).bind fun _ => safe_pure _
  · next sid _ htarget =>
    have hne := target_ne htarget
    dsimp only
    split
    · split
      · next hsusp => exact safe_set_bind (hs.of_stance (stance_resumeSlot hne hsusp)) fun _ => (safe_writeG ..).bind fun _ => safe_pure _
      · exact (safe_writeG ..).bind fun _ => safe_pure _
    · split
      · exact (safe_writeG ..).bind fun _ => safe_pure _
      · next hsusp =>
        have hask : k.Runs (s.askHalt sid) := hs.of_stance (stance_askHalt hne (Bool.not_eq_true _ ▸ hsusp))
        exact M.Safe.bind ⟨⟨fun _ _ => keepsAt_done (hask.ended_wait ..)⟩⟩ fun _ => safe_pure _
theorem modal_strandnew (f : Tri) : Modal (.strandnew f) := by
  refine modal_priv (i := .strandnew f) rfl (fun _ _ => safe_needSM _) fun k _ => (safe_readG ..).bind fun a => (safe_readG ..).bind fun e =>
    (safe_readG ..).bind fun b => (safe_loadGlobal ..).bind fun bs => safe_getMe.bind fun x => safe_when (safe_trap ..) fun _ =>
    safe_get_bind fun s hs => ?_
  split
  · exact M.Safe.at ((safe_writeG ..).bind fun _ => safe_pure _) hs
  · next hstart =>
    have hne : natField a 0 16 ≠ s.cur := fun h => by
      have hfree := startStatus_free hstart
      rw [h] at hfree
      exact absurd (hfree.symm.trans hs.ready) (by decide)
    refine keepsAt_bind (keepsAt_ok (M.modify_run _ s) (hs.of_stance (stance_startStrand hne ..))) fun _ => M.Safe.keeps ?_
    exact (safe_writeG ..).bind fun _ => safe_pure _
theorem modal_strandkill (f : Un) : Modal (.strandkill f) := by
  refine modal_priv (i := .strandkill f) rfl (fun _ _ => safe_needSM _) fun k _ => (safe_readG ..).bind fun a => safe_get_bind fun s hs =>
    M.Safe.at ?_ hs
  split
  · exact (safe_writeG ..).bind fun _ => safe_pure _
  · next sid _ =>
    split
    · next hself =>
      obtain ⟨u, hu, hkill⟩ := killSlot_eq s sid
      refine M.Safe.bind ⟨⟨fun _ _ => keepsAt_done (hs.ended_free ?_ ?_)⟩⟩ fun _ => safe_pure _
      · rw [hkill]
        exact (State.cur_of_frame hu : u.cur = s.cur)
      · rw [hkill, ← hself, State.freeSlot, State.slot_setSlot_self]
        rfl
    · next hne =>
      split
      · exact (safe_writeG ..).bind fun _ => safe_pure _
      · exact safe_set_bind (hs.of_stance (stance_killSlot hne)) fun _ => (safe_writeG ..).bind fun _ => safe_pure _

section
variable {k : Watch}

theorem safe_onSuspended (a : Word) {act : Nat → M Nat} (hact : ∀ (s : State) (sid : Nat), k.Runs s → sid ≠ s.cur → (act sid).KeepsAt k.Runs k.Ended s) :
    (onSuspended a act).Safe k := by
  refine safe_get_bind fun s hs => ?_
  split
  · exact (safe_pure _).at hs
  · next sid htarget =>
    split
    · exact hact s sid hs (target_ne htarget)
    · exact (safe_pure _).at hs
omit k in
theorem stance_imageStored (u : State) (sid : Nat) (x : Slot) (toks : List Word) (base : Nat) (pas : List Nat) :
    (u.imageStored sid x toks base pas).stance = u.stance := by
  have hstrands := imageStored_strands u sid x toks base pas
  generalize u.imageStored sid x toks base pas = t at hstrands ⊢
  obtain ⟨hcur, -, hslots⟩ := hstrands
  exact stance_of_slot hcur (congrArg Slot.bare (hslots _))
theorem safe_saveContext (sid : Nat) (ea : Word) : (saveContext sid ea).Safe k := by
  refine safe_get.bind fun s => safe_when (safe_block _) fun _ => (safe_gCheck ..).bind fun _ => safe_needDrained.bind fun _ =>
    M.Safe.bind ⟨keeps_xlatLines k.framing ..⟩ fun pas => (safe_modify_frame fun t => ?_).bind fun _ => safe_get_bind fun t ht => ?_
  · exact frame_foldl (fun _ _ => frame_dropLineOf ..) _ t
  · have hexport := frame_exportAll t sid
    generalize t.exportAll sid = r at hexport ⊢
    obtain ⟨toks, u⟩ := r
    have hu : k.Runs u := ht.of_frame hexport
    have hstored : k.Runs (u.imageStored sid (s.slot sid) toks (s.itemBase (s.slot sid)) pas) :=
      hu.of_stance (stance_imageStored ..)
    exact keepsAt_set hstored
theorem loadContext_keepsAt {s : State} {sid : Nat} (hs : k.Runs s) (hne : sid ≠ s.cur) (ea : Word) : (loadContext sid ea).KeepsAt k.Runs k.Ended s := by
  rw [hs.cur] at hne
  refine M.Safe.at (M.Safe.bind ⟨keeps_loadLines k.framing ..⟩ fun head => M.Safe.bind (safe_ite (M.Safe.bind ⟨keeps_loadLines k.framing ..⟩ fun _ => safe_pure _)
    (safe_pure _)) fun bs => safe_get_bind fun t ht => M.Safe.at ?_ ht) hs
  refine safe_ite (safe_pure _) <| safe_ite (safe_pure _) <| safe_ite ?_ <| safe_ite (safe_pure _) (safe_block _)
  exact safe_set_bind (ht.of_stance (stance_loadImage (ht.cur.symm ▸ hne) bs)) fun _ => safe_pure _
end

/-- `ctxsave` and `ctxload`: what is done to the slot they name leaves the strand that issues. -/
theorem modal_contextForm {i : Instr} {f : Bin} {act : Word → Nat → M Nat} (he : exec i = contextForm f act)
    (hact : ∀ (k : Watch) (ea : Word) (s : State) (sid : Nat), k.Runs s → sid ≠ s.cur → (act ea sid).KeepsAt k.Runs k.Ended s) : Modal i :=
  modal_priv he (fun _ _ => safe_needSM _) fun k _ => (safe_readG ..).bind fun _ => (safe_readG ..).bind fun ea =>
    (safe_finishing (safe_onSuspended _ (hact k ea))).bind fun _ => (safe_writeG ..).bind fun _ => safe_pure _
theorem modal_ctxsave (f : Bin) : Modal (.ctxsave f) :=
  modal_contextForm (funext (exec_ctxsave f)) fun _ _ _ _ hs _ => M.Safe.at ((safe_saveContext ..).bind fun _ => safe_pure _) hs
theorem modal_ctxload (f : Bin) : Modal (.ctxload f) :=
  modal_contextForm (funext (exec_ctxload f)) fun _ ea _ _ hs hne => loadContext_keepsAt hs hne ea

/-! ### Every instruction that has a slot -/

theorem modal_nop : Modal .nop := modal_plain (i := .nop) rfl fun _ _ => safe_pure _

end Sys2Proof.Machine

/-! ### Every instruction that has a slot -/

namespace Sys2Proof.Machine

theorem modal_of_hdr {i : Instr} (hh : i.hdr?.isSome = true) (heret : ∀ f, i ≠ .eret f) : Modal i := by
  cases i
  case eret f => exact absurd rfl (heret f)
  case add f | sub f | mul f | mulh f | mulhn f | div f | divn f | rem f | remn f | and f | or f | xor f | andn f | orn f | shl f |
      shr f | sra f | rol f | ror f | bext f | min f | max f | minn f | maxn f | seq f | sne f | slt f | sltn f | sle f | slen f =>
    exact modal_intBinary rfl
  case bins f | sel f => exact modal_intTernary rfl
  case clz f | ctz f | popc f | bswap f | abs f | mov f | fclass f => exact modal_intUnary rfl
  case li f => exact modal_li f
  case lea f => exact modal_lea f
  case fadd f | fsub f | fmul f | fdiv f => exact modal_fpBinary rfl
  case fsqrt f | frsqe f | frcpe f => exact modal_fpUnary rfl
  case ffma f => exact modal_ffma f
  case fmin f | fmax f => exact modal_fpMinMax rfl
  case fabs f | fneg f => exact modal_fpSign rfl
  case fcmp f => exact modal_fcmp f
  case fcvt f => exact modal_fcvt f
  case pcmp f => exact modal_pcmp f
  case pand f | por f | pxor f => exact modal_predBinary rfl
  case pnot f => exact modal_pnot f
  case pset f => exact modal_pset f
  case pget f => exact modal_pget f
  case br f => exact modal_instr (i := .br f) rfl fun _ _ => safe_branchIf ..
  case brp f => exact modal_instr (i := .brp f) rfl fun _ _ => (safe_readP ..).bind fun _ => safe_branchIf ..
  case brz f => exact modal_instr (i := .brz f) rfl fun _ _ => (safe_readG ..).bind fun _ => safe_branchIf ..
  case brnz f => exact modal_instr (i := .brnz f) rfl fun _ _ => (safe_readG ..).bind fun _ => safe_branchIf ..
  case beq f | bne f | blt f => exact modal_branchOn rfl
  case call f => exact modal_call f
  case callr f => exact modal_callr f
  case jmpr f => exact modal_instr (i := .jmpr f) rfl fun _ _ => (safe_readG ..).bind fun _ => safe_goTo _
  case ret f => exact modal_instr (i := .ret f) rfl fun _ _ => (safe_readG ..).bind fun _ => safe_goTo _
  case loop f => exact modal_loop f
  case loopi f => exact modal_loopi f
  case rep f => exact modal_rep f
  case mfs f => exact modal_mfs f
  case mts f => exact modal_mts f
  case mtsb f | mtsc f => exact modal_sysModify rfl
  case ecall f | ebreak f => exact modal_service rfl
  case wfi f => exact modal_wfi f
  case ipi f => exact modal_ipi f
  case fenceI f => exact modal_fenceI f
  case tlbinv f => exact modal_tlbinv f
  case ptsync f => exact modal_ptsync f
  case logreplay f => exact modal_logreplay f
  case ctxsave f => exact modal_ctxsave f
  case ctxload f => exact modal_ctxload f
  case preemptHalt f => exact modal_preemptHalt f
  case strandnew f => exact modal_strandnew f
  case strandkill f => exact modal_strandkill f
  case freeze f => exact modal_freeze f
  case retire f => exact modal_retire f
  case yield f => exact modal_yield f
  case itemq f => exact modal_itemq f
  case work f => exact modal_work f
  case done f => exact modal_done f
  case idemb f => exact modal_idemb f
  case ideme f => exact modal_ideme f
  case scfg f | scfgi f => exact modal_configure rfl
  case sbind f => exact modal_sbind f
  case sunbind f => exact modal_sunbind f
  case ssave f => exact modal_ssave f
  case srest f => exact modal_srest f
  case sseek f => exact modal_sseek f
  case sstat f => exact modal_sstat f
  case vadd f => exact modal_vecBinary (funext (execVadd.eq_1 f))
  case vsub f => exact modal_vecBinary (funext (execVsub.eq_1 f))
  case vmul f => exact modal_vecBinary (funext (execVmul.eq_1 f))
  case vmin f => exact modal_vecBinary (funext (execVmin.eq_1 f))
  case vmax f => exact modal_vecBinary (funext (execVmax.eq_1 f))
  case vand f => exact modal_vecBinary (funext (execVand.eq_1 f))
  case vor f => exact modal_vecBinary (funext (execVor.eq_1 f))
  case vxor f => exact modal_vecBinary (funext (execVxor.eq_1 f))
  case vandn f => exact modal_vecBinary (funext (execVandn.eq_1 f))
  case vfma f => exact modal_vecFused (funext (execVfma.eq_1 f))
  case vfms f => exact modal_vecFused (funext (execVfms.eq_1 f))
  case vneg f => exact modal_vecUnary (funext (execVneg.eq_1 f))
  case vabs f => exact modal_vecUnary (funext (execVabs.eq_1 f))
  case vrcpe f => exact modal_vecUnary (funext (execVrcpe.eq_1 f))
  case vrsqe f => exact modal_vecUnary (funext (execVrsqe.eq_1 f))
  case vmov f => exact modal_vecUnary (funext (execVmov.eq_1 f))
  case vshl f => exact modal_vecShift (funext (execVshl.eq_1 f))
  case vshr f => exact modal_vecShift (funext (execVshr.eq_1 f))
  case vsra f => exact modal_vecShift (funext (execVsra.eq_1 f))
  case vdot4 f => exact modal_vdot4 f
  case vcmp f => exact modal_vcmp f
  case vsel f => exact modal_vsel f
  case vcvt f => exact modal_vcvt f
  case vbcast f => exact modal_vbcast f
  case vext f => exact modal_vext f
  case vins f => exact modal_vins f
  case vperm f => exact modal_vperm f
  case vshuf f => exact modal_vshuf f
  case vcompress f => exact modal_vcompress f
  case vexpand f => exact modal_vexpand f
  case viota f => exact modal_viota f
  case vpopc f => exact modal_vpopc f
  case vredAdd f => exact modal_reduce (funext (execVredAdd.eq_1 f))
  case vredMax f => exact modal_reduce (funext (execVredMax.eq_1 f))
  case vredoAdd f => exact modal_reduce (funext (execVredoAdd.eq_1 f))
  case vtload f => exact modal_vtload f
  case vti f => exact modal_vti f
  case ldl f => exact modal_scalarLoad (funext (execLdl.eq_1 f)) fun _ _ _ => safe_loadSpace ..
  case ldc f => exact modal_scalarLoad (funext (execLdc.eq_1 f)) fun _ _ _ => safe_loadSpace ..
  case ldg f => exact modal_scalarLoad (funext (execLdg.eq_1 f)) fun _ _ _ => safe_loadSpace ..
  case ldlf f => exact modal_scalarLoad (funext (execLdlf.eq_1 f)) fun _ _ _ => safe_loadFull ..
  case ldlt f => exact modal_scalarLoad (funext (execLdlt.eq_1 f)) fun _ _ _ => safe_loadFull ..
  case stl f => exact modal_scalarStore (funext (execStl.eq_1 f)) fun _ _ _ => safe_storeSpace ..
  case stc f => exact modal_scalarStore (funext (execStc.eq_1 f)) fun _ _ _ => safe_storeSpace ..
  case stg f => exact modal_scalarStore (funext (execStg.eq_1 f)) fun _ _ _ => safe_storeSpace ..
  case stlf f => exact modal_scalarStore (funext (execStlf.eq_1 f)) fun _ _ _ => safe_storeLocal ..
  case ldaq f => exact modal_ldaq f
  case strl f => exact modal_strl f
  case vldl f | vgathl f => exact modal_vecLoadL rfl
  case vstl f | vscatl f => exact modal_vecStoreL rfl
  case vldg f => exact modal_vldg f
  case vstg f => exact modal_vstg f
  case empty f => exact modal_empty f
  case balloc f => exact modal_balloc f
  case bfree f => exact modal_bfree f
  case bwake f => exact modal_bwake f
  case prefg f => exact modal_prefg f
  case amol f => exact modal_amol f
  case amog f => exact modal_amog f
  case faddx f => exact modal_faddx f
  case rdx f => exact modal_rdx f
  case clrx f => exact modal_clrx f
  case fenceC f | fenceK f | fenceD f | fenceP f | fenceY f => exact modal_fenceForm rfl
  case fenceW f => exact modal_fenceW f
  case sync f => exact modal_sync f
  case syncX f => exact modal_syncX f
  case voteAnd f | voteOr f | voteAdd f | voteMax f => exact modal_voteForm rfl
  case cpy f => exact modal_cpy f
  case cpym f => exact modal_cpym f
  case cpyc f => exact modal_cpyc f
  case cpyf f => exact modal_cpyf f
  case fwait f => exact modal_fwait f
  case ftest f => exact modal_ftest f
  case fcancel f => exact modal_fcancel f
  case fexp f => exact modal_fexp f
  case fimp f => exact modal_fimp f
  case tslot f => exact modal_tslot f
  case tzero f => exact modal_tzero f
  case tldacc f => exact modal_tldacc f
  case tmma f | tmmas f => exact modal_tileMul rfl
  case tdrain f | tdraint f => exact modal_tileDrain rfl
  case tqry f => exact modal_tqry f
  case gather f => exact modal_gather f
  case scatadd f => exact modal_scatadd f
  case xinbox f => exact modal_xinbox f
  case xsend f => exact modal_xsend f
  case xrecv f => exact modal_xrecv f
  case enq f => exact modal_enq f
  case enqres f => exact modal_enqres f
  case enqpub f => exact modal_enqpub f
  case deq f => exact modal_deq f
  case dcnew f => exact modal_dcnew f
  case dcdec f => exact modal_dcdec f
  case dcadd f => exact modal_dcadd f
  case taskdep f => exact modal_taskdep f
  case taskdepReg f => exact modal_taskdepReg f
  case taskdepUnreg f => exact modal_taskdepUnreg f
  all_goals exact absurd hh nofun

/-- Settles O60: each instruction is walked through with its strand's mode watched; only `eret` and the entry of a trap change it. -/
theorem modeChangesOnlyByTrapAndEret : Obligations.ModeChangesOnlyByTrapAndEret := by
  unfold Obligations.ModeChangesOnlyByTrapAndEret
  intro s t i hready hslot hrun y hfree hmode
  by_cases heret : ∃ f, i = .eret f
  · exact .inl heret
  · have hmodal : Modal i := by
      rcases hslot with rfl | hh
      · exact modal_nop
      · exact modal_of_hdr hh fun f hf => heret ⟨f, hf⟩
    obtain ⟨hcur, hended⟩ := hmodal s t hready hrun
    have hme : t.me = y := congrArg t.slot hcur
    rw [hme] at hended
    rcases hended with hf | hm | ⟨-, htrap⟩
    · exact absurd hf hfree
    · exact absurd hm hmode
    · exact .inr htrap

end Sys2Proof.Machine
